-- ==== Sys2Proof/Word.lean ====
section
/-!
DEFINITION. The words of the machine and the one finite map that every sparse store of the state uses.

R4: every register is 32 bits wide. R8: bytes are little-endian and bit 0 is the least significant bit.
-/

namespace Sys2Proof

/-- A register word (R4). -/
abbrev Word := BitVec 32

/-- A byte of a memory, a descriptor or a record (R8). -/
abbrev Byte := BitVec 8

/-- A 64-bit value, two registers (R5). -/
abbrev DWord := BitVec 64

/-- A descriptor of a submission ring: 64 bytes, little-endian (R173). -/
abbrev Desc := BitVec 512

/-- The two hub dies (R2, R14). -/
inductive Hub where
  | he
  | hw
deriving DecidableEq, Repr

/-- A finite map from Nat keys, as a list of entries with strictly rising keys. -/
structure Table (α : Type) where
  entries : List (Nat × α)
deriving DecidableEq, Repr

/-- The map that holds nothing. -/
def Table.empty {α : Type} : Table α := ⟨[]⟩

end Sys2Proof
end

