-- ==== Sys2Proof/Syntax.lean ====
section
/-!
DEFINITION. The commands of the block: one constructor of `Instr` per row of the opcode table, with the operands
that the row's rule gives it. A command is a host write or read of a register, a descriptor of a queue pair, a frame
or message of a link, a pin event, or the arrival of one of the device's own planned instants.

Where a step rests on a value that only the outside world has (an analogue result, a sensor code, the bytes that a
read of host memory returned, the time of an instant), that value is an operand of the command.
-/

namespace Sys2Proof

/-- The requesters of the event gatherer, numbered as route bits (R373): 0 Bonos, 1-4 S00-S03, 5 host. -/
abbrev Requester := Fin 6

/-- The four detectors that patrol sees outside the tile's own plan check, and that check (R294). -/
inductive Detector where
  | plan | conv | seq | pwr | msg
deriving DecidableEq, Repr

/-- A gate of the clock tree (R346). -/
inductive ClockGate where
  /-- The module gate of a domain. -/
  | module (domain : Fin 60)
  /-- A die gate, under the module gate of one of an Arkor die's domains. -/
  | die (domain : Fin 60)
  /-- The gate of one tile, which gates the three clocks of the tile together. -/
  | tile (die : Fin 16) (tile : Fin 8448)
deriving DecidableEq, Repr

/-- The clock sources (R335). -/
inductive ClockSource where
  | root | iosc | xtal
deriving DecidableEq, Repr

/-- The clock monitors (R343). -/
inductive ClockMonitor where
  | xi | rx | ri | pl
  | dom (domain : Fin 60)
deriving DecidableEq, Repr

/-- The requesters of a clock gate, with their codes (CLK_REFUSE.REQ). -/
inductive GateRequester where
  | bonos | steward | power | patrol
deriving DecidableEq, Repr

/-- The reset domains (R349). -/
inductive ResetDomain where
  | aon
  | hub (h : Hub)
  | arkor (die : Fin 16)
  | stack (n : Fin 16)
  | engine (n : Fin 4)
deriving DecidableEq, Repr

/-- The interface PLLs (R336). -/
inductive IfacePll where
  | pcie | hbm (h : Hub) | lpddr | link
deriving DecidableEq, Repr

/-- The memory channels that patrol may fence (R300). -/
inductive MemChannel where
  | hbm (pc : Fin 512)
  | lodge (ch : Fin 16)
deriving DecidableEq, Repr

/-- Why a port goes DOWN (R274). -/
inductive PortDownCause where
  | lanes | silence | retries
deriving DecidableEq, Repr

/-- The halt inputs (R362). -/
inductive HaltPin where
  | a | b
deriving DecidableEq, Repr

/-- The conditions that begin an exit from IDLE on their own (R359). -/
inductive IdleExitCause where
  | descriptor | loaderStart
deriving DecidableEq, Repr

/-- What an uncovered request names (R104). -/
inductive UncoveredUnit where
  | tile (die : Fin 16) (tile : Fin 8448)
  | unit (unit : Fin 32)
deriving DecidableEq, Repr

/-- The faults that take the module out of service, numbered by the cases of R293. -/
inductive ModuleFaultCase where
  /-- Case 1: an Arkor die or one of its bridges. -/
  | arkorDie (die : Fin 16)
  /-- Case 2: a hub die or the hub bridge. -/
  | hubDie (h : Hub)
  /-- Case 3: a supply or the clock root. -/
  | supplyOrClock
  /-- Case 4: a tile or unit left uncovered by R104. -/
  | uncovered
deriving DecidableEq, Repr

/-- A link frame as received, without its CRC: whether the CRC was good and the codeword correctable is `crcOk` (R273). -/
structure Frame where
  type : Byte
  flags : Byte
  len : BitVec 16
  seq : Word
  ack : Word
  payload : List Byte
  crcOk : Bool
deriving DecidableEq, Repr

/-- One array of a program-and-verify round (R265). -/
structure ArrayProgram where
  die : Fin 16
  tile : Fin 8448
  array : Fin 256
  /-- Sites not met after 24 iterations: row, logical column, target minus read value; ascending (row, column). -/
  misses : List (Fin 128 × Fin 128 × Int)
  /-- The sites not met on the spare columns of the logical columns that moved there (R265 step 3), in the same form. -/
  spareMisses : List (Fin 128 × Fin 128 × Int)
  /-- The 16 reference differences D of the array (R265 step 6, R99). -/
  refs : List Int
  /-- The probe pass of the tile passed (R265 step 7). -/
  passOk : Bool
deriving DecidableEq, Repr

/-- A grooming measurement of one converter, for both halves, as exact numerators.
OFFSET: sums of 64 codes. REFERENCE: sums of the 32 plus and 32 minus conversions (R110). -/
structure GroomMeasure where
  offA : Int
  offB : Int
  plusA : Int
  minusA : Int
  plusB : Int
  minusB : Int
deriving DecidableEq, Repr

/-- A STATISTICS half of one converter: FP32 variances of code and of ideal value, and per array the FP32 mean
absolute deviation of each logical column (R110, R112, R115). -/
structure StatHalf where
  varCode : Word
  varIdeal : Word
deriving DecidableEq, Repr

/-- One attended position of a work item as the lane reads it is found through the page lists; the item itself is this (R215). -/
structure LaneItem where
  wave : Fin 96
  layer : Fin 256
  slot : Fin 128
  head : Fin 256
  segment : Nat
deriving DecidableEq, Repr

/-- A unit address with its report fields: one error report as it reaches the logger (R312). -/
structure Report where
  unit : Word
  element : BitVec 16
  kind : Byte
  sev : Nat
  count : Nat
  bib : Word
  layer : BitVec 16
  opkind : Byte
  stage : Byte
  temp : BitVec 16
  rail : BitVec 16
  lap : Nat
  ns : Nat
  gtime : Nat
  lastGtime : Nat
  detail : DWord
deriving DecidableEq, Repr

/-- A checkpoint entry as a peer sends it: the fields a rebuild takes from it (R304, R306). -/
structure MirrorEntry where
  origin : BitVec 16
  originBib : Word
  ckptLap : Nat
  /-- The 128 bytes of the request table entry (R151). -/
  entry : List Byte
  tail : List Nat
deriving DecidableEq, Repr

/-- One slot change of a SPREAD_CTL message (R231). -/
structure SpreadChange where
  slot : Nat
  action : Nat
  originBib : Word
  guestBib : Word
deriving DecidableEq, Repr

/-- One proving point of a window: the kernel outcomes as measured (R307). -/
structure ProvePoint where
  digitalOk : Bool
  /-- Column results of the analogue kernel beyond their bound. -/
  bad : Nat
deriving DecidableEq, Repr

/-- A TIME frame's payload with its local receive time T4 (R282). -/
structure TimePayload where
  tx : Nat
  echoTx : Nat
  echoRx : Nat
  dlap : Nat
  dlapTime : Nat
  root : BitVec 16
  hops : Nat
  locked : Bool
  t4 : Nat
deriving DecidableEq, Repr

/-- A GOP payload (R286). -/
structure GopPayload where
  op : Byte
  scope : Byte
  origin : BitVec 16
  gseq : Word
  target : DWord
  hops : Byte
  arg : DWord
  data : List Byte
deriving DecidableEq, Repr

/-- A HELLO payload (R279). -/
structure HelloPayload where
  moduleId : BitVec 16
  port : Byte
  lapMs : Byte
  domainId : Word
  stretchMax : BitVec 16
  spare : Byte
deriving DecidableEq, Repr

/-- The commands. -/
inductive Instr where
  /-- R6. A write of `nbytes` bytes at BAR0 offset `off` by a requester. -/
  | registerWrite (req : Requester) (off : BitVec 26) (nbytes : Fin 9) (v : Word)
  /-- R5. A 32-bit read of the low word at BAR0 offset `off`. -/
  | readLowWordLatch (off : BitVec 26)
  /-- R171. A write of `nbytes` bytes at offset `off` of doorbell page `q`, meant for SQ_TAIL (+0x000). -/
  | sqTail (q : Fin 16384) (off : BitVec 12) (nbytes : Fin 9) (v : Word)
  /-- R170. The same, meant for CQ_HEAD (+0x008). -/
  | cqHead (q : Fin 16384) (off : BitVec 12) (nbytes : Fin 9) (v : Word)
  /-- R170. A QP_CFG write of `v` to the selected queue pair. -/
  | qpEnable (v : Word)
  /-- R175. Descriptor `d` of ring `q`; `prompt` is what the read of the prompt returned, none when it failed. -/
  | open (q : Fin 16384) (d : Desc) (prompt : Option (List Word))
  /-- R156. -/
  | append (q : Fin 16384) (d : Desc) (prompt : Option (List Word))
  /-- R156. -/
  | pause (q : Fin 16384) (d : Desc)
  /-- R156. -/
  | resume (q : Fin 16384) (d : Desc)
  /-- R156. -/
  | close (q : Fin 16384) (d : Desc)
  /-- R208. -/
  | prefixCreate (q : Fin 16384) (d : Desc) (prompt : Option (List Word))
  /-- R209. -/
  | prefixDrop (q : Fin 16384) (d : Desc)
  /-- R244. `data` is what the read of the source returned when the source is host memory. -/
  | waxLoad (q : Fin 16384) (d : Desc) (data : Option (List Byte))
  /-- R247. `data` is the parameter block as read. -/
  | waxFit (q : Fin 16384) (d : Desc) (data : Option (List Byte))
  /-- R180. -/
  | query (q : Fin 16384) (d : Desc)
  /-- R181. -/
  | fence (q : Fin 16384) (d : Desc)
  /-- R181. -/
  | fenceComplete (q : Fin 16384)
  /-- R184. -/
  | descriptorFetchError (q : Fin 16384)
  /-- R182. `inL1`: the link is in L1 as the timer expires (R183). -/
  | msixVectorTimer (vec : Fin 4096) (inL1 : Bool)
  /-- R182. -/
  | msixUnmask (vec : Fin 4096)
  /-- R186. -/
  | functionLevelReset
  /-- R183. `pmeEn`: PME_En as the write that places the function in D3hot leaves it. -/
  | d3hotEntry (pmeEn : Bool)
  /-- R183. `busMaster`: Bus Master Enable as it is set on the return. -/
  | d0Return (busMaster : Bool)
  /-- R414. -/
  | perstNAssert
  /-- R361. -/
  | perstNDeassert
  /-- R166. -/
  | bibSel (v : Word)
  /-- R123. -/
  | grmTsel (v : Word)
  /-- R123. -/
  | grmCsel (v : Word)
  /-- R254. -/
  | waxSel (v : Word)
  /-- R315. -/
  | patTsel (v : Word)
  /-- R315. -/
  | patFpsel (v : Word)
  /-- R315. -/
  | patLogSel (v : Word)
  /-- R199. -/
  | kvmQuota (v : Word)
  /-- R141. -/
  | lapTweight (v : Word)
  /-- R328. `em`: the energy measured from the boundary up to the cycle after the write, in fJ; `ns`: the real time since
  the boundary, in ns. -/
  | lapEbudget (v : Word) (em : Nat) (ns : Nat)
  /-- R319. `em` and `ns` as for LAP_EBUDGET, for a level change that lowers P_eff. -/
  | thmSstsExcl (v : Word) (em : Nat) (ns : Nat)
  /-- R401. -/
  | pmcEvsel (v : Word)
  /-- R404. -/
  | pmcNow (v : Word)
  /-- R373. A read of EVT_CLAIM of target `t` by `req`. -/
  | evtClaim (req : Requester) (t : Fin 6)
  /-- R374. A write of EVT_DONE of target `t` by `req`. -/
  | evtDone (req : Requester) (t : Fin 6) (v : Word)
  /-- R371. -/
  | evtHoldTake (req : Requester) (v : Word)
  /-- R371. -/
  | evtHoldRelease (req : Requester) (v : Word)
  /-- R371. -/
  | evtHoldExpire
  /-- R375. -/
  | evtLineTimer (t : Fin 6)
  /-- R368. -/
  | evtSourcePending (src : Fin 1536)
  /-- R44. A write of `v` to ARK_TEST_CTL of die `die`. -/
  | arkTestSeparate (die : Fin 16) (v : Word)
  /-- R44. -/
  | arkTestMerged (die : Fin 16) (v : Word)
  /-- R44. -/
  | arkTestTransposed (die : Fin 16) (v : Word)
  /-- R44. -/
  | arkTestReference (die : Fin 16) (v : Word)
  /-- R44. The running test ends; `charge` is each converter's charge in code units. -/
  | arkTestDone (die : Fin 16) (charge : List Int)
  /-- R261. A write of `v` to LDR_CTL. -/
  | ldrLoad (v : Word)
  /-- R267. -/
  | ldrReplace (v : Word)
  /-- R263. -/
  | ldrAttach (v : Word)
  /-- R264. -/
  | ldrRelease (v : Word)
  /-- R268. -/
  | ldrAbort (v : Word)
  /-- R259. -/
  | ldrPut (v : DWord)
  /-- R428. -/
  | bar4Write (off : BitVec 36) (bytes : List Byte)
  /-- R258. The loader takes the next staged part of the image. -/
  | ldrSectionVerified
  /-- R265. -/
  | programRoundDone (arrays : List ArrayProgram)
  /-- R267. `fp`: the 512 fingerprint bytes of the layer, as measured. -/
  | ldrLayerVerified (fp : List Int)
  /-- R261. -/
  | ldrOperationDone
  /-- R359. -/
  | pwrReqActive
  /-- R357. -/
  | pwrReqIdle
  /-- R357. -/
  | pwrReqSleep
  /-- R358. -/
  | idleEntryDone
  /-- R359. -/
  | idleExit (cause : IdleExitCause)
  /-- R359. `gtime`: global time of the boundary that begins the first lap. -/
  | idleExitReady (gtime : Nat)
  /-- R360. -/
  | sleepEntry
  /-- R361. `source`: the event source that fired, none for PERST_N or the timer. -/
  | sleepAbort (source : Option (Fin 1536))
  /-- R361. -/
  | pwrWakeTmr
  /-- R360. -/
  | wake (source : Option (Fin 1536))
  /-- R362. A synchronised level changes; `ticks` AON ticks have passed since the last change or count. -/
  | haltInputChange (pin : HaltPin) (level : Bool) (ticks : Nat)
  /-- R363. -/
  | haltDiscrepancy
  /-- R364. -/
  | haltRelease
  /-- R349. -/
  | railRise (d : ResetDomain)
  /-- R351. -/
  | railFall (d : ResetDomain)
  /-- R352. -/
  | vppLost
  /-- R352. -/
  | vppRestored
  /-- R321. -/
  | thermalComparatorTrip (die : Fin 18)
  /-- R353. -/
  | gateCloseRequest (die : Fin 16) (group : Fin 256)
  /-- R353. A ramp step of the group ends with inrush current `ma`. -/
  | gateRampStep (die : Fin 16) (group : Fin 256) (ma : BitVec 16)
  /-- R355. -/
  | gateOpenRequest (die : Fin 16) (group : Fin 256)
  /-- R347. -/
  | clockGateOpen (req : GateRequester) (g : ClockGate)
  /-- R347. -/
  | clockGateClose (req : GateRequester) (g : ClockGate)
  /-- R335. -/
  | clockSourceStable (src : ClockSource)
  /-- R341. -/
  | clockSourceChange (d : Fin 60) (src : ClockSource)
  /-- R341. -/
  | clockRampStep (d : Fin 60)
  /-- R343. -/
  | clockMonitorWindow (m : ClockMonitor) (count : Nat)
  /-- R344. -/
  | rootPllLossOfLock
  /-- R392. -/
  | bonosStart
  /-- R392. -/
  | imagePass1Done
  /-- R392. The capacity found, in 64 KiB pages per hub, net of inline ECC (R387, R419). -/
  | memoryTrainingDone (lodgeHe : Nat) (lodgeHw : Nat)
  /-- R392. -/
  | imagePass2Done
  /-- R391. -/
  | groomingTablesLoaded
  /-- R392. `us` since AON left reset; `gtime` of the ready instant. -/
  | startupReady (us : Nat) (gtime : Nat)
  /-- R394. -/
  | recovery
  /-- R125. `gtime`: global time of the boundary. -/
  | lapBoundary (gtime : Nat)
  /-- R161. -/
  | ttlExpired (i : Fin 65536)
  /-- R153. -/
  | faultHold (i : Fin 65536)
  /-- R153. -/
  | released (i : Fin 65536)
  /-- R323. -/
  | hkcIntervalEnd
  /-- R403. -/
  | pmcSnapshotSwap
  /-- R126. -/
  | planCutoff
  /-- R125. -/
  | planComplete
  /-- R120. -/
  | trimBankCompose
  /-- R127. -/
  | waveIssue (wave : Fin 96)
  /-- R34. The planned firing `rec` (a TMPL_REC word, R132) of the tile for the wave. -/
  | firingIssue (die : Fin 16) (tile : Fin 8448) (wave : Fin 96) (rec : DWord)
  /-- R40. The planned transposed read `rec` of the tile for the wave; `codes` are the gradient codes of the columns. -/
  | transposedRead (die : Fin 16) (tile : Fin 8448) (wave : Fin 96) (rec : DWord) (codes : List (BitVec 4))
  /-- R41. -/
  | referenceRead (die : Fin 16) (tile : Fin 8448) (array : Fin 256)
  /-- R30. The planned slot of the record `rec` for the wave (of a reference read only its ARRAY counts); `charge` is each
  converter's charge in code units. -/
  | conversionSlot (die : Fin 16) (tile : Fin 8448) (wave : Fin 96) (rec : DWord) (charge : List Int)
  /-- R294. -/
  | partialRelease (die : Fin 16) (tile : Fin 8448) (pair : Fin 64)
  /-- R74. Token vector `token` of `wave` at `layer`, stage `stage`, column block `block`. -/
  | columnSum (wave : Fin 96) (token : Fin 128) (layer : Fin 256) (stage : Fin 8) (block : Fin 4096)
  /-- R99. -/
  | driftGainUpdate (die : Fin 16) (tile : Fin 8448) (array : Fin 256)
  /-- R87. Job `index` of the piste's MOGUL_JOBS records runs. -/
  | mogulJob (index : Nat)
  /-- R223. -/
  | attItemStart (lane : Fin 64)
  /-- R226. -/
  | attItemDone (lane : Fin 64)
  /-- R220. -/
  | attMerge (wave : Fin 96) (slot : Fin 128) (head : Fin 256) (layer : Fin 256)
  /-- R224. -/
  | attDue (wave : Fin 96) (layer : Fin 256)
  /-- R164. The sampler takes the token vector at `slot` of `wave`. -/
  | sample (wave : Fin 96) (slot : Fin 128)
  /-- R229. Every member has acknowledged; `guests` are the guests' identifiers by member number. -/
  | spreadHandoff (bib : Word) (guests : List Word)
  /-- R231. From the module with ID `origin`. -/
  | spreadCtl (origin : BitVec 16) (lap : Nat) (changes : List SpreadChange)
  /-- R231. Tokens of the origin's part of the wave: token and REPLAY flag per slot, from the part's lowest slot. -/
  | spreadTok (origin : BitVec 16) (lap : Nat) (wave : Fin 32) (toks : List (Nat × Bool))
  /-- R231. -/
  | gatherPart (lap : Nat) (wave : Fin 32) (layer : Fin 256) (member : Fin 8) (replay : BitVec 128)
      (outputs : List (List (BitVec 16)))
  /-- R110. `ms`: the 128 converters' measurements. -/
  | groomWindow (die : Fin 16) (tile : Fin 8448) (ms : List GroomMeasure)
  /-- R112. The half's statistics per converter, and the columns whose mean deviation exceeded COL_TOL in the half. -/
  | grmStatHalfClose (die : Fin 16) (tile : Fin 8448) (halfB : Bool) (st : List StatHalf)
      (bad : List (Fin 256 × Fin 128))
  /-- R115. -/
  | spareColumnProgrammed (die : Fin 16) (tile : Fin 8448) (array : Fin 256) (col : Fin 128)
  /-- R119. -/
  | grmFlush
  /-- R307. The four stress points in order, and the die temperature in °C. -/
  | provingWindow (die : Fin 16) (tile : Fin 8448) (points : List ProvePoint) (temp : Nat)
  /-- R294. `element`: the converter for TILE_CONV. -/
  | tileFaultDetect (die : Fin 16) (tile : Fin 8448) (det : Detector) (element : BitVec 16)
  /-- R296. The claimed unit begins; `skipped` lists the token vectors (wave, token) whose pairs it skips. -/
  | reserveUnitBegin (unit : Fin 32) (skipped : List (Fin 96 × Fin 128))
  /-- R298. -/
  | spareProgrammed (die : Fin 16) (tile : Fin 8448) (ok : Bool)
  /-- R103. -/
  | mogulUnitFail (unit : Fin 32)
  /-- R292. -/
  | laneFail (lane : Fin 64)
  /-- R292. -/
  | joinUnitFail (unit : Fin 64)
  /-- R300. `pages`: the pool pages of the channel, with their tier's pool. -/
  | memoryChannelFault (ch : MemChannel) (pages : List Nat)
  /-- R212. A lane reads poisoned KV data of bib `i`: block and page within it, none for the list or directory. -/
  | poison (i : Fin 65536) (page : Option (Nat × Nat))
  /-- R91. -/
  | shadowPoison (slot : Fin 64) (granule : Nat)
  /-- R243. -/
  | waxRecordPoison (index : Fin 131072) (wave : Fin 96)
  /-- R104. -/
  | reserveFull (h : Hub) (u : UncoveredUnit)
  /-- R293. -/
  | moduleFault (c : ModuleFaultCase)
  /-- R301. -/
  | checkpointWindow (h : Hub)
  /-- R163. -/
  | checkpointComplete (bib : Word)
  /-- R301. -/
  | checkpointAbandon (bib : Word)
  /-- R305. -/
  | ckptRestore (i : Fin 65536)
  /-- R304. -/
  | mirrorEntry (m : MirrorEntry)
  /-- R304. Positions `first` to `first + n - 1` with their KV bytes. -/
  | mirrorKv (origin : BitVec 16) (originBib : Word) (first : Nat) (n : Nat) (body : List Byte)
  /-- R303. -/
  | mirrorTail (origin : BitVec 16) (originBib : Word) (toks : List Nat)
  /-- R303. -/
  | mirrorAck (bib : Word)
  /-- R303. -/
  | mirrorDrop (origin : BitVec 16) (originBib : Word)
  /-- R306. -/
  | orphan (origin : BitVec 16)
  /-- R306. `slotLayout`: the origin's LAYOUT_ID for the bib's slot; `kv`: first position, number and bytes of each KV message. -/
  | migration (m : MirrorEntry) (slotLayout : DWord) (kv : List (Nat × Nat × List Byte))
  /-- R306. A write of `v` to PAT_ORPHAN. -/
  | patOrphan (v : Word)
  /-- R310. -/
  | fingerprint (member : BitVec 16) (slot : Fin 64) (dlap : Nat) (layout : DWord) (bytes : List Int)
  /-- R310. -/
  | fingerprintVerdict (slot : Fin 64)
  /-- R311. -/
  | fpDrainExpired (slot : Fin 64)
  /-- R313. -/
  | errorReport (r : Report)
  /-- R313. Burst register `i` closes. -/
  | burstClose (i : Fin 64)
  /-- R396. -/
  | logDrain
  /-- R205. The engine of hub `h` finishes the block at list position `blk` of bib `i`. -/
  | transferBlockDone (bib : Word) (blk : Nat)
  /-- R206. -/
  | restoreDone (bib : Word)
  /-- R208. -/
  | prefixReady (i : Fin 65536)
  /-- R244. -/
  | waxLoadDone (index : Fin 131072)
  /-- R242. -/
  | waxMoveDone (index : Fin 131072)
  /-- R249. Gradients of the trained blocks, 128 FP32 words per block in entry order, the step's mean loss, and the gradient
  elements that it clipped. -/
  | waxFitUpdate (index : Fin 131072) (grads : List (List Word)) (loss : Word) (sat : Nat)
  /-- R250. -/
  | waxFitEnd (index : Fin 131072)
  /-- R322. -/
  | hkcSample (die : Fin 18) (input : Fin 40) (code : BitVec 12) (em : Nat) (ns : Nat)
  /-- R316. The stack's sensor is read; none when the interface read failed. -/
  | hbmSensorRead (stack : Fin 16) (code : Option (BitVec 12)) (em : Nat) (ns : Nat)
  /-- R329. `ns`: real time since the boundary. -/
  | pausePoint (k : Nat) (ns : Nat)
  /-- R329. -/
  | snowploughEnd
  /-- R274. `at'` in this and the five other frames that may draw a NACK: the local receive time in ns (R290). -/
  | data (port : Fin 32) (f : Frame) (at' : Nat)
  /-- R274. -/
  | ack (port : Fin 32) (f : Frame) (at' : Nat)
  /-- R290. -/
  | nack (port : Fin 32) (f : Frame) (at' : Nat)
  /-- R282. -/
  | time (port : Fin 32) (t : TimePayload)
  /-- R286. -/
  | gop (port : Fin 32) (g : GopPayload) (at' : Nat)
  /-- R280. `map`: bit i for wavelength i. -/
  | lane (port : Fin 32) (map : BitVec 5)
  /-- R279. -/
  | hello (port : Fin 32) (p : HelloPayload) (at' : Nat)
  /-- R272. -/
  | idle (port : Fin 32)
  /-- R274. -/
  | ackTimer (port : Fin 32)
  /-- R282. -/
  | timeFrameTimer (port : Fin 32)
  /-- R274. -/
  | portDown (port : Fin 32) (cause : PortDownCause)
  /-- R278. -/
  | portBringupRetry (port : Fin 32)
  /-- R278. `lanes`: for LIGHT the wavelengths with light, for TRAIN those locked. -/
  | portBringupStageDone (port : Fin 32) (lanes : BitVec 5)
  /-- R280. -/
  | laneFailure (port : Fin 32) (wavelength : Fin 5)
  /-- R280. -/
  | degradedLock (port : Fin 32)
  /-- R281. -/
  | spareLaneRestore (port : Fin 32) (map : BitVec 5)
  /-- R283. At the next domain boundary, whose domain lap and time are given. -/
  | syncLocked (dlap : Nat) (gtime : Nat)
  /-- R284. -/
  | noDomainPeer (gtime : Nat)
  /-- R284. -/
  | realignHoldEnd (dlap : Nat) (gtime : Nat)
  /-- R289. A write of `v` to LNK_GOP_CTL. -/
  | gopBarrier (v : Word)
  /-- R289. -/
  | gopSnapshot (v : Word)
  /-- R289. -/
  | gopBroadcast (v : Word)
  /-- R289. -/
  | gopReset (v : Word)
  /-- R289. -/
  | gopStretchRefused (v : Word)
  /-- R398. -/
  | bonCmdLogRead (v : Word)
  /-- R398. -/
  | bonCmdFlush (v : Word)
  /-- R395. -/
  | updBegin (len : Word)
  /-- R395. -/
  | updData (off : Word) (bytes : List Byte)
  /-- R395. -/
  | updEnd
  /-- R381. `signed`: the message is signed by the key of digest 0. -/
  | keyPut (kind : Byte) (index : Byte) (data : BitVec 384) (signed : Bool)
  /-- R395. -/
  | idGet
  /-- R395. -/
  | logRead (seq : DWord)
  /-- R397. -/
  | telemPointerWrite (b : Byte)
  /-- R397. -/
  | telemIgnoredWrite
  /-- R397. -/
  | telemRead (n : Nat)
  /-- R397. -/
  | setdasa (static : BitVec 7) (dyn : BitVec 7)
  /-- R397. `won`: the target won the arbitration round. -/
  | entdaa (won : Bool) (dyn : BitVec 7)
  /-- R170. A QP_CFG write of `v` to the selected queue pair. -/
  | qpDisable (v : Word)
  /-- R172. -/
  | busMasterEnable (en : Bool)
  /-- R183. -/
  | l1Exit
  /-- R360. -/
  | pmeTurnOff
  /-- R336. -/
  | interfacePllLossOfLock (p : IfacePll)
  /-- R229. Origin module, bib, tenant, model slot, wax selection, home, stored positions, last token sampled, and the streams of
  the share: codes by the key of a stored vector of owner 0, and the scales of each block. -/
  | guestHandoff (origin : BitVec 16) (originBib : Word) (tenant : Fin 16384) (slot : Fin 64)
      (wax : Option (Fin 131072)) (home : Hub) (positions : Nat) (lastToken : BitVec 24)
      (vectors : List (Nat × List Int)) (scales : List (List Byte))
  /-- R290. -/
  | badType (port : Fin 32) (f : Frame) (at' : Nat)
  /-- R397. -/
  | telemMapCopy
  /-- R369. -/
  | stormIntervalEnd
  /-- R399. The counter adds `add` in one cycle and wraps. -/
  | counterWrap (block : Fin 30) (ctr : Fin 8) (add : BitVec 24)
deriving DecidableEq, Repr

end Sys2Proof
end

