-- ==== Sys2Proof/Config.lean ====
section
/-!
DEFINITION. What a chip or the standards named by the spec fix and the spec does not state: constants and functions
without a body, so that no statement can rest on their values.

A value that may differ each time is applied to `State.drawn`, which the model advances.
-/

namespace Sys2Proof

/-- GLB_ID.MAJOR and MINOR, per silicon (R424). DESIGN CHOICE, safe; log entry 2. -/
opaque Config.silicon : BitVec 16

/-- ARK_ID.STEP of each die, per silicon (R43). DESIGN CHOICE, safe; log entry 2. -/
opaque Config.arkStep : Fin 16 → Byte

/-- The exponential of the output stage, the lanes and the sampler, FP32 to FP32 (R79: within 1 ulp). Log entry 3. -/
opaque Config.exp : Word → Word

/-- The hyperbolic tangent of the output stage, FP32 to FP32 (R79: within 1 ulp). Log entry 3. -/
opaque Config.tanh : Word → Word

/-- The entropy from which an OPEN without SEED_V draws its seed (R151). Log entry 4. -/
opaque Config.entropy : Nat → DWord

/-- Fields of an error report that only the silicon knows: time within the lap, temperature and rail (R312). Log entry 5. -/
opaque Config.reportEnv : Nat → BitVec 64

/-- SHA-384 (R255-R258, R381, R385). Log entry 6. -/
opaque Config.sha384 : List Byte → BitVec 384

/-- Verification digest 0, written at manufacture (R381). Log entry 2. -/
opaque Config.rootDigest : BitVec 384

/-- ECDSA P-384 verification: public key bytes, digest, signature bytes (R255, R385). Log entry 6. -/
opaque Config.ecdsaValid : List Byte → BitVec 384 → List Byte → Bool

/-- The signing key of the device identity (R381, ID_GET of R395): its public key bytes. Log entry 6. -/
opaque Config.identityKey : List Byte

/-- AES Key Wrap unwrapping: wrapping key, wrapped bytes; none when the integrity check fails (R255). Log entry 6. -/
opaque Config.unwrapKey : BitVec 256 → List Byte → Option (BitVec 256)

/-- AES-256-GCM decryption: key, nonce, associated data, ciphertext, tag; none when the tag fails (R258). Log entry 6. -/
opaque Config.gcmOpen : BitVec 256 → BitVec 96 → List Byte → List Byte → BitVec 128 → Option (List Byte)

/-- The configuration flash is a 2 Gbit device (R380: 1 or 2 Gbit). DESIGN CHOICE, safe; log entry 2. -/
opaque Config.flash2Gbit : Bool

/-- The alignment (0-4) of a merged conversion whose two input blocks have different nonzero scale codes, which R70 does not
state: codes of the two blocks. Log entry 16. -/
opaque Config.mergedAlign : Byte → Byte → Fin 5

/-- Join operations that the piste lists for a stage (R78, R83), of image build, model slot, layer and stage: operation code and
source (0 RESID, 1 PARTNER, 2-5 WAX_STEER n, 6-9 WAX_GAIN n). No record type of R388 carries them. Log entry 17. -/
opaque Config.joins : Nat → Nat → Nat → Nat → List (Fin 3 × Fin 10)

/-- The stage of the same layer whose stored output is the PARTNER operand (R83), by the same. Log entry 17. -/
opaque Config.partner : Nat → Nat → Nat → Nat → Fin 8

/-- The row maximum and sum of a stage is formed in MAX_SUMEXP mode (R82), by the same. Log entry 17. -/
opaque Config.sumExp : Nat → Nat → Nat → Nat → Bool

/-- The normalised BF16 value of an element, from the element, the vector's mean and its variance in FP32: R81 names the
normalisation and no rule gives its formula. Log entry 18. -/
opaque Config.normalise : Word → Word → Word → BitVec 16

/-- Place among the 16,384 weights of a row chunk and column block of the weight of a row and a column (R89 does not state the
order within a block). Log entry 20. -/
opaque Config.weightPlace : Nat → Nat → Fin 16384

/-- The integer that a 4-bit code of the shadow image stands for (R48 does not state the code). Log entry 20. -/
opaque Config.nibbleWeight : BitVec 4 → Int

/-- Exponent k of the factor 2^-k of R75 step 2 for a stage whose row chunks have different factors, which no rule states: of
image build, slot, layer and stage. Log entry 20. -/
opaque Config.mixedFactor : Nat → Nat → Nat → Nat → Fin 4

/-- Layer and stage whose weights a granule of a slot's shadow image holds (R89 gives the striping and not the place of each
part). Log entry 20. -/
opaque Config.granulePart : Nat → Nat → Fin 256 × Fin 8

/-- The codes of the actions GRANT, RELEASE, PAUSE, LODGE and CLOSE in a SPREAD_CTL message, which R231 does not give. Log entry 26. -/
opaque Config.spreadAction : Fin 5 → Byte

/-- An image keeps the limits of R21 (bridges, fabric, hub bridge, HBM, lodge tier, ports, energy) and R88 and the rule of R228, which
rest on the models' shapes and on traffic that the image does not state. Log entry 53. -/
opaque Config.pisteLimits : List Byte → Bool

/-- A measured value that no rule states, drawn afresh. Log entry 7. -/
opaque Config.measured : Nat → Word

end Sys2Proof
end

