-- ==== Sys2Proof/Machine/RegMap.lean ====
section
/-!
DEFINITION. The register map of R424 to R426: every register of the BAR0 windows with its offset, its width, the selector
through which it is read and its fields with their access codes and reset values, as the register tables of the chapters
give them. A reset of Image, Tables or Per silicon stands as 0 here; Machine/Regs.lean gives the others.
-/

namespace Sys2Proof.Machine

/-- The access codes of R6. -/
inductive Access where
  | ro | rw | w1c | w1s | wo | rsv
deriving DecidableEq, Repr

/-- The selector through which a register is read (the chapter of each register names it). -/
inductive Selector where
  | none | qp | vec | pool | kvTenant | kvSlot | lapTenant | qnt | mogUnit | lane | ldrSlot | port | glog | hkcInput
  | hkcDie | sensor | domain | group | counter | block | tile | array | grmDie
deriving DecidableEq, Repr

/-- A field of a register: bits high to low, access code, reset value. -/
structure FieldRow where
  hi : Nat
  lo : Nat
  acc : Access
  reset : Nat
deriving DecidableEq, Repr

/-- A register or an array of registers: offset, 32-bit words, number, distance, selector, fields. -/
structure RegRow where
  off : Nat
  words : Nat
  count : Nat
  stride : Nat
  sel : Selector
  fields : List FieldRow
deriving DecidableEq, Repr

/-- A named field of a register. -/
structure Fld where
  reg : Nat
  lo : Nat
  width : Nat
deriving DecidableEq, Repr

/-! ### GLB -/

/-- GLB_ID, R424. -/
def Reg.GLB_ID : Nat := 0x0
/-- GLB_ID.PART, R424. -/
def Fld.GLB_ID_PART : Fld := ⟨Reg.GLB_ID, 16, 16⟩
/-- GLB_ID.MAJOR, R424. -/
def Fld.GLB_ID_MAJOR : Fld := ⟨Reg.GLB_ID, 8, 8⟩
/-- GLB_ID.MINOR, R424. -/
def Fld.GLB_ID_MINOR : Fld := ⟨Reg.GLB_ID, 0, 8⟩
/-- GLB_CAP, R424. -/
def Reg.GLB_CAP : Nat := 0x4
/-- GLB_CAP.ARK_DIES, R424. -/
def Fld.GLB_CAP_ARK_DIES : Fld := ⟨Reg.GLB_CAP, 24, 8⟩
/-- GLB_CAP.SLOTS, R424. -/
def Fld.GLB_CAP_SLOTS : Fld := ⟨Reg.GLB_CAP, 16, 8⟩
/-- GLB_CAP.QPS, R424. -/
def Fld.GLB_CAP_QPS : Fld := ⟨Reg.GLB_CAP, 0, 16⟩

/-! ### CLK -/

/-- CLK_SRC_STS, R348. -/
def Reg.CLK_SRC_STS : Nat := 0x100000
/-- CLK_SRC_STS.ROOT_FAIL, R348. -/
def Fld.CLK_SRC_STS_ROOT_FAIL : Fld := ⟨Reg.CLK_SRC_STS, 7, 1⟩
/-- CLK_SRC_STS.REF_FAIL, R348. -/
def Fld.CLK_SRC_STS_REF_FAIL : Fld := ⟨Reg.CLK_SRC_STS, 6, 1⟩
/-- CLK_SRC_STS.XTAL_FAIL, R348. -/
def Fld.CLK_SRC_STS_XTAL_FAIL : Fld := ⟨Reg.CLK_SRC_STS, 5, 1⟩
/-- CLK_SRC_STS.IOSC_FAIL, R348. -/
def Fld.CLK_SRC_STS_IOSC_FAIL : Fld := ⟨Reg.CLK_SRC_STS, 4, 1⟩
/-- CLK_SRC_STS.ROOT_STABLE, R348. -/
def Fld.CLK_SRC_STS_ROOT_STABLE : Fld := ⟨Reg.CLK_SRC_STS, 3, 1⟩
/-- CLK_SRC_STS.ROOT_LOCK, R348. -/
def Fld.CLK_SRC_STS_ROOT_LOCK : Fld := ⟨Reg.CLK_SRC_STS, 2, 1⟩
/-- CLK_SRC_STS.XTAL_STABLE, R348. -/
def Fld.CLK_SRC_STS_XTAL_STABLE : Fld := ⟨Reg.CLK_SRC_STS, 1, 1⟩
/-- CLK_SRC_STS.IOSC_STABLE, R348. -/
def Fld.CLK_SRC_STS_IOSC_STABLE : Fld := ⟨Reg.CLK_SRC_STS, 0, 1⟩
/-- CLK_ROOT_TRIM, R348. -/
def Reg.CLK_ROOT_TRIM : Nat := 0x100004
/-- CLK_ROOT_TRIM.TRIM, R348. -/
def Fld.CLK_ROOT_TRIM_TRIM : Fld := ⟨Reg.CLK_ROOT_TRIM, 0, 16⟩
/-- CLK_DSEL, R348. -/
def Reg.CLK_DSEL : Nat := 0x100010
/-- CLK_DSEL.DOMAIN, R348. -/
def Fld.CLK_DSEL_DOMAIN : Fld := ⟨Reg.CLK_DSEL, 0, 6⟩
/-- CLK_DCFG, R348. -/
def Reg.CLK_DCFG : Nat := 0x100014
/-- CLK_DCFG.SRC, R348. -/
def Fld.CLK_DCFG_SRC : Fld := ⟨Reg.CLK_DCFG, 30, 2⟩
/-- CLK_DCFG.IOSC_DIV, R348. -/
def Fld.CLK_DCFG_IOSC_DIV : Fld := ⟨Reg.CLK_DCFG, 26, 4⟩
/-- CLK_DCFG.BAND, R348. -/
def Fld.CLK_DCFG_BAND : Fld := ⟨Reg.CLK_DCFG, 10, 13⟩
/-- CLK_DCFG.DIV, R348. -/
def Fld.CLK_DCFG_DIV : Fld := ⟨Reg.CLK_DCFG, 0, 10⟩
/-- CLK_DSTS, R348. -/
def Reg.CLK_DSTS : Nat := 0x100018
/-- CLK_DSTS.GATE, R348. -/
def Fld.CLK_DSTS_GATE : Fld := ⟨Reg.CLK_DSTS, 31, 1⟩
/-- CLK_DSTS.RAMP, R348. -/
def Fld.CLK_DSTS_RAMP : Fld := ⟨Reg.CLK_DSTS, 30, 1⟩
/-- CLK_DSTS.FAILED, R348. -/
def Fld.CLK_DSTS_FAILED : Fld := ⟨Reg.CLK_DSTS, 29, 1⟩
/-- CLK_DSTS.SRC, R348. -/
def Fld.CLK_DSTS_SRC : Fld := ⟨Reg.CLK_DSTS, 24, 2⟩
/-- CLK_DSTS.DIV, R348. -/
def Fld.CLK_DSTS_DIV : Fld := ⟨Reg.CLK_DSTS, 0, 10⟩
/-- CLK_MON, R348. -/
def Reg.CLK_MON : Nat := 0x10001C
/-- CLK_MON.COUNT, R348. -/
def Fld.CLK_MON_COUNT : Fld := ⟨Reg.CLK_MON, 0, 17⟩
/-- CLK_REFUSE, R348. -/
def Reg.CLK_REFUSE : Nat := 0x100020
/-- CLK_REFUSE.REQ, R348. -/
def Fld.CLK_REFUSE_REQ : Fld := ⟨Reg.CLK_REFUSE, 29, 3⟩
/-- CLK_REFUSE.LEVEL, R348. -/
def Fld.CLK_REFUSE_LEVEL : Fld := ⟨Reg.CLK_REFUSE, 27, 2⟩
/-- CLK_REFUSE.DOMAIN, R348. -/
def Fld.CLK_REFUSE_DOMAIN : Fld := ⟨Reg.CLK_REFUSE, 14, 6⟩
/-- CLK_REFUSE.TILE, R348. -/
def Fld.CLK_REFUSE_TILE : Fld := ⟨Reg.CLK_REFUSE, 0, 14⟩
/-- CLK_EVT, R348. -/
def Reg.CLK_EVT : Nat := 0x100030
/-- CLK_EVT.REFUSED, R348. -/
def Fld.CLK_EVT_REFUSED : Fld := ⟨Reg.CLK_EVT, 1, 1⟩
/-- CLK_EVT.FAIL, R348. -/
def Fld.CLK_EVT_FAIL : Fld := ⟨Reg.CLK_EVT, 0, 1⟩
/-- CLK_FAIL_CNT, R348. -/
def Reg.CLK_FAIL_CNT : Nat := 0x100040
/-- CLK_REFUSE_CNT, R348. -/
def Reg.CLK_REFUSE_CNT : Nat := 0x100048
/-- CLK_MON_DISC, R348. -/
def Reg.CLK_MON_DISC : Nat := 0x100050

/-! ### PWR -/

/-- PWR_STS, R365. -/
def Reg.PWR_STS : Nat := 0x200000
/-- PWR_STS.HALTED, R365. -/
def Fld.PWR_STS_HALTED : Fld := ⟨Reg.PWR_STS, 31, 1⟩
/-- PWR_STS.HALT_CAUSE, R365. -/
def Fld.PWR_STS_HALT_CAUSE : Fld := ⟨Reg.PWR_STS, 28, 3⟩
/-- PWR_STS.SLEEP_ABORT, R365. -/
def Fld.PWR_STS_SLEEP_ABORT : Fld := ⟨Reg.PWR_STS, 7, 1⟩
/-- PWR_STS.REQ_STATUS, R365. -/
def Fld.PWR_STS_REQ_STATUS : Fld := ⟨Reg.PWR_STS, 5, 2⟩
/-- PWR_STS.VPP_OK, R365. -/
def Fld.PWR_STS_VPP_OK : Fld := ⟨Reg.PWR_STS, 4, 1⟩
/-- PWR_STS.STATE, R365. -/
def Fld.PWR_STS_STATE : Fld := ⟨Reg.PWR_STS, 0, 2⟩
/-- PWR_CTL, R365. -/
def Reg.PWR_CTL : Nat := 0x200004
/-- PWR_CTL.GO, R365. -/
def Fld.PWR_CTL_GO : Fld := ⟨Reg.PWR_CTL, 31, 1⟩
/-- PWR_CTL.REQ, R365. -/
def Fld.PWR_CTL_REQ : Fld := ⟨Reg.PWR_CTL, 0, 2⟩
/-- PWR_CFG, R365. -/
def Reg.PWR_CFG : Nat := 0x200008
/-- PWR_CFG.RESTART, R365. -/
def Fld.PWR_CFG_RESTART : Fld := ⟨Reg.PWR_CFG, 31, 1⟩
/-- PWR_CFG.SLEEP_MIN_MS, R365. -/
def Fld.PWR_CFG_SLEEP_MIN_MS : Fld := ⟨Reg.PWR_CFG, 8, 8⟩
/-- PWR_WAKE_TMR, R365. -/
def Reg.PWR_WAKE_TMR : Nat := 0x20000C
/-- PWR_WAKE_TMR.MS, R365. -/
def Fld.PWR_WAKE_TMR_MS : Fld := ⟨Reg.PWR_WAKE_TMR, 0, 32⟩
/-- PWR_HALT_CFG, R365. -/
def Reg.PWR_HALT_CFG : Nat := 0x200010
/-- PWR_HALT_CFG.DISC, R365. -/
def Fld.PWR_HALT_CFG_DISC : Fld := ⟨Reg.PWR_HALT_CFG, 0, 24⟩
/-- PWR_HALT_STS, R365. -/
def Reg.PWR_HALT_STS : Nat := 0x200014
/-- PWR_HALT_STS.A_LVL, R365. -/
def Fld.PWR_HALT_STS_A_LVL : Fld := ⟨Reg.PWR_HALT_STS, 31, 1⟩
/-- PWR_HALT_STS.B_LVL, R365. -/
def Fld.PWR_HALT_STS_B_LVL : Fld := ⟨Reg.PWR_HALT_STS, 30, 1⟩
/-- PWR_HALT_STS.DISAGREE, R365. -/
def Fld.PWR_HALT_STS_DISAGREE : Fld := ⟨Reg.PWR_HALT_STS, 29, 1⟩
/-- PWR_HALT_STS.RUN, R365. -/
def Fld.PWR_HALT_STS_RUN : Fld := ⟨Reg.PWR_HALT_STS, 0, 24⟩
/-- PWR_POR0, R365. -/
def Reg.PWR_POR0 : Nat := 0x200018
/-- PWR_POR0.UP, R365. -/
def Fld.PWR_POR0_UP : Fld := ⟨Reg.PWR_POR0, 0, 22⟩
/-- PWR_POR1, R365. -/
def Reg.PWR_POR1 : Nat := 0x20001C
/-- PWR_POR1.UP, R365. -/
def Fld.PWR_POR1_UP : Fld := ⟨Reg.PWR_POR1, 0, 16⟩
/-- PWR_GSEL, R365. -/
def Reg.PWR_GSEL : Nat := 0x200020
/-- PWR_GSEL.DIE, R365. -/
def Fld.PWR_GSEL_DIE : Fld := ⟨Reg.PWR_GSEL, 16, 4⟩
/-- PWR_GSEL.GROUP, R365. -/
def Fld.PWR_GSEL_GROUP : Fld := ⟨Reg.PWR_GSEL, 0, 8⟩
/-- PWR_GSTS, R365. -/
def Reg.PWR_GSTS : Nat := 0x200024
/-- PWR_GSTS.STATE, R365. -/
def Fld.PWR_GSTS_STATE : Fld := ⟨Reg.PWR_GSTS, 30, 2⟩
/-- PWR_GSTS.STEP, R365. -/
def Fld.PWR_GSTS_STEP : Fld := ⟨Reg.PWR_GSTS, 23, 7⟩
/-- PWR_GSTS.LAST_MA, R365. -/
def Fld.PWR_GSTS_LAST_MA : Fld := ⟨Reg.PWR_GSTS, 0, 16⟩
/-- PWR_GCFG, R365. -/
def Reg.PWR_GCFG : Nat := 0x200028
/-- PWR_GCFG.RAMP_MAX, R365. -/
def Fld.PWR_GCFG_RAMP_MAX : Fld := ⟨Reg.PWR_GCFG, 16, 4⟩
/-- PWR_GCFG.ILIM, R365. -/
def Fld.PWR_GCFG_ILIM : Fld := ⟨Reg.PWR_GCFG, 0, 16⟩
/-- PWR_EVT, R365. -/
def Reg.PWR_EVT : Nat := 0x200030
/-- PWR_EVT.HALT, R365. -/
def Fld.PWR_EVT_HALT : Fld := ⟨Reg.PWR_EVT, 2, 1⟩
/-- PWR_EVT.VPP_LOST, R365. -/
def Fld.PWR_EVT_VPP_LOST : Fld := ⟨Reg.PWR_EVT, 1, 1⟩
/-- PWR_EVT.GATE_SHORT, R365. -/
def Fld.PWR_EVT_GATE_SHORT : Fld := ⟨Reg.PWR_EVT, 0, 1⟩
/-- PWR_GATE_SHORT_CNT, R365. -/
def Reg.PWR_GATE_SHORT_CNT : Nat := 0x200040
/-- PWR_GATE_OVER, R365. -/
def Reg.PWR_GATE_OVER : Nat := 0x200048
/-- PWR_DISC_IGN, R365. -/
def Reg.PWR_DISC_IGN : Nat := 0x200050
/-- PWR_HALT_CNT, R365. -/
def Reg.PWR_HALT_CNT : Nat := 0x200058
/-- PWR_SLEEP_ABORT, R365. -/
def Reg.PWR_SLEEP_ABORT : Nat := 0x200060

/-! ### EVT -/

/-- EVT_CTL, R379. -/
def Reg.EVT_CTL : Nat := 0x300000
/-- EVT_CTL.STORM, R379. -/
def Fld.EVT_CTL_STORM : Fld := ⟨Reg.EVT_CTL, 8, 8⟩
/-- EVT_CTL.MODE, R379. -/
def Fld.EVT_CTL_MODE : Fld := ⟨Reg.EVT_CTL, 0, 2⟩
/-- EVT_STS, R379. -/
def Reg.EVT_STS : Nat := 0x300004
/-- EVT_STS.STORM, R379. -/
def Fld.EVT_STS_STORM : Fld := ⟨Reg.EVT_STS, 31, 1⟩
/-- EVT_STS.STORM_SRC, R379. -/
def Fld.EVT_STS_STORM_SRC : Fld := ⟨Reg.EVT_STS, 0, 11⟩
/-- EVT_HOLD, R379. -/
def Reg.EVT_HOLD : Nat := 0x300008
/-- EVT_HOLD.HOLD, R379. -/
def Fld.EVT_HOLD_HOLD : Fld := ⟨Reg.EVT_HOLD, 31, 1⟩
/-- EVT_HOLD.EXPIRED, R379. -/
def Fld.EVT_HOLD_EXPIRED : Fld := ⟨Reg.EVT_HOLD, 30, 1⟩
/-- EVT_HOLD.OWNER, R379. -/
def Fld.EVT_HOLD_OWNER : Fld := ⟨Reg.EVT_HOLD, 8, 3⟩
/-- EVT_HOLD.REG, R379. -/
def Fld.EVT_HOLD_REG : Fld := ⟨Reg.EVT_HOLD, 7, 1⟩
/-- EVT_HOLD.WORD, R379. -/
def Fld.EVT_HOLD_WORD : Fld := ⟨Reg.EVT_HOLD, 0, 6⟩
/-- EVT_SW, R379. -/
def Reg.EVT_SW : Nat := 0x30000C
/-- EVT_SW.SW, R379. -/
def Fld.EVT_SW_SW : Fld := ⟨Reg.EVT_SW, 0, 32⟩
/-- EVT_TCFG, R379. -/
def Reg.EVT_TCFG : Nat := 0x300040
/-- EVT_TCFG.TIME, R379. -/
def Fld.EVT_TCFG_TIME : Fld := ⟨Reg.EVT_TCFG, 16, 16⟩
/-- EVT_TCFG.COUNT, R379. -/
def Fld.EVT_TCFG_COUNT : Fld := ⟨Reg.EVT_TCFG, 0, 8⟩
/-- EVT_HVEC, R379. -/
def Reg.EVT_HVEC : Nat := 0x300060
/-- EVT_HVEC.VECTOR, R379. -/
def Fld.EVT_HVEC_VECTOR : Fld := ⟨Reg.EVT_HVEC, 0, 12⟩
/-- EVT_TSTS, R379. -/
def Reg.EVT_TSTS : Nat := 0x300080
/-- EVT_TSTS.LINE, R379. -/
def Fld.EVT_TSTS_LINE : Fld := ⟨Reg.EVT_TSTS, 31, 1⟩
/-- EVT_TSTS.IDLE, R379. -/
def Fld.EVT_TSTS_IDLE : Fld := ⟨Reg.EVT_TSTS, 30, 1⟩
/-- EVT_TSTS.COUNTED, R379. -/
def Fld.EVT_TSTS_COUNTED : Fld := ⟨Reg.EVT_TSTS, 0, 8⟩
/-- EVT_CLAIM, R379. -/
def Reg.EVT_CLAIM : Nat := 0x300100
/-- EVT_CLAIM.SOURCE, R379. -/
def Fld.EVT_CLAIM_SOURCE : Fld := ⟨Reg.EVT_CLAIM, 0, 11⟩
/-- EVT_DONE, R379. -/
def Reg.EVT_DONE : Nat := 0x300104
/-- EVT_DONE.SOURCE, R379. -/
def Fld.EVT_DONE_SOURCE : Fld := ⟨Reg.EVT_DONE, 0, 11⟩
/-- EVT_WAKE, R379. -/
def Reg.EVT_WAKE : Nat := 0x300200
/-- EVT_WAKE.EN, R379. -/
def Fld.EVT_WAKE_EN : Fld := ⟨Reg.EVT_WAKE, 31, 1⟩
/-- EVT_WAKE.SOURCE, R379. -/
def Fld.EVT_WAKE_SOURCE : Fld := ⟨Reg.EVT_WAKE, 0, 11⟩
/-- EVT_MASK, R379. -/
def Reg.EVT_MASK : Nat := 0x300400
/-- EVT_MASK.BITS, R379. -/
def Fld.EVT_MASK_BITS : Fld := ⟨Reg.EVT_MASK, 0, 32⟩
/-- EVT_PEND, R379. -/
def Reg.EVT_PEND : Nat := 0x300500
/-- EVT_PEND.BITS, R379. -/
def Fld.EVT_PEND_BITS : Fld := ⟨Reg.EVT_PEND, 0, 32⟩
/-- EVT_INSVC, R379. -/
def Reg.EVT_INSVC : Nat := 0x300600
/-- EVT_INSVC.BITS, R379. -/
def Fld.EVT_INSVC_BITS : Fld := ⟨Reg.EVT_INSVC, 0, 32⟩
/-- EVT_LEVEL, R379. -/
def Reg.EVT_LEVEL : Nat := 0x300700
/-- EVT_LEVEL.BITS, R379. -/
def Fld.EVT_LEVEL_BITS : Fld := ⟨Reg.EVT_LEVEL, 0, 32⟩
/-- EVT_CLAIMS, R379. -/
def Reg.EVT_CLAIMS : Nat := 0x300800
/-- EVT_SPURIOUS, R379. -/
def Reg.EVT_SPURIOUS : Nat := 0x300808
/-- EVT_DONE_BAD, R379. -/
def Reg.EVT_DONE_BAD : Nat := 0x300810
/-- EVT_STORM_CNT, R379. -/
def Reg.EVT_STORM_CNT : Nat := 0x300818
/-- EVT_HOLD_EXP, R379. -/
def Reg.EVT_HOLD_EXP : Nat := 0x300820
/-- EVT_SRC, R379. -/
def Reg.EVT_SRC : Nat := 0x301000
/-- EVT_SRC.CLAIMER, R379. -/
def Fld.EVT_SRC_CLAIMER : Fld := ⟨Reg.EVT_SRC, 8, 3⟩
/-- EVT_SRC.ROUTE, R379. -/
def Fld.EVT_SRC_ROUTE : Fld := ⟨Reg.EVT_SRC, 0, 6⟩

/-! ### HKC -/

/-- HKC_SEL, R333. -/
def Reg.HKC_SEL : Nat := 0x400000
/-- HKC_SEL.DIE, R333. -/
def Fld.HKC_SEL_DIE : Fld := ⟨Reg.HKC_SEL, 16, 5⟩
/-- HKC_SEL.INPUT, R333. -/
def Fld.HKC_SEL_INPUT : Fld := ⟨Reg.HKC_SEL, 0, 6⟩
/-- HKC_SUM, R333. -/
def Reg.HKC_SUM : Nat := 0x400004
/-- HKC_SUM.VALUE, R333. -/
def Fld.HKC_SUM_VALUE : Fld := ⟨Reg.HKC_SUM, 0, 32⟩
/-- HKC_CNT, R333. -/
def Reg.HKC_CNT : Nat := 0x400008
/-- HKC_CNT.VALUE, R333. -/
def Fld.HKC_CNT_VALUE : Fld := ⟨Reg.HKC_CNT, 0, 32⟩
/-- HKC_MINMAX, R333. -/
def Reg.HKC_MINMAX : Nat := 0x40000C
/-- HKC_MINMAX.MAX, R333. -/
def Fld.HKC_MINMAX_MAX : Fld := ⟨Reg.HKC_MINMAX, 16, 12⟩
/-- HKC_MINMAX.MIN, R333. -/
def Fld.HKC_MINMAX_MIN : Fld := ⟨Reg.HKC_MINMAX, 0, 12⟩
/-- HKC_WIN, R333. -/
def Reg.HKC_WIN : Nat := 0x400010
/-- HKC_WIN.HI, R333. -/
def Fld.HKC_WIN_HI : Fld := ⟨Reg.HKC_WIN, 16, 12⟩
/-- HKC_WIN.LO, R333. -/
def Fld.HKC_WIN_LO : Fld := ⟨Reg.HKC_WIN, 0, 12⟩
/-- HKC_LAPNUM, R333. -/
def Reg.HKC_LAPNUM : Nat := 0x400014
/-- HKC_LAPNUM.LAP, R333. -/
def Fld.HKC_LAPNUM_LAP : Fld := ⟨Reg.HKC_LAPNUM, 0, 32⟩
/-- HKC_DCFG, R333. -/
def Reg.HKC_DCFG : Nat := 0x400018
/-- HKC_DCFG.SEQ_LEN, R333. -/
def Fld.HKC_DCFG_SEQ_LEN : Fld := ⟨Reg.HKC_DCFG, 0, 6⟩
/-- HKC_WPEND, R333. -/
def Reg.HKC_WPEND : Nat := 0x400020
/-- HKC_WPEND.PEND, R333. -/
def Fld.HKC_WPEND_PEND : Fld := ⟨Reg.HKC_WPEND, 0, 32⟩
/-- HKC_WPEND_HI, R333. -/
def Reg.HKC_WPEND_HI : Nat := 0x400024
/-- HKC_WPEND_HI.PEND, R333. -/
def Fld.HKC_WPEND_HI_PEND : Fld := ⟨Reg.HKC_WPEND_HI, 0, 8⟩
/-- HKC_IVAL, R333. -/
def Reg.HKC_IVAL : Nat := 0x400028
/-- HKC_IVAL.COUNT, R333. -/
def Fld.HKC_IVAL_COUNT : Fld := ⟨Reg.HKC_IVAL, 0, 32⟩

/-! ### THM -/

/-- THM_TH, R333. -/
def Reg.THM_TH : Nat := 0x408000
/-- THM_TH.SHUT, R333. -/
def Fld.THM_TH_SHUT : Fld := ⟨Reg.THM_TH, 16, 8⟩
/-- THM_TH.THR, R333. -/
def Fld.THM_TH_THR : Fld := ⟨Reg.THM_TH, 8, 8⟩
/-- THM_TH.WARN, R333. -/
def Fld.THM_TH_WARN : Fld := ⟨Reg.THM_TH, 0, 8⟩
/-- THM_STS, R333. -/
def Reg.THM_STS : Nat := 0x408010
/-- THM_STS.TRIP_ANA, R333. -/
def Fld.THM_STS_TRIP_ANA : Fld := ⟨Reg.THM_STS, 31, 1⟩
/-- THM_STS.TRIP_DIG, R333. -/
def Fld.THM_STS_TRIP_DIG : Fld := ⟨Reg.THM_STS, 30, 1⟩
/-- THM_STS.LEVEL, R333. -/
def Fld.THM_STS_LEVEL : Fld := ⟨Reg.THM_STS, 28, 2⟩
/-- THM_STS.HOT_INPUT, R333. -/
def Fld.THM_STS_HOT_INPUT : Fld := ⟨Reg.THM_STS, 22, 6⟩
/-- THM_STS.HOT_DIE, R333. -/
def Fld.THM_STS_HOT_DIE : Fld := ⟨Reg.THM_STS, 16, 5⟩
/-- THM_STS.HOT_T, R333. -/
def Fld.THM_STS_HOT_T : Fld := ⟨Reg.THM_STS, 0, 16⟩
/-- THM_SSEL, R333. -/
def Reg.THM_SSEL : Nat := 0x408014
/-- THM_SSEL.DIE, R333. -/
def Fld.THM_SSEL_DIE : Fld := ⟨Reg.THM_SSEL, 16, 5⟩
/-- THM_SSEL.INPUT, R333. -/
def Fld.THM_SSEL_INPUT : Fld := ⟨Reg.THM_SSEL, 0, 6⟩
/-- THM_SSTS, R333. -/
def Reg.THM_SSTS : Nat := 0x408018
/-- THM_SSTS.EXCL, R333. -/
def Fld.THM_SSTS_EXCL : Fld := ⟨Reg.THM_SSTS, 31, 1⟩
/-- THM_SSTS.BROKEN, R333. -/
def Fld.THM_SSTS_BROKEN : Fld := ⟨Reg.THM_SSTS, 30, 1⟩
/-- THM_SSTS.LEVEL, R333. -/
def Fld.THM_SSTS_LEVEL : Fld := ⟨Reg.THM_SSTS, 28, 2⟩
/-- THM_SSTS.TEMP, R333. -/
def Fld.THM_SSTS_TEMP : Fld := ⟨Reg.THM_SSTS, 0, 16⟩
/-- THM_EVT, R333. -/
def Reg.THM_EVT : Nat := 0x40801C
/-- THM_EVT.BROKEN, R333. -/
def Fld.THM_EVT_BROKEN : Fld := ⟨Reg.THM_EVT, 2, 1⟩
/-- THM_EVT.THROTTLE, R333. -/
def Fld.THM_EVT_THROTTLE : Fld := ⟨Reg.THM_EVT, 1, 1⟩
/-- THM_EVT.WARN, R333. -/
def Fld.THM_EVT_WARN : Fld := ⟨Reg.THM_EVT, 0, 1⟩

/-! ### LAP -/

/-- LAP_NUM, R147. -/
def Reg.LAP_NUM : Nat := 0x500000
/-- LAP_TIME, R147. -/
def Reg.LAP_TIME : Nat := 0x500008
/-- LAP_STS, R147. -/
def Reg.LAP_STS : Nat := 0x500010
/-- LAP_STS.STRETCH_US, R147. -/
def Fld.LAP_STS_STRETCH_US : Fld := ⟨Reg.LAP_STS, 15, 17⟩
/-- LAP_STS.LEN_MS, R147. -/
def Fld.LAP_STS_LEN_MS : Fld := ⟨Reg.LAP_STS, 8, 6⟩
/-- LAP_STS.SNOWPLOUGH, R147. -/
def Fld.LAP_STS_SNOWPLOUGH : Fld := ⟨Reg.LAP_STS, 3, 1⟩
/-- LAP_STS.LODGED, R147. -/
def Fld.LAP_STS_LODGED : Fld := ⟨Reg.LAP_STS, 2, 1⟩
/-- LAP_STS.PLANNED, R147. -/
def Fld.LAP_STS_PLANNED : Fld := ⟨Reg.LAP_STS, 1, 1⟩
/-- LAP_STS.RUNNING, R147. -/
def Fld.LAP_STS_RUNNING : Fld := ⟨Reg.LAP_STS, 0, 1⟩
/-- LAP_NEXT, R147. -/
def Reg.LAP_NEXT : Nat := 0x500014
/-- LAP_NEXT.STRETCH_US, R147. -/
def Fld.LAP_NEXT_STRETCH_US : Fld := ⟨Reg.LAP_NEXT, 16, 16⟩
/-- LAP_NEXT.VALID, R147. -/
def Fld.LAP_NEXT_VALID : Fld := ⟨Reg.LAP_NEXT, 0, 1⟩
/-- LAP_PLAN_LAPNUM, R147. -/
def Reg.LAP_PLAN_LAPNUM : Nat := 0x500018
/-- LAP_PLAN_LAPNUM.LAP, R147. -/
def Fld.LAP_PLAN_LAPNUM_LAP : Fld := ⟨Reg.LAP_PLAN_LAPNUM, 0, 32⟩
/-- LAP_PLAN_HE, R147. -/
def Reg.LAP_PLAN_HE : Nat := 0x500020
/-- LAP_PLAN_HE.DEC_USED, R147. -/
def Fld.LAP_PLAN_HE_DEC_USED : Fld := ⟨Reg.LAP_PLAN_HE, 20, 12⟩
/-- LAP_PLAN_HE.TOW_USED, R147. -/
def Fld.LAP_PLAN_HE_TOW_USED : Fld := ⟨Reg.LAP_PLAN_HE, 15, 5⟩
/-- LAP_PLAN_HE.TOW_HELD, R147. -/
def Fld.LAP_PLAN_HE_TOW_HELD : Fld := ⟨Reg.LAP_PLAN_HE, 10, 5⟩
/-- LAP_PLAN_HE.GRANTS, R147. -/
def Fld.LAP_PLAN_HE_GRANTS : Fld := ⟨Reg.LAP_PLAN_HE, 0, 10⟩
/-- LAP_PLAN_HW, R147. -/
def Reg.LAP_PLAN_HW : Nat := 0x500024
/-- LAP_PLAN_HW.DEC_USED, R147. -/
def Fld.LAP_PLAN_HW_DEC_USED : Fld := ⟨Reg.LAP_PLAN_HW, 20, 12⟩
/-- LAP_PLAN_HW.TOW_USED, R147. -/
def Fld.LAP_PLAN_HW_TOW_USED : Fld := ⟨Reg.LAP_PLAN_HW, 15, 5⟩
/-- LAP_PLAN_HW.TOW_HELD, R147. -/
def Fld.LAP_PLAN_HW_TOW_HELD : Fld := ⟨Reg.LAP_PLAN_HW, 10, 5⟩
/-- LAP_PLAN_HW.GRANTS, R147. -/
def Fld.LAP_PLAN_HW_GRANTS : Fld := ⟨Reg.LAP_PLAN_HW, 0, 10⟩
/-- LAP_KV_BUDGET_HE, R147. -/
def Reg.LAP_KV_BUDGET_HE : Nat := 0x500028
/-- LAP_KV_BUDGET_HW, R147. -/
def Reg.LAP_KV_BUDGET_HW : Nat := 0x500030
/-- LAP_KV_PROJ_HE, R147. -/
def Reg.LAP_KV_PROJ_HE : Nat := 0x500038
/-- LAP_KV_PROJ_HW, R147. -/
def Reg.LAP_KV_PROJ_HW : Nat := 0x500040
/-- LAP_KV_HEAD_HE, R147. -/
def Reg.LAP_KV_HEAD_HE : Nat := 0x500048
/-- LAP_KV_HEAD_HW, R147. -/
def Reg.LAP_KV_HEAD_HW : Nat := 0x500050
/-- LAP_CFG, R147. -/
def Reg.LAP_CFG : Nat := 0x500060
/-- LAP_CFG.STRETCH_MAX, R147. -/
def Fld.LAP_CFG_STRETCH_MAX : Fld := ⟨Reg.LAP_CFG, 16, 16⟩
/-- LAP_CFG.KV_STARVE, R147. -/
def Fld.LAP_CFG_KV_STARVE : Fld := ⟨Reg.LAP_CFG, 8, 8⟩
/-- LAP_CFG.PLAN_LEAD, R147. -/
def Fld.LAP_CFG_PLAN_LEAD : Fld := ⟨Reg.LAP_CFG, 0, 8⟩
/-- LAP_TSEL, R147. -/
def Reg.LAP_TSEL : Nat := 0x500070
/-- LAP_TSEL.TENANT, R147. -/
def Fld.LAP_TSEL_TENANT : Fld := ⟨Reg.LAP_TSEL, 0, 14⟩
/-- LAP_TWEIGHT, R147. -/
def Reg.LAP_TWEIGHT : Nat := 0x500074
/-- LAP_TWEIGHT.ACTIVE, R147. -/
def Fld.LAP_TWEIGHT_ACTIVE : Fld := ⟨Reg.LAP_TWEIGHT, 31, 1⟩
/-- LAP_TWEIGHT.WEIGHT, R147. -/
def Fld.LAP_TWEIGHT_WEIGHT : Fld := ⟨Reg.LAP_TWEIGHT, 0, 8⟩
/-- LAP_TCREDIT, R147. -/
def Reg.LAP_TCREDIT : Nat := 0x500078
/-- LAP_TCREDIT.CREDIT, R147. -/
def Fld.LAP_TCREDIT_CREDIT : Fld := ⟨Reg.LAP_TCREDIT, 0, 32⟩
/-- LAP_EVT, R147. -/
def Reg.LAP_EVT : Nat := 0x500080
/-- LAP_EVT.DL_MISS, R147. -/
def Fld.LAP_EVT_DL_MISS : Fld := ⟨Reg.LAP_EVT, 2, 1⟩
/-- LAP_EVT.KV_BLOCK, R147. -/
def Fld.LAP_EVT_KV_BLOCK : Fld := ⟨Reg.LAP_EVT, 1, 1⟩
/-- LAP_EVT.STRETCH, R147. -/
def Fld.LAP_EVT_STRETCH : Fld := ⟨Reg.LAP_EVT, 0, 1⟩
/-- LAP_DL_MISS, R147. -/
def Reg.LAP_DL_MISS : Nat := 0x500088
/-- LAP_LODGE_CNT, R147. -/
def Reg.LAP_LODGE_CNT : Nat := 0x500090
/-- LAP_STRETCH_TOT, R147. -/
def Reg.LAP_STRETCH_TOT : Nat := 0x500098
/-- LAP_QNT_SEL, R67. -/
def Reg.LAP_QNT_SEL : Nat := 0x508000
/-- LAP_QNT_SEL.SLOT, R67. -/
def Fld.LAP_QNT_SEL_SLOT : Fld := ⟨Reg.LAP_QNT_SEL, 24, 6⟩
/-- LAP_QNT_SEL.LAYER, R67. -/
def Fld.LAP_QNT_SEL_LAYER : Fld := ⟨Reg.LAP_QNT_SEL, 16, 8⟩
/-- LAP_QNT_SEL.POINT, R67. -/
def Fld.LAP_QNT_SEL_POINT : Fld := ⟨Reg.LAP_QNT_SEL, 0, 3⟩
/-- LAP_QNT_LAPNUM, R67. -/
def Reg.LAP_QNT_LAPNUM : Nat := 0x508004
/-- LAP_QNT_LAPNUM.LAP, R67. -/
def Fld.LAP_QNT_LAPNUM_LAP : Fld := ⟨Reg.LAP_QNT_LAPNUM, 0, 32⟩
/-- LAP_QNT_SAT, R67. -/
def Reg.LAP_QNT_SAT : Nat := 0x508008
/-- LAP_QNT_SAT.COUNT, R67. -/
def Fld.LAP_QNT_SAT_COUNT : Fld := ⟨Reg.LAP_QNT_SAT, 0, 32⟩
/-- LAP_QNT_ZERO, R67. -/
def Reg.LAP_QNT_ZERO : Nat := 0x50800C
/-- LAP_QNT_ZERO.COUNT, R67. -/
def Fld.LAP_QNT_ZERO_COUNT : Fld := ⟨Reg.LAP_QNT_ZERO, 0, 32⟩
/-- LAP_QNT_HOT, R67. -/
def Reg.LAP_QNT_HOT : Nat := 0x508010
/-- LAP_QNT_HOT.OVER, R67. -/
def Fld.LAP_QNT_HOT_OVER : Fld := ⟨Reg.LAP_QNT_HOT, 31, 1⟩
/-- LAP_QNT_HOT.SAT_HOT, R67. -/
def Fld.LAP_QNT_HOT_SAT_HOT : Fld := ⟨Reg.LAP_QNT_HOT, 16, 15⟩
/-- LAP_QNT_HOT.ZERO_HOT, R67. -/
def Fld.LAP_QNT_HOT_ZERO_HOT : Fld := ⟨Reg.LAP_QNT_HOT, 0, 15⟩
/-- LAP_QNT_TH, R67. -/
def Reg.LAP_QNT_TH : Nat := 0x508014
/-- LAP_QNT_TH.BLK_SAT, R67. -/
def Fld.LAP_QNT_TH_BLK_SAT : Fld := ⟨Reg.LAP_QNT_TH, 24, 8⟩
/-- LAP_QNT_TH.BLK_ZERO, R67. -/
def Fld.LAP_QNT_TH_BLK_ZERO : Fld := ⟨Reg.LAP_QNT_TH, 16, 8⟩
/-- LAP_QNT_TH_LAP, R67. -/
def Reg.LAP_QNT_TH_LAP : Nat := 0x508018
/-- LAP_QNT_TH_LAP.LAP_SAT, R67. -/
def Fld.LAP_QNT_TH_LAP_LAP_SAT : Fld := ⟨Reg.LAP_QNT_TH_LAP, 16, 15⟩
/-- LAP_QNT_TH_LAP.LAP_ZERO, R67. -/
def Fld.LAP_QNT_TH_LAP_LAP_ZERO : Fld := ⟨Reg.LAP_QNT_TH_LAP, 0, 15⟩
/-- LAP_QNT_HOTSUM, R67. -/
def Reg.LAP_QNT_HOTSUM : Nat := 0x50801C
/-- LAP_QNT_HOTSUM.PEND, R67. -/
def Fld.LAP_QNT_HOTSUM_PEND : Fld := ⟨Reg.LAP_QNT_HOTSUM, 31, 1⟩
/-- LAP_QNT_HOTSUM.COUNT, R67. -/
def Fld.LAP_QNT_HOTSUM_COUNT : Fld := ⟨Reg.LAP_QNT_HOTSUM, 17, 14⟩
/-- LAP_QNT_HOTSUM.FIRST_POINT, R67. -/
def Fld.LAP_QNT_HOTSUM_FIRST_POINT : Fld := ⟨Reg.LAP_QNT_HOTSUM, 14, 3⟩
/-- LAP_QNT_HOTSUM.FIRST_SLOT, R67. -/
def Fld.LAP_QNT_HOTSUM_FIRST_SLOT : Fld := ⟨Reg.LAP_QNT_HOTSUM, 8, 6⟩
/-- LAP_QNT_HOTSUM.FIRST_LAYER, R67. -/
def Fld.LAP_QNT_HOTSUM_FIRST_LAYER : Fld := ⟨Reg.LAP_QNT_HOTSUM, 0, 8⟩
/-- LAP_QNT_FIRST_BIB, R67. -/
def Reg.LAP_QNT_FIRST_BIB : Nat := 0x508020
/-- LAP_QNT_FIRST_BIB.BIB, R67. -/
def Fld.LAP_QNT_FIRST_BIB_BIB : Fld := ⟨Reg.LAP_QNT_FIRST_BIB, 0, 32⟩
/-- LAP_OUT_OVF, R85. -/
def Reg.LAP_OUT_OVF : Nat := 0x508040
/-- LAP_ACC_SUB, R85. -/
def Reg.LAP_ACC_SUB : Nat := 0x508048
/-- LAP_MOG_CFG, R106. -/
def Reg.LAP_MOG_CFG : Nat := 0x509000
/-- LAP_MOG_CFG.FB_RES, R106. -/
def Fld.LAP_MOG_CFG_FB_RES : Fld := ⟨Reg.LAP_MOG_CFG, 8, 4⟩
/-- LAP_MOG_CFG.UNITS, R106. -/
def Fld.LAP_MOG_CFG_UNITS : Fld := ⟨Reg.LAP_MOG_CFG, 0, 8⟩
/-- LAP_MOG_USEL, R106. -/
def Reg.LAP_MOG_USEL : Nat := 0x509004
/-- LAP_MOG_USEL.UNIT, R106. -/
def Fld.LAP_MOG_USEL_UNIT : Fld := ⟨Reg.LAP_MOG_USEL, 0, 5⟩
/-- LAP_MOG_USTS, R106. -/
def Reg.LAP_MOG_USTS : Nat := 0x509008
/-- LAP_MOG_USTS.LOAD, R106. -/
def Fld.LAP_MOG_USTS_LOAD : Fld := ⟨Reg.LAP_MOG_USTS, 16, 10⟩
/-- LAP_MOG_USTS.STATE, R106. -/
def Fld.LAP_MOG_USTS_STATE : Fld := ⟨Reg.LAP_MOG_USTS, 0, 3⟩
/-- LAP_MOG_UTILE, R106. -/
def Reg.LAP_MOG_UTILE : Nat := 0x50900C
/-- LAP_MOG_UTILE.ADDR, R106. -/
def Fld.LAP_MOG_UTILE_ADDR : Fld := ⟨Reg.LAP_MOG_UTILE, 0, 32⟩
/-- LAP_MOG_EVT, R106. -/
def Reg.LAP_MOG_EVT : Nat := 0x509010
/-- LAP_MOG_EVT.SHADOW_POISON, R106. -/
def Fld.LAP_MOG_EVT_SHADOW_POISON : Fld := ⟨Reg.LAP_MOG_EVT, 3, 1⟩
/-- LAP_MOG_EVT.DRIFT_RANGE, R106. -/
def Fld.LAP_MOG_EVT_DRIFT_RANGE : Fld := ⟨Reg.LAP_MOG_EVT, 2, 1⟩
/-- LAP_MOG_EVT.POOL_HOT, R106. -/
def Fld.LAP_MOG_EVT_POOL_HOT : Fld := ⟨Reg.LAP_MOG_EVT, 1, 1⟩
/-- LAP_MOG_EVT.RESERVE_FULL, R106. -/
def Fld.LAP_MOG_EVT_RESERVE_FULL : Fld := ⟨Reg.LAP_MOG_EVT, 0, 1⟩
/-- LAP_MOG_POOL_TH, R106. -/
def Reg.LAP_MOG_POOL_TH : Nat := 0x509014
/-- LAP_MOG_POOL_TH.POOL_TH, R106. -/
def Fld.LAP_MOG_POOL_TH_POOL_TH : Fld := ⟨Reg.LAP_MOG_POOL_TH, 0, 32⟩
/-- LAP_MOG_LAPNUM, R106. -/
def Reg.LAP_MOG_LAPNUM : Nat := 0x509018
/-- LAP_MOG_LAPNUM.LAP, R106. -/
def Fld.LAP_MOG_LAPNUM_LAP : Fld := ⟨Reg.LAP_MOG_LAPNUM, 0, 32⟩
/-- LAP_MOG_POOL_LAP, R106. -/
def Reg.LAP_MOG_POOL_LAP : Nat := 0x50901C
/-- LAP_MOG_POOL_LAP.COUNT, R106. -/
def Fld.LAP_MOG_POOL_LAP_COUNT : Fld := ⟨Reg.LAP_MOG_POOL_LAP, 0, 32⟩
/-- LAP_MOG_STATIC, R106. -/
def Reg.LAP_MOG_STATIC : Nat := 0x509020
/-- LAP_MOG_RES_ACC, R106. -/
def Reg.LAP_MOG_RES_ACC : Nat := 0x509028
/-- LAP_MOG_RES_64, R106. -/
def Reg.LAP_MOG_RES_64 : Nat := 0x509030
/-- LAP_MOG_RES_POOL, R106. -/
def Reg.LAP_MOG_RES_POOL : Nat := 0x509038
/-- LAP_MOG_RCELL, R106. -/
def Reg.LAP_MOG_RCELL : Nat := 0x509040
/-- LAP_MOG_FB_MSG, R106. -/
def Reg.LAP_MOG_FB_MSG : Nat := 0x509048
/-- LAP_MOG_SHRES, R106. -/
def Reg.LAP_MOG_SHRES : Nat := 0x509050
/-- LAP_MOG_DRIFT_OOR, R106. -/
def Reg.LAP_MOG_DRIFT_OOR : Nat := 0x509058
/-- LAP_EBUDGET, R334. -/
def Reg.LAP_EBUDGET : Nat := 0x50A000
/-- LAP_EBUDGET.MIN, R334. -/
def Fld.LAP_EBUDGET_MIN : Fld := ⟨Reg.LAP_EBUDGET, 16, 16⟩
/-- LAP_EBUDGET.WATTS, R334. -/
def Fld.LAP_EBUDGET_WATTS : Fld := ⟨Reg.LAP_EBUDGET, 0, 16⟩
/-- LAP_ECFG, R334. -/
def Reg.LAP_ECFG : Nat := 0x50A004
/-- LAP_ECFG.THR_PCT, R334. -/
def Fld.LAP_ECFG_THR_PCT : Fld := ⟨Reg.LAP_ECFG, 24, 8⟩
/-- LAP_ECFG.PAUSE_MAX, R334. -/
def Fld.LAP_ECFG_PAUSE_MAX : Fld := ⟨Reg.LAP_ECFG, 12, 12⟩
/-- LAP_ECFG.IDLE_W, R334. -/
def Fld.LAP_ECFG_IDLE_W : Fld := ⟨Reg.LAP_ECFG, 0, 12⟩
/-- LAP_ECFG2, R334. -/
def Reg.LAP_ECFG2 : Nat := 0x50A008
/-- LAP_ECFG2.PSTEP, R334. -/
def Fld.LAP_ECFG2_PSTEP : Fld := ⟨Reg.LAP_ECFG2, 16, 16⟩
/-- LAP_ECFG2.MARGIN, R334. -/
def Fld.LAP_ECFG2_MARGIN : Fld := ⟨Reg.LAP_ECFG2, 0, 16⟩
/-- LAP_ESTS, R334. -/
def Reg.LAP_ESTS : Nat := 0x50A00C
/-- LAP_ESTS.P_EFF, R334. -/
def Fld.LAP_ESTS_P_EFF : Fld := ⟨Reg.LAP_ESTS, 21, 11⟩
/-- LAP_ESTS.WH_HE, R334. -/
def Fld.LAP_ESTS_WH_HE : Fld := ⟨Reg.LAP_ESTS, 16, 5⟩
/-- LAP_ESTS.WH_HW, R334. -/
def Fld.LAP_ESTS_WH_HW : Fld := ⟨Reg.LAP_ESTS, 11, 5⟩
/-- LAP_ENEW, R334. -/
def Reg.LAP_ENEW : Nat := 0x50A010
/-- LAP_ENEW.HW, R334. -/
def Fld.LAP_ENEW_HW : Fld := ⟨Reg.LAP_ENEW, 16, 16⟩
/-- LAP_ENEW.HE, R334. -/
def Fld.LAP_ENEW_HE : Fld := ⟨Reg.LAP_ENEW, 0, 16⟩
/-- LAP_E_MEAS, R334. -/
def Reg.LAP_E_MEAS : Nat := 0x50A018
/-- LAP_E_PLAN, R334. -/
def Reg.LAP_E_PLAN : Nat := 0x50A020
/-- LAP_E_CREDIT, R334. -/
def Reg.LAP_E_CREDIT : Nat := 0x50A028
/-- LAP_E_LAPNUM, R334. -/
def Reg.LAP_E_LAPNUM : Nat := 0x50A030
/-- LAP_E_LAPNUM.LAP, R334. -/
def Fld.LAP_E_LAPNUM_LAP : Fld := ⟨Reg.LAP_E_LAPNUM, 0, 32⟩
/-- LAP_E_PAUSE, R334. -/
def Reg.LAP_E_PAUSE : Nat := 0x50A034
/-- LAP_E_PAUSE.COUNT, R334. -/
def Fld.LAP_E_PAUSE_COUNT : Fld := ⟨Reg.LAP_E_PAUSE, 16, 16⟩
/-- LAP_E_PAUSE.US, R334. -/
def Fld.LAP_E_PAUSE_US : Fld := ⟨Reg.LAP_E_PAUSE, 0, 16⟩
/-- LAP_EEVT, R334. -/
def Reg.LAP_EEVT : Nat := 0x50A038
/-- LAP_EEVT.PAUSE_CAP, R334. -/
def Fld.LAP_EEVT_PAUSE_CAP : Fld := ⟨Reg.LAP_EEVT, 2, 1⟩
/-- LAP_EEVT.SHORT, R334. -/
def Fld.LAP_EEVT_SHORT : Fld := ⟨Reg.LAP_EEVT, 1, 1⟩
/-- LAP_EEVT.PAUSE, R334. -/
def Fld.LAP_EEVT_PAUSE : Fld := ⟨Reg.LAP_EEVT, 0, 1⟩
/-- LAP_PAUSE_CNT, R334. -/
def Reg.LAP_PAUSE_CNT : Nat := 0x50A040
/-- LAP_E_TOTAL, R334. -/
def Reg.LAP_E_TOTAL : Nat := 0x50A048

/-! ### BIB -/

/-- BIB_SEL, R166. -/
def Reg.BIB_SEL : Nat := 0x600000
/-- BIB_SEL.INDEX, R166. -/
def Fld.BIB_SEL_INDEX : Fld := ⟨Reg.BIB_SEL, 0, 16⟩
/-- BIB_SNAP_LAP, R166. -/
def Reg.BIB_SNAP_LAP : Nat := 0x600004
/-- BIB_SNAP_LAP.LAP, R166. -/
def Fld.BIB_SNAP_LAP_LAP : Fld := ⟨Reg.BIB_SNAP_LAP, 0, 32⟩
/-- BIB_CNT, R166. -/
def Reg.BIB_CNT : Nat := 0x600020
/-- BIB_CNT.COUNT, R166. -/
def Fld.BIB_CNT_COUNT : Fld := ⟨Reg.BIB_CNT, 0, 17⟩
/-- BIB_CNT_LAPNUM, R166. -/
def Reg.BIB_CNT_LAPNUM : Nat := 0x600040
/-- BIB_CNT_LAPNUM.LAP, R166. -/
def Fld.BIB_CNT_LAPNUM_LAP : Fld := ⟨Reg.BIB_CNT_LAPNUM, 0, 32⟩
/-- BIB_CFG, R166. -/
def Reg.BIB_CFG : Nat := 0x600044
/-- BIB_CFG.TOPK_MAX, R166. -/
def Fld.BIB_CFG_TOPK_MAX : Fld := ⟨Reg.BIB_CFG, 16, 11⟩
/-- BIB_CFG.FAULT_HOLD, R166. -/
def Fld.BIB_CFG_FAULT_HOLD : Fld := ⟨Reg.BIB_CFG, 0, 16⟩
/-- BIB_EVT, R166. -/
def Reg.BIB_EVT : Nat := 0x600048
/-- BIB_EVT.FAULTED, R166. -/
def Fld.BIB_EVT_FAULTED : Fld := ⟨Reg.BIB_EVT, 1, 1⟩
/-- BIB_EVT.TABLE_FULL, R166. -/
def Fld.BIB_EVT_TABLE_FULL : Fld := ⟨Reg.BIB_EVT, 0, 1⟩
/-- BIB_STALE_HOST, R166. -/
def Reg.BIB_STALE_HOST : Nat := 0x600080
/-- BIB_STALE_INT, R166. -/
def Reg.BIB_STALE_INT : Nat := 0x600088
/-- BIB_STALE_CKPT, R166. -/
def Reg.BIB_STALE_CKPT : Nat := 0x600090
/-- BIB_STALE_PEER, R166. -/
def Reg.BIB_STALE_PEER : Nat := 0x600098
/-- BIB_OPEN_REF, R166. -/
def Reg.BIB_OPEN_REF : Nat := 0x6000A0
/-- BIB_ENT, R166. -/
def Reg.BIB_ENT : Nat := 0x600100
/-- BIB_ENT.WORD, R166. -/
def Fld.BIB_ENT_WORD : Fld := ⟨Reg.BIB_ENT, 0, 32⟩

/-! ### QP -/

/-- QP_SEL, R187. -/
def Reg.QP_SEL : Nat := 0x700000
/-- QP_SEL.QP, R187. -/
def Fld.QP_SEL_QP : Fld := ⟨Reg.QP_SEL, 0, 14⟩
/-- QP_CFG, R187. -/
def Reg.QP_CFG : Nat := 0x700004
/-- QP_CFG.EN, R187. -/
def Fld.QP_CFG_EN : Fld := ⟨Reg.QP_CFG, 31, 1⟩
/-- QP_CFG.IRQ_EN, R187. -/
def Fld.QP_CFG_IRQ_EN : Fld := ⟨Reg.QP_CFG, 30, 1⟩
/-- QP_CFG.MIRROR, R187. -/
def Fld.QP_CFG_MIRROR : Fld := ⟨Reg.QP_CFG, 29, 1⟩
/-- QP_CFG.PRIO_FLOOR, R187. -/
def Fld.QP_CFG_PRIO_FLOOR : Fld := ⟨Reg.QP_CFG, 26, 3⟩
/-- QP_CFG.SQ_LOG, R187. -/
def Fld.QP_CFG_SQ_LOG : Fld := ⟨Reg.QP_CFG, 20, 4⟩
/-- QP_CFG.CQ_LOG, R187. -/
def Fld.QP_CFG_CQ_LOG : Fld := ⟨Reg.QP_CFG, 16, 4⟩
/-- QP_CFG.TOKBATCH, R187. -/
def Fld.QP_CFG_TOKBATCH : Fld := ⟨Reg.QP_CFG, 14, 2⟩
/-- QP_CFG.TENANT, R187. -/
def Fld.QP_CFG_TENANT : Fld := ⟨Reg.QP_CFG, 0, 14⟩
/-- QP_SQ_BASE, R187. -/
def Reg.QP_SQ_BASE : Nat := 0x700008
/-- QP_SQ_BASE.ADDR, R187. -/
def Fld.QP_SQ_BASE_ADDR : Fld := ⟨Reg.QP_SQ_BASE, 12, 52⟩
/-- QP_CQ_BASE, R187. -/
def Reg.QP_CQ_BASE : Nat := 0x700010
/-- QP_CQ_BASE.ADDR, R187. -/
def Fld.QP_CQ_BASE_ADDR : Fld := ⟨Reg.QP_CQ_BASE, 12, 52⟩
/-- QP_LOGIT_BASE, R187. -/
def Reg.QP_LOGIT_BASE : Nat := 0x700018
/-- QP_LOGIT_BASE.ADDR, R187. -/
def Fld.QP_LOGIT_BASE_ADDR : Fld := ⟨Reg.QP_LOGIT_BASE, 12, 52⟩
/-- QP_VEC, R187. -/
def Reg.QP_VEC : Nat := 0x700020
/-- QP_VEC.VECTOR, R187. -/
def Fld.QP_VEC_VECTOR : Fld := ⟨Reg.QP_VEC, 0, 12⟩
/-- QP_STS, R187. -/
def Reg.QP_STS : Nat := 0x700024
/-- QP_STS.LOST, R187. -/
def Fld.QP_STS_LOST : Fld := ⟨Reg.QP_STS, 3, 1⟩
/-- QP_STS.FETCH_ERR, R187. -/
def Fld.QP_STS_FETCH_ERR : Fld := ⟨Reg.QP_STS, 2, 1⟩
/-- QP_STS.CFG_ERR, R187. -/
def Fld.QP_STS_CFG_ERR : Fld := ⟨Reg.QP_STS, 1, 1⟩
/-- QP_STS.ENABLED, R187. -/
def Fld.QP_STS_ENABLED : Fld := ⟨Reg.QP_STS, 0, 1⟩
/-- QP_SQ_HEAD, R187. -/
def Reg.QP_SQ_HEAD : Nat := 0x700028
/-- QP_SQ_HEAD.INDEX, R187. -/
def Fld.QP_SQ_HEAD_INDEX : Fld := ⟨Reg.QP_SQ_HEAD, 0, 16⟩
/-- QP_CQ_TAIL, R187. -/
def Reg.QP_CQ_TAIL : Nat := 0x70002C
/-- QP_CQ_TAIL.INDEX, R187. -/
def Fld.QP_CQ_TAIL_INDEX : Fld := ⟨Reg.QP_CQ_TAIL, 0, 16⟩
/-- QP_BACKLOG, R187. -/
def Reg.QP_BACKLOG : Nat := 0x700030
/-- QP_BACKLOG.RECORDS, R187. -/
def Fld.QP_BACKLOG_RECORDS : Fld := ⟨Reg.QP_BACKLOG, 0, 9⟩
/-- QP_VSEL, R187. -/
def Reg.QP_VSEL : Nat := 0x700040
/-- QP_VSEL.VECTOR, R187. -/
def Fld.QP_VSEL_VECTOR : Fld := ⟨Reg.QP_VSEL, 0, 12⟩
/-- QP_VCFG, R187. -/
def Reg.QP_VCFG : Nat := 0x700044
/-- QP_VCFG.TIME, R187. -/
def Fld.QP_VCFG_TIME : Fld := ⟨Reg.QP_VCFG, 16, 16⟩
/-- QP_VCFG.COUNT, R187. -/
def Fld.QP_VCFG_COUNT : Fld := ⟨Reg.QP_VCFG, 0, 8⟩
/-- QP_VSTS, R187. -/
def Reg.QP_VSTS : Nat := 0x700048
/-- QP_VSTS.PENDING, R187. -/
def Fld.QP_VSTS_PENDING : Fld := ⟨Reg.QP_VSTS, 8, 1⟩
/-- QP_VSTS.COUNTED, R187. -/
def Fld.QP_VSTS_COUNTED : Fld := ⟨Reg.QP_VSTS, 0, 8⟩
/-- QP_EVT, R187. -/
def Reg.QP_EVT : Nat := 0x700060
/-- QP_EVT.VIOL, R187. -/
def Fld.QP_EVT_VIOL : Fld := ⟨Reg.QP_EVT, 1, 1⟩
/-- QP_EVT.LOST, R187. -/
def Fld.QP_EVT_LOST : Fld := ⟨Reg.QP_EVT, 0, 1⟩
/-- QP_VIOL, R187. -/
def Reg.QP_VIOL : Nat := 0x700080
/-- QP_REC_DROP, R187. -/
def Reg.QP_REC_DROP : Nat := 0x700088
/-- QP_DESC, R187. -/
def Reg.QP_DESC : Nat := 0x700090

/-! ### KVM -/

/-- KVM_PSEL, R214. -/
def Reg.KVM_PSEL : Nat := 0x800000
/-- KVM_PSEL.TIER, R214. -/
def Fld.KVM_PSEL_TIER : Fld := ⟨Reg.KVM_PSEL, 1, 1⟩
/-- KVM_PSEL.HUB, R214. -/
def Fld.KVM_PSEL_HUB : Fld := ⟨Reg.KVM_PSEL, 0, 1⟩
/-- KVM_POOL_TOTAL, R214. -/
def Reg.KVM_POOL_TOTAL : Nat := 0x800004
/-- KVM_POOL_TOTAL.PAGES, R214. -/
def Fld.KVM_POOL_TOTAL_PAGES : Fld := ⟨Reg.KVM_POOL_TOTAL, 0, 32⟩
/-- KVM_POOL_FREE, R214. -/
def Reg.KVM_POOL_FREE : Nat := 0x800008
/-- KVM_POOL_FREE.PAGES, R214. -/
def Fld.KVM_POOL_FREE_PAGES : Fld := ⟨Reg.KVM_POOL_FREE, 0, 32⟩
/-- KVM_POOL_RETIRED, R214. -/
def Reg.KVM_POOL_RETIRED : Nat := 0x80000C
/-- KVM_POOL_RETIRED.PAGES, R214. -/
def Fld.KVM_POOL_RETIRED_PAGES : Fld := ⟨Reg.KVM_POOL_RETIRED, 0, 32⟩
/-- KVM_EVICT_LOW, R214. -/
def Reg.KVM_EVICT_LOW : Nat := 0x800010
/-- KVM_EVICT_LOW.PAGES, R214. -/
def Fld.KVM_EVICT_LOW_PAGES : Fld := ⟨Reg.KVM_EVICT_LOW, 0, 32⟩
/-- KVM_EVICT_HIGH, R214. -/
def Reg.KVM_EVICT_HIGH : Nat := 0x800014
/-- KVM_EVICT_HIGH.PAGES, R214. -/
def Fld.KVM_EVICT_HIGH_PAGES : Fld := ⟨Reg.KVM_EVICT_HIGH, 0, 32⟩
/-- KVM_TSEL, R214. -/
def Reg.KVM_TSEL : Nat := 0x800020
/-- KVM_TSEL.TENANT, R214. -/
def Fld.KVM_TSEL_TENANT : Fld := ⟨Reg.KVM_TSEL, 0, 14⟩
/-- KVM_QUOTA, R214. -/
def Reg.KVM_QUOTA : Nat := 0x800024
/-- KVM_QUOTA.PAGES, R214. -/
def Fld.KVM_QUOTA_PAGES : Fld := ⟨Reg.KVM_QUOTA, 0, 32⟩
/-- KVM_TUSE, R214. -/
def Reg.KVM_TUSE : Nat := 0x800028
/-- KVM_TUSE.PAGES, R214. -/
def Fld.KVM_TUSE_PAGES : Fld := ⟨Reg.KVM_TUSE, 0, 32⟩
/-- KVM_TCFG, R214. -/
def Reg.KVM_TCFG : Nat := 0x80002C
/-- KVM_TCFG.EVICT_EN, R214. -/
def Fld.KVM_TCFG_EVICT_EN : Fld := ⟨Reg.KVM_TCFG, 31, 1⟩
/-- KVM_TCFG.RECENT, R214. -/
def Fld.KVM_TCFG_RECENT : Fld := ⟨Reg.KVM_TCFG, 0, 16⟩
/-- KVM_EVT, R214. -/
def Reg.KVM_EVT : Nat := 0x800030
/-- KVM_EVT.LODGE_FULL, R214. -/
def Fld.KVM_EVT_LODGE_FULL : Fld := ⟨Reg.KVM_EVT, 3, 1⟩
/-- KVM_EVT.POISON, R214. -/
def Fld.KVM_EVT_POISON : Fld := ⟨Reg.KVM_EVT, 2, 1⟩
/-- KVM_EVT.QUOTA_OVER, R214. -/
def Fld.KVM_EVT_QUOTA_OVER : Fld := ⟨Reg.KVM_EVT, 1, 1⟩
/-- KVM_EVT.POOL_EMPTY, R214. -/
def Fld.KVM_EVT_POOL_EMPTY : Fld := ⟨Reg.KVM_EVT, 0, 1⟩
/-- KVM_MSEL, R214. -/
def Reg.KVM_MSEL : Nat := 0x800038
/-- KVM_MSEL.SLOT, R214. -/
def Fld.KVM_MSEL_SLOT : Fld := ⟨Reg.KVM_MSEL, 0, 6⟩
/-- KVM_MFMT, R214. -/
def Reg.KVM_MFMT : Nat := 0x80003C
/-- KVM_MFMT.KEY4, R214. -/
def Fld.KVM_MFMT_KEY4 : Fld := ⟨Reg.KVM_MFMT, 31, 1⟩
/-- KVM_MFMT.DH, R214. -/
def Fld.KVM_MFMT_DH : Fld := ⟨Reg.KVM_MFMT, 29, 2⟩
/-- KVM_MFMT.PB, R214. -/
def Fld.KVM_MFMT_PB : Fld := ⟨Reg.KVM_MFMT, 20, 9⟩
/-- KVM_MFMT.B, R214. -/
def Fld.KVM_MFMT_B : Fld := ⟨Reg.KVM_MFMT, 0, 19⟩
/-- KVM_EVICT_BLK, R214. -/
def Reg.KVM_EVICT_BLK : Nat := 0x800080
/-- KVM_POOL_EMPTY, R214. -/
def Reg.KVM_POOL_EMPTY : Nat := 0x800088
/-- KVM_QUOTA_REF, R214. -/
def Reg.KVM_QUOTA_REF : Nat := 0x800090
/-- KVM_QUOTA_LODGE, R214. -/
def Reg.KVM_QUOTA_LODGE : Nat := 0x800098
/-- KVM_POISON_END, R214. -/
def Reg.KVM_POISON_END : Nat := 0x8000A0
/-- KVM_SAT, R214. -/
def Reg.KVM_SAT : Nat := 0x8000A8

/-! ### ATT -/

/-- ATT_CFG, R234. -/
def Reg.ATT_CFG : Nat := 0x900000
/-- ATT_CFG.LANES, R234. -/
def Fld.ATT_CFG_LANES : Fld := ⟨Reg.ATT_CFG, 24, 8⟩
/-- ATT_CFG.GMAX, R234. -/
def Fld.ATT_CFG_GMAX : Fld := ⟨Reg.ATT_CFG, 16, 8⟩
/-- ATT_CFG.SEG, R234. -/
def Fld.ATT_CFG_SEG : Fld := ⟨Reg.ATT_CFG, 3, 13⟩
/-- ATT_CFG.DECAY, R234. -/
def Fld.ATT_CFG_DECAY : Fld := ⟨Reg.ATT_CFG, 0, 3⟩
/-- ATT_GROUP, R234. -/
def Reg.ATT_GROUP : Nat := 0x900004
/-- ATT_GROUP.SIZE, R234. -/
def Fld.ATT_GROUP_SIZE : Fld := ⟨Reg.ATT_GROUP, 4, 4⟩
/-- ATT_GROUP.MEMBER, R234. -/
def Fld.ATT_GROUP_MEMBER : Fld := ⟨Reg.ATT_GROUP, 0, 3⟩
/-- ATT_TOWLANE, R234. -/
def Reg.ATT_TOWLANE : Nat := 0x900008
/-- ATT_TOWLANE.HW, R234. -/
def Fld.ATT_TOWLANE_HW : Fld := ⟨Reg.ATT_TOWLANE, 16, 16⟩
/-- ATT_TOWLANE.HE, R234. -/
def Fld.ATT_TOWLANE_HE : Fld := ⟨Reg.ATT_TOWLANE, 0, 16⟩
/-- ATT_LSEL, R234. -/
def Reg.ATT_LSEL : Nat := 0x900010
/-- ATT_LSEL.LANE, R234. -/
def Fld.ATT_LSEL_LANE : Fld := ⟨Reg.ATT_LSEL, 0, 6⟩
/-- ATT_LSTS, R234. -/
def Reg.ATT_LSTS : Nat := 0x900014
/-- ATT_LSTS.BUSY, R234. -/
def Fld.ATT_LSTS_BUSY : Fld := ⟨Reg.ATT_LSTS, 16, 10⟩
/-- ATT_LSTS.FENCED, R234. -/
def Fld.ATT_LSTS_FENCED : Fld := ⟨Reg.ATT_LSTS, 0, 1⟩
/-- ATT_LAPNUM, R234. -/
def Reg.ATT_LAPNUM : Nat := 0x900018
/-- ATT_LAPNUM.LAP, R234. -/
def Fld.ATT_LAPNUM_LAP : Fld := ⟨Reg.ATT_LAPNUM, 0, 32⟩
/-- ATT_REPLAY_LAP, R234. -/
def Reg.ATT_REPLAY_LAP : Nat := 0x90001C
/-- ATT_REPLAY_LAP.SPREAD, R234. -/
def Fld.ATT_REPLAY_LAP_SPREAD : Fld := ⟨Reg.ATT_REPLAY_LAP, 16, 16⟩
/-- ATT_REPLAY_LAP.LANE, R234. -/
def Fld.ATT_REPLAY_LAP_LANE : Fld := ⟨Reg.ATT_REPLAY_LAP, 0, 16⟩
/-- ATT_REPLAY_TH, R234. -/
def Reg.ATT_REPLAY_TH : Nat := 0x900020
/-- ATT_REPLAY_TH.TH, R234. -/
def Fld.ATT_REPLAY_TH_TH : Fld := ⟨Reg.ATT_REPLAY_TH, 0, 16⟩
/-- ATT_EVT, R234. -/
def Reg.ATT_EVT : Nat := 0x900024
/-- ATT_EVT.GATHER_LATE, R234. -/
def Fld.ATT_EVT_GATHER_LATE : Fld := ⟨Reg.ATT_EVT, 1, 1⟩
/-- ATT_EVT.REPLAY, R234. -/
def Fld.ATT_EVT_REPLAY : Fld := ⟨Reg.ATT_EVT, 0, 1⟩
/-- ATT_ITEMS, R234. -/
def Reg.ATT_ITEMS : Nat := 0x900080
/-- ATT_POS, R234. -/
def Reg.ATT_POS : Nat := 0x900088
/-- ATT_REPLAY_LANE, R234. -/
def Reg.ATT_REPLAY_LANE : Nat := 0x900090
/-- ATT_REPLAY_SPREAD, R234. -/
def Reg.ATT_REPLAY_SPREAD : Nat := 0x900098
/-- ATT_GATHER_LATE, R234. -/
def Reg.ATT_GATHER_LATE : Nat := 0x9000A0
/-- ATT_GATHER_TX, R234. -/
def Reg.ATT_GATHER_TX : Nat := 0x9000A8

/-! ### WAX -/

/-- WAX_CFG, R254. -/
def Reg.WAX_CFG : Nat := 0xA00000
/-- WAX_CFG.LODGE_MAX, R254. -/
def Fld.WAX_CFG_LODGE_MAX : Fld := ⟨Reg.WAX_CFG, 15, 17⟩
/-- WAX_CFG.HBM_MAX, R254. -/
def Fld.WAX_CFG_HBM_MAX : Fld := ⟨Reg.WAX_CFG, 0, 15⟩
/-- WAX_USE, R254. -/
def Reg.WAX_USE : Nat := 0xA00004
/-- WAX_USE.LODGE_USED, R254. -/
def Fld.WAX_USE_LODGE_USED : Fld := ⟨Reg.WAX_USE, 15, 17⟩
/-- WAX_USE.HBM_USED, R254. -/
def Fld.WAX_USE_HBM_USED : Fld := ⟨Reg.WAX_USE, 0, 15⟩
/-- WAX_SEL, R254. -/
def Reg.WAX_SEL : Nat := 0xA00008
/-- WAX_SEL.INDEX, R254. -/
def Fld.WAX_SEL_INDEX : Fld := ⟨Reg.WAX_SEL, 0, 17⟩
/-- WAX_STS, R254. -/
def Reg.WAX_STS : Nat := 0xA0000C
/-- WAX_STS.STATE, R254. -/
def Fld.WAX_STS_STATE : Fld := ⟨Reg.WAX_STS, 28, 4⟩
/-- WAX_STS.MODEL_SLOT, R254. -/
def Fld.WAX_STS_MODEL_SLOT : Fld := ⟨Reg.WAX_STS, 22, 6⟩
/-- WAX_STS.FITTING, R254. -/
def Fld.WAX_STS_FITTING : Fld := ⟨Reg.WAX_STS, 21, 1⟩
/-- WAX_STS.TENANT, R254. -/
def Fld.WAX_STS_TENANT : Fld := ⟨Reg.WAX_STS, 0, 14⟩
/-- WAX_REFS, R254. -/
def Reg.WAX_REFS : Nat := 0xA00010
/-- WAX_REFS.REFS, R254. -/
def Fld.WAX_REFS_REFS : Fld := ⟨Reg.WAX_REFS, 0, 32⟩
/-- WAX_VER_LAP, R254. -/
def Reg.WAX_VER_LAP : Nat := 0xA00018
/-- WAX_FIT_STEPS, R254. -/
def Reg.WAX_FIT_STEPS : Nat := 0xA00020
/-- WAX_FIT_STEPS.STEPS, R254. -/
def Fld.WAX_FIT_STEPS_STEPS : Fld := ⟨Reg.WAX_FIT_STEPS, 0, 32⟩
/-- WAX_FIT_LOSS, R254. -/
def Reg.WAX_FIT_LOSS : Nat := 0xA00024
/-- WAX_FIT_LOSS.LOSS, R254. -/
def Fld.WAX_FIT_LOSS_LOSS : Fld := ⟨Reg.WAX_FIT_LOSS, 0, 32⟩
/-- WAX_HPAGES_FREE, R254. -/
def Reg.WAX_HPAGES_FREE : Nat := 0xA00028
/-- WAX_HPAGES_FREE.PAGES, R254. -/
def Fld.WAX_HPAGES_FREE_PAGES : Fld := ⟨Reg.WAX_HPAGES_FREE, 0, 32⟩
/-- WAX_LPAGES_FREE, R254. -/
def Reg.WAX_LPAGES_FREE : Nat := 0xA0002C
/-- WAX_LPAGES_FREE.PAGES, R254. -/
def Fld.WAX_LPAGES_FREE_PAGES : Fld := ⟨Reg.WAX_LPAGES_FREE, 0, 32⟩
/-- WAX_EVT, R254. -/
def Reg.WAX_EVT : Nat := 0xA00030
/-- WAX_EVT.POISON, R254. -/
def Fld.WAX_EVT_POISON : Fld := ⟨Reg.WAX_EVT, 1, 1⟩
/-- WAX_EVT.PROMO_WAIT, R254. -/
def Fld.WAX_EVT_PROMO_WAIT : Fld := ⟨Reg.WAX_EVT, 0, 1⟩
/-- WAX_PROMOTE, R254. -/
def Reg.WAX_PROMOTE : Nat := 0xA00080
/-- WAX_DEMOTE, R254. -/
def Reg.WAX_DEMOTE : Nat := 0xA00088
/-- WAX_FIT_STEP, R254. -/
def Reg.WAX_FIT_STEP : Nat := 0xA00090
/-- WAX_FIT_SAT, R254. -/
def Reg.WAX_FIT_SAT : Nat := 0xA00098
/-- WAX_READ, R254. -/
def Reg.WAX_READ : Nat := 0xA000A0

/-! ### LDR -/

/-- LDR_CTL, R270. -/
def Reg.LDR_CTL : Nat := 0xB00000
/-- LDR_CTL.START, R270. -/
def Fld.LDR_CTL_START : Fld := ⟨Reg.LDR_CTL, 31, 1⟩
/-- LDR_CTL.ABORT, R270. -/
def Fld.LDR_CTL_ABORT : Fld := ⟨Reg.LDR_CTL, 30, 1⟩
/-- LDR_CTL.MODE, R270. -/
def Fld.LDR_CTL_MODE : Fld := ⟨Reg.LDR_CTL, 28, 2⟩
/-- LDR_CTL.SLOT, R270. -/
def Fld.LDR_CTL_SLOT : Fld := ⟨Reg.LDR_CTL, 22, 6⟩
/-- LDR_CTL.GAP, R270. -/
def Fld.LDR_CTL_GAP : Fld := ⟨Reg.LDR_CTL, 14, 8⟩
/-- LDR_CTL.STAGE_LODGE, R270. -/
def Fld.LDR_CTL_STAGE_LODGE : Fld := ⟨Reg.LDR_CTL, 13, 1⟩
/-- LDR_STS, R270. -/
def Reg.LDR_STS : Nat := 0xB00004
/-- LDR_STS.BUSY, R270. -/
def Fld.LDR_STS_BUSY : Fld := ⟨Reg.LDR_STS, 31, 1⟩
/-- LDR_STS.PHASE, R270. -/
def Fld.LDR_STS_PHASE : Fld := ⟨Reg.LDR_STS, 28, 3⟩
/-- LDR_STS.ERR, R270. -/
def Fld.LDR_STS_ERR : Fld := ⟨Reg.LDR_STS, 16, 8⟩
/-- LDR_STS.LAYER, R270. -/
def Fld.LDR_STS_LAYER : Fld := ⟨Reg.LDR_STS, 0, 16⟩
/-- LDR_IMG_LEN, R270. -/
def Reg.LDR_IMG_LEN : Nat := 0xB00008
/-- LDR_PUT, R270. -/
def Reg.LDR_PUT : Nat := 0xB00010
/-- LDR_GET, R270. -/
def Reg.LDR_GET : Nat := 0xB00018
/-- LDR_STG_SIZE, R270. -/
def Reg.LDR_STG_SIZE : Nat := 0xB00020
/-- LDR_STG_SIZE.MIB, R270. -/
def Fld.LDR_STG_SIZE_MIB : Fld := ⟨Reg.LDR_STG_SIZE, 0, 32⟩
/-- LDR_PROG_W, R270. -/
def Reg.LDR_PROG_W : Nat := 0xB00024
/-- LDR_PROG_W.MAX, R270. -/
def Fld.LDR_PROG_W_MAX : Fld := ⟨Reg.LDR_PROG_W, 16, 16⟩
/-- LDR_PROG_W.WATTS, R270. -/
def Fld.LDR_PROG_W_WATTS : Fld := ⟨Reg.LDR_PROG_W, 0, 16⟩
/-- LDR_SSEL, R270. -/
def Reg.LDR_SSEL : Nat := 0xB00030
/-- LDR_SSEL.SLOT, R270. -/
def Fld.LDR_SSEL_SLOT : Fld := ⟨Reg.LDR_SSEL, 0, 6⟩
/-- LDR_SLOT_STS, R270. -/
def Reg.LDR_SLOT_STS : Nat := 0xB00034
/-- LDR_SLOT_STS.STATE, R270. -/
def Fld.LDR_SLOT_STS_STATE : Fld := ⟨Reg.LDR_SLOT_STS, 29, 3⟩
/-- LDR_SLOT_STS.MIXED, R270. -/
def Fld.LDR_SLOT_STS_MIXED : Fld := ⟨Reg.LDR_SLOT_STS, 28, 1⟩
/-- LDR_SLOT_STS.POISON, R270. -/
def Fld.LDR_SLOT_STS_POISON : Fld := ⟨Reg.LDR_SLOT_STS, 27, 1⟩
/-- LDR_SLOT_STS.LAYERS, R270. -/
def Fld.LDR_SLOT_STS_LAYERS : Fld := ⟨Reg.LDR_SLOT_STS, 0, 8⟩
/-- LDR_SLOT_DIGEST, R270. -/
def Reg.LDR_SLOT_DIGEST : Nat := 0xB00040
/-- LDR_SLOT_DIGEST.DIGEST, R270. -/
def Fld.LDR_SLOT_DIGEST_DIGEST : Fld := ⟨Reg.LDR_SLOT_DIGEST, 0, 32⟩
/-- LDR_EVT, R270. -/
def Reg.LDR_EVT : Nat := 0xB00080
/-- LDR_EVT.FAILED, R270. -/
def Fld.LDR_EVT_FAILED : Fld := ⟨Reg.LDR_EVT, 1, 1⟩
/-- LDR_EVT.DONE, R270. -/
def Fld.LDR_EVT_DONE : Fld := ⟨Reg.LDR_EVT, 0, 1⟩
/-- LDR_GATE_HELD, R270. -/
def Reg.LDR_GATE_HELD : Nat := 0xB00088
/-- LDR_PV_MISS, R270. -/
def Reg.LDR_PV_MISS : Nat := 0xB00090
/-- LDR_PV_SPARECOL, R270. -/
def Reg.LDR_PV_SPARECOL : Nat := 0xB00098
/-- LDR_BYTES, R270. -/
def Reg.LDR_BYTES : Nat := 0xB000A0

/-! ### LNK -/

/-- LNK_ID, R291. -/
def Reg.LNK_ID : Nat := 0xC00000
/-- LNK_ID.ROOT_ID, R291. -/
def Fld.LNK_ID_ROOT_ID : Fld := ⟨Reg.LNK_ID, 16, 16⟩
/-- LNK_ID.MODULE_ID, R291. -/
def Fld.LNK_ID_MODULE_ID : Fld := ⟨Reg.LNK_ID, 0, 16⟩
/-- LNK_GTIME, R291. -/
def Reg.LNK_GTIME : Nat := 0xC00008
/-- LNK_DLAP_OFS, R291. -/
def Reg.LNK_DLAP_OFS : Nat := 0xC00010
/-- LNK_SYNC, R291. -/
def Reg.LNK_SYNC : Nat := 0xC00018
/-- LNK_SYNC.LOCKED, R291. -/
def Fld.LNK_SYNC_LOCKED : Fld := ⟨Reg.LNK_SYNC, 31, 1⟩
/-- LNK_SYNC.ROOT, R291. -/
def Fld.LNK_SYNC_ROOT : Fld := ⟨Reg.LNK_SYNC, 30, 1⟩
/-- LNK_SYNC.HOPS, R291. -/
def Fld.LNK_SYNC_HOPS : Fld := ⟨Reg.LNK_SYNC, 24, 6⟩
/-- LNK_SYNC.PARENT, R291. -/
def Fld.LNK_SYNC_PARENT : Fld := ⟨Reg.LNK_SYNC, 16, 5⟩
/-- LNK_SYNC.OFFSET, R291. -/
def Fld.LNK_SYNC_OFFSET : Fld := ⟨Reg.LNK_SYNC, 0, 16⟩
/-- LNK_PSEL, R291. -/
def Reg.LNK_PSEL : Nat := 0xC00020
/-- LNK_PSEL.PORT, R291. -/
def Fld.LNK_PSEL_PORT : Fld := ⟨Reg.LNK_PSEL, 0, 5⟩
/-- LNK_PSTS, R291. -/
def Reg.LNK_PSTS : Nat := 0xC00024
/-- LNK_PSTS.PEER_ID, R291. -/
def Fld.LNK_PSTS_PEER_ID : Fld := ⟨Reg.LNK_PSTS, 16, 16⟩
/-- LNK_PSTS.LANES, R291. -/
def Fld.LNK_PSTS_LANES : Fld := ⟨Reg.LNK_PSTS, 11, 5⟩
/-- LNK_PSTS.REASON, R291. -/
def Fld.LNK_PSTS_REASON : Fld := ⟨Reg.LNK_PSTS, 4, 4⟩
/-- LNK_PSTS.STATE, R291. -/
def Fld.LNK_PSTS_STATE : Fld := ⟨Reg.LNK_PSTS, 0, 3⟩
/-- LNK_PDELAY, R291. -/
def Reg.LNK_PDELAY : Nat := 0xC00028
/-- LNK_PDELAY.DELAY_NS, R291. -/
def Fld.LNK_PDELAY_DELAY_NS : Fld := ⟨Reg.LNK_PDELAY, 0, 16⟩
/-- LNK_GOP_CTL, R291. -/
def Reg.LNK_GOP_CTL : Nat := 0xC00040
/-- LNK_GOP_CTL.GO, R291. -/
def Fld.LNK_GOP_CTL_GO : Fld := ⟨Reg.LNK_GOP_CTL, 31, 1⟩
/-- LNK_GOP_CTL.BUSY, R291. -/
def Fld.LNK_GOP_CTL_BUSY : Fld := ⟨Reg.LNK_GOP_CTL, 30, 1⟩
/-- LNK_GOP_CTL.STATUS, R291. -/
def Fld.LNK_GOP_CTL_STATUS : Fld := ⟨Reg.LNK_GOP_CTL, 27, 3⟩
/-- LNK_GOP_CTL.OP, R291. -/
def Fld.LNK_GOP_CTL_OP : Fld := ⟨Reg.LNK_GOP_CTL, 24, 3⟩
/-- LNK_GOP_CTL.LEAD, R291. -/
def Fld.LNK_GOP_CTL_LEAD : Fld := ⟨Reg.LNK_GOP_CTL, 16, 8⟩
/-- LNK_GOP_CTL.SCOPE, R291. -/
def Fld.LNK_GOP_CTL_SCOPE : Fld := ⟨Reg.LNK_GOP_CTL, 0, 1⟩
/-- LNK_GOP_ARG, R291. -/
def Reg.LNK_GOP_ARG : Nat := 0xC00048
/-- LNK_GOP_DATA, R291. -/
def Reg.LNK_GOP_DATA : Nat := 0xC00050
/-- LNK_GOP_DATA.VALUE, R291. -/
def Fld.LNK_GOP_DATA_VALUE : Fld := ⟨Reg.LNK_GOP_DATA, 0, 32⟩
/-- LNK_GLOG_SEL, R291. -/
def Reg.LNK_GLOG_SEL : Nat := 0xC00080
/-- LNK_GLOG_SEL.ENTRY, R291. -/
def Fld.LNK_GLOG_SEL_ENTRY : Fld := ⟨Reg.LNK_GLOG_SEL, 0, 4⟩
/-- LNK_EVT, R291. -/
def Reg.LNK_EVT : Nat := 0xC00090
/-- LNK_EVT.GOP_RX, R291. -/
def Fld.LNK_EVT_GOP_RX : Fld := ⟨Reg.LNK_EVT, 5, 1⟩
/-- LNK_EVT.GOP_LATE, R291. -/
def Fld.LNK_EVT_GOP_LATE : Fld := ⟨Reg.LNK_EVT, 4, 1⟩
/-- LNK_EVT.PEER_VIOL, R291. -/
def Fld.LNK_EVT_PEER_VIOL : Fld := ⟨Reg.LNK_EVT, 3, 1⟩
/-- LNK_EVT.ALIGN_LOST, R291. -/
def Fld.LNK_EVT_ALIGN_LOST : Fld := ⟨Reg.LNK_EVT, 2, 1⟩
/-- LNK_EVT.DEGRADED, R291. -/
def Fld.LNK_EVT_DEGRADED : Fld := ⟨Reg.LNK_EVT, 1, 1⟩
/-- LNK_EVT.PORT_DOWN, R291. -/
def Fld.LNK_EVT_PORT_DOWN : Fld := ⟨Reg.LNK_EVT, 0, 1⟩
/-- LNK_FEC_CORR, R291. -/
def Reg.LNK_FEC_CORR : Nat := 0xC000A0
/-- LNK_FEC_UNCORR, R291. -/
def Reg.LNK_FEC_UNCORR : Nat := 0xC000A8
/-- LNK_RETRY, R291. -/
def Reg.LNK_RETRY : Nat := 0xC000B0
/-- LNK_PEER_VIOL, R291. -/
def Reg.LNK_PEER_VIOL : Nat := 0xC000B8
/-- LNK_NACK_SUPP, R291. -/
def Reg.LNK_NACK_SUPP : Nat := 0xC000C0
/-- LNK_GOP_DUP, R291. -/
def Reg.LNK_GOP_DUP : Nat := 0xC000C8
/-- LNK_GOP_LATE, R291. -/
def Reg.LNK_GOP_LATE : Nat := 0xC000D0
/-- LNK_PAY_TX, R291. -/
def Reg.LNK_PAY_TX : Nat := 0xC000D8
/-- LNK_GLOG, R291. -/
def Reg.LNK_GLOG : Nat := 0xC00100
/-- LNK_GLOG.WORD, R291. -/
def Fld.LNK_GLOG_WORD : Fld := ⟨Reg.LNK_GLOG, 0, 32⟩

/-! ### PAT -/

/-- PAT_CFG, R315. -/
def Reg.PAT_CFG : Nat := 0xD00000
/-- PAT_CFG.CKPT_PERIOD, R315. -/
def Fld.PAT_CFG_CKPT_PERIOD : Fld := ⟨Reg.PAT_CFG, 24, 8⟩
/-- PAT_CFG.FP_TOL, R315. -/
def Fld.PAT_CFG_FP_TOL : Fld := ⟨Reg.PAT_CFG, 16, 8⟩
/-- PAT_CFG.FP_PERIOD, R315. -/
def Fld.PAT_CFG_FP_PERIOD : Fld := ⟨Reg.PAT_CFG, 0, 16⟩
/-- PAT_CFG2, R315. -/
def Reg.PAT_CFG2 : Nat := 0xD00004
/-- PAT_CFG2.FP_MAX, R315. -/
def Fld.PAT_CFG2_FP_MAX : Fld := ⟨Reg.PAT_CFG2, 22, 10⟩
/-- PAT_CFG2.FP_DRAIN, R315. -/
def Fld.PAT_CFG2_FP_DRAIN : Fld := ⟨Reg.PAT_CFG2, 0, 16⟩
/-- PAT_CTL, R315. -/
def Reg.PAT_CTL : Nat := 0xD00008
/-- PAT_CTL.ADOPT_EN, R315. -/
def Fld.PAT_CTL_ADOPT_EN : Fld := ⟨Reg.PAT_CTL, 31, 1⟩
/-- PAT_CTL.LOCAL_RESTART, R315. -/
def Fld.PAT_CTL_LOCAL_RESTART : Fld := ⟨Reg.PAT_CTL, 30, 1⟩
/-- PAT_CTL.ADOPT_QP, R315. -/
def Fld.PAT_CTL_ADOPT_QP : Fld := ⟨Reg.PAT_CTL, 0, 14⟩
/-- PAT_ORPHAN, R315. -/
def Reg.PAT_ORPHAN : Nat := 0xD0000C
/-- PAT_ORPHAN.GO, R315. -/
def Fld.PAT_ORPHAN_GO : Fld := ⟨Reg.PAT_ORPHAN, 31, 1⟩
/-- PAT_ORPHAN.MODULE, R315. -/
def Fld.PAT_ORPHAN_MODULE : Fld := ⟨Reg.PAT_ORPHAN, 0, 16⟩
/-- PAT_TSEL, R315. -/
def Reg.PAT_TSEL : Nat := 0xD00010
/-- PAT_TSEL.DIE, R315. -/
def Fld.PAT_TSEL_DIE : Fld := ⟨Reg.PAT_TSEL, 16, 4⟩
/-- PAT_TSEL.TILE, R315. -/
def Fld.PAT_TSEL_TILE : Fld := ⟨Reg.PAT_TSEL, 0, 14⟩
/-- PAT_TILE, R315. -/
def Reg.PAT_TILE : Nat := 0xD00014
/-- PAT_TILE.FENCES, R315. -/
def Fld.PAT_TILE_FENCES : Fld := ⟨Reg.PAT_TILE, 24, 8⟩
/-- PAT_TILE.PASS_TEMP, R315. -/
def Fld.PAT_TILE_PASS_TEMP : Fld := ⟨Reg.PAT_TILE, 16, 8⟩
/-- PAT_TILE.PROVE, R315. -/
def Fld.PAT_TILE_PROVE : Fld := ⟨Reg.PAT_TILE, 14, 2⟩
/-- PAT_TILE.SPARE, R315. -/
def Fld.PAT_TILE_SPARE : Fld := ⟨Reg.PAT_TILE, 0, 14⟩
/-- PAT_TILE_PLAP, R315. -/
def Reg.PAT_TILE_PLAP : Nat := 0xD00018
/-- PAT_FPSEL, R315. -/
def Reg.PAT_FPSEL : Nat := 0xD00020
/-- PAT_FPSEL.SLOT, R315. -/
def Fld.PAT_FPSEL_SLOT : Fld := ⟨Reg.PAT_FPSEL, 0, 6⟩
/-- PAT_FPSTS, R315. -/
def Reg.PAT_FPSTS : Nat := 0xD00024
/-- PAT_FPSTS.VERDICT, R315. -/
def Fld.PAT_FPSTS_VERDICT : Fld := ⟨Reg.PAT_FPSTS, 30, 2⟩
/-- PAT_FPSTS.DRAINING, R315. -/
def Fld.PAT_FPSTS_DRAINING : Fld := ⟨Reg.PAT_FPSTS, 29, 1⟩
/-- PAT_FPSTS.MEMBERS, R315. -/
def Fld.PAT_FPSTS_MEMBERS : Fld := ⟨Reg.PAT_FPSTS, 25, 4⟩
/-- PAT_FPSTS.WORST, R315. -/
def Fld.PAT_FPSTS_WORST : Fld := ⟨Reg.PAT_FPSTS, 15, 10⟩
/-- PAT_FPSTS.WORST_LAYER, R315. -/
def Fld.PAT_FPSTS_WORST_LAYER : Fld := ⟨Reg.PAT_FPSTS, 0, 8⟩
/-- PAT_FPLAP, R315. -/
def Reg.PAT_FPLAP : Nat := 0xD00028
/-- PAT_LOG_HEAD, R315. -/
def Reg.PAT_LOG_HEAD : Nat := 0xD00040
/-- PAT_LOG_HEAD.VALUE, R315. -/
def Fld.PAT_LOG_HEAD_VALUE : Fld := ⟨Reg.PAT_LOG_HEAD, 0, 13⟩
/-- PAT_LOG_TAIL, R315. -/
def Reg.PAT_LOG_TAIL : Nat := 0xD00044
/-- PAT_LOG_TAIL.VALUE, R315. -/
def Fld.PAT_LOG_TAIL_VALUE : Fld := ⟨Reg.PAT_LOG_TAIL, 0, 13⟩
/-- PAT_LOG_FREE, R315. -/
def Reg.PAT_LOG_FREE : Nat := 0xD00048
/-- PAT_LOG_FREE.VALUE, R315. -/
def Fld.PAT_LOG_FREE_VALUE : Fld := ⟨Reg.PAT_LOG_FREE, 0, 13⟩
/-- PAT_LOG_SEL, R315. -/
def Reg.PAT_LOG_SEL : Nat := 0xD0004C
/-- PAT_LOG_SEL.INDEX, R315. -/
def Fld.PAT_LOG_SEL_INDEX : Fld := ⟨Reg.PAT_LOG_SEL, 0, 12⟩
/-- PAT_LOG_CFG, R315. -/
def Reg.PAT_LOG_CFG : Nat := 0xD00050
/-- PAT_LOG_CFG.MERGE_US, R315. -/
def Fld.PAT_LOG_CFG_MERGE_US : Fld := ⟨Reg.PAT_LOG_CFG, 16, 16⟩
/-- PAT_EVT, R315. -/
def Reg.PAT_EVT : Nat := 0xD00060
/-- PAT_EVT.ADOPT, R315. -/
def Fld.PAT_EVT_ADOPT : Fld := ⟨Reg.PAT_EVT, 5, 1⟩
/-- PAT_EVT.EXPEL, R315. -/
def Fld.PAT_EVT_EXPEL : Fld := ⟨Reg.PAT_EVT, 4, 1⟩
/-- PAT_EVT.PROVE_FAIL, R315. -/
def Fld.PAT_EVT_PROVE_FAIL : Fld := ⟨Reg.PAT_EVT, 3, 1⟩
/-- PAT_EVT.SPARE_OUT, R315. -/
def Fld.PAT_EVT_SPARE_OUT : Fld := ⟨Reg.PAT_EVT, 2, 1⟩
/-- PAT_EVT.FENCE, R315. -/
def Fld.PAT_EVT_FENCE : Fld := ⟨Reg.PAT_EVT, 1, 1⟩
/-- PAT_EVT.LOG_STORM, R315. -/
def Fld.PAT_EVT_LOG_STORM : Fld := ⟨Reg.PAT_EVT, 0, 1⟩
/-- PAT_REPORTS, R315. -/
def Reg.PAT_REPORTS : Nat := 0xD00080
/-- PAT_MERGED, R315. -/
def Reg.PAT_MERGED : Nat := 0xD00088
/-- PAT_DROP, R315. -/
def Reg.PAT_DROP : Nat := 0xD00090
/-- PAT_FENCE, R315. -/
def Reg.PAT_FENCE : Nat := 0xD000B8
/-- PAT_SWAPIN, R315. -/
def Reg.PAT_SWAPIN : Nat := 0xD000C0
/-- PAT_REPLAY_FAULT, R315. -/
def Reg.PAT_REPLAY_FAULT : Nat := 0xD000C8
/-- PAT_PROVE_RUN, R315. -/
def Reg.PAT_PROVE_RUN : Nat := 0xD000D0
/-- PAT_PROVE_FAIL, R315. -/
def Reg.PAT_PROVE_FAIL : Nat := 0xD000D8
/-- PAT_EXPEL, R315. -/
def Reg.PAT_EXPEL : Nat := 0xD000E0
/-- PAT_CKPT, R315. -/
def Reg.PAT_CKPT : Nat := 0xD000E8
/-- PAT_CKPT_DEFER, R315. -/
def Reg.PAT_CKPT_DEFER : Nat := 0xD000F0
/-- PAT_RESTART, R315. -/
def Reg.PAT_RESTART : Nat := 0xD000F8
/-- PAT_ADOPT_REF, R315. -/
def Reg.PAT_ADOPT_REF : Nat := 0xD00100
/-- PAT_MIG_DUP, R315. -/
def Reg.PAT_MIG_DUP : Nat := 0xD00108
/-- PAT_LOG, R315. -/
def Reg.PAT_LOG : Nat := 0xD00200
/-- PAT_LOG.WORD, R315. -/
def Fld.PAT_LOG_WORD : Fld := ⟨Reg.PAT_LOG, 0, 32⟩

/-! ### GRM -/

/-- GRM_TSEL, R123. -/
def Reg.GRM_TSEL : Nat := 0xE00000
/-- GRM_TSEL.DIE, R123. -/
def Fld.GRM_TSEL_DIE : Fld := ⟨Reg.GRM_TSEL, 16, 4⟩
/-- GRM_TSEL.TILE, R123. -/
def Fld.GRM_TSEL_TILE : Fld := ⟨Reg.GRM_TSEL, 0, 14⟩
/-- GRM_TILE_STS, R123. -/
def Reg.GRM_TILE_STS : Nat := 0xE00004
/-- GRM_TILE_STS.TEMP_OUT, R123. -/
def Fld.GRM_TILE_STS_TEMP_OUT : Fld := ⟨Reg.GRM_TILE_STS, 11, 1⟩
/-- GRM_TILE_STS.OUT_OF_TRIM, R123. -/
def Fld.GRM_TILE_STS_OUT_OF_TRIM : Fld := ⟨Reg.GRM_TILE_STS, 10, 1⟩
/-- GRM_TILE_STS.FAILED, R123. -/
def Fld.GRM_TILE_STS_FAILED : Fld := ⟨Reg.GRM_TILE_STS, 9, 1⟩
/-- GRM_TILE_STS.RETRIES, R123. -/
def Fld.GRM_TILE_STS_RETRIES : Fld := ⟨Reg.GRM_TILE_STS, 4, 4⟩
/-- GRM_TILE_STS.STAT_OK, R123. -/
def Fld.GRM_TILE_STS_STAT_OK : Fld := ⟨Reg.GRM_TILE_STS, 2, 1⟩
/-- GRM_TILE_STS.REF_OK, R123. -/
def Fld.GRM_TILE_STS_REF_OK : Fld := ⟨Reg.GRM_TILE_STS, 1, 1⟩
/-- GRM_TILE_STS.OFF_OK, R123. -/
def Fld.GRM_TILE_STS_OFF_OK : Fld := ⟨Reg.GRM_TILE_STS, 0, 1⟩
/-- GRM_TILE_PASSES, R123. -/
def Reg.GRM_TILE_PASSES : Nat := 0xE00008
/-- GRM_TILE_PASSES.COUNT, R123. -/
def Fld.GRM_TILE_PASSES_COUNT : Fld := ⟨Reg.GRM_TILE_PASSES, 0, 32⟩
/-- GRM_TILE_LAST_LAP, R123. -/
def Reg.GRM_TILE_LAST_LAP : Nat := 0xE00010
/-- GRM_TILE_LAST_TIME, R123. -/
def Reg.GRM_TILE_LAST_TIME : Nat := 0xE00018
/-- GRM_CSEL, R123. -/
def Reg.GRM_CSEL : Nat := 0xE00020
/-- GRM_CSEL.CONV, R123. -/
def Fld.GRM_CSEL_CONV : Fld := ⟨Reg.GRM_CSEL, 0, 7⟩
/-- GRM_TRIM, R123. -/
def Reg.GRM_TRIM : Nat := 0xE00024
/-- GRM_TRIM.REF, R123. -/
def Fld.GRM_TRIM_REF : Fld := ⟨Reg.GRM_TRIM, 16, 10⟩
/-- GRM_TRIM.OFF, R123. -/
def Fld.GRM_TRIM_OFF : Fld := ⟨Reg.GRM_TRIM, 0, 10⟩
/-- GRM_TOL, R123. -/
def Reg.GRM_TOL : Nat := 0xE00040
/-- GRM_TOL.RETRY_MAX, R123. -/
def Fld.GRM_TOL_RETRY_MAX : Fld := ⟨Reg.GRM_TOL, 28, 4⟩
/-- GRM_TOL.AGREE_STAT, R123. -/
def Fld.GRM_TOL_AGREE_STAT : Fld := ⟨Reg.GRM_TOL, 16, 8⟩
/-- GRM_TOL.AGREE_REF, R123. -/
def Fld.GRM_TOL_AGREE_REF : Fld := ⟨Reg.GRM_TOL, 8, 8⟩
/-- GRM_TOL.AGREE_OFF, R123. -/
def Fld.GRM_TOL_AGREE_OFF : Fld := ⟨Reg.GRM_TOL, 0, 8⟩
/-- GRM_PLAN, R123. -/
def Reg.GRM_PLAN : Nat := 0xE00044
/-- GRM_PLAN.GROOM_PERIOD, R123. -/
def Fld.GRM_PLAN_GROOM_PERIOD : Fld := ⟨Reg.GRM_PLAN, 16, 11⟩
/-- GRM_PLAN.STAT_STRIDE, R123. -/
def Fld.GRM_PLAN_STAT_STRIDE : Fld := ⟨Reg.GRM_PLAN, 8, 8⟩
/-- GRM_PLAN.COL_TOL, R123. -/
def Fld.GRM_PLAN_COL_TOL : Fld := ⟨Reg.GRM_PLAN, 0, 8⟩
/-- GRM_EVT, R123. -/
def Reg.GRM_EVT : Nat := 0xE00048
/-- GRM_EVT.TEMP_OUT, R123. -/
def Fld.GRM_EVT_TEMP_OUT : Fld := ⟨Reg.GRM_EVT, 3, 1⟩
/-- GRM_EVT.TRIM_LIMIT, R123. -/
def Fld.GRM_EVT_TRIM_LIMIT : Fld := ⟨Reg.GRM_EVT, 2, 1⟩
/-- GRM_EVT.SPARE_OUT, R123. -/
def Fld.GRM_EVT_SPARE_OUT : Fld := ⟨Reg.GRM_EVT, 1, 1⟩
/-- GRM_EVT.PASS_FAIL, R123. -/
def Fld.GRM_EVT_PASS_FAIL : Fld := ⟨Reg.GRM_EVT, 0, 1⟩
/-- GRM_SETT, R123. -/
def Reg.GRM_SETT : Nat := 0xE00050
/-- GRM_SETT.T_HI, R123. -/
def Fld.GRM_SETT_T_HI : Fld := ⟨Reg.GRM_SETT, 16, 16⟩
/-- GRM_SETT.T_LO, R123. -/
def Fld.GRM_SETT_T_LO : Fld := ⟨Reg.GRM_SETT, 0, 16⟩
/-- GRM_PASSES, R123. -/
def Reg.GRM_PASSES : Nat := 0xE00080
/-- GRM_DISAGREE, R123. -/
def Reg.GRM_DISAGREE : Nat := 0xE00088
/-- GRM_FAILS, R123. -/
def Reg.GRM_FAILS : Nat := 0xE00090
/-- GRM_SPARECOL, R123. -/
def Reg.GRM_SPARECOL : Nat := 0xE00098

/-! ### PMC -/

/-- PMC_CTL, R407. -/
def Reg.PMC_CTL : Nat := 0xF00000
/-- PMC_CTL.NOW, R407. -/
def Fld.PMC_CTL_NOW : Fld := ⟨Reg.PMC_CTL, 31, 1⟩
/-- PMC_CTL.FREEZE, R407. -/
def Fld.PMC_CTL_FREEZE : Fld := ⟨Reg.PMC_CTL, 0, 1⟩
/-- PMC_SNAP_LAP, R407. -/
def Reg.PMC_SNAP_LAP : Nat := 0xF00008
/-- PMC_GSNAP_LAP, R407. -/
def Reg.PMC_GSNAP_LAP : Nat := 0xF00010
/-- PMC_SEL, R407. -/
def Reg.PMC_SEL : Nat := 0xF00020
/-- PMC_SEL.BLOCK, R407. -/
def Fld.PMC_SEL_BLOCK : Fld := ⟨Reg.PMC_SEL, 8, 5⟩
/-- PMC_SEL.COUNTER, R407. -/
def Fld.PMC_SEL_COUNTER : Fld := ⟨Reg.PMC_SEL, 0, 3⟩
/-- PMC_EVSEL, R407. -/
def Reg.PMC_EVSEL : Nat := 0xF00024
/-- PMC_EVSEL.PENDING, R407. -/
def Fld.PMC_EVSEL_PENDING : Fld := ⟨Reg.PMC_EVSEL, 31, 1⟩
/-- PMC_EVSEL.HUB, R407. -/
def Fld.PMC_EVSEL_HUB : Fld := ⟨Reg.PMC_EVSEL, 8, 2⟩
/-- PMC_EVSEL.EVENT, R407. -/
def Fld.PMC_EVSEL_EVENT : Fld := ⟨Reg.PMC_EVSEL, 0, 8⟩
/-- PMC_LIVE, R407. -/
def Reg.PMC_LIVE : Nat := 0xF00028
/-- PMC_LIVE.VALUE, R407. -/
def Fld.PMC_LIVE_VALUE : Fld := ⟨Reg.PMC_LIVE, 0, 48⟩
/-- PMC_SNAP, R407. -/
def Reg.PMC_SNAP : Nat := 0xF00030
/-- PMC_SNAP.VALUE, R407. -/
def Fld.PMC_SNAP_VALUE : Fld := ⟨Reg.PMC_SNAP, 0, 48⟩
/-- PMC_GSNAP, R407. -/
def Reg.PMC_GSNAP : Nat := 0xF00038
/-- PMC_GSNAP.VALUE, R407. -/
def Fld.PMC_GSNAP_VALUE : Fld := ⟨Reg.PMC_GSNAP, 0, 48⟩
/-- PMC_OVF, R407. -/
def Reg.PMC_OVF : Nat := 0xF00040
/-- PMC_OVF.WRAP, R407. -/
def Fld.PMC_OVF_WRAP : Fld := ⟨Reg.PMC_OVF, 0, 8⟩
/-- PMC_EVT, R407. -/
def Reg.PMC_EVT : Nat := 0xF00050
/-- PMC_EVT.SNAP, R407. -/
def Fld.PMC_EVT_SNAP : Fld := ⟨Reg.PMC_EVT, 1, 1⟩
/-- PMC_EVT.OVF, R407. -/
def Fld.PMC_EVT_OVF : Fld := ⟨Reg.PMC_EVT, 0, 1⟩

/-! ### ARK -/

/-- ARK_ID, R43. -/
def Reg.ARK_ID : Nat := 0x1000000
/-- ARK_ID.PHYS_TILES, R43. -/
def Fld.ARK_ID_PHYS_TILES : Fld := ⟨Reg.ARK_ID, 16, 16⟩
/-- ARK_ID.STEP, R43. -/
def Fld.ARK_ID_STEP : Fld := ⟨Reg.ARK_ID, 8, 8⟩
/-- ARK_ID.DIE, R43. -/
def Fld.ARK_ID_DIE : Fld := ⟨Reg.ARK_ID, 0, 4⟩
/-- ARK_STS, R43. -/
def Reg.ARK_STS : Nat := 0x1000014
/-- ARK_STS.LAP_LO, R43. -/
def Fld.ARK_STS_LAP_LO : Fld := ⟨Reg.ARK_STS, 16, 16⟩
/-- ARK_STS.SEQ_STATE, R43. -/
def Fld.ARK_STS_SEQ_STATE : Fld := ⟨Reg.ARK_STS, 8, 4⟩
/-- ARK_STS.PLAN_FAULT, R43. -/
def Fld.ARK_STS_PLAN_FAULT : Fld := ⟨Reg.ARK_STS, 0, 1⟩
/-- ARK_FIRE_CFG, R43. -/
def Reg.ARK_FIRE_CFG : Nat := 0x1000020
/-- ARK_FIRE_CFG.ROW_BUDGET, R43. -/
def Fld.ARK_FIRE_CFG_ROW_BUDGET : Fld := ⟨Reg.ARK_FIRE_CFG, 24, 8⟩
/-- ARK_FIRE_CFG.PHASE_NS, R43. -/
def Fld.ARK_FIRE_CFG_PHASE_NS : Fld := ⟨Reg.ARK_FIRE_CFG, 16, 8⟩
/-- ARK_FIRE_CFG.PULSE_NS, R43. -/
def Fld.ARK_FIRE_CFG_PULSE_NS : Fld := ⟨Reg.ARK_FIRE_CFG, 12, 4⟩
/-- ARK_FIRE_CFG.HOLD_MAX_NS, R43. -/
def Fld.ARK_FIRE_CFG_HOLD_MAX_NS : Fld := ⟨Reg.ARK_FIRE_CFG, 0, 12⟩
/-- ARK_TSEL, R43. -/
def Reg.ARK_TSEL : Nat := 0x1000100
/-- ARK_TSEL.TILE, R43. -/
def Fld.ARK_TSEL_TILE : Fld := ⟨Reg.ARK_TSEL, 0, 14⟩
/-- ARK_TILE_STATE, R43. -/
def Reg.ARK_TILE_STATE : Nat := 0x1000104
/-- ARK_TILE_STATE.REPLACES, R43. -/
def Fld.ARK_TILE_STATE_REPLACES : Fld := ⟨Reg.ARK_TILE_STATE, 16, 14⟩
/-- ARK_TILE_STATE.GROUP, R43. -/
def Fld.ARK_TILE_STATE_GROUP : Fld := ⟨Reg.ARK_TILE_STATE, 8, 8⟩
/-- ARK_TILE_STATE.MERGED, R43. -/
def Fld.ARK_TILE_STATE_MERGED : Fld := ⟨Reg.ARK_TILE_STATE, 7, 1⟩
/-- ARK_TILE_STATE.RANGE, R43. -/
def Fld.ARK_TILE_STATE_RANGE : Fld := ⟨Reg.ARK_TILE_STATE, 4, 3⟩
/-- ARK_TILE_STATE.STATE, R43. -/
def Fld.ARK_TILE_STATE_STATE : Fld := ⟨Reg.ARK_TILE_STATE, 0, 3⟩
/-- ARK_ASEL, R43. -/
def Reg.ARK_ASEL : Nat := 0x1000108
/-- ARK_ASEL.ARRAY, R43. -/
def Fld.ARK_ASEL_ARRAY : Fld := ⟨Reg.ARK_ASEL, 0, 8⟩
/-- ARK_COLMAP, R43. -/
def Reg.ARK_COLMAP : Nat := 0x100010C
/-- ARK_COLMAP.V3, R43. -/
def Fld.ARK_COLMAP_V3 : Fld := ⟨Reg.ARK_COLMAP, 31, 1⟩
/-- ARK_COLMAP.COL3, R43. -/
def Fld.ARK_COLMAP_COL3 : Fld := ⟨Reg.ARK_COLMAP, 24, 7⟩
/-- ARK_COLMAP.V2, R43. -/
def Fld.ARK_COLMAP_V2 : Fld := ⟨Reg.ARK_COLMAP, 23, 1⟩
/-- ARK_COLMAP.COL2, R43. -/
def Fld.ARK_COLMAP_COL2 : Fld := ⟨Reg.ARK_COLMAP, 16, 7⟩
/-- ARK_COLMAP.V1, R43. -/
def Fld.ARK_COLMAP_V1 : Fld := ⟨Reg.ARK_COLMAP, 15, 1⟩
/-- ARK_COLMAP.COL1, R43. -/
def Fld.ARK_COLMAP_COL1 : Fld := ⟨Reg.ARK_COLMAP, 8, 7⟩
/-- ARK_COLMAP.V0, R43. -/
def Fld.ARK_COLMAP_V0 : Fld := ⟨Reg.ARK_COLMAP, 7, 1⟩
/-- ARK_COLMAP.COL0, R43. -/
def Fld.ARK_COLMAP_COL0 : Fld := ⟨Reg.ARK_COLMAP, 0, 7⟩
/-- ARK_FIRE_CNT, R43. -/
def Reg.ARK_FIRE_CNT : Nat := 0x1000200
/-- ARK_NNZ_SUM, R43. -/
def Reg.ARK_NNZ_SUM : Nat := 0x1000208
/-- ARK_ONEPH_CNT, R43. -/
def Reg.ARK_ONEPH_CNT : Nat := 0x1000210
/-- ARK_ZERO_CNT, R43. -/
def Reg.ARK_ZERO_CNT : Nat := 0x1000218
/-- ARK_MERGED_CNT, R43. -/
def Reg.ARK_MERGED_CNT : Nat := 0x1000220
/-- ARK_TRANS_CNT, R43. -/
def Reg.ARK_TRANS_CNT : Nat := 0x1000228
/-- ARK_REFRD_CNT, R43. -/
def Reg.ARK_REFRD_CNT : Nat := 0x1000230
/-- ARK_TEST_CTL, R43. -/
def Reg.ARK_TEST_CTL : Nat := 0x1000300
/-- ARK_TEST_CTL.START, R43. -/
def Fld.ARK_TEST_CTL_START : Fld := ⟨Reg.ARK_TEST_CTL, 31, 1⟩
/-- ARK_TEST_CTL.BUSY, R43. -/
def Fld.ARK_TEST_CTL_BUSY : Fld := ⟨Reg.ARK_TEST_CTL, 30, 1⟩
/-- ARK_TEST_CTL.STATUS, R43. -/
def Fld.ARK_TEST_CTL_STATUS : Fld := ⟨Reg.ARK_TEST_CTL, 24, 4⟩
/-- ARK_TEST_CTL.KIND, R43. -/
def Fld.ARK_TEST_CTL_KIND : Fld := ⟨Reg.ARK_TEST_CTL, 20, 2⟩
/-- ARK_TEST_CTL.RANGE, R43. -/
def Fld.ARK_TEST_CTL_RANGE : Fld := ⟨Reg.ARK_TEST_CTL, 16, 3⟩
/-- ARK_TEST_CTL.ARRAY, R43. -/
def Fld.ARK_TEST_CTL_ARRAY : Fld := ⟨Reg.ARK_TEST_CTL, 0, 8⟩
/-- ARK_TEST_IN, R45. -/
def Reg.ARK_TEST_IN : Nat := 0x1000310
/-- ARK_TEST_IN.CODES, R45. -/
def Fld.ARK_TEST_IN_CODES : Fld := ⟨Reg.ARK_TEST_IN, 0, 32⟩
/-- ARK_TEST_OUT, R45. -/
def Reg.ARK_TEST_OUT : Nat := 0x1000400
/-- ARK_TEST_OUT.CLIP_HI, R45. -/
def Fld.ARK_TEST_OUT_CLIP_HI : Fld := ⟨Reg.ARK_TEST_OUT, 31, 1⟩
/-- ARK_TEST_OUT.CODE_HI, R45. -/
def Fld.ARK_TEST_OUT_CODE_HI : Fld := ⟨Reg.ARK_TEST_OUT, 16, 9⟩
/-- ARK_TEST_OUT.CLIP_LO, R45. -/
def Fld.ARK_TEST_OUT_CLIP_LO : Fld := ⟨Reg.ARK_TEST_OUT, 15, 1⟩
/-- ARK_TEST_OUT.CODE_LO, R45. -/
def Fld.ARK_TEST_OUT_CODE_LO : Fld := ⟨Reg.ARK_TEST_OUT, 0, 9⟩
/-- ARK_OTQ_TH, R67. -/
def Reg.ARK_OTQ_TH : Nat := 0x1000500
/-- ARK_OTQ_TH.OT_SAT, R67. -/
def Fld.ARK_OTQ_TH_OT_SAT : Fld := ⟨Reg.ARK_OTQ_TH, 24, 8⟩
/-- ARK_OTQ_TH.OT_ZERO, R67. -/
def Fld.ARK_OTQ_TH_OT_ZERO : Fld := ⟨Reg.ARK_OTQ_TH, 16, 8⟩
/-- ARK_OTQ_TH.OT_LAP, R67. -/
def Fld.ARK_OTQ_TH_OT_LAP : Fld := ⟨Reg.ARK_OTQ_TH, 0, 16⟩
/-- ARK_OTQ_SAT, R67. -/
def Reg.ARK_OTQ_SAT : Nat := 0x1000508
/-- ARK_OTQ_ZERO, R67. -/
def Reg.ARK_OTQ_ZERO : Nat := 0x1000510
/-- ARK_OTQ_TILE, R67. -/
def Reg.ARK_OTQ_TILE : Nat := 0x1000518
/-- ARK_OTQ_TILE.SAT_HOT, R67. -/
def Fld.ARK_OTQ_TILE_SAT_HOT : Fld := ⟨Reg.ARK_OTQ_TILE, 16, 16⟩
/-- ARK_OTQ_TILE.ZERO_HOT, R67. -/
def Fld.ARK_OTQ_TILE_ZERO_HOT : Fld := ⟨Reg.ARK_OTQ_TILE, 0, 16⟩
/-- ARK_OTQ_HOT, R67. -/
def Reg.ARK_OTQ_HOT : Nat := 0x100051C
/-- ARK_OTQ_HOT.PEND, R67. -/
def Fld.ARK_OTQ_HOT_PEND : Fld := ⟨Reg.ARK_OTQ_HOT, 31, 1⟩
/-- ARK_OTQ_HOT.COUNT, R67. -/
def Fld.ARK_OTQ_HOT_COUNT : Fld := ⟨Reg.ARK_OTQ_HOT, 14, 14⟩
/-- ARK_OTQ_HOT.FIRST_TILE, R67. -/
def Fld.ARK_OTQ_HOT_FIRST_TILE : Fld := ⟨Reg.ARK_OTQ_HOT, 0, 14⟩
/-- ARK_ACC_SAT, R85. -/
def Reg.ARK_ACC_SAT : Nat := 0x1000520
/-- ARK_GAIN, R107. -/
def Reg.ARK_GAIN : Nat := 0x1000530
/-- ARK_GAIN.OOR, R107. -/
def Fld.ARK_GAIN_OOR : Fld := ⟨Reg.ARK_GAIN, 31, 1⟩
/-- ARK_GAIN.AGE, R107. -/
def Fld.ARK_GAIN_AGE : Fld := ⟨Reg.ARK_GAIN, 16, 12⟩
/-- ARK_GAIN.GAIN, R107. -/
def Fld.ARK_GAIN_GAIN : Fld := ⟨Reg.ARK_GAIN, 0, 16⟩
/-- ARK_RCELL, R107. -/
def Reg.ARK_RCELL : Nat := 0x1000534
/-- ARK_RCELL.VALID, R107. -/
def Fld.ARK_RCELL_VALID : Fld := ⟨Reg.ARK_RCELL, 0, 6⟩

/-! ### BON -/

/-- BON_STS, R398. -/
def Reg.BON_STS : Nat := 0x2000000
/-- BON_STS.STAGE, R398. -/
def Fld.BON_STS_STAGE : Fld := ⟨Reg.BON_STS, 28, 4⟩
/-- BON_STS.COPY, R398. -/
def Fld.BON_STS_COPY : Fld := ⟨Reg.BON_STS, 27, 1⟩
/-- BON_STS.RECOVERY, R398. -/
def Fld.BON_STS_RECOVERY : Fld := ⟨Reg.BON_STS, 26, 1⟩
/-- BON_STS.BOOT_US, R398. -/
def Fld.BON_STS_BOOT_US : Fld := ⟨Reg.BON_STS, 0, 26⟩
/-- BON_IMG, R398. -/
def Reg.BON_IMG : Nat := 0x2000008
/-- BON_CMD, R398. -/
def Reg.BON_CMD : Nat := 0x2000010
/-- BON_CMD.GO, R398. -/
def Fld.BON_CMD_GO : Fld := ⟨Reg.BON_CMD, 31, 1⟩
/-- BON_CMD.STATUS, R398. -/
def Fld.BON_CMD_STATUS : Fld := ⟨Reg.BON_CMD, 28, 3⟩
/-- BON_CMD.OP, R398. -/
def Fld.BON_CMD_OP : Fld := ⟨Reg.BON_CMD, 0, 2⟩
/-- BON_ARG, R398. -/
def Reg.BON_ARG : Nat := 0x2000018
/-- BON_RSP, R398. -/
def Reg.BON_RSP : Nat := 0x2000040
/-- BON_RSP.WORD, R398. -/
def Fld.BON_RSP_WORD : Fld := ⟨Reg.BON_RSP, 0, 32⟩
/-- BON_TEL_IGN, R398. -/
def Reg.BON_TEL_IGN : Nat := 0x2000080

/-- Registers of the GLB window, part 1. -/
def rowsGLB0 : List RegRow :=
  [⟨Reg.GLB_ID, 1, 1, 4, .none, [⟨31, 16, .ro, 16534⟩, ⟨15, 8, .ro, 0⟩, ⟨7, 0, .ro, 0⟩]⟩,
   ⟨Reg.GLB_CAP, 1, 1, 4, .none, [⟨31, 24, .ro, 16⟩, ⟨23, 16, .ro, 64⟩, ⟨15, 0, .ro, 16384⟩]⟩]

/-- The registers of the GLB window. -/
def rowsGLB : List RegRow := rowsGLB0

/-- Registers of the CLK window, part 1. -/
def rowsCLK0 : List RegRow :=
  [⟨Reg.CLK_SRC_STS, 1, 1, 4, .none, [⟨31, 8, .rsv, 0⟩, ⟨7, 7, .ro, 0⟩, ⟨6, 6, .ro, 0⟩, ⟨5, 5, .ro, 0⟩, ⟨4, 4, .ro, 0⟩, ⟨3, 3, .ro, 0⟩, ⟨2, 2, .ro, 0⟩, ⟨1, 1, .ro, 0⟩, ⟨0, 0, .ro, 0⟩]⟩,
   ⟨Reg.CLK_ROOT_TRIM, 1, 1, 4, .none, [⟨31, 16, .rsv, 0⟩, ⟨15, 0, .ro, 0⟩]⟩,
   ⟨Reg.CLK_DSEL, 1, 1, 4, .none, [⟨31, 6, .rsv, 0⟩, ⟨5, 0, .rw, 0⟩]⟩,
   ⟨Reg.CLK_DCFG, 1, 1, 4, .domain, [⟨31, 30, .ro, 0⟩, ⟨29, 26, .ro, 0⟩, ⟨25, 23, .rsv, 0⟩, ⟨22, 10, .ro, 0⟩, ⟨9, 0, .ro, 0⟩]⟩,
   ⟨Reg.CLK_DSTS, 1, 1, 4, .domain, [⟨31, 31, .ro, 0⟩, ⟨30, 30, .ro, 0⟩, ⟨29, 29, .ro, 0⟩, ⟨28, 26, .rsv, 0⟩, ⟨25, 24, .ro, 1⟩, ⟨23, 10, .rsv, 0⟩, ⟨9, 0, .ro, 0⟩]⟩,
   ⟨Reg.CLK_MON, 1, 1, 4, .domain, [⟨31, 17, .rsv, 0⟩, ⟨16, 0, .ro, 0⟩]⟩,
   ⟨Reg.CLK_REFUSE, 1, 1, 4, .none, [⟨31, 29, .ro, 0⟩, ⟨28, 27, .ro, 0⟩, ⟨26, 20, .rsv, 0⟩, ⟨19, 14, .ro, 0⟩, ⟨13, 0, .ro, 0⟩]⟩,
   ⟨Reg.CLK_EVT, 1, 1, 4, .none, [⟨31, 2, .rsv, 0⟩, ⟨1, 1, .w1c, 0⟩, ⟨0, 0, .w1c, 0⟩]⟩,
   ⟨Reg.CLK_FAIL_CNT, 2, 1, 8, .none, [⟨63, 0, .ro, 0⟩]⟩,
   ⟨Reg.CLK_REFUSE_CNT, 2, 1, 8, .none, [⟨63, 0, .ro, 0⟩]⟩,
   ⟨Reg.CLK_MON_DISC, 2, 1, 8, .none, [⟨63, 0, .ro, 0⟩]⟩]

/-- The registers of the CLK window. -/
def rowsCLK : List RegRow := rowsCLK0

/-- Registers of the PWR window, part 1. -/
def rowsPWR0 : List RegRow :=
  [⟨Reg.PWR_STS, 1, 1, 4, .none, [⟨31, 31, .ro, 0⟩, ⟨30, 28, .ro, 0⟩, ⟨27, 8, .rsv, 0⟩, ⟨7, 7, .w1c, 0⟩, ⟨6, 5, .ro, 0⟩, ⟨4, 4, .ro, 0⟩, ⟨3, 2, .rsv, 0⟩, ⟨1, 0, .ro, 1⟩]⟩,
   ⟨Reg.PWR_CTL, 1, 1, 4, .none, [⟨31, 31, .w1s, 0⟩, ⟨30, 2, .rsv, 0⟩, ⟨1, 0, .rw, 0⟩]⟩,
   ⟨Reg.PWR_CFG, 1, 1, 4, .none, [⟨31, 31, .rw, 0⟩, ⟨30, 16, .rsv, 0⟩, ⟨15, 8, .ro, 0⟩, ⟨7, 0, .rsv, 0⟩]⟩,
   ⟨Reg.PWR_WAKE_TMR, 1, 1, 4, .none, [⟨31, 0, .rw, 0⟩]⟩,
   ⟨Reg.PWR_HALT_CFG, 1, 1, 4, .none, [⟨31, 24, .rsv, 0⟩, ⟨23, 0, .ro, 25000⟩]⟩,
   ⟨Reg.PWR_HALT_STS, 1, 1, 4, .none, [⟨31, 31, .ro, 1⟩, ⟨30, 30, .ro, 0⟩, ⟨29, 29, .ro, 0⟩, ⟨28, 24, .rsv, 0⟩, ⟨23, 0, .ro, 0⟩]⟩,
   ⟨Reg.PWR_POR0, 1, 1, 4, .none, [⟨31, 22, .rsv, 0⟩, ⟨21, 0, .ro, 0⟩]⟩,
   ⟨Reg.PWR_POR1, 1, 1, 4, .none, [⟨31, 16, .rsv, 0⟩, ⟨15, 0, .ro, 0⟩]⟩,
   ⟨Reg.PWR_GSEL, 1, 1, 4, .none, [⟨31, 20, .rsv, 0⟩, ⟨19, 16, .rw, 0⟩, ⟨15, 8, .rsv, 0⟩, ⟨7, 0, .rw, 0⟩]⟩,
   ⟨Reg.PWR_GSTS, 1, 1, 4, .group, [⟨31, 30, .ro, 0⟩, ⟨29, 23, .ro, 0⟩, ⟨22, 16, .rsv, 0⟩, ⟨15, 0, .ro, 0⟩]⟩,
   ⟨Reg.PWR_GCFG, 1, 1, 4, .none, [⟨31, 20, .rsv, 0⟩, ⟨19, 16, .ro, 0⟩, ⟨15, 0, .ro, 0⟩]⟩,
   ⟨Reg.PWR_EVT, 1, 1, 4, .none, [⟨31, 3, .rsv, 0⟩, ⟨2, 2, .w1c, 0⟩, ⟨1, 1, .w1c, 0⟩, ⟨0, 0, .w1c, 0⟩]⟩]

/-- Registers of the PWR window, part 2. -/
def rowsPWR1 : List RegRow :=
  [⟨Reg.PWR_GATE_SHORT_CNT, 2, 1, 8, .none, [⟨63, 0, .ro, 0⟩]⟩,
   ⟨Reg.PWR_GATE_OVER, 2, 1, 8, .none, [⟨63, 0, .ro, 0⟩]⟩,
   ⟨Reg.PWR_DISC_IGN, 2, 1, 8, .none, [⟨63, 0, .ro, 0⟩]⟩,
   ⟨Reg.PWR_HALT_CNT, 2, 1, 8, .none, [⟨63, 0, .ro, 0⟩]⟩,
   ⟨Reg.PWR_SLEEP_ABORT, 2, 1, 8, .none, [⟨63, 0, .ro, 0⟩]⟩]

/-- The registers of the PWR window. -/
def rowsPWR : List RegRow := rowsPWR0 ++ rowsPWR1

/-- Registers of the EVT window, part 1. -/
def rowsEVT0 : List RegRow :=
  [⟨Reg.EVT_CTL, 1, 1, 4, .none, [⟨31, 16, .rsv, 0⟩, ⟨15, 8, .rw, 0⟩, ⟨7, 2, .rsv, 0⟩, ⟨1, 0, .rw, 1⟩]⟩,
   ⟨Reg.EVT_STS, 1, 1, 4, .none, [⟨31, 31, .w1c, 0⟩, ⟨30, 11, .rsv, 0⟩, ⟨10, 0, .ro, 0⟩]⟩,
   ⟨Reg.EVT_HOLD, 1, 1, 4, .none, [⟨31, 31, .rw, 0⟩, ⟨30, 30, .w1c, 0⟩, ⟨29, 11, .rsv, 0⟩, ⟨10, 8, .ro, 0⟩, ⟨7, 7, .rw, 0⟩, ⟨6, 6, .rsv, 0⟩, ⟨5, 0, .rw, 0⟩]⟩,
   ⟨Reg.EVT_SW, 1, 1, 4, .none, [⟨31, 0, .rw, 0⟩]⟩,
   ⟨Reg.EVT_TCFG, 1, 6, 4, .none, [⟨31, 16, .rw, 0⟩, ⟨15, 8, .rsv, 0⟩, ⟨7, 0, .rw, 0⟩]⟩,
   ⟨Reg.EVT_HVEC, 1, 1, 4, .none, [⟨31, 12, .rsv, 0⟩, ⟨11, 0, .rw, 0⟩]⟩,
   ⟨Reg.EVT_TSTS, 1, 6, 4, .none, [⟨31, 31, .ro, 0⟩, ⟨30, 30, .ro, 1⟩, ⟨29, 8, .rsv, 0⟩, ⟨7, 0, .ro, 0⟩]⟩,
   ⟨Reg.EVT_CLAIM, 1, 6, 8, .none, [⟨10, 0, .ro, 2047⟩]⟩,
   ⟨Reg.EVT_DONE, 1, 6, 8, .none, [⟨10, 0, .wo, 0⟩]⟩,
   ⟨Reg.EVT_WAKE, 1, 32, 4, .none, [⟨31, 31, .rw, 0⟩, ⟨30, 11, .rsv, 0⟩, ⟨10, 0, .rw, 0⟩]⟩,
   ⟨Reg.EVT_MASK, 1, 48, 4, .none, [⟨31, 0, .rw, 4294967295⟩]⟩,
   ⟨Reg.EVT_PEND, 1, 48, 4, .none, [⟨31, 0, .rw, 0⟩]⟩]

/-- Registers of the EVT window, part 2. -/
def rowsEVT1 : List RegRow :=
  [⟨Reg.EVT_INSVC, 1, 48, 4, .none, [⟨31, 0, .ro, 0⟩]⟩,
   ⟨Reg.EVT_LEVEL, 1, 48, 4, .none, [⟨31, 0, .ro, 0⟩]⟩,
   ⟨Reg.EVT_CLAIMS, 2, 1, 8, .none, [⟨63, 0, .ro, 0⟩]⟩,
   ⟨Reg.EVT_SPURIOUS, 2, 1, 8, .none, [⟨63, 0, .ro, 0⟩]⟩,
   ⟨Reg.EVT_DONE_BAD, 2, 1, 8, .none, [⟨63, 0, .ro, 0⟩]⟩,
   ⟨Reg.EVT_STORM_CNT, 2, 1, 8, .none, [⟨63, 0, .ro, 0⟩]⟩,
   ⟨Reg.EVT_HOLD_EXP, 2, 1, 8, .none, [⟨63, 0, .ro, 0⟩]⟩,
   ⟨Reg.EVT_SRC, 1, 1536, 4, .none, [⟨31, 11, .rsv, 0⟩, ⟨10, 8, .ro, 0⟩, ⟨7, 6, .rsv, 0⟩, ⟨5, 0, .rw, 0⟩]⟩]

/-- The registers of the EVT window. -/
def rowsEVT : List RegRow := rowsEVT0 ++ rowsEVT1

/-- Registers of the HKC window, part 1. -/
def rowsHKC0 : List RegRow :=
  [⟨Reg.HKC_SEL, 1, 1, 4, .none, [⟨31, 21, .rsv, 0⟩, ⟨20, 16, .rw, 0⟩, ⟨15, 6, .rsv, 0⟩, ⟨5, 0, .rw, 0⟩]⟩,
   ⟨Reg.HKC_SUM, 1, 1, 4, .hkcInput, [⟨31, 0, .ro, 0⟩]⟩,
   ⟨Reg.HKC_CNT, 1, 1, 4, .hkcInput, [⟨31, 0, .ro, 0⟩]⟩,
   ⟨Reg.HKC_MINMAX, 1, 1, 4, .hkcInput, [⟨31, 28, .rsv, 0⟩, ⟨27, 16, .ro, 0⟩, ⟨15, 12, .rsv, 0⟩, ⟨11, 0, .ro, 4095⟩]⟩,
   ⟨Reg.HKC_WIN, 1, 1, 4, .hkcInput, [⟨31, 28, .rsv, 0⟩, ⟨27, 16, .rw, 0⟩, ⟨15, 12, .rsv, 0⟩, ⟨11, 0, .rw, 0⟩]⟩,
   ⟨Reg.HKC_LAPNUM, 1, 1, 4, .none, [⟨31, 0, .ro, 0⟩]⟩,
   ⟨Reg.HKC_DCFG, 1, 1, 4, .hkcDie, [⟨31, 6, .rsv, 0⟩, ⟨5, 0, .ro, 0⟩]⟩,
   ⟨Reg.HKC_WPEND, 1, 1, 4, .hkcDie, [⟨31, 0, .w1c, 0⟩]⟩,
   ⟨Reg.HKC_WPEND_HI, 1, 1, 4, .hkcDie, [⟨31, 8, .rsv, 0⟩, ⟨7, 0, .w1c, 0⟩]⟩,
   ⟨Reg.HKC_IVAL, 1, 1, 4, .none, [⟨31, 0, .ro, 0⟩]⟩]

/-- The registers of the HKC window. -/
def rowsHKC : List RegRow := rowsHKC0

/-- Registers of the THM window, part 1. -/
def rowsTHM0 : List RegRow :=
  [⟨Reg.THM_TH, 1, 4, 4, .none, [⟨31, 24, .rsv, 0⟩, ⟨23, 16, .ro, 0⟩, ⟨15, 8, .ro, 0⟩, ⟨7, 0, .ro, 0⟩]⟩,
   ⟨Reg.THM_STS, 1, 1, 4, .none, [⟨31, 31, .ro, 0⟩, ⟨30, 30, .ro, 0⟩, ⟨29, 28, .ro, 0⟩, ⟨27, 22, .ro, 0⟩, ⟨21, 21, .rsv, 0⟩, ⟨20, 16, .ro, 0⟩, ⟨15, 0, .ro, 0⟩]⟩,
   ⟨Reg.THM_SSEL, 1, 1, 4, .none, [⟨31, 21, .rsv, 0⟩, ⟨20, 16, .rw, 0⟩, ⟨15, 6, .rsv, 0⟩, ⟨5, 0, .rw, 0⟩]⟩,
   ⟨Reg.THM_SSTS, 1, 1, 4, .sensor, [⟨31, 31, .rw, 0⟩, ⟨30, 30, .ro, 0⟩, ⟨29, 28, .ro, 0⟩, ⟨27, 16, .rsv, 0⟩, ⟨15, 0, .ro, 0⟩]⟩,
   ⟨Reg.THM_EVT, 1, 1, 4, .none, [⟨31, 3, .rsv, 0⟩, ⟨2, 2, .w1c, 0⟩, ⟨1, 1, .w1c, 0⟩, ⟨0, 0, .w1c, 0⟩]⟩]

/-- The registers of the THM window. -/
def rowsTHM : List RegRow := rowsTHM0

/-- Registers of the LAP window, part 1. -/
def rowsLAP0 : List RegRow :=
  [⟨Reg.LAP_NUM, 2, 1, 8, .none, [⟨63, 0, .ro, 0⟩]⟩,
   ⟨Reg.LAP_TIME, 2, 1, 8, .none, [⟨63, 0, .ro, 0⟩]⟩,
   ⟨Reg.LAP_STS, 1, 1, 4, .none, [⟨31, 15, .ro, 0⟩, ⟨14, 14, .rsv, 0⟩, ⟨13, 8, .ro, 0⟩, ⟨7, 4, .rsv, 0⟩, ⟨3, 3, .ro, 0⟩, ⟨2, 2, .ro, 0⟩, ⟨1, 1, .ro, 0⟩, ⟨0, 0, .ro, 0⟩]⟩,
   ⟨Reg.LAP_NEXT, 1, 1, 4, .none, [⟨31, 16, .ro, 0⟩, ⟨15, 1, .rsv, 0⟩, ⟨0, 0, .ro, 0⟩]⟩,
   ⟨Reg.LAP_PLAN_LAPNUM, 1, 1, 4, .none, [⟨31, 0, .ro, 0⟩]⟩,
   ⟨Reg.LAP_PLAN_HE, 1, 1, 4, .none, [⟨31, 20, .ro, 0⟩, ⟨19, 15, .ro, 0⟩, ⟨14, 10, .ro, 0⟩, ⟨9, 0, .ro, 0⟩]⟩,
   ⟨Reg.LAP_PLAN_HW, 1, 1, 4, .none, [⟨31, 20, .ro, 0⟩, ⟨19, 15, .ro, 0⟩, ⟨14, 10, .ro, 0⟩, ⟨9, 0, .ro, 0⟩]⟩,
   ⟨Reg.LAP_KV_BUDGET_HE, 2, 1, 8, .none, [⟨63, 0, .ro, 0⟩]⟩,
   ⟨Reg.LAP_KV_BUDGET_HW, 2, 1, 8, .none, [⟨63, 0, .ro, 0⟩]⟩,
   ⟨Reg.LAP_KV_PROJ_HE, 2, 1, 8, .none, [⟨63, 0, .ro, 0⟩]⟩,
   ⟨Reg.LAP_KV_PROJ_HW, 2, 1, 8, .none, [⟨63, 0, .ro, 0⟩]⟩,
   ⟨Reg.LAP_KV_HEAD_HE, 2, 1, 8, .none, [⟨63, 0, .ro, 0⟩]⟩]

/-- Registers of the LAP window, part 2. -/
def rowsLAP1 : List RegRow :=
  [⟨Reg.LAP_KV_HEAD_HW, 2, 1, 8, .none, [⟨63, 0, .ro, 0⟩]⟩,
   ⟨Reg.LAP_CFG, 1, 1, 4, .none, [⟨31, 16, .ro, 0⟩, ⟨15, 8, .ro, 0⟩, ⟨7, 0, .ro, 0⟩]⟩,
   ⟨Reg.LAP_TSEL, 1, 1, 4, .none, [⟨31, 14, .rsv, 0⟩, ⟨13, 0, .rw, 0⟩]⟩,
   ⟨Reg.LAP_TWEIGHT, 1, 1, 4, .lapTenant, [⟨31, 31, .ro, 0⟩, ⟨30, 8, .rsv, 0⟩, ⟨7, 0, .rw, 16⟩]⟩,
   ⟨Reg.LAP_TCREDIT, 1, 1, 4, .lapTenant, [⟨31, 0, .ro, 0⟩]⟩,
   ⟨Reg.LAP_EVT, 1, 1, 4, .none, [⟨31, 3, .rsv, 0⟩, ⟨2, 2, .w1c, 0⟩, ⟨1, 1, .w1c, 0⟩, ⟨0, 0, .w1c, 0⟩]⟩,
   ⟨Reg.LAP_DL_MISS, 2, 1, 8, .none, [⟨63, 0, .ro, 0⟩]⟩,
   ⟨Reg.LAP_LODGE_CNT, 2, 1, 8, .none, [⟨63, 0, .ro, 0⟩]⟩,
   ⟨Reg.LAP_STRETCH_TOT, 2, 1, 8, .none, [⟨63, 0, .ro, 0⟩]⟩,
   ⟨Reg.LAP_QNT_SEL, 1, 1, 4, .none, [⟨31, 30, .rsv, 0⟩, ⟨29, 24, .rw, 0⟩, ⟨23, 16, .rw, 0⟩, ⟨15, 3, .rsv, 0⟩, ⟨2, 0, .rw, 0⟩]⟩,
   ⟨Reg.LAP_QNT_LAPNUM, 1, 1, 4, .none, [⟨31, 0, .ro, 0⟩]⟩,
   ⟨Reg.LAP_QNT_SAT, 1, 1, 4, .qnt, [⟨31, 0, .ro, 0⟩]⟩]

/-- Registers of the LAP window, part 3. -/
def rowsLAP2 : List RegRow :=
  [⟨Reg.LAP_QNT_ZERO, 1, 1, 4, .qnt, [⟨31, 0, .ro, 0⟩]⟩,
   ⟨Reg.LAP_QNT_HOT, 1, 1, 4, .qnt, [⟨31, 31, .ro, 0⟩, ⟨30, 16, .ro, 0⟩, ⟨15, 15, .rsv, 0⟩, ⟨14, 0, .ro, 0⟩]⟩,
   ⟨Reg.LAP_QNT_TH, 1, 1, 4, .qnt, [⟨31, 24, .ro, 0⟩, ⟨23, 16, .ro, 0⟩, ⟨15, 0, .rsv, 0⟩]⟩,
   ⟨Reg.LAP_QNT_TH_LAP, 1, 1, 4, .qnt, [⟨31, 31, .rsv, 0⟩, ⟨30, 16, .ro, 0⟩, ⟨15, 15, .rsv, 0⟩, ⟨14, 0, .ro, 0⟩]⟩,
   ⟨Reg.LAP_QNT_HOTSUM, 1, 1, 4, .none, [⟨31, 31, .w1c, 0⟩, ⟨30, 17, .ro, 0⟩, ⟨16, 14, .ro, 0⟩, ⟨13, 8, .ro, 0⟩, ⟨7, 0, .ro, 0⟩]⟩,
   ⟨Reg.LAP_QNT_FIRST_BIB, 1, 1, 4, .none, [⟨31, 0, .ro, 0⟩]⟩,
   ⟨Reg.LAP_OUT_OVF, 2, 1, 8, .none, [⟨63, 0, .ro, 0⟩]⟩,
   ⟨Reg.LAP_ACC_SUB, 2, 1, 8, .none, [⟨63, 0, .ro, 0⟩]⟩,
   ⟨Reg.LAP_MOG_CFG, 1, 1, 4, .none, [⟨31, 12, .rsv, 0⟩, ⟨11, 8, .ro, 0⟩, ⟨7, 0, .ro, 32⟩]⟩,
   ⟨Reg.LAP_MOG_USEL, 1, 1, 4, .none, [⟨31, 5, .rsv, 0⟩, ⟨4, 0, .rw, 0⟩]⟩,
   ⟨Reg.LAP_MOG_USTS, 1, 1, 4, .mogUnit, [⟨31, 26, .rsv, 0⟩, ⟨25, 16, .ro, 0⟩, ⟨15, 3, .rsv, 0⟩, ⟨2, 0, .ro, 0⟩]⟩,
   ⟨Reg.LAP_MOG_UTILE, 1, 1, 4, .mogUnit, [⟨31, 0, .ro, 0⟩]⟩]

/-- Registers of the LAP window, part 4. -/
def rowsLAP3 : List RegRow :=
  [⟨Reg.LAP_MOG_EVT, 1, 1, 4, .none, [⟨31, 4, .rsv, 0⟩, ⟨3, 3, .w1c, 0⟩, ⟨2, 2, .w1c, 0⟩, ⟨1, 1, .w1c, 0⟩, ⟨0, 0, .w1c, 0⟩]⟩,
   ⟨Reg.LAP_MOG_POOL_TH, 1, 1, 4, .none, [⟨31, 0, .ro, 0⟩]⟩,
   ⟨Reg.LAP_MOG_LAPNUM, 1, 1, 4, .none, [⟨31, 0, .ro, 0⟩]⟩,
   ⟨Reg.LAP_MOG_POOL_LAP, 1, 1, 4, .none, [⟨31, 0, .ro, 0⟩]⟩,
   ⟨Reg.LAP_MOG_STATIC, 2, 1, 8, .none, [⟨63, 0, .ro, 0⟩]⟩,
   ⟨Reg.LAP_MOG_RES_ACC, 2, 1, 8, .none, [⟨63, 0, .ro, 0⟩]⟩,
   ⟨Reg.LAP_MOG_RES_64, 2, 1, 8, .none, [⟨63, 0, .ro, 0⟩]⟩,
   ⟨Reg.LAP_MOG_RES_POOL, 2, 1, 8, .none, [⟨63, 0, .ro, 0⟩]⟩,
   ⟨Reg.LAP_MOG_RCELL, 2, 1, 8, .none, [⟨63, 0, .ro, 0⟩]⟩,
   ⟨Reg.LAP_MOG_FB_MSG, 2, 1, 8, .none, [⟨63, 0, .ro, 0⟩]⟩,
   ⟨Reg.LAP_MOG_SHRES, 2, 1, 8, .none, [⟨63, 0, .ro, 0⟩]⟩,
   ⟨Reg.LAP_MOG_DRIFT_OOR, 2, 1, 8, .none, [⟨63, 0, .ro, 0⟩]⟩]

/-- Registers of the LAP window, part 5. -/
def rowsLAP4 : List RegRow :=
  [⟨Reg.LAP_EBUDGET, 1, 1, 4, .none, [⟨31, 16, .ro, 0⟩, ⟨15, 0, .rw, 0⟩]⟩,
   ⟨Reg.LAP_ECFG, 1, 1, 4, .none, [⟨31, 24, .ro, 0⟩, ⟨23, 12, .ro, 0⟩, ⟨11, 0, .ro, 0⟩]⟩,
   ⟨Reg.LAP_ECFG2, 1, 1, 4, .none, [⟨31, 16, .ro, 0⟩, ⟨15, 0, .ro, 0⟩]⟩,
   ⟨Reg.LAP_ESTS, 1, 1, 4, .none, [⟨31, 21, .ro, 0⟩, ⟨20, 16, .ro, 0⟩, ⟨15, 11, .ro, 0⟩, ⟨10, 0, .rsv, 0⟩]⟩,
   ⟨Reg.LAP_ENEW, 1, 1, 4, .none, [⟨31, 16, .ro, 65535⟩, ⟨15, 0, .ro, 65535⟩]⟩,
   ⟨Reg.LAP_E_MEAS, 2, 1, 8, .none, [⟨63, 0, .ro, 0⟩]⟩,
   ⟨Reg.LAP_E_PLAN, 2, 1, 8, .none, [⟨63, 0, .ro, 0⟩]⟩,
   ⟨Reg.LAP_E_CREDIT, 2, 1, 8, .none, [⟨63, 0, .ro, 0⟩]⟩,
   ⟨Reg.LAP_E_LAPNUM, 1, 1, 4, .none, [⟨31, 0, .ro, 0⟩]⟩,
   ⟨Reg.LAP_E_PAUSE, 1, 1, 4, .none, [⟨31, 16, .ro, 0⟩, ⟨15, 0, .ro, 0⟩]⟩,
   ⟨Reg.LAP_EEVT, 1, 1, 4, .none, [⟨31, 3, .rsv, 0⟩, ⟨2, 2, .w1c, 0⟩, ⟨1, 1, .w1c, 0⟩, ⟨0, 0, .w1c, 0⟩]⟩,
   ⟨Reg.LAP_PAUSE_CNT, 2, 1, 8, .none, [⟨63, 0, .ro, 0⟩]⟩]

/-- Registers of the LAP window, part 6. -/
def rowsLAP5 : List RegRow :=
  [⟨Reg.LAP_E_TOTAL, 2, 1, 8, .none, [⟨63, 0, .ro, 0⟩]⟩]

/-- The registers of the LAP window. -/
def rowsLAP : List RegRow := rowsLAP0 ++ rowsLAP1 ++ rowsLAP2 ++ rowsLAP3 ++ rowsLAP4 ++ rowsLAP5

/-- Registers of the BIB window, part 1. -/
def rowsBIB0 : List RegRow :=
  [⟨Reg.BIB_SEL, 1, 1, 4, .none, [⟨31, 16, .rsv, 0⟩, ⟨15, 0, .rw, 0⟩]⟩,
   ⟨Reg.BIB_SNAP_LAP, 1, 1, 4, .none, [⟨31, 0, .ro, 0⟩]⟩,
   ⟨Reg.BIB_CNT, 1, 8, 4, .none, [⟨31, 17, .rsv, 0⟩, ⟨16, 0, .ro, 0⟩]⟩,
   ⟨Reg.BIB_CNT_LAPNUM, 1, 1, 4, .none, [⟨31, 0, .ro, 0⟩]⟩,
   ⟨Reg.BIB_CFG, 1, 1, 4, .none, [⟨31, 27, .rsv, 0⟩, ⟨26, 16, .ro, 1024⟩, ⟨15, 0, .ro, 0⟩]⟩,
   ⟨Reg.BIB_EVT, 1, 1, 4, .none, [⟨31, 2, .rsv, 0⟩, ⟨1, 1, .w1c, 0⟩, ⟨0, 0, .w1c, 0⟩]⟩,
   ⟨Reg.BIB_STALE_HOST, 2, 1, 8, .none, [⟨63, 0, .ro, 0⟩]⟩,
   ⟨Reg.BIB_STALE_INT, 2, 1, 8, .none, [⟨63, 0, .ro, 0⟩]⟩,
   ⟨Reg.BIB_STALE_CKPT, 2, 1, 8, .none, [⟨63, 0, .ro, 0⟩]⟩,
   ⟨Reg.BIB_STALE_PEER, 2, 1, 8, .none, [⟨63, 0, .ro, 0⟩]⟩,
   ⟨Reg.BIB_OPEN_REF, 2, 1, 8, .none, [⟨63, 0, .ro, 0⟩]⟩,
   ⟨Reg.BIB_ENT, 1, 32, 4, .none, [⟨31, 0, .ro, 0⟩]⟩]

/-- The registers of the BIB window. -/
def rowsBIB : List RegRow := rowsBIB0

/-- Registers of the QP window, part 1. -/
def rowsQP0 : List RegRow :=
  [⟨Reg.QP_SEL, 1, 1, 4, .none, [⟨31, 14, .rsv, 0⟩, ⟨13, 0, .rw, 0⟩]⟩,
   ⟨Reg.QP_CFG, 1, 1, 4, .qp, [⟨31, 31, .rw, 0⟩, ⟨30, 30, .rw, 0⟩, ⟨29, 29, .rw, 0⟩, ⟨28, 26, .rw, 0⟩, ⟨25, 24, .rsv, 0⟩, ⟨23, 20, .rw, 0⟩, ⟨19, 16, .rw, 0⟩, ⟨15, 14, .rw, 0⟩, ⟨13, 0, .rw, 0⟩]⟩,
   ⟨Reg.QP_SQ_BASE, 2, 1, 8, .qp, [⟨63, 12, .rw, 0⟩, ⟨11, 0, .rsv, 0⟩]⟩,
   ⟨Reg.QP_CQ_BASE, 2, 1, 8, .qp, [⟨63, 12, .rw, 0⟩, ⟨11, 0, .rsv, 0⟩]⟩,
   ⟨Reg.QP_LOGIT_BASE, 2, 1, 8, .qp, [⟨63, 12, .rw, 0⟩, ⟨11, 0, .rsv, 0⟩]⟩,
   ⟨Reg.QP_VEC, 1, 1, 4, .qp, [⟨31, 12, .rsv, 0⟩, ⟨11, 0, .rw, 0⟩]⟩,
   ⟨Reg.QP_STS, 1, 1, 4, .qp, [⟨31, 4, .rsv, 0⟩, ⟨3, 3, .w1c, 0⟩, ⟨2, 2, .ro, 0⟩, ⟨1, 1, .w1c, 0⟩, ⟨0, 0, .ro, 0⟩]⟩,
   ⟨Reg.QP_SQ_HEAD, 1, 1, 4, .qp, [⟨31, 16, .rsv, 0⟩, ⟨15, 0, .ro, 0⟩]⟩,
   ⟨Reg.QP_CQ_TAIL, 1, 1, 4, .qp, [⟨31, 16, .rsv, 0⟩, ⟨15, 0, .ro, 0⟩]⟩,
   ⟨Reg.QP_BACKLOG, 1, 1, 4, .qp, [⟨31, 9, .rsv, 0⟩, ⟨8, 0, .ro, 0⟩]⟩,
   ⟨Reg.QP_VSEL, 1, 1, 4, .none, [⟨31, 12, .rsv, 0⟩, ⟨11, 0, .rw, 0⟩]⟩,
   ⟨Reg.QP_VCFG, 1, 1, 4, .vec, [⟨31, 16, .rw, 1⟩, ⟨15, 8, .rsv, 0⟩, ⟨7, 0, .rw, 1⟩]⟩]

/-- Registers of the QP window, part 2. -/
def rowsQP1 : List RegRow :=
  [⟨Reg.QP_VSTS, 1, 1, 4, .vec, [⟨31, 9, .rsv, 0⟩, ⟨8, 8, .ro, 0⟩, ⟨7, 0, .ro, 0⟩]⟩,
   ⟨Reg.QP_EVT, 1, 1, 4, .none, [⟨31, 2, .rsv, 0⟩, ⟨1, 1, .w1c, 0⟩, ⟨0, 0, .w1c, 0⟩]⟩,
   ⟨Reg.QP_VIOL, 2, 1, 8, .none, [⟨63, 0, .ro, 0⟩]⟩,
   ⟨Reg.QP_REC_DROP, 2, 1, 8, .none, [⟨63, 0, .ro, 0⟩]⟩,
   ⟨Reg.QP_DESC, 2, 1, 8, .none, [⟨63, 0, .ro, 0⟩]⟩]

/-- The registers of the QP window. -/
def rowsQP : List RegRow := rowsQP0 ++ rowsQP1

/-- Registers of the KVM window, part 1. -/
def rowsKVM0 : List RegRow :=
  [⟨Reg.KVM_PSEL, 1, 1, 4, .none, [⟨31, 2, .rsv, 0⟩, ⟨1, 1, .rw, 0⟩, ⟨0, 0, .rw, 0⟩]⟩,
   ⟨Reg.KVM_POOL_TOTAL, 1, 1, 4, .pool, [⟨31, 0, .ro, 0⟩]⟩,
   ⟨Reg.KVM_POOL_FREE, 1, 1, 4, .pool, [⟨31, 0, .ro, 0⟩]⟩,
   ⟨Reg.KVM_POOL_RETIRED, 1, 1, 4, .pool, [⟨31, 0, .ro, 0⟩]⟩,
   ⟨Reg.KVM_EVICT_LOW, 1, 1, 4, .pool, [⟨31, 0, .rw, 0⟩]⟩,
   ⟨Reg.KVM_EVICT_HIGH, 1, 1, 4, .pool, [⟨31, 0, .rw, 0⟩]⟩,
   ⟨Reg.KVM_TSEL, 1, 1, 4, .none, [⟨31, 14, .rsv, 0⟩, ⟨13, 0, .rw, 0⟩]⟩,
   ⟨Reg.KVM_QUOTA, 1, 1, 4, .kvTenant, [⟨31, 0, .rw, 4294967295⟩]⟩,
   ⟨Reg.KVM_TUSE, 1, 1, 4, .kvTenant, [⟨31, 0, .ro, 0⟩]⟩,
   ⟨Reg.KVM_TCFG, 1, 1, 4, .kvTenant, [⟨31, 31, .rw, 0⟩, ⟨30, 16, .rsv, 0⟩, ⟨15, 0, .rw, 4096⟩]⟩,
   ⟨Reg.KVM_EVT, 1, 1, 4, .none, [⟨31, 4, .rsv, 0⟩, ⟨3, 3, .w1c, 0⟩, ⟨2, 2, .w1c, 0⟩, ⟨1, 1, .w1c, 0⟩, ⟨0, 0, .w1c, 0⟩]⟩,
   ⟨Reg.KVM_MSEL, 1, 1, 4, .none, [⟨31, 6, .rsv, 0⟩, ⟨5, 0, .rw, 0⟩]⟩]

/-- Registers of the KVM window, part 2. -/
def rowsKVM1 : List RegRow :=
  [⟨Reg.KVM_MFMT, 1, 1, 4, .kvSlot, [⟨31, 31, .ro, 0⟩, ⟨30, 29, .ro, 0⟩, ⟨28, 20, .ro, 0⟩, ⟨19, 19, .rsv, 0⟩, ⟨18, 0, .ro, 0⟩]⟩,
   ⟨Reg.KVM_EVICT_BLK, 2, 1, 8, .none, [⟨63, 0, .ro, 0⟩]⟩,
   ⟨Reg.KVM_POOL_EMPTY, 2, 1, 8, .none, [⟨63, 0, .ro, 0⟩]⟩,
   ⟨Reg.KVM_QUOTA_REF, 2, 1, 8, .none, [⟨63, 0, .ro, 0⟩]⟩,
   ⟨Reg.KVM_QUOTA_LODGE, 2, 1, 8, .none, [⟨63, 0, .ro, 0⟩]⟩,
   ⟨Reg.KVM_POISON_END, 2, 1, 8, .none, [⟨63, 0, .ro, 0⟩]⟩,
   ⟨Reg.KVM_SAT, 2, 1, 8, .none, [⟨63, 0, .ro, 0⟩]⟩]

/-- The registers of the KVM window. -/
def rowsKVM : List RegRow := rowsKVM0 ++ rowsKVM1

/-- Registers of the ATT window, part 1. -/
def rowsATT0 : List RegRow :=
  [⟨Reg.ATT_CFG, 1, 1, 4, .none, [⟨31, 24, .ro, 64⟩, ⟨23, 16, .ro, 32⟩, ⟨15, 3, .ro, 4096⟩, ⟨2, 0, .ro, 0⟩]⟩,
   ⟨Reg.ATT_GROUP, 1, 1, 4, .none, [⟨31, 8, .rsv, 0⟩, ⟨7, 4, .ro, 0⟩, ⟨3, 3, .rsv, 0⟩, ⟨2, 0, .ro, 0⟩]⟩,
   ⟨Reg.ATT_TOWLANE, 1, 1, 4, .none, [⟨31, 16, .ro, 0⟩, ⟨15, 0, .ro, 0⟩]⟩,
   ⟨Reg.ATT_LSEL, 1, 1, 4, .none, [⟨31, 6, .rsv, 0⟩, ⟨5, 0, .rw, 0⟩]⟩,
   ⟨Reg.ATT_LSTS, 1, 1, 4, .lane, [⟨31, 26, .rsv, 0⟩, ⟨25, 16, .ro, 0⟩, ⟨15, 1, .rsv, 0⟩, ⟨0, 0, .ro, 0⟩]⟩,
   ⟨Reg.ATT_LAPNUM, 1, 1, 4, .none, [⟨31, 0, .ro, 0⟩]⟩,
   ⟨Reg.ATT_REPLAY_LAP, 1, 1, 4, .none, [⟨31, 16, .ro, 0⟩, ⟨15, 0, .ro, 0⟩]⟩,
   ⟨Reg.ATT_REPLAY_TH, 1, 1, 4, .none, [⟨31, 16, .rsv, 0⟩, ⟨15, 0, .ro, 0⟩]⟩,
   ⟨Reg.ATT_EVT, 1, 1, 4, .none, [⟨31, 2, .rsv, 0⟩, ⟨1, 1, .w1c, 0⟩, ⟨0, 0, .w1c, 0⟩]⟩,
   ⟨Reg.ATT_ITEMS, 2, 1, 8, .none, [⟨63, 0, .ro, 0⟩]⟩,
   ⟨Reg.ATT_POS, 2, 1, 8, .none, [⟨63, 0, .ro, 0⟩]⟩,
   ⟨Reg.ATT_REPLAY_LANE, 2, 1, 8, .none, [⟨63, 0, .ro, 0⟩]⟩]

/-- Registers of the ATT window, part 2. -/
def rowsATT1 : List RegRow :=
  [⟨Reg.ATT_REPLAY_SPREAD, 2, 1, 8, .none, [⟨63, 0, .ro, 0⟩]⟩,
   ⟨Reg.ATT_GATHER_LATE, 2, 1, 8, .none, [⟨63, 0, .ro, 0⟩]⟩,
   ⟨Reg.ATT_GATHER_TX, 2, 1, 8, .none, [⟨63, 0, .ro, 0⟩]⟩]

/-- The registers of the ATT window. -/
def rowsATT : List RegRow := rowsATT0 ++ rowsATT1

/-- Registers of the WAX window, part 1. -/
def rowsWAX0 : List RegRow :=
  [⟨Reg.WAX_CFG, 1, 1, 4, .none, [⟨31, 15, .ro, 65536⟩, ⟨14, 0, .ro, 16384⟩]⟩,
   ⟨Reg.WAX_USE, 1, 1, 4, .none, [⟨31, 15, .ro, 0⟩, ⟨14, 0, .ro, 0⟩]⟩,
   ⟨Reg.WAX_SEL, 1, 1, 4, .none, [⟨31, 17, .rsv, 0⟩, ⟨16, 0, .rw, 0⟩]⟩,
   ⟨Reg.WAX_STS, 1, 1, 4, .none, [⟨31, 28, .ro, 0⟩, ⟨27, 22, .ro, 0⟩, ⟨21, 21, .ro, 0⟩, ⟨20, 14, .rsv, 0⟩, ⟨13, 0, .ro, 0⟩]⟩,
   ⟨Reg.WAX_REFS, 1, 1, 4, .none, [⟨31, 0, .ro, 0⟩]⟩,
   ⟨Reg.WAX_VER_LAP, 2, 1, 8, .none, [⟨63, 0, .ro, 0⟩]⟩,
   ⟨Reg.WAX_FIT_STEPS, 1, 1, 4, .none, [⟨31, 0, .ro, 0⟩]⟩,
   ⟨Reg.WAX_FIT_LOSS, 1, 1, 4, .none, [⟨31, 0, .ro, 0⟩]⟩,
   ⟨Reg.WAX_HPAGES_FREE, 1, 1, 4, .none, [⟨31, 0, .ro, 0⟩]⟩,
   ⟨Reg.WAX_LPAGES_FREE, 1, 1, 4, .none, [⟨31, 0, .ro, 0⟩]⟩,
   ⟨Reg.WAX_EVT, 1, 1, 4, .none, [⟨31, 2, .rsv, 0⟩, ⟨1, 1, .w1c, 0⟩, ⟨0, 0, .w1c, 0⟩]⟩,
   ⟨Reg.WAX_PROMOTE, 2, 1, 8, .none, [⟨63, 0, .ro, 0⟩]⟩]

/-- Registers of the WAX window, part 2. -/
def rowsWAX1 : List RegRow :=
  [⟨Reg.WAX_DEMOTE, 2, 1, 8, .none, [⟨63, 0, .ro, 0⟩]⟩,
   ⟨Reg.WAX_FIT_STEP, 2, 1, 8, .none, [⟨63, 0, .ro, 0⟩]⟩,
   ⟨Reg.WAX_FIT_SAT, 2, 1, 8, .none, [⟨63, 0, .ro, 0⟩]⟩,
   ⟨Reg.WAX_READ, 2, 1, 8, .none, [⟨63, 0, .ro, 0⟩]⟩]

/-- The registers of the WAX window. -/
def rowsWAX : List RegRow := rowsWAX0 ++ rowsWAX1

/-- Registers of the LDR window, part 1. -/
def rowsLDR0 : List RegRow :=
  [⟨Reg.LDR_CTL, 1, 1, 4, .none, [⟨31, 31, .w1s, 0⟩, ⟨30, 30, .w1s, 0⟩, ⟨29, 28, .rw, 0⟩, ⟨27, 22, .rw, 0⟩, ⟨21, 14, .rw, 0⟩, ⟨13, 13, .rw, 0⟩, ⟨12, 0, .rsv, 0⟩]⟩,
   ⟨Reg.LDR_STS, 1, 1, 4, .none, [⟨31, 31, .ro, 0⟩, ⟨30, 28, .ro, 0⟩, ⟨27, 24, .rsv, 0⟩, ⟨23, 16, .ro, 0⟩, ⟨15, 0, .ro, 0⟩]⟩,
   ⟨Reg.LDR_IMG_LEN, 2, 1, 8, .none, [⟨63, 0, .rw, 0⟩]⟩,
   ⟨Reg.LDR_PUT, 2, 1, 8, .none, [⟨63, 0, .rw, 0⟩]⟩,
   ⟨Reg.LDR_GET, 2, 1, 8, .none, [⟨63, 0, .ro, 0⟩]⟩,
   ⟨Reg.LDR_STG_SIZE, 1, 1, 4, .none, [⟨31, 0, .ro, 0⟩]⟩,
   ⟨Reg.LDR_PROG_W, 1, 1, 4, .none, [⟨31, 16, .ro, 0⟩, ⟨15, 0, .rw, 0⟩]⟩,
   ⟨Reg.LDR_SSEL, 1, 1, 4, .none, [⟨31, 6, .rsv, 0⟩, ⟨5, 0, .rw, 0⟩]⟩,
   ⟨Reg.LDR_SLOT_STS, 1, 1, 4, .ldrSlot, [⟨31, 29, .ro, 0⟩, ⟨28, 28, .ro, 0⟩, ⟨27, 27, .ro, 0⟩, ⟨26, 8, .rsv, 0⟩, ⟨7, 0, .ro, 0⟩]⟩,
   ⟨Reg.LDR_SLOT_DIGEST, 1, 12, 4, .ldrSlot, [⟨31, 0, .ro, 0⟩]⟩,
   ⟨Reg.LDR_EVT, 1, 1, 4, .none, [⟨31, 2, .rsv, 0⟩, ⟨1, 1, .w1c, 0⟩, ⟨0, 0, .w1c, 0⟩]⟩,
   ⟨Reg.LDR_GATE_HELD, 2, 1, 8, .none, [⟨63, 0, .ro, 0⟩]⟩]

/-- Registers of the LDR window, part 2. -/
def rowsLDR1 : List RegRow :=
  [⟨Reg.LDR_PV_MISS, 2, 1, 8, .none, [⟨63, 0, .ro, 0⟩]⟩,
   ⟨Reg.LDR_PV_SPARECOL, 2, 1, 8, .none, [⟨63, 0, .ro, 0⟩]⟩,
   ⟨Reg.LDR_BYTES, 2, 1, 8, .none, [⟨63, 0, .ro, 0⟩]⟩]

/-- The registers of the LDR window. -/
def rowsLDR : List RegRow := rowsLDR0 ++ rowsLDR1

/-- Registers of the LNK window, part 1. -/
def rowsLNK0 : List RegRow :=
  [⟨Reg.LNK_ID, 1, 1, 4, .none, [⟨31, 16, .ro, 65535⟩, ⟨15, 0, .ro, 0⟩]⟩,
   ⟨Reg.LNK_GTIME, 2, 1, 8, .none, [⟨63, 0, .ro, 0⟩]⟩,
   ⟨Reg.LNK_DLAP_OFS, 2, 1, 8, .none, [⟨63, 0, .ro, 0⟩]⟩,
   ⟨Reg.LNK_SYNC, 1, 1, 4, .none, [⟨31, 31, .ro, 0⟩, ⟨30, 30, .ro, 0⟩, ⟨29, 24, .ro, 0⟩, ⟨23, 21, .rsv, 0⟩, ⟨20, 16, .ro, 0⟩, ⟨15, 0, .ro, 0⟩]⟩,
   ⟨Reg.LNK_PSEL, 1, 1, 4, .none, [⟨31, 5, .rsv, 0⟩, ⟨4, 0, .rw, 0⟩]⟩,
   ⟨Reg.LNK_PSTS, 1, 1, 4, .port, [⟨31, 16, .ro, 0⟩, ⟨15, 11, .ro, 0⟩, ⟨10, 8, .rsv, 0⟩, ⟨7, 4, .ro, 0⟩, ⟨3, 3, .rsv, 0⟩, ⟨2, 0, .ro, 0⟩]⟩,
   ⟨Reg.LNK_PDELAY, 1, 1, 4, .port, [⟨31, 16, .rsv, 0⟩, ⟨15, 0, .ro, 0⟩]⟩,
   ⟨Reg.LNK_GOP_CTL, 1, 1, 4, .none, [⟨31, 31, .w1s, 0⟩, ⟨30, 30, .ro, 0⟩, ⟨29, 27, .ro, 0⟩, ⟨26, 24, .rw, 0⟩, ⟨23, 16, .rw, 2⟩, ⟨15, 1, .rsv, 0⟩, ⟨0, 0, .rw, 0⟩]⟩,
   ⟨Reg.LNK_GOP_ARG, 2, 1, 8, .none, [⟨63, 0, .rw, 0⟩]⟩,
   ⟨Reg.LNK_GOP_DATA, 1, 8, 4, .none, [⟨31, 0, .rw, 0⟩]⟩,
   ⟨Reg.LNK_GLOG_SEL, 1, 1, 4, .none, [⟨31, 4, .rsv, 0⟩, ⟨3, 0, .rw, 0⟩]⟩,
   ⟨Reg.LNK_EVT, 1, 1, 4, .none, [⟨31, 6, .rsv, 0⟩, ⟨5, 5, .w1c, 0⟩, ⟨4, 4, .w1c, 0⟩, ⟨3, 3, .w1c, 0⟩, ⟨2, 2, .w1c, 0⟩, ⟨1, 1, .w1c, 0⟩, ⟨0, 0, .w1c, 0⟩]⟩]

/-- Registers of the LNK window, part 2. -/
def rowsLNK1 : List RegRow :=
  [⟨Reg.LNK_FEC_CORR, 2, 1, 8, .none, [⟨63, 0, .ro, 0⟩]⟩,
   ⟨Reg.LNK_FEC_UNCORR, 2, 1, 8, .none, [⟨63, 0, .ro, 0⟩]⟩,
   ⟨Reg.LNK_RETRY, 2, 1, 8, .none, [⟨63, 0, .ro, 0⟩]⟩,
   ⟨Reg.LNK_PEER_VIOL, 2, 1, 8, .none, [⟨63, 0, .ro, 0⟩]⟩,
   ⟨Reg.LNK_NACK_SUPP, 2, 1, 8, .none, [⟨63, 0, .ro, 0⟩]⟩,
   ⟨Reg.LNK_GOP_DUP, 2, 1, 8, .none, [⟨63, 0, .ro, 0⟩]⟩,
   ⟨Reg.LNK_GOP_LATE, 2, 1, 8, .none, [⟨63, 0, .ro, 0⟩]⟩,
   ⟨Reg.LNK_PAY_TX, 2, 1, 8, .none, [⟨63, 0, .ro, 0⟩]⟩,
   ⟨Reg.LNK_GLOG, 1, 16, 4, .glog, [⟨31, 0, .ro, 0⟩]⟩]

/-- The registers of the LNK window. -/
def rowsLNK : List RegRow := rowsLNK0 ++ rowsLNK1

/-- Registers of the PAT window, part 1. -/
def rowsPAT0 : List RegRow :=
  [⟨Reg.PAT_CFG, 1, 1, 4, .none, [⟨31, 24, .ro, 0⟩, ⟨23, 16, .ro, 0⟩, ⟨15, 0, .ro, 0⟩]⟩,
   ⟨Reg.PAT_CFG2, 1, 1, 4, .none, [⟨31, 22, .ro, 0⟩, ⟨21, 16, .rsv, 0⟩, ⟨15, 0, .ro, 0⟩]⟩,
   ⟨Reg.PAT_CTL, 1, 1, 4, .none, [⟨31, 31, .rw, 0⟩, ⟨30, 30, .rw, 0⟩, ⟨29, 14, .rsv, 0⟩, ⟨13, 0, .rw, 0⟩]⟩,
   ⟨Reg.PAT_ORPHAN, 1, 1, 4, .none, [⟨31, 31, .w1s, 0⟩, ⟨30, 16, .rsv, 0⟩, ⟨15, 0, .rw, 0⟩]⟩,
   ⟨Reg.PAT_TSEL, 1, 1, 4, .none, [⟨31, 20, .rsv, 0⟩, ⟨19, 16, .rw, 0⟩, ⟨15, 14, .rsv, 0⟩, ⟨13, 0, .rw, 0⟩]⟩,
   ⟨Reg.PAT_TILE, 1, 1, 4, .none, [⟨31, 24, .ro, 0⟩, ⟨23, 16, .ro, 255⟩, ⟨15, 14, .ro, 0⟩, ⟨13, 0, .ro, 16383⟩]⟩,
   ⟨Reg.PAT_TILE_PLAP, 2, 1, 8, .none, [⟨63, 0, .ro, 0⟩]⟩,
   ⟨Reg.PAT_FPSEL, 1, 1, 4, .none, [⟨31, 6, .rsv, 0⟩, ⟨5, 0, .rw, 0⟩]⟩,
   ⟨Reg.PAT_FPSTS, 1, 1, 4, .none, [⟨31, 30, .ro, 0⟩, ⟨29, 29, .ro, 0⟩, ⟨28, 25, .ro, 0⟩, ⟨24, 15, .ro, 0⟩, ⟨14, 8, .rsv, 0⟩, ⟨7, 0, .ro, 0⟩]⟩,
   ⟨Reg.PAT_FPLAP, 2, 1, 8, .none, [⟨63, 0, .ro, 0⟩]⟩,
   ⟨Reg.PAT_LOG_HEAD, 1, 1, 4, .none, [⟨31, 13, .rsv, 0⟩, ⟨12, 0, .ro, 0⟩]⟩,
   ⟨Reg.PAT_LOG_TAIL, 1, 1, 4, .none, [⟨31, 13, .rsv, 0⟩, ⟨12, 0, .ro, 0⟩]⟩]

/-- Registers of the PAT window, part 2. -/
def rowsPAT1 : List RegRow :=
  [⟨Reg.PAT_LOG_FREE, 1, 1, 4, .none, [⟨31, 13, .rsv, 0⟩, ⟨12, 0, .ro, 4096⟩]⟩,
   ⟨Reg.PAT_LOG_SEL, 1, 1, 4, .none, [⟨31, 12, .rsv, 0⟩, ⟨11, 0, .rw, 0⟩]⟩,
   ⟨Reg.PAT_LOG_CFG, 1, 1, 4, .none, [⟨31, 16, .ro, 0⟩, ⟨15, 0, .rsv, 0⟩]⟩,
   ⟨Reg.PAT_EVT, 1, 1, 4, .none, [⟨31, 6, .rsv, 0⟩, ⟨5, 5, .w1c, 0⟩, ⟨4, 4, .w1c, 0⟩, ⟨3, 3, .w1c, 0⟩, ⟨2, 2, .w1c, 0⟩, ⟨1, 1, .w1c, 0⟩, ⟨0, 0, .w1c, 0⟩]⟩,
   ⟨Reg.PAT_REPORTS, 2, 1, 8, .none, [⟨63, 0, .ro, 0⟩]⟩,
   ⟨Reg.PAT_MERGED, 2, 1, 8, .none, [⟨63, 0, .ro, 0⟩]⟩,
   ⟨Reg.PAT_DROP, 2, 5, 8, .none, [⟨63, 0, .ro, 0⟩]⟩,
   ⟨Reg.PAT_FENCE, 2, 1, 8, .none, [⟨63, 0, .ro, 0⟩]⟩,
   ⟨Reg.PAT_SWAPIN, 2, 1, 8, .none, [⟨63, 0, .ro, 0⟩]⟩,
   ⟨Reg.PAT_REPLAY_FAULT, 2, 1, 8, .none, [⟨63, 0, .ro, 0⟩]⟩,
   ⟨Reg.PAT_PROVE_RUN, 2, 1, 8, .none, [⟨63, 0, .ro, 0⟩]⟩,
   ⟨Reg.PAT_PROVE_FAIL, 2, 1, 8, .none, [⟨63, 0, .ro, 0⟩]⟩]

/-- Registers of the PAT window, part 3. -/
def rowsPAT2 : List RegRow :=
  [⟨Reg.PAT_EXPEL, 2, 1, 8, .none, [⟨63, 0, .ro, 0⟩]⟩,
   ⟨Reg.PAT_CKPT, 2, 1, 8, .none, [⟨63, 0, .ro, 0⟩]⟩,
   ⟨Reg.PAT_CKPT_DEFER, 2, 1, 8, .none, [⟨63, 0, .ro, 0⟩]⟩,
   ⟨Reg.PAT_RESTART, 2, 1, 8, .none, [⟨63, 0, .ro, 0⟩]⟩,
   ⟨Reg.PAT_ADOPT_REF, 2, 1, 8, .none, [⟨63, 0, .ro, 0⟩]⟩,
   ⟨Reg.PAT_MIG_DUP, 2, 1, 8, .none, [⟨63, 0, .ro, 0⟩]⟩,
   ⟨Reg.PAT_LOG, 1, 16, 4, .none, [⟨31, 0, .ro, 0⟩]⟩]

/-- The registers of the PAT window. -/
def rowsPAT : List RegRow := rowsPAT0 ++ rowsPAT1 ++ rowsPAT2

/-- Registers of the GRM window, part 1. -/
def rowsGRM0 : List RegRow :=
  [⟨Reg.GRM_TSEL, 1, 1, 4, .none, [⟨31, 20, .rsv, 0⟩, ⟨19, 16, .rw, 0⟩, ⟨15, 14, .rsv, 0⟩, ⟨13, 0, .rw, 0⟩]⟩,
   ⟨Reg.GRM_TILE_STS, 1, 1, 4, .none, [⟨31, 12, .rsv, 0⟩, ⟨11, 11, .ro, 0⟩, ⟨10, 10, .ro, 0⟩, ⟨9, 9, .ro, 0⟩, ⟨8, 8, .rsv, 0⟩, ⟨7, 4, .ro, 0⟩, ⟨3, 3, .rsv, 0⟩, ⟨2, 2, .ro, 0⟩, ⟨1, 1, .ro, 0⟩, ⟨0, 0, .ro, 0⟩]⟩,
   ⟨Reg.GRM_TILE_PASSES, 1, 1, 4, .none, [⟨31, 0, .ro, 0⟩]⟩,
   ⟨Reg.GRM_TILE_LAST_LAP, 2, 1, 8, .none, [⟨63, 0, .ro, 0⟩]⟩,
   ⟨Reg.GRM_TILE_LAST_TIME, 2, 1, 8, .none, [⟨63, 0, .ro, 0⟩]⟩,
   ⟨Reg.GRM_CSEL, 1, 1, 4, .none, [⟨31, 7, .rsv, 0⟩, ⟨6, 0, .rw, 0⟩]⟩,
   ⟨Reg.GRM_TRIM, 1, 1, 4, .none, [⟨31, 26, .rsv, 0⟩, ⟨25, 16, .ro, 512⟩, ⟨15, 10, .rsv, 0⟩, ⟨9, 0, .ro, 512⟩]⟩,
   ⟨Reg.GRM_TOL, 1, 1, 4, .none, [⟨31, 28, .ro, 0⟩, ⟨27, 24, .rsv, 0⟩, ⟨23, 16, .ro, 0⟩, ⟨15, 8, .ro, 0⟩, ⟨7, 0, .ro, 0⟩]⟩,
   ⟨Reg.GRM_PLAN, 1, 1, 4, .none, [⟨31, 27, .rsv, 0⟩, ⟨26, 16, .ro, 0⟩, ⟨15, 8, .ro, 0⟩, ⟨7, 0, .ro, 0⟩]⟩,
   ⟨Reg.GRM_EVT, 1, 1, 4, .none, [⟨31, 4, .rsv, 0⟩, ⟨3, 3, .w1c, 0⟩, ⟨2, 2, .w1c, 0⟩, ⟨1, 1, .w1c, 0⟩, ⟨0, 0, .w1c, 0⟩]⟩,
   ⟨Reg.GRM_SETT, 1, 4, 4, .grmDie, [⟨31, 16, .ro, 0⟩, ⟨15, 0, .ro, 0⟩]⟩,
   ⟨Reg.GRM_PASSES, 2, 1, 8, .none, [⟨63, 0, .ro, 0⟩]⟩]

/-- Registers of the GRM window, part 2. -/
def rowsGRM1 : List RegRow :=
  [⟨Reg.GRM_DISAGREE, 2, 1, 8, .none, [⟨63, 0, .ro, 0⟩]⟩,
   ⟨Reg.GRM_FAILS, 2, 1, 8, .none, [⟨63, 0, .ro, 0⟩]⟩,
   ⟨Reg.GRM_SPARECOL, 2, 1, 8, .none, [⟨63, 0, .ro, 0⟩]⟩]

/-- The registers of the GRM window. -/
def rowsGRM : List RegRow := rowsGRM0 ++ rowsGRM1

/-- Registers of the PMC window, part 1. -/
def rowsPMC0 : List RegRow :=
  [⟨Reg.PMC_CTL, 1, 1, 4, .none, [⟨31, 31, .w1s, 0⟩, ⟨30, 1, .rsv, 0⟩, ⟨0, 0, .rw, 0⟩]⟩,
   ⟨Reg.PMC_SNAP_LAP, 2, 1, 8, .none, [⟨63, 0, .ro, 0⟩]⟩,
   ⟨Reg.PMC_GSNAP_LAP, 2, 1, 8, .none, [⟨63, 0, .ro, 0⟩]⟩,
   ⟨Reg.PMC_SEL, 1, 1, 4, .none, [⟨31, 13, .rsv, 0⟩, ⟨12, 8, .rw, 0⟩, ⟨7, 3, .rsv, 0⟩, ⟨2, 0, .rw, 0⟩]⟩,
   ⟨Reg.PMC_EVSEL, 1, 1, 4, .counter, [⟨31, 31, .ro, 0⟩, ⟨30, 10, .rsv, 0⟩, ⟨9, 8, .rw, 0⟩, ⟨7, 0, .rw, 0⟩]⟩,
   ⟨Reg.PMC_LIVE, 2, 1, 8, .counter, [⟨63, 48, .rsv, 0⟩, ⟨47, 0, .ro, 0⟩]⟩,
   ⟨Reg.PMC_SNAP, 2, 1, 8, .counter, [⟨63, 48, .rsv, 0⟩, ⟨47, 0, .ro, 0⟩]⟩,
   ⟨Reg.PMC_GSNAP, 2, 1, 8, .counter, [⟨63, 48, .rsv, 0⟩, ⟨47, 0, .ro, 0⟩]⟩,
   ⟨Reg.PMC_OVF, 1, 1, 4, .block, [⟨31, 8, .rsv, 0⟩, ⟨7, 0, .w1c, 0⟩]⟩,
   ⟨Reg.PMC_EVT, 1, 1, 4, .none, [⟨31, 2, .rsv, 0⟩, ⟨1, 1, .w1c, 0⟩, ⟨0, 0, .w1c, 0⟩]⟩]

/-- The registers of the PMC window. -/
def rowsPMC : List RegRow := rowsPMC0

/-- Registers of the ARK window, part 1. -/
def rowsARK0 : List RegRow :=
  [⟨Reg.ARK_ID, 1, 1, 4, .none, [⟨31, 16, .ro, 8448⟩, ⟨15, 8, .ro, 0⟩, ⟨7, 4, .rsv, 0⟩, ⟨3, 0, .ro, 0⟩]⟩,
   ⟨Reg.ARK_STS, 1, 1, 4, .none, [⟨31, 16, .ro, 0⟩, ⟨15, 12, .rsv, 0⟩, ⟨11, 8, .ro, 0⟩, ⟨7, 1, .rsv, 0⟩, ⟨0, 0, .w1c, 0⟩]⟩,
   ⟨Reg.ARK_FIRE_CFG, 1, 1, 4, .none, [⟨31, 24, .ro, 64⟩, ⟨23, 16, .ro, 16⟩, ⟨15, 12, .ro, 2⟩, ⟨11, 0, .ro, 1000⟩]⟩,
   ⟨Reg.ARK_TSEL, 1, 1, 4, .none, [⟨31, 14, .rsv, 0⟩, ⟨13, 0, .rw, 0⟩]⟩,
   ⟨Reg.ARK_TILE_STATE, 1, 1, 4, .tile, [⟨31, 30, .rsv, 0⟩, ⟨29, 16, .ro, 0⟩, ⟨15, 8, .ro, 0⟩, ⟨7, 7, .ro, 0⟩, ⟨6, 4, .ro, 0⟩, ⟨3, 3, .rsv, 0⟩, ⟨2, 0, .ro, 1⟩]⟩,
   ⟨Reg.ARK_ASEL, 1, 1, 4, .none, [⟨31, 8, .rsv, 0⟩, ⟨7, 0, .rw, 0⟩]⟩,
   ⟨Reg.ARK_COLMAP, 1, 1, 4, .array, [⟨31, 31, .ro, 0⟩, ⟨30, 24, .ro, 0⟩, ⟨23, 23, .ro, 0⟩, ⟨22, 16, .ro, 0⟩, ⟨15, 15, .ro, 0⟩, ⟨14, 8, .ro, 0⟩, ⟨7, 7, .ro, 0⟩, ⟨6, 0, .ro, 0⟩]⟩,
   ⟨Reg.ARK_FIRE_CNT, 2, 1, 8, .none, [⟨63, 0, .ro, 0⟩]⟩,
   ⟨Reg.ARK_NNZ_SUM, 2, 1, 8, .none, [⟨63, 0, .ro, 0⟩]⟩,
   ⟨Reg.ARK_ONEPH_CNT, 2, 1, 8, .none, [⟨63, 0, .ro, 0⟩]⟩,
   ⟨Reg.ARK_ZERO_CNT, 2, 1, 8, .none, [⟨63, 0, .ro, 0⟩]⟩,
   ⟨Reg.ARK_MERGED_CNT, 2, 1, 8, .none, [⟨63, 0, .ro, 0⟩]⟩]

/-- Registers of the ARK window, part 2. -/
def rowsARK1 : List RegRow :=
  [⟨Reg.ARK_TRANS_CNT, 2, 1, 8, .none, [⟨63, 0, .ro, 0⟩]⟩,
   ⟨Reg.ARK_REFRD_CNT, 2, 1, 8, .none, [⟨63, 0, .ro, 0⟩]⟩,
   ⟨Reg.ARK_TEST_CTL, 1, 1, 4, .none, [⟨31, 31, .w1s, 0⟩, ⟨30, 30, .ro, 0⟩, ⟨29, 28, .rsv, 0⟩, ⟨27, 24, .ro, 0⟩, ⟨23, 22, .rsv, 0⟩, ⟨21, 20, .rw, 0⟩, ⟨19, 19, .rsv, 0⟩, ⟨18, 16, .rw, 0⟩, ⟨15, 8, .rsv, 0⟩, ⟨7, 0, .rw, 0⟩]⟩,
   ⟨Reg.ARK_TEST_IN, 1, 32, 4, .none, [⟨31, 0, .rw, 0⟩]⟩,
   ⟨Reg.ARK_TEST_OUT, 1, 64, 4, .none, [⟨31, 31, .ro, 0⟩, ⟨30, 25, .rsv, 0⟩, ⟨24, 16, .ro, 0⟩, ⟨15, 15, .ro, 0⟩, ⟨14, 9, .rsv, 0⟩, ⟨8, 0, .ro, 0⟩]⟩,
   ⟨Reg.ARK_OTQ_TH, 1, 1, 4, .none, [⟨31, 24, .ro, 0⟩, ⟨23, 16, .ro, 0⟩, ⟨15, 0, .ro, 0⟩]⟩,
   ⟨Reg.ARK_OTQ_SAT, 2, 1, 8, .none, [⟨63, 0, .ro, 0⟩]⟩,
   ⟨Reg.ARK_OTQ_ZERO, 2, 1, 8, .none, [⟨63, 0, .ro, 0⟩]⟩,
   ⟨Reg.ARK_OTQ_TILE, 1, 1, 4, .tile, [⟨31, 16, .ro, 0⟩, ⟨15, 0, .ro, 0⟩]⟩,
   ⟨Reg.ARK_OTQ_HOT, 1, 1, 4, .none, [⟨31, 31, .w1c, 0⟩, ⟨30, 28, .rsv, 0⟩, ⟨27, 14, .ro, 0⟩, ⟨13, 0, .ro, 0⟩]⟩,
   ⟨Reg.ARK_ACC_SAT, 2, 1, 8, .none, [⟨63, 0, .ro, 0⟩]⟩,
   ⟨Reg.ARK_GAIN, 1, 1, 4, .array, [⟨31, 31, .ro, 0⟩, ⟨30, 28, .rsv, 0⟩, ⟨27, 16, .ro, 4095⟩, ⟨15, 0, .ro, 16384⟩]⟩]

/-- Registers of the ARK window, part 3. -/
def rowsARK2 : List RegRow :=
  [⟨Reg.ARK_RCELL, 1, 1, 4, .array, [⟨31, 6, .rsv, 0⟩, ⟨5, 0, .ro, 0⟩]⟩]

/-- The registers of the ARK window. -/
def rowsARK : List RegRow := rowsARK0 ++ rowsARK1 ++ rowsARK2

/-- Registers of the BON window, part 1. -/
def rowsBON0 : List RegRow :=
  [⟨Reg.BON_STS, 1, 1, 4, .none, [⟨31, 28, .ro, 0⟩, ⟨27, 27, .ro, 0⟩, ⟨26, 26, .ro, 0⟩, ⟨25, 0, .ro, 0⟩]⟩,
   ⟨Reg.BON_IMG, 2, 1, 8, .none, [⟨63, 0, .ro, 0⟩]⟩,
   ⟨Reg.BON_CMD, 1, 1, 4, .none, [⟨31, 31, .w1s, 0⟩, ⟨30, 28, .ro, 0⟩, ⟨27, 2, .rsv, 0⟩, ⟨1, 0, .rw, 0⟩]⟩,
   ⟨Reg.BON_ARG, 2, 1, 8, .none, [⟨63, 0, .rw, 0⟩]⟩,
   ⟨Reg.BON_RSP, 1, 16, 4, .none, [⟨31, 0, .ro, 0⟩]⟩,
   ⟨Reg.BON_TEL_IGN, 2, 1, 8, .none, [⟨63, 0, .ro, 0⟩]⟩]

/-- The registers of the BON window. -/
def rowsBON : List RegRow := rowsBON0

/-- The registers of the window that holds offset `off` (00, the table of windows; R425, R426). -/
def windowRows (off : Nat) : List RegRow :=
  match off / 0x100000 with
  | 0 => rowsGLB
  | 1 => rowsCLK
  | 2 => rowsPWR
  | 3 => rowsEVT
  | 4 => rowsHKC ++ rowsTHM
  | 5 => rowsLAP
  | 6 => rowsBIB
  | 7 => rowsQP
  | 8 => rowsKVM
  | 9 => rowsATT
  | 10 => rowsWAX
  | 11 => rowsLDR
  | 12 => rowsLNK
  | 13 => rowsPAT
  | 14 => rowsGRM
  | 15 => rowsPMC
  | 16 => rowsARK
  | 32 => rowsBON
  | _ => []

end Sys2Proof.Machine
end

