-- ==== Sys2Proof/Machine/State.lean ====
section
/-!
DEFINITION. The state of the block: every register, table, queue, buffer, mode and pin the spec gives it, as plain data,
and the queue of waiting commands.

A register's one home is the register file (`RegFile`): every register of R424 to R426 under its BAR0 offset and, for a
register read through a selector, the selector value. What the registers only show a part of (the request table, the
pools, the tiles, the arrays) has a structured home of its own, and the register is a view of it (Machine/Regs.lean).
-/

namespace Sys2Proof.Machine

/-- The reasons for which the machine stops with a fault. -/
inductive Fault where
  /-- Raised by CLOCK_SOURCE_CHANGE and CLOCK_RAMP_STEP for a domain whose planned dividers break R339, which 'gives no defined
  behaviour at the crossings between the domains concerned'. Safe: the model stops where the spec defines nothing. -/
  | clockRatioUndefined
deriving DecidableEq, Repr

/-- The reasons for which a command has no meaning. -/
inductive Refusal where
  /-- No meaning written; raised by Dispatch only. Safe. -/
  | notModelled (mnemonic : String)
deriving DecidableEq, Repr

/-! ### Registers (R4-R7, R423-R426) -/

/-- The register file. -/
structure RegFile where
  /-- Written values, by register key: selector × 2^26 + BAR0 offset. -/
  regs : Table Word
  /-- Values the configuration image gave (R389), by the same key; selector 0xFFFF_FFFF stands for every selection. Offsets
  from 0x8000_0000 carry the parameters without a register, by selector × 2^32 + offset. -/
  image : Table Word
  /-- Holding registers of R5, by the BAR0 offset of the low word. -/
  latch : Table Word
deriving DecidableEq, Repr

/-! ### PCIe function, queue pairs, vectors (09) -/

/-- The PCIe function (R167, R172, R183, R360, R414). -/
structure PcieFn where
  d3hot : Bool
  busMaster : Bool
  /-- The link is in L1 (R183). -/
  l1 : Bool
  /-- The link is in L2/L3 Ready after PME_Turn_Off (R360). -/
  l23 : Bool
  /-- PERST_N is asserted (R414). -/
  perst : Bool
  /-- Link training is allowed to run (R414). -/
  training : Bool
  /-- Configuration requests complete normally (R392 event 11). -/
  configReady : Bool
  /-- PME_En (R183). -/
  pmeEn : Bool
  /-- Vectors whose timer expired in L1 (R183), ascending. -/
  l1Vectors : List Nat
  /-- Vectors whose timer runs (R182), ascending. -/
  timers : List Nat
deriving DecidableEq, Repr

/-- The kinds of completion record, with their codes (R176). -/
inductive RecKind where
  | cmd | token | event | work
deriving DecidableEq, Repr

/-- A completion record before it takes its place in a ring (R176). -/
structure Record where
  bib : Word
  cid : BitVec 16
  kind : RecKind
  lost : Bool
  logits : Bool
  /-- The logits of a LOGITS record: index and value, in the order of R179. -/
  logitVals : List (Nat × BitVec 16)
  adj : Bool
  final : Bool
  status : Byte
  state : Nat
  cause : Nat
  /-- Tokens of a TOKEN record. -/
  toks : List Nat
  count : Nat
  result0 : DWord
  result1 : DWord
deriving DecidableEq, Repr

/-- A FENCE that holds acceptance (R181). -/
structure Fence where
  cid : BitVec 16
  work : Bool
  pend : Bool
deriving DecidableEq, Repr

/-- The counts of a queue pair's mirror (R406). -/
structure QpCounts where
  descs : Nat
  recs : Nat
  toks : Nat
  positions : Nat
  refused : Nat
  pages : Nat
  bibs : Nat
  decoding : Nat
deriving DecidableEq, Repr

/-- A queue pair beyond its registers (R170-R172, R178, R181, R406). -/
structure Qp where
  /-- SQ_TAIL as the device holds it; the head is QP_SQ_HEAD. -/
  sqTail : Nat
  /-- CQ_HEAD as the device holds it; the tail is QP_CQ_TAIL. -/
  cqHead : Nat
  /-- Records in the ring not yet returned. -/
  cqUsed : Nat
  phase : Bool
  backlog : List Record
  fence : Option Fence
  /-- CIDs of the long commands outstanding (R178). -/
  longs : List (BitVec 16)
  /-- Bibs one of whose records was dropped, and whose next record carries LOST (R172). -/
  lostBibs : List Word
  counts : QpCounts
  mirror : QpCounts
  mirrorLap : Nat
deriving DecidableEq, Repr

/-! ### Request table (08) -/

/-- State codes 0-7 (R152). -/
inductive BibState where
  | free | admitted | towing | decoding | paused | lodged | closing | faulted
deriving DecidableEq, Repr

/-- Pending transitions 0-3 (R151). -/
inductive Pend where
  | none | tow | pause | close
deriving DecidableEq, Repr

/-- CAUSE codes (R154). -/
inductive Cause where
  | none | open | grantTow | grantDecode | append | pause | resume | close | stopToken | maxLen | ttlExpired | planLodge
  | quota | restoreDone | ckptRestore | poison | uncovered | restoreFail | faultHold | released
deriving DecidableEq, Repr

/-- Whose bib it is: a queue pair's, a guest of a head-spread group, a prefix build's, a fit's (R151 GUEST, R229, R208, R247). -/
inductive BibKind where
  | normal
  | guest (origin : Nat) (originBib : Word)
  | build (pfx : Nat)
  | fit (wax : Nat)
deriving DecidableEq, Repr

/-- Where a bib's blocks are moving (R205, R206). -/
inductive Xfer where
  | none
  /-- Out of HBM, for a pause (requester 3) or a lodge (requester 4). -/
  | out (forPause : Bool)
  /-- A restore whose pages are not granted yet. -/
  | wait
  /-- A restore under way. -/
  | back
deriving DecidableEq, Repr

/-- A block of 64 positions (R189, R192): its pages in one tier, with the list entry's fields. -/
structure Block where
  pages : List Nat
  lodge : Bool
  shared : Bool
  pos0 : Nat
  /-- Positions stored, 0-64. -/
  fill : Nat
  score : Nat
  /-- Its pages that are poisoned. -/
  poison : List Nat
  /-- Selected for eviction at a cutoff: its pages are back in the pool and it stays readable until the boundary (R204). -/
  leaving : Bool
  /-- Whose keys and values it holds: a bib index, or 65,536 + a prefix index. -/
  owner : Nat
  /-- E8M0 codes of its streams, layer by layer, K heads then V heads (R190). -/
  scales : List Byte
deriving DecidableEq, Repr

/-- A request table entry (R151) with what the device keeps beside it. -/
structure Bib where
  gen : Nat
  state : BibState
  home : Hub
  prefillDone : Bool
  pend : Pend
  kind : BibKind
  restored : Bool
  logits : Bool
  spread : Bool
  guarded : Bool
  priority : Nat
  tenant : Nat
  modelSlot : Nat
  cause : Cause
  qp : Nat
  decSlot : Option Nat
  towSlot : Option Nat
  /-- none: 0xFFFF_FFFF_FFFF_FFFF. -/
  deadline : Option Nat
  admitLap : Nat
  promptLen : Nat
  promptDone : Nat
  genTokens : Nat
  maxLen : Nat
  kvBase : Nat
  pageList : Nat
  pfxHandle : Nat
  ckptPos : Nat
  ckptLap : Nat
  wax : Option Nat
  ttl : Nat
  temp : Word
  topP : Word
  topK : Nat
  stop : Option Nat
  seed : DWord
  draws : Nat
  lastToken : Nat
  /-- LOGIT_N of the OPEN (R175). -/
  logitN : Nat
  /-- CID of the command whose transition pends (R178). -/
  pendCid : BitVec 16
  /-- An APPEND waits that clears PREFILL_DONE at the cutoff (R156). -/
  appended : Bool
  /-- Input tokens not yet processed, oldest first. -/
  inputs : List Nat
  /-- Tokens gathered for the next TOKEN record (R179). -/
  batch : List Nat
  /-- The first tow grant has been made (R138, R197). -/
  granted : Bool
  /-- Counted in LAP_DL_MISS (R140). -/
  dlMissed : Bool
  /-- Consecutive cutoffs refused by the KV test alone, and blocking (R139). -/
  starve : Nat
  blocking : Bool
  /-- Positions of the tow chunk in the running lap (R225). -/
  chunk : Nat
  blocks : List Block
  /-- List pages in use, and HBM pages granted to a restore that has not used them (R192, R206). -/
  listPages : List Nat
  restorePages : List Nat
  xfer : Xfer
  lodgeLap : Nat
  /-- Marked for replay in the running lap (R224, R268). -/
  replay : Bool
  /-- Boundaries since entry to CLOSING, laps in FAULTED. -/
  closing : Nat
  faulted : Nat
  /-- Identifiers of the guests by member number (R229), and the handoff is complete. -/
  guests : List Word
  handedOff : Bool
  /-- No record of any kind is written (R186, R208). -/
  silent : Bool
  /-- Module ID of the mirror peer, once a mirror is stored (R303). -/
  mirrorPeer : Option Nat
deriving DecidableEq, Repr

/-- A free list of first-in, first-out order whose first use is in ascending order (R149, R207): indices from `fresh` up have
never been taken; `freed` are those returned, oldest first. -/
structure FreeList where
  fresh : Nat
  freed : List Nat
deriving DecidableEq, Repr

/-- A checkpoint area (R163, R301, R302). -/
structure Ckpt where
  /-- Lodge pages on the hub opposite the home hub, and on the home hub (R301). -/
  pages : List Nat
  homePages : List Nat
  pos : Nat
  lap : Nat
  /-- The entry as checkpointed, none until the first is complete. -/
  entry : Option Bib
  tail : List Nat
  poisoned : Bool
  /-- A checkpoint is due in this lap; its lodge pages are granted; its lap. -/
  due : Bool
  started : Bool
  dueLap : Nat
  /-- The entry as the boundary of that lap left it, and the tokens delivered since. -/
  next : Option Bib
  tailNext : List Nat
deriving DecidableEq, Repr

/-! ### KV memory (10) -/

/-- A pool of 64 KiB pages (R195, R213). The total is KVM_POOL_TOTAL. -/
structure Pool where
  /-- Pages in use, ascending. -/
  used : List Nat
  /-- Pages retired, ascending. -/
  retired : List Nat
deriving DecidableEq, Repr

/-- States of a prefix entry (R207). -/
inductive PrefixState where
  | free | building | ready | draining
deriving DecidableEq, Repr

/-- A prefix table entry (R207-R210). -/
structure Prefix where
  gen : Nat
  state : PrefixState
  hub : Hub
  modelSlot : Nat
  tenant : Nat
  wax : Option Nat
  length : Nat
  refs : Nat
  blocks : List Block
  poisoned : Bool
  bib : Nat
  qp : Nat
  cid : BitVec 16
  /-- A PREFIX_DROP of the build waits for the cutoff. -/
  dropped : Bool
deriving DecidableEq, Repr

/-- The KV memory (R188-R214). -/
structure Kvm where
  hbmHe : Pool
  hbmHw : Pool
  lodgeHe : Pool
  lodgeHw : Pool
  /-- A POOL_EMPTY occurred since the last cutoff, per hub (R198). -/
  emptyHe : Bool
  emptyHw : Bool
  prefixes : Table Prefix
  freePrefixes : FreeList
  /-- Stored key and value vectors: codes of one head of one position (R189); Machine/Kv.lean gives the key. -/
  vectors : Table (List Int)
deriving DecidableEq, Repr

/-! ### Planner and laps (07) -/

/-- The slot kinds of fits() (R138, R245). -/
inductive SlotKind where
  | tow | decode | fit
deriving DecidableEq, Repr

/-- A grant of the planning pass (R138). -/
structure Grant where
  bib : Word
  kind : SlotKind
  slot : Nat
  chunk : Nat
  first : Bool
  /-- The next chunk of a bib that holds the slot; it was marked for replay at the cutoff. -/
  held : Bool
  again : Bool
  /-- The bib has left the state that it held at the snapshot (R162). -/
  stale : Bool
deriving DecidableEq, Repr

/-- The planner, the lap timer and the plan in force (R124-R146). -/
structure Planner where
  grants : List Grant
  /-- Bibs the plan lodges at the boundary, by identifier (R142). -/
  lodges : List Word
  /-- Bibs whose pending transition waits for the token that the running lap still owes them (R155), by identifier. -/
  parting : List Word
  /-- Slots withheld in the planned lap by the plan, module-wide tow slot numbers (R136, R142). -/
  withheld : List Nat
  /-- Slots withheld after the plan (R127), from the ledger or R104. -/
  lateWithheld : List Nat
  /-- Planned stretch of the next lap and of the running lap, µs. -/
  stretchNext : Nat
  stretchNow : Nat
  /-- KV reads and headroom of the planned lap and grants made, HE and HW (R142), as the pass leaves them. -/
  proj : Nat × Nat
  head : Nat × Nat
  made : Nat × Nat
  /-- Tenants active at the last cutoff (R137), ascending. -/
  active : List Nat
  /-- Waves issued in the running lap, with the slots that were empty then. -/
  issued : List Nat
  /-- Token vectors that the sampler has taken in the running lap, as wave × 128 + token. -/
  sampled : List Nat
  cutoffDone : Bool
  composed : Bool
  /-- Requests to stop at the next boundary: IDLE (R358), HELD. -/
  idleRequested : Bool
  /-- A planned stretch proposed to the domain for lap T (R145): T, S. -/
  proposed : Option (Nat × Nat)
  /-- Hubs with no free reserve unit while work is uncovered (R104). -/
  fullHe : Bool
  fullHw : Bool
deriving DecidableEq, Repr

/-- The energy ledger of the running lap (R325-R332); picojoule quantities are counted in fJ. -/
structure Ledger where
  /-- E_m so far, fJ. -/
  meas : Nat
  /-- Sparsity credits accrued, fJ (R28, R42). -/
  credit : Nat
  /-- E_cap, fJ; the real time in the lap up to which it is formed, and that of the last pause point, ns. -/
  cap : Nat
  elapsed : Nat
  point : Nat
  /-- Pauses of the lap: count and total µs; µs still to run of the pause in progress. -/
  pauses : Nat
  pauseUs : Nat
  pausing : Option Nat
  /-- Planned energy of the running lap and charges of the planned lap, 256ths of a µJ. -/
  planned : Nat
  plannedNext : Nat
  /-- Tow slots withheld for energy, ascending (R332). -/
  withheld : List Nat
deriving DecidableEq, Repr

/-! ### Arrays, tiles, accumulators (02-06) -/

/-- Tile states 0-5 (R43). -/
inductive TileState where
  | inService | spare | programming | proving | fenced | retired
deriving DecidableEq, Repr

/-- Trims of one converter (R108). -/
structure Trim where
  off : Nat
  bg : Nat
  colg : Int
deriving DecidableEq, Repr

/-- A residual cell entry in use (R96). -/
structure RCell where
  delta : Int
  col : Nat
  row : Nat
deriving DecidableEq, Repr

/-- The kinds of operation that leave an output tile (R34, R40, R41). -/
inductive FireKind where
  | separate | merged | transposed | reference
deriving DecidableEq, Repr

/-- An output tile held by an array until its conversion (R36), with the alignment (R70) and the labels of its contribution. -/
structure Held where
  kind : FireKind
  nnz : Nat
  nnz2 : Nat
  wave : Nat
  token : Nat
  pair : Nat
  nibble : Bool
  align : Nat
  /-- e_max − 4 of the token at the point (R70). -/
  floor : Int
deriving DecidableEq, Repr

/-- An array (R24, R25, R36, R96, R99). -/
structure Arr where
  held : Option Held
  /-- A conversion has been made and its drain has not been followed by another issue: the array is free (R34 event 8). -/
  gain : Nat
  oor : Bool
  age : Nat
  /-- Column map entries 0-3: the logical column replaced (R25). -/
  map : List (Option Nat)
  rcells : List RCell
  /-- Reference differences since the last gain, oldest first, and the range shift they were read at. -/
  refs : List Int
  refRange : Nat
  /-- Accepted and waiting for the next bank (R120). -/
  newGain : Option Nat
  newMap : Option (List (Option Nat))
  newCells : Option (List RCell)
  /-- In the shadow bank. -/
  bankGain : Option Nat
  bankMap : Option (List (Option Nat))
  bankCells : Option (List RCell)
deriving DecidableEq, Repr

/-- An open accumulator pair of a tile (R68). -/
structure Accum where
  wave : Nat
  token : Nat
  layer : Nat
  stage : Nat
  block : Nat
  partials : List Int
  sat : List Bool
  /-- Contributions added or skipped as planned, of those that the slice map expects (R71). -/
  taken : Nat
  floor : Int
  valid : Bool
  closed : Bool
deriving DecidableEq, Repr

/-- The verdicts of a proving window (R307, PAT_TILE.PROVE). -/
inductive Verdict where
  | none | pass | marginal | fail
deriving DecidableEq, Repr

/-- A tile (R38, R43, R68, R108-R121, R298, R307). -/
structure Tile where
  state : TileState
  replaces : Option Nat
  merged : Bool
  range : Nat
  accums : Table Accum
  /-- Wave for which every partial is invalid (R37), as wave numbers. -/
  badWaves : List Nat
  /-- Hot firings of the running lap and of the last (R66). -/
  satHot : Nat
  zeroHot : Nat
  hotFirings : Nat
  lastSatHot : Nat
  lastZeroHot : Nat
  /-- Grooming (R110, R111, R116, R118). -/
  offOk : Bool
  refOk : Bool
  statOk : Bool
  /-- Consecutive disagreements of OFFSET, REFERENCE and STATISTICS, and the step measured last. -/
  retries : List Nat
  retryStep : Nat
  failed : Bool
  outOfTrim : Bool
  tempOut : Bool
  passes : Nat
  lastLap : Nat
  lastTime : Nat
  /-- A pass completed with the results accepted since the last boundary (its completion lap is the next). -/
  passPending : Bool
  passBanked : Bool
  /-- Trim sets, one list of 128 per set temperature; empty when mid-code (R117). -/
  sets : List (List Trim)
  /-- Trims in force and in the shadow bank, per converter, with BG and COLG apart; empty: mid-code (R108, R109, R120). -/
  inForce : List Trim
  bank : Option (List Trim)
  setsChanged : Bool
  sensor : Nat
  /-- STATISTICS half A as closed: per-converter variances and bad columns (R110, R115). -/
  halfA : List (Word × Word)
  badA : List (Nat × Nat)
  /-- Patrol (R298, R299, R307, R315). -/
  fences : Nat
  passTemp : Option Nat
  prove : Verdict
  proveLap : Nat
  spare : Option Nat
  plannedFence : Bool
  /-- Its reserve units have been claimed at a cutoff (R299). -/
  fenceClaimed : Bool
  /-- The replacement has completed programming and its pass (R298). -/
  spareReady : Bool
  /-- The tile holds programmed weights (R113). -/
  holdsWeights : Bool
  /-- The tile has heard of a claim that waits for a running test (R45): the state it becomes. -/
  claimed : Option TileState
deriving DecidableEq, Repr

/-- A running test operation of a die (R44). -/
structure TestOp where
  kind : FireKind
  tile : Nat
  range : Nat
  array : Nat
  codes : List (BitVec 4)
deriving DecidableEq, Repr

/-- A partial message at the home hub (R73). -/
structure Partial where
  partials : List Int
  sat : List Bool
  floor : Int
  valid : Bool
deriving DecidableEq, Repr

/-- A quantised activation block (R58-R60). -/
structure QBlock where
  scale : Byte
  /-- e_max − 4 of the token at the point (R70). -/
  floor : Int
  /-- Element values, −7 to 7 or −119 to 119. -/
  vals : List Int
  /-- Accepted residues: element, FP32 value. -/
  residues : List (Nat × Word)
deriving DecidableEq, Repr

/-- The arrays, tiles and the hub's stores of one lap's vectors (02-06). -/
structure Fabric where
  /-- By die × 8448 + tile. -/
  tiles : Table Tile
  /-- By (die × 8448 + tile) × 256 + array. -/
  arrays : Table Arr
  /-- Running test per die. -/
  tests : Table TestOp
  /-- Set temperatures per die, ascending, 1/16 °C (R117), and anchor sets. -/
  setTemps : Table (List Int)
  anchors : Table Nat
  /-- Partial messages at the hubs; Machine/Accum.lean gives the key. -/
  messages : Table Partial
  /-- Quantised input blocks; the same. -/
  blocks : Table QBlock
  /-- Stored BF16 vectors of stages and the residual streams; the same. -/
  vectors : Table (List (BitVec 16))
  /-- Reduction results of a stored vector: mean, variance, maximum, sum, index (R80-R82). -/
  reductions : Table (List Word)
  /-- Token vectors marked invalid by R104, by wave × 128 + token. -/
  invalid : List Nat
  /-- Token vectors carried as zeros since their bib read poisoned data (R212), the same. -/
  zeroed : List Nat
  /-- Residues accepted in the wave's pool, by pool (R94), and per token and layer (R60). -/
  poolUsed : Table Nat
  tokenUsed : Table Nat
  /-- Quantiser counts of the running lap per (slot, layer, point): SAT, ZERO, hot blocks (R64, R65); and the last lap's entries. -/
  qnt : Table (Nat × Nat × Nat × Nat)
  qntLast : Table (Nat × Nat × Nat × Nat)
  /-- Bib of the first block that made an entry hot, by entry. -/
  qntFirst : Table Word
  /-- Pool refusals of the running lap (LAP_MOG_POOL_LAP). -/
  poolLap : Nat
deriving DecidableEq, Repr

/-! ### Attention (11) -/

/-- The partial result of one segment for one query head and token (R219). -/
structure Segment where
  m : Option Word
  s : Word
  o : List Word
  /-- Per block: mass sum and the maximum in force. -/
  mass : List (Word × Option Word)
deriving DecidableEq, Repr

/-- The attention pipeline (R215-R232). -/
structure Attention where
  /-- The item of each busy lane. -/
  lanes : Table Sys2Proof.LaneItem
  /-- Ready items in the order of R223. -/
  ready : List Sys2Proof.LaneItem
  /-- Segment results, one list of heads' results per item; Machine/Attention.lean gives the key. -/
  segments : Table (List Segment)
  /-- Waves and layers whose items have been formed; slots and heads merged. -/
  formed : List Nat
  merged : List Nat
  /-- Gather parts received or sent in the lap: wave, layer, member, with REPLAY masks (R231). -/
  parts : List (Nat × Nat × Nat × BitVec 128)
  /-- Guests granted at the boundary of the running lap; guests whose token has come, with the domain lap that sampled it (R231). -/
  granted : List Word
  tokensIn : List (Word × Nat)
  /-- Changes of SPREAD_CTL messages that wait for their boundary: domain lap, origin, change (R231). -/
  changes : List (Nat × Nat × SpreadChange)
  /-- Spread bibs whose slot a SPREAD_CTL message has announced: bib, slot, last action, guests (R231). -/
  announced : List (Word × Nat × Nat × List Word)
  /-- Bibs replayed in the running lap for items and for spreading. -/
  replayLane : Nat
  replaySpread : Nat
  /-- Busy lane cycles in the lap. -/
  busy : Table Nat
deriving DecidableEq, Repr

/-! ### Wax sets (12) -/

/-- States 0-5 of a wax index (R240). -/
inductive WaxState where
  | absent | loading | hbm | lodge | moving | draining
deriving DecidableEq, Repr

/-- A block entry of a layer record (R236). -/
structure WaxEntry where
  vec : Nat
  block : Nat
  e : Byte
  codes : List Int
deriving DecidableEq, Repr

/-- A running fit (R246-R250). -/
structure Fit where
  steps : Nat
  lr : Word
  momentum : Word
  kappa : Byte
  mask : Byte
  priority : Nat
  layerFirst : Nat
  layerLast : Nat
  /-- Sequences, each its tokens. -/
  seqs : List (List Nat)
  done : Nat
  loss : Word
  bib : Nat
  qp : Nat
  cid : BitVec 16
  /-- FP32 masters and momenta of the trained blocks, in entry order. -/
  master : List (List Word)
  mom : List (List Word)
  /-- FIT_STORE pages reserved. -/
  pages : List Nat
  /-- A step ran in the lap that has ended, and waits for its update (R249). -/
  ran : Bool
  /-- The cutoff after the drop of the set has passed (R250). -/
  dropped : Bool
deriving DecidableEq, Repr

/-- A load of a set in progress (R244). -/
structure WaxLoad where
  lodge : Bool
  data : List Byte
  /-- 64 KiB pages taken in its pool. -/
  pages : Nat
  qp : Nat
  cid : BitVec 16
  first : Bool
  /-- Checked, and waiting for the boundary at which it takes effect. -/
  ready : Bool
deriving DecidableEq, Repr

/-- A wax index (R238-R244). -/
structure Wax where
  state : WaxState
  tenant : Nat
  modelSlot : Nat
  refs : Nat
  pages : Nat
  inLodge : Bool
  versionLap : Nat
  steps : Nat
  loss : Word
  lastUse : Nat
  /-- Layer records. -/
  layers : List (List WaxEntry)
  load : Option WaxLoad
  fit : Option Fit
  /-- A promotion or demotion runs; true: its copy is complete, and the set is usable from the next boundary (R242). -/
  move : Option Bool
deriving DecidableEq, Repr

/-! ### Loader (13) -/

/-- A stage descriptor of a layer header (R257). -/
structure Stage where
  stage : Nat
  point : Nat
  elem : Nat
  u : Nat
  rowChunks : Nat
  colBlocks : Nat
  resident : Nat
  /-- Width and DUP per row chunk. -/
  widths : List (Nat × Bool)
  /-- Column weight scales, FP32. -/
  scales : List Word
deriving DecidableEq, Repr

/-- A layer of a model (R257), with its shadow image sections as stored. -/
structure Layer where
  seed : Word
  kappa : List Byte
  eMin : Int
  hr : Nat
  sigma : Word
  stages : List Stage
  outliers : List (Nat × Nat)
  weights : List Byte
  outlierCols : List Byte
  rcell : List Byte
deriving DecidableEq, Repr

/-- A model slot (R255, R260, R263, R268). -/
structure Model where
  layout : DWord
  layers : Nat
  qheads : Nat
  kvheads : Nat
  headDim : Nat
  dModel : Nat
  ffWidth : Nat
  vocab : Nat
  key4 : Bool
  dh256 : Bool
  shadowBytes : Nat
  content : Table Layer
  embed : List Byte
  probe : List Byte
  poisonedGranules : List Nat
  /-- First tow grants and OPENs refused after an expulsion (R311), with the lap at whose end FP_DRAIN ends. -/
  expelled : Bool
  drain : Option Nat
  /-- What the last verdict makes of `expelled` at the next cutoff (R311), and the majority, in replica-list order (R310). -/
  verdictNext : Option Bool
  majority : List Nat
  /-- Layers whose tiles are being groomed after they disagreed, and those being reprogrammed (R311). -/
  suspect : List Nat
  reprogram : List Nat
  ungated : Nat
deriving DecidableEq, Repr

/-- MODE of LDR_CTL (R261). -/
inductive LdrMode where
  | load | replace | attach | release
deriving DecidableEq, Repr

/-- A directory entry (R256). -/
structure DirEntry where
  type : Nat
  layer : Nat
  offset : Nat
  len : Nat
  tag : BitVec 128
  hash : BitVec 384
deriving DecidableEq, Repr

/-- The running loader operation (R261-R269). -/
structure LdrOp where
  mode : LdrMode
  slot : Nat
  gap : Nat
  stageLodge : Bool
  dir : List DirEntry
  /-- Index of the next section; 0 is the header. -/
  next : Nat
  headerDone : Bool
  digest : BitVec 384
  key : BitVec 256
  iv : BitVec 96
  encrypted : Bool
  model : Model
  /-- Layers programmed so far; the layer whose gate is closed; a first verification failed. -/
  programmed : Nat
  gate : Option Nat
  gateAsked : Bool
  retried : Bool
  /-- The gated layer is verified; too late for the lap's bank composition. -/
  verified : Bool
  late : Bool
  aborting : Bool
  /-- The tiles of a LOAD have been claimed. -/
  claimed : Bool
  /-- The code the operation ends with once its gate has opened; 0 none. -/
  err : Nat
  /-- ATTACH of an image whose digest is the recorded one: no array is programmed (R263). -/
  matched : Bool
deriving DecidableEq, Repr

/-- The loader (R255-R270). -/
structure Loader where
  op : Option LdrOp
  slots : Table Model
  /-- Header digests of the slot records (R263). -/
  digests : Table (BitVec 384)
  /-- The staging buffer (R259). -/
  staging : Table Byte
  /-- Arrays still to be programmed, by key, in order (R265, R266). -/
  left : List Nat
  /-- A layer that is reprogrammed after an expulsion (R311): slot and layer. -/
  fix : Option (Nat × Nat)
deriving DecidableEq, Repr

/-! ### Links (14) -/

/-- A port beyond LNK_PSTS and LNK_PDELAY (R273-R281). -/
structure Port where
  expSeq : Nat
  sendSeq : Nat
  /-- Sent and not acknowledged, oldest first. -/
  retry : List Frame
  /-- DATA frames that wait for room in the retry buffer, oldest first; their SEQ is given as they are sent. -/
  wait : List Frame
  ackOwed : Bool
  /-- Messages received in part, by class. -/
  part : List (Nat × List Byte)
  /-- RETRY NACKs in a row for one SEQ. -/
  nackSeq : Nat
  nackRun : Nat
  /-- Local time of the last NACK sent, by reason. -/
  nacked : List (Nat × Nat)
  /-- A good HELLO has come in this bring-up. -/
  heard : Bool
  /-- Last TIME frame: its TX and local receive time. -/
  echoTx : Nat
  echoRx : Nat
  peerRoot : Nat
  peerHops : Nat
  peerDlap : Nat
  /-- Lanes the transmitter uses. -/
  txLanes : BitVec 5
  /-- Lanes locked in TRAIN or since (λ4 included). -/
  locked : BitVec 5
deriving DecidableEq, Repr

/-- An operation held for its boundary, or logged (R285-R288). -/
structure GopHeld where
  gop : GopPayload
  late : Bool
  superseded : Bool
deriving DecidableEq, Repr

/-- The links, global time and operations (R271-R291). -/
structure Links where
  ports : Table Port
  /-- Operations waiting for their boundary. -/
  held : List GopHeld
  /-- Log, newest first, at most 16. -/
  log : List GopHeld
  /-- Last GSEQ seen by origin; the module's own count. -/
  seen : Table Nat
  gseq : Nat
  /-- TIME frames in a row within 10 ns of the parent. -/
  lockRun : Nat
  /-- A realignment hold is due at the next boundary; a hold runs. -/
  realign : Bool
  holding : Bool
  /-- Global time offset being slewed, ns. -/
  slew : Int
  /-- Whole messages delivered, newest last: port, bytes. -/
  rx : List (Nat × List Byte)
deriving DecidableEq, Repr

/-! ### Patrol (15) -/

/-- A burst register (R313). -/
structure Burst where
  unit : Word
  kind : Byte
  newest : Report
  extra : Nat
deriving DecidableEq, Repr

/-- A mirror held for a peer's bib (R303, R304). -/
structure Mirror where
  origin : Nat
  originBib : Word
  entry : List Byte
  ckptLap : Nat
  tail : List Nat
  /-- Positions held, as ranges: first, number, KV bytes. -/
  ranges : List (Nat × Nat × List Byte)
  hub : Hub
  pages : List Nat
deriving DecidableEq, Repr

/-- Patrol (R292-R315). -/
structure Patrol where
  log : Table Report
  bursts : List (Nat × Burst)
  mirrors : List Mirror
  /-- Rebuilds made: (ORIGIN, ORIGIN_BIB). -/
  adopted : List (Nat × Word)
  /-- Fingerprints received: slot, domain lap, member, bytes (R310). -/
  prints : List (Nat × Nat × Nat × List Int)
  /-- Checkpoint bases and tails by bib index (R301, R302). -/
  ckpts : Table Ckpt
  /-- Module out of service (R293). -/
  outOfService : Bool
  /-- Tile that each mogul unit covers has begun (R101). -/
  begun : List Nat
  /-- Pseudo-channels and lodge channels fenced, join units fenced. -/
  fencedHbm : List Nat
  fencedLodge : List Nat
  fencedJoin : List Nat
  /-- Fenced tiles and units that no reserve unit covers (R104), oldest first: hub number, unit address. -/
  uncovered : List (Nat × Word)
deriving DecidableEq, Repr

/-! ### Thermal and housekeeping (16) -/

/-- A housekeeping input in its running interval (R317, R318, R323, R324). -/
structure HkcInput where
  sum : Nat
  count : Nat
  min : Nat
  max : Nat
  /-- Consecutive bad samples, and broken. -/
  bad : Nat
  broken : Bool
  level : Nat
  /-- The last sample was outside the window. -/
  outside : Bool
  /-- Samples since the last pause point: sum and count (R327). -/
  pointSum : Nat
  pointCount : Nat
deriving DecidableEq, Repr

/-- Thermal state (R316-R324). -/
structure Thermal where
  /-- By die × 64 + input. -/
  inputs : Table HkcInput
  /-- Hottest sample of the running lap: code, die, input. -/
  hottest : Option (Nat × Nat × Nat)
  tripDig : Bool
  /-- Dies whose comparators tripped. -/
  tripAna : List Nat
deriving DecidableEq, Repr

/-! ### Clocks and power (17, 18) -/

/-- The clock tree beyond CLK_DSTS (R340-R347). -/
structure Clocks where
  /-- Targets of ramps and source changes, by domain: source, divider. -/
  target : Table (Nat × Nat)
  /-- Open die gates by domain, open tile gates by die × 8448 + tile. -/
  dieGates : List Nat
  tileGates : List Nat
  /-- Last judgements of XI, RX and RI: failed. -/
  xi : Option Bool
  rx : Option Bool
  ri : Option Bool
  /-- The clock plan has been applied (R342). -/
  planned : Bool
  /-- A divider or source of the domain stepped in the running window (R343). -/
  stepped : List Nat
deriving DecidableEq, Repr

/-- The module power states (R356) with the transitions between them. -/
inductive PowerMode where
  | active | idleEntry | idle | idleExit | sleepEntry | sleep | off
deriving DecidableEq, Repr

/-- Power beyond the PWR registers (R353-R364). -/
structure Power where
  mode : PowerMode
  /-- Lap 0 has begun since start-up. -/
  begun : Bool
  /-- Rails up per reset domain is PWR_POR0/1; AON here. -/
  aonUp : Bool
  /-- The last step of the group exceeded ILIM, by die × 256 + group. -/
  overLimit : List Nat
  /-- Groups waiting to ramp, by die × 256 + group, ascending. -/
  waiting : List Nat
  /-- Groups that held a tile in service or a spare at entry to IDLE (R359). -/
  resume : List Nat
  /-- An exit waits for the entry to end (R358). -/
  exitHeld : Bool
  /-- The release waits for PERST_N (R364). -/
  awaitPerst : Bool
  /-- SLEEP is requested and waits for D3hot; SLEEP_N is asserted; a wake is held until SLEEP_MIN_MS. -/
  sleepAsked : Bool
  sleepN : Bool
  flushed : Bool
  selfRefresh : Bool
  wakePending : Bool
deriving DecidableEq, Repr

/-! ### Event gatherer (19) -/

/-- A change deferred by a hold (R371). -/
inductive Deferred where
  | setPend (src : Nat)
  | clearPend (src : Nat)
  | setMask (src : Nat)
deriving DecidableEq, Repr

/-- The event gatherer beyond the EVT registers (R366-R378). -/
structure Events where
  /-- The hold: owner, register (true: EVT_PEND), word. -/
  hold : Option (Nat × Bool × Nat)
  deferred : List Deferred
  /-- Requesters whose last hold expired. -/
  expired : List Nat
  /-- A former holder whose next write to the word is discarded: owner, register, word. -/
  discard : Option (Nat × Bool × Nat)
  /-- Claims per source in the running lap or interval (R369). -/
  claims : Table Nat
  /-- Targets whose moderation timer runs. -/
  timers : List Nat
deriving DecidableEq, Repr

/-! ### Bonos (20) -/

/-- A wave record (R130). -/
structure WaveRec where
  modelSlot : Option Nat
  spread : Nat
  start : Nat
  stop : Nat
deriving DecidableEq, Repr

/-- A TILEMAP entry (R131). -/
structure TileMap where
  die : Nat
  tile : Nat
  merged : Bool
  range : Nat
  template : Nat
  offset : Nat
  mask : BitVec 96
deriving DecidableEq, Repr

/-- A MOGUL_JOBS record (R388). -/
structure MogulRec where
  unit : Nat
  kind : Nat
  wave : Nat
  layer : Nat
  stage : Nat
  point : Nat
  pool : Nat
  start : Nat
  stop : Nat
deriving DecidableEq, Repr

/-- A WINDOWS record (R388). -/
structure Window where
  kind : Nat
  die : Nat
  tile : Nat
  period : Nat
  phase : Nat
  start : Nat
  len : Nat
deriving DecidableEq, Repr

/-- A run of the slice map with its tile head (R388, R49). -/
structure SliceRun where
  die : Nat
  tile : Nat
  slot : Nat
  layer : Nat
  stage : Nat
  first : Nat
  count : Nat
  merged : Bool
  roleset : Nat
  row : Nat
  col : Nat
deriving DecidableEq, Repr

/-- A SLOTMAP record (R387). -/
structure SlotRec where
  inUse : Bool
  replicas : List Nat
  layout : DWord
  shadowMax : Nat
deriving DecidableEq, Repr

/-- A WAXDIR record (R387). -/
structure WaxDir where
  lrec : Nat
  fitSlots : BitVec 32
  fitStore : Nat
deriving DecidableEq, Repr

/-- A PORTS entry of the link section (R277). -/
structure PortRec where
  peer : Nat
  peerPort : Nat
  classes : Byte
  spare : Bool
deriving DecidableEq, Repr

/-- The link section (R277). -/
structure LinkSec where
  moduleId : Nat
  domainId : Word
  maxHops : Nat
  size : Nat
  member : Nat
  ids : List Nat
  spreadCap : Nat
  wFp : Nat
  wMirror : Nat
  wMigrate : Nat
  ports : List PortRec
deriving DecidableEq, Repr

/-- A POOL record (R387). -/
structure PoolRec where
  hbm : Nat
  lodge : Nat
  waxHbm : Nat
  waxLodge : Nat
  store : Nat
  staging : Nat
deriving DecidableEq, Repr

/-- The applied configuration image: its sections (R129-R133, R387, R388). -/
structure Image where
  build : Nat
  /-- Divider and band per domain. -/
  clock : List (Nat × Nat)
  pools : List PoolRec
  lapMs : Nat
  fbRes : Nat
  planLead : Nat
  stretchMax : Nat
  kvStarve : Nat
  kvBudgetHe : Nat
  kvBudgetHw : Nat
  energyPlan : Nat
  waves : List WaveRec
  tileMaps : List TileMap
  tmplIndex : List (Nat × Nat)
  tmplRecs : List DWord
  mogulJobs : List MogulRec
  windows : List Window
  /-- KV_READ: wave, layer, READY, DUE, GATHER. -/
  kvRead : List (Nat × Nat × Nat × Nat × Nat)
  slices : List SliceRun
  /-- ENERGY: kind, index, value. -/
  energy : List (Nat × Nat × Nat)
  slotMap : List SlotRec
  routing : List Byte
  waxDir : List WaxDir
  link : Option LinkSec
  stewardEntry : DWord
deriving DecidableEq, Repr

/-- Bonos beyond the BON registers (R380-R398). -/
structure Bonos where
  /-- The configuration flash, byte by byte (R382). -/
  flash : Table Byte
  digests : Table (BitVec 384)
  wrapKeys : Table (BitVec 256)
  /-- The running update: LEN. -/
  update : Option Nat
  image : Option Image
  /-- Lodge capacity that training found, in 64 KiB pages; the stage of start-up is BON_STS.STAGE. -/
  lodgeHe : Nat
  lodgeHw : Nat
  trained : Bool
  stewardsReleased : Bool
  /-- Log: next entry sequence number. -/
  logNext : Nat
  telemMap : List Byte
  telemPtr : Nat
  telemAddr : Option (BitVec 7)
  /-- Laps since the last flush of the trim sets (R119). -/
  flushLaps : Nat
  /-- Log entries of Bonos' own that wait for the end of start-up, oldest first (R393, R396). -/
  owed : List Report
deriving DecidableEq, Repr

/-- Performance counters beyond the PMC registers (R399-R406). -/
structure Pmc where
  /-- Selections in force, by block × 8 + counter: hub filter, event; PMC_EVSEL shows the last one written (R401). -/
  active : Table (Nat × Nat)
  /-- Live values of PMC_LIVE, by block × 8 + counter; the WRAP bits of PMC_OVF, by block; PMC_EVT.OVF. -/
  live : Table Nat
  ovf : Table Nat
  ovfEvt : Bool
  /-- Snapshot registers of the last boundary, before the swap; the lap that ended; a swap is due. -/
  shot : Table Nat
  shotLap : Nat
  due : Bool
  /-- The image that PMC_SNAP shows (R403) and the global bank that PMC_GSNAP shows (R405), by block × 8 + counter. -/
  image : Table Nat
  bank : Table Nat
deriving DecidableEq, Repr

/-- What the block has sent out: host memory writes, interrupts, link frames and messages, pins. -/
inductive Out where
  /-- A record written into entry `index` of the completion ring of `qp` with phase `p` (R172). -/
  | record (qp : Nat) (index : Nat) (p : Bool) (r : Record)
  /-- A QUERY response written to host memory (R180). -/
  | response (addr : Nat) (bytes : List Byte)
  /-- The entries of a LOGITS record, written before it (R179). -/
  | logits (addr : Nat) (bytes : List Byte)
  /-- An MSI-X message (R182, R377). -/
  | msix (vec : Nat)
  /-- A PME message (R183). -/
  | pme
  /-- A frame sent on a port (R273, R274, R279, R282, R286, R290). -/
  | frame (port : Nat) (f : Frame)
  /-- A LANE frame, whose payload layout no rule gives: the lanes it names (R280, R281). -/
  | lanes (port : Nat) (map : BitVec 5)
  /-- An MCTP response: code and data (R395). -/
  | mctp (code : Nat) (bytes : List Byte)
  /-- Bytes returned by an I3C read (R397). -/
  | i3c (bytes : List Byte)
  /-- The value that a register read returned. -/
  | read (off : Nat) (v : Word)
  /-- The value that a claim returned to a target (R373). -/
  | claim (t : Nat) (v : Nat)
deriving DecidableEq, Repr

/-- The state of the block. -/
structure State where
  rf : RegFile
  pcie : PcieFn
  qps : Table Qp
  bibs : Table Bib
  freeBibs : FreeList
  kvm : Kvm
  plan : Planner
  ledger : Ledger
  fab : Fabric
  att : Attention
  wax : Table Wax
  ldr : Loader
  lnk : Links
  pat : Patrol
  thm : Thermal
  clk : Clocks
  pwr : Power
  evt : Events
  bon : Bonos
  pmc : Pmc
  /-- Model's own: the number of free values drawn so far. -/
  drawn : Nat
  /-- Model's own: what has been sent out, oldest first. -/
  sent : List Out
  /-- The commands that wait, first in, first out. -/
  pending : List Instr
deriving DecidableEq, Repr

/-- A pool with no page in use. -/
def emptyPool : Pool := ⟨[], []⟩

/-- Everything at its value right after the power-on reset of the always-on island, before Bonos has read the flash (R148,
R149, R207, R342, R362, R379, R383). -/
def State.reset : State where
  rf := ⟨.empty, .empty, .empty⟩
  pcie := { d3hot := false, busMaster := false, l1 := false, l23 := false, perst := false, training := false,
            configReady := false, pmeEn := false, l1Vectors := [], timers := [] }
  qps := .empty
  bibs := .empty
  freeBibs := ⟨0, []⟩
  kvm := { hbmHe := emptyPool, hbmHw := emptyPool, lodgeHe := emptyPool, lodgeHw := emptyPool, emptyHe := false,
           emptyHw := false, prefixes := .empty, freePrefixes := ⟨0, []⟩, vectors := .empty }
  plan := { grants := [], lodges := [], parting := [], withheld := [], lateWithheld := [], stretchNext := 0,
            stretchNow := 0, proj := (0, 0), head := (0, 0), made := (0, 0), active := [], issued := [], sampled := [], cutoffDone := false, composed := false, idleRequested := false,
            proposed := none, fullHe := false, fullHw := false }
  ledger := { meas := 0, credit := 0, cap := 0, elapsed := 0, point := 0, pauses := 0, pauseUs := 0, pausing := none, planned := 0,
              plannedNext := 0, withheld := [] }
  fab := { tiles := .empty, arrays := .empty, tests := .empty, setTemps := .empty, anchors := .empty,
           messages := .empty, blocks := .empty, vectors := .empty, reductions := .empty, invalid := [], zeroed := [], poolUsed := .empty, tokenUsed := .empty, qnt := .empty,
           qntLast := .empty, qntFirst := .empty, poolLap := 0 }
  att := { lanes := .empty, ready := [], segments := .empty, formed := [], merged := [], parts := [],
           granted := [], tokensIn := [], changes := [], announced := [], replayLane := 0, replaySpread := 0, busy := .empty }
  wax := .empty
  ldr := { op := none, slots := .empty, digests := .empty, staging := .empty, left := [], fix := none }
  lnk := { ports := .empty, held := [], log := [], seen := .empty, gseq := 0, lockRun := 0, realign := false,
           holding := false, slew := 0, rx := [] }
  pat := { log := .empty, bursts := [], mirrors := [], adopted := [], prints := [], ckpts := .empty,
           outOfService := false, begun := [], fencedHbm := [], fencedLodge := [], fencedJoin := [],
           uncovered := [] }
  thm := { inputs := .empty, hottest := none, tripDig := false, tripAna := [] }
  clk := { target := .empty, dieGates := [], tileGates := [], xi := none, rx := none, ri := none, planned := false,
           stepped := [] }
  pwr := { mode := .idle, begun := false, aonUp := true, overLimit := [], waiting := [], resume := [], exitHeld := false,
           awaitPerst := false, sleepAsked := false, sleepN := false, flushed := false, selfRefresh := false,
           wakePending := false }
  evt := { hold := none, deferred := [], expired := [], discard := none, claims := .empty, timers := [] }
  bon := { flash := .empty, digests := ⟨[(0, Config.rootDigest)]⟩, wrapKeys := .empty, update := none, image := none, lodgeHe := 0,
           lodgeHw := 0, trained := false, stewardsReleased := false, logNext := 0, telemMap := [], telemPtr := 0,
           telemAddr := none, flushLaps := 0, owed := [] }
  pmc := { active := .empty, live := .empty, ovf := .empty, ovfEvt := false, shot := .empty, shotLap := 0, due := false,
           image := .empty, bank := .empty }
  drawn := 0
  sent := []
  pending := []

end Sys2Proof.Machine
end

