-- ==== Sys2Proof/Machine/Table.lean ====
section
/-!
DEFINITION. The operations on the finite maps and byte memories of the state, and the list helpers of the model.

A `Table` is canonical when its keys rise strictly; a byte memory is canonical when besides no cell equals what an
unlisted address reads as. Every operation keeps both (Laws/Table.lean).
-/

namespace Sys2Proof

variable {α β : Type}

/-- The first entry with key `k`. -/
def Table.lookup (k : Nat) : List (Nat × α) → Option α
  | [] => none
  | (k', v) :: r => if k = k' then some v else Table.lookup k r

/-- `v` entered at key `k` in a rising list. -/
def Table.insert (k : Nat) (v : α) : List (Nat × α) → List (Nat × α)
  | [] => [(k, v)]
  | (k', v') :: r =>
    if k < k' then (k, v) :: (k', v') :: r
    else if k = k' then (k, v) :: r
    else (k', v') :: Table.insert k v r

/-- The entries without key `k`. -/
def Table.remove (k : Nat) : List (Nat × α) → List (Nat × α)
  | [] => []
  | (k', v') :: r => if k = k' then Table.remove k r else (k', v') :: Table.remove k r

/-- The value at key `k`. -/
def Table.get? (t : Table α) (k : Nat) : Option α := Table.lookup k t.entries

/-- The value at key `k`, or `d`. -/
def Table.getD (t : Table α) (k : Nat) (d : α) : α := (t.get? k).getD d

/-- Key `k` set to `v`. -/
def Table.put (t : Table α) (k : Nat) (v : α) : Table α := ⟨Table.insert k v t.entries⟩

/-- Key `k` removed. -/
def Table.erase (t : Table α) (k : Nat) : Table α := ⟨Table.remove k t.entries⟩

/-- Key `k` set to `v`, or removed for none. -/
def Table.set (t : Table α) (k : Nat) : Option α → Table α
  | some v => t.put k v
  | none => t.erase k

/-- The value at `k` changed by `f`; nothing when the key is not there. -/
def Table.modify (t : Table α) (k : Nat) (f : α → α) : Table α :=
  match t.get? k with
  | some v => t.put k (f v)
  | none => t

/-- Every value changed by `f`, keys kept. -/
def Table.map (t : Table α) (f : Nat → α → β) : Table β := ⟨t.entries.map fun e => (e.1, f e.1 e.2)⟩

/-- The keys, rising in a canonical table. -/
def Table.keys (t : Table α) : List Nat := t.entries.map Prod.fst

/-- The values in key order. -/
def Table.values (t : Table α) : List α := t.entries.map Prod.snd

/-- Entries that satisfy `p`. -/
def Table.filter (t : Table α) (p : Nat → α → Bool) : Table α := ⟨t.entries.filter fun e => p e.1 e.2⟩

/-- Every key of the list is above `k`. -/
def Table.above (k : Nat) : List (Nat × α) → Bool
  | [] => true
  | (k', _) :: r => decide (k < k') && Table.above k r

/-- Keys rise strictly. -/
def Table.rising : List (Nat × α) → Bool
  | [] => true
  | (k, _) :: r => Table.above k r && Table.rising r

/-- The canonical form of a table. -/
def Table.wf (t : Table α) : Bool := Table.rising t.entries

/-! ### Byte memories -/

/-- The byte at address `a` of a memory whose unlisted bytes read `d`. -/
def Memory.read (d : Byte) (m : Table Byte) (a : Nat) : Byte := m.getD a d

/-- Byte `b` written at `a`; a byte equal to `d` is not listed. -/
def Memory.write (d : Byte) (m : Table Byte) (a : Nat) (b : Byte) : Table Byte :=
  if b = d then m.erase a else m.put a b

/-- Bytes written from address `a` up. -/
def Memory.writeAll (d : Byte) (m : Table Byte) (a : Nat) : List Byte → Table Byte
  | [] => m
  | b :: r => Memory.writeAll d (Memory.write d m a b) (a + 1) r

/-- `n` bytes from address `a` up. -/
def Memory.readAll (d : Byte) (m : Table Byte) (a : Nat) : Nat → List Byte
  | 0 => []
  | n + 1 => Memory.read d m a :: Memory.readAll d m (a + 1) n

/-- The canonical form of a byte memory. -/
def Memory.wf (d : Byte) (m : Table Byte) : Bool := m.wf && m.entries.all fun e => decide (e.2 ≠ d)

/-! ### Lists -/

/-- `x` entered into a rising list of numbers, once. -/
def insertNat (x : Nat) : List Nat → List Nat
  | [] => [x]
  | y :: r => if x < y then x :: y :: r else if x = y then y :: r else y :: insertNat x r

/-- `x` entered into a list in the order of `le`, after its equals. -/
def insertBy (le : α → α → Bool) (x : α) : List α → List α
  | [] => [x]
  | y :: r => if le y x then y :: insertBy le x r else x :: y :: r

/-- The list in the order of `le`; equals keep their order. -/
def sortBy (le : α → α → Bool) (l : List α) : List α := l.foldl (fun acc x => insertBy le x acc) []

/-- `f` applied to element `i`. -/
def modifyAt (l : List α) (i : Nat) (f : α → α) : List α :=
  match l, i with
  | [], _ => []
  | x :: r, 0 => f x :: r
  | x :: r, i + 1 => x :: modifyAt r i f

/-- The numbers of `[lo, lo + n)` that are not in `l`, ascending. -/
def missing (l : List Nat) (lo : Nat) : Nat → List Nat
  | 0 => []
  | n + 1 => if lo ∈ l then missing l (lo + 1) n else lo :: missing l (lo + 1) n

/-- The `n` lowest numbers from `lo` up that are not in the rising list `l`. -/
def lowestFree : List Nat → Nat → Nat → List Nat
  | [], lo, n => List.range' lo n
  | y :: r, lo, n =>
    let g := min n (y - lo)
    List.range' lo g ++ (if g = n then [] else lowestFree r (max lo (y + 1)) (n - g))

/-! ### Bytes (R8) -/

/-- The `k` little-endian bytes of a number. -/
def leBytes (n : Nat) : Nat → List Byte
  | 0 => []
  | k + 1 => BitVec.ofNat 8 n :: leBytes (n / 256) k

/-- The number whose little-endian bytes are given. -/
def leNat : List Byte → Nat
  | [] => 0
  | b :: r => b.toNat + 256 * leNat r

/-- The number in `k` bytes from offset `o` of a byte list; bytes past its end read 0. -/
def bytesAt (l : List Byte) (o k : Nat) : Nat := leNat ((l.drop o).take k)

/-- Quotient rounded up. -/
def ceilDiv (a b : Nat) : Nat := if a % b = 0 then a / b else a / b + 1

end Sys2Proof
end

