-- ==== Sys2Proof/Machine/Regs.lean ====
section
/-!
DEFINITION. Reading and writing the register file: keys, reset values, named fields, counters and selections.

A register's key is its BAR0 offset, plus the selection times 2^26 for a register that a selector shares out.
-/

namespace Sys2Proof.Machine

/-! ### Fields of a word -/

/-- Bits `lo` to `lo + width - 1` of a number. -/
def bits (n lo width : Nat) : Nat := n / 2 ^ lo % 2 ^ width

/-- Bits `lo` to `lo + width - 1` of a word, as a number. -/
def wordBits (w : Word) (lo width : Nat) : Nat := bits w.toNat lo width

/-- The word with those bits set to `n` mod 2^width. -/
def setBits (w : Word) (lo width n : Nat) : Word :=
  BitVec.ofNat 32 ((w.toNat / 2 ^ (lo + width) * 2 ^ width + n % 2 ^ width) * 2 ^ lo + w.toNat % 2 ^ lo)

/-- A word whose bits `lo` to `lo + width - 1` are 1. -/
def fieldMask (lo width : Nat) : Word := BitVec.ofNat 32 ((2 ^ width - 1) * 2 ^ lo)

/-! ### Keys -/

/-- One selection's share of the key space: BAR0 is 64 MiB (R168). -/
def selStride : Nat := 0x4000000

/-- The selection that stands for every selection in the image's values. -/
def allSel : Nat := 0xFFFFFFFF

/-- The key of offset `off` at selection `sel`. -/
def keyAt (sel off : Nat) : Nat := sel * selStride + off

/-- A field of the register at selection `sel`. -/
def Fld.sel (f : Fld) (n : Nat) : Fld := { f with reg := keyAt n f.reg }

/-- The key of the register of Arkor die `d` whose place is that of `off` in die 0's window (R426). -/
def arkKey (off d : Nat) : Nat := off + d % 16 * 0x100000

/-- The key of word `i` of an array of `n` words from `base` up. -/
def wordAt (base n i : Nat) : Nat := base + 4 * (i % n)

/-- A field of Arkor die `d`'s window (R426). -/
def Fld.die (f : Fld) (d : Nat) : Fld := { f with reg := arkKey f.reg d }

/-- The offset of the register of Arkor die 0 that has the same place as `off` (R426). -/
def foldDie (off : Nat) : Nat :=
  if 0x1000000 ≤ off ∧ off < 0x2000000 then 0x1000000 + off % 0x100000 else off

/-! ### The register map -/

/-- The register row occupies the word at `off`. -/
def RegRow.holds (r : RegRow) (off : Nat) : Bool :=
  decide (r.off ≤ off) && decide (off < r.off + r.count * r.stride) && decide ((off - r.off) % r.stride < 4 * r.words)

/-- The row that occupies the word at `off`, if any (R423). -/
def findRow (off : Nat) : Option RegRow := (windowRows (foldDie off)).find? fun r => r.holds (foldDie off)

/-- Which word of its register `off` is, times 32. -/
def RegRow.wordBit (r : RegRow) (off : Nat) : Nat := (foldDie off - r.off) % r.stride / 4 * 32

/-- The fields' bits of access code `p` in the word at bit `b` of the register. -/
def accessMask (p : Access → Bool) (b : Nat) (fs : List FieldRow) : Nat :=
  fs.foldl (fun m f => if p f.acc then m ||| ((2 ^ (f.hi + 1 - f.lo) - 1) <<< f.lo) else m) 0 >>> b % 2 ^ 32

/-- The reset value of the word at bit `b` as the tables give it. -/
def fieldsReset (b : Nat) (fs : List FieldRow) : Nat :=
  fs.foldl (fun v f => v ||| (f.reset <<< f.lo)) 0 >>> b % 2 ^ 32

/-- The IOSC divider n of domain `d` (R338). -/
def ioscDiv (d : Nat) : Nat :=
  if d < 48 then [2, 4, 1].getD (d % 3) 1
  else if d = 50 ∨ d = 51 then 2
  else if d = 58 then 8
  else if d = 59 then 4
  else 1

/-- The module gates of SYS and AON are open until Bonos opens the others (R342). -/
def gateAtReset (d : Nat) : Bool := d == 57 || d == 58

/-- The reset values that the tables give in words: per silicon, per domain and per die, the free entries of R149, the
masks and routes of R379. A domain starts on IOSC at divider n (R342, R348). -/
def specialReset (sel off : Nat) : Option Word :=
  if off = Reg.GLB_ID then some (0x4096#16 ++ Config.silicon)
  else if off = Reg.CLK_DCFG then
    some (setBits 0#32 26 4 (ioscDiv sel))
  else if off = Reg.CLK_DSTS then
    some (setBits (setBits (setBits 0#32 31 1 (gateAtReset sel).toNat) 24 2 1) 0 10 (ioscDiv sel))
  else if off = Reg.BIB_CNT then some 65536#32
  else if off = Reg.EVT_MASK then some 0xFFFEFFFF#32
  else if off = Reg.EVT_SRC + 4 * 0x10 then some 1#32
  else if 0x1000000 ≤ off ∧ off < 0x2000000 ∧ off % 0x100000 = 0 then
    let d := off / 0x100000 - 16
    some (0x2100#16 ++ Config.arkStep (Fin.ofNat 16 d) ++ BitVec.ofNat 8 d)
  else none

/-- The reset value of the word at `off`, selection `sel`. -/
def regReset (sel off : Nat) : Word :=
  match specialReset sel off with
  | some v => v
  | none =>
    match findRow off with
    | some r => BitVec.ofNat 32 (fieldsReset (r.wordBit off) r.fields)
    | none => 0#32

/-- The value of a register that has not been written: the image's value for the selection, the image's value for every
selection, the reset value. -/
def regDefault (image : Table Word) (k : Nat) : Word :=
  match image.get? k with
  | some v => v
  | none =>
    match image.get? (keyAt allSel (k % selStride)) with
    | some v => v
    | none => regReset (k / selStride) (k % selStride)

/-! ### Reading and writing -/

/-- The word at key `k`. -/
def State.rd (s : State) (k : Nat) : Word :=
  match s.rf.regs.get? k with
  | some v => v
  | none => regDefault s.rf.image k

/-- The word at key `k` set to `v`. -/
def State.wr (s : State) (k : Nat) (v : Word) : State := { s with rf := { s.rf with regs := s.rf.regs.put k v } }

/-- A field's value. -/
def State.get (s : State) (f : Fld) : Nat := wordBits (s.rd f.reg) f.lo f.width

/-- A field set to `n`. -/
def State.put (s : State) (f : Fld) (n : Nat) : State := s.wr f.reg (setBits (s.rd f.reg) f.lo f.width n)

/-- A one-bit field is 1. -/
def State.flag (s : State) (f : Fld) : Bool := s.get f != 0

/-- A one-bit field set to 1: a holding bit rises (R366), a flag is set. -/
def State.raise (s : State) (f : Fld) : State := s.put f 1

/-- A one-bit field set to `b`. -/
def State.putB (s : State) (f : Fld) (b : Bool) : State := s.put f b.toNat

/-- The 64-bit register whose low word is at key `k` (R5). -/
def State.rd64 (s : State) (k : Nat) : Nat := (s.rd k).toNat + (s.rd (k + 4)).toNat * 2 ^ 32

/-- That register set to `n` mod 2^64. -/
def State.wr64 (s : State) (k : Nat) (n : Nat) : State :=
  (s.wr k (BitVec.ofNat 32 n)).wr (k + 4) (BitVec.ofNat 32 (n / 2 ^ 32))

/-- `n` added to a 64-bit counter, which wraps at 2^64. -/
def State.count (s : State) (k : Nat) (n : Nat) : State := s.wr64 k (s.rd64 k + n)

/-- The word of a parameter of the image that has no register, at selection `sel` (`RegFile.image`). -/
def State.param (s : State) (sel off : Nat) : Nat :=
  match s.rf.image.get? (sel * 0x100000000 + 0x80000000 + off) with
  | some v => v.toNat
  | none => 0

/-! ### Selections -/

/-- The selection through which the register with selector `k` is read now; `d` is the Arkor die of the access. -/
def State.selection (s : State) (k : Selector) (d : Nat) : Nat :=
  match k with
  | .none => 0
  | .qp => s.get Fld.QP_SEL_QP
  | .vec => s.get Fld.QP_VSEL_VECTOR
  | .pool => s.get Fld.KVM_PSEL_TIER * 2 + s.get Fld.KVM_PSEL_HUB
  | .kvTenant => s.get Fld.KVM_TSEL_TENANT
  | .kvSlot => s.get Fld.KVM_MSEL_SLOT
  | .lapTenant => s.get Fld.LAP_TSEL_TENANT
  | .qnt => s.get Fld.LAP_QNT_SEL_SLOT * 2048 + s.get Fld.LAP_QNT_SEL_LAYER * 8 + s.get Fld.LAP_QNT_SEL_POINT
  | .mogUnit => s.get Fld.LAP_MOG_USEL_UNIT
  | .lane => s.get Fld.ATT_LSEL_LANE
  | .ldrSlot => s.get Fld.LDR_SSEL_SLOT
  | .port => s.get Fld.LNK_PSEL_PORT
  | .glog => s.get Fld.LNK_GLOG_SEL_ENTRY
  | .hkcInput => s.get Fld.HKC_SEL_DIE * 64 + s.get Fld.HKC_SEL_INPUT
  | .hkcDie => s.get Fld.HKC_SEL_DIE
  | .sensor => s.get Fld.THM_SSEL_DIE * 64 + s.get Fld.THM_SSEL_INPUT
  | .domain => s.get Fld.CLK_DSEL_DOMAIN
  | .group => s.get Fld.PWR_GSEL_DIE * 256 + s.get Fld.PWR_GSEL_GROUP
  | .counter => s.get Fld.PMC_SEL_BLOCK * 8 + s.get Fld.PMC_SEL_COUNTER
  | .block => s.get Fld.PMC_SEL_BLOCK
  | .tile => s.get (Fld.ARK_TSEL_TILE.die d)
  | .array => s.get (Fld.ARK_TSEL_TILE.die d) * 256 + s.get (Fld.ARK_ASEL_ARRAY.die d)
  | .grmDie => s.get Fld.GRM_TSEL_DIE

/-- The Arkor die of a BAR0 offset in the ARK windows. -/
def offDie (off : Nat) : Nat := off / 0x100000 - 16

/-- The key of the word at BAR0 offset `off` under the selections in force. -/
def State.regKey (s : State) (off : Nat) : Nat :=
  match findRow off with
  | some r => keyAt (s.selection r.sel (offDie off)) off
  | none => off

end Sys2Proof.Machine
end

