-- ==== Sys2Proof/Machine/Update.lean ====
section
/-!
DEFINITION. Updates of one part of the state.
-/

namespace Sys2Proof.Machine

/-- The register file changed by `f`. -/
def State.modRf (s : State) (f : RegFile → RegFile) : State := { s with rf := f s.rf }

/-- The free list of the request table changed by `f`. -/
def State.modFree (s : State) (f : FreeList → FreeList) : State := { s with freeBibs := f s.freeBibs }

/-- The part `pcie` changed by `f`. -/
def State.modPcie (s : State) (f : PcieFn → PcieFn) : State := { s with pcie := f s.pcie }

/-- The part `kvm` changed by `f`. -/
def State.modKvm (s : State) (f : Kvm → Kvm) : State := { s with kvm := f s.kvm }

/-- The part `plan` changed by `f`. -/
def State.modPlan (s : State) (f : Planner → Planner) : State := { s with plan := f s.plan }

/-- The part `ledger` changed by `f`. -/
def State.modLedger (s : State) (f : Ledger → Ledger) : State := { s with ledger := f s.ledger }

/-- The part `fab` changed by `f`. -/
def State.modFab (s : State) (f : Fabric → Fabric) : State := { s with fab := f s.fab }

/-- The part `att` changed by `f`. -/
def State.modAtt (s : State) (f : Attention → Attention) : State := { s with att := f s.att }

/-- The part `ldr` changed by `f`. -/
def State.modLdr (s : State) (f : Loader → Loader) : State := { s with ldr := f s.ldr }

/-- The part `lnk` changed by `f`. -/
def State.modLnk (s : State) (f : Links → Links) : State := { s with lnk := f s.lnk }

/-- The part `pat` changed by `f`. -/
def State.modPat (s : State) (f : Patrol → Patrol) : State := { s with pat := f s.pat }

/-- The part `thm` changed by `f`. -/
def State.modThm (s : State) (f : Thermal → Thermal) : State := { s with thm := f s.thm }

/-- The part `clk` changed by `f`. -/
def State.modClk (s : State) (f : Clocks → Clocks) : State := { s with clk := f s.clk }

/-- The part `pwr` changed by `f`. -/
def State.modPwr (s : State) (f : Power → Power) : State := { s with pwr := f s.pwr }

/-- The part `evt` changed by `f`. -/
def State.modEvt (s : State) (f : Events → Events) : State := { s with evt := f s.evt }

/-- The part `bon` changed by `f`. -/
def State.modBon (s : State) (f : Bonos → Bonos) : State := { s with bon := f s.bon }

/-- The part `pmc` changed by `f`. -/
def State.modPmc (s : State) (f : Pmc → Pmc) : State := { s with pmc := f s.pmc }

/-- The request table replaced. -/
def State.setBibs (s : State) (b : Table Bib) : State := { s with bibs := b }

/-- The wax indices replaced. -/
def State.setWax (s : State) (w : Table Wax) : State := { s with wax := w }

/-- One more free value drawn. -/
def State.draw (s : State) : State := { s with drawn := s.drawn + 1 }

end Sys2Proof.Machine
end

