-- ==== Sys2Proof/Machine/Flags.lean ====
section
/-!
DEFINITION. The flags of the block: the holding bits and the levels of the event sources (R366), and the event counters
(R399, R400).
-/

namespace Sys2Proof.Machine

/-! ### Levels of the event sources -/

/-- Some HKC_WPEND bit of die `d` is set: HKC_WIN (R366). -/
def State.hkcWin (s : State) (d : Nat) : Bool :=
  s.rd (keyAt d Reg.HKC_WPEND) != 0#32 || s.rd (keyAt d Reg.HKC_WPEND_HI) != 0#32

/-- The holding bit of source `n`, where the table of R366 gives it a register bit. -/
def holdingBit (n : Nat) : Option (Nat × Nat) :=
  if 0x010 ≤ n ∧ n ≤ 0x011 then some (Reg.CLK_EVT, n - 0x010)
  else if 0x018 ≤ n ∧ n ≤ 0x01A then some (Reg.PWR_EVT, n - 0x018)
  else if 0x020 ≤ n ∧ n ≤ 0x022 then some (Reg.THM_EVT, n - 0x020)
  else if 0x030 ≤ n ∧ n ≤ 0x032 then some (Reg.LAP_EVT, n - 0x030)
  else if n = 0x034 then some (Reg.LAP_QNT_HOTSUM, 31)
  else if 0x038 ≤ n ∧ n ≤ 0x03B then some (Reg.LAP_MOG_EVT, n - 0x038)
  else if 0x040 ≤ n ∧ n ≤ 0x042 then some (Reg.LAP_EEVT, n - 0x040)
  else if 0x048 ≤ n ∧ n ≤ 0x049 then some (Reg.BIB_EVT, n - 0x048)
  else if 0x050 ≤ n ∧ n ≤ 0x051 then some (Reg.QP_EVT, n - 0x050)
  else if 0x058 ≤ n ∧ n ≤ 0x05B then some (Reg.KVM_EVT, n - 0x058)
  else if 0x060 ≤ n ∧ n ≤ 0x061 then some (Reg.ATT_EVT, n - 0x060)
  else if 0x068 ≤ n ∧ n ≤ 0x069 then some (Reg.WAX_EVT, n - 0x068)
  else if 0x070 ≤ n ∧ n ≤ 0x071 then some (Reg.LDR_EVT, n - 0x070)
  else if 0x078 ≤ n ∧ n ≤ 0x07D then some (Reg.LNK_EVT, n - 0x078)
  else if 0x080 ≤ n ∧ n ≤ 0x085 then some (Reg.PAT_EVT, n - 0x080)
  else if 0x088 ≤ n ∧ n ≤ 0x08B then some (Reg.GRM_EVT, n - 0x088)
  else if n = 0x091 then some (Reg.PMC_EVT, 1)
  else if 0x200 ≤ n ∧ n < 0x300 ∧ n % 16 = 0 then some (arkKey Reg.ARK_STS ((n - 0x200) / 16), 0)
  else if 0x200 ≤ n ∧ n < 0x300 ∧ n % 16 = 1 then some (arkKey Reg.ARK_OTQ_HOT ((n - 0x200) / 16), 31)
  else if 0x400 ≤ n ∧ n ≤ 0x41F then some (Reg.EVT_SW, n - 0x400)
  else none

/-- The die whose HKC_WIN is source `n` (R366). -/
def hkcSource (n : Nat) : Option Nat :=
  if 0x200 ≤ n ∧ n < 0x300 ∧ n % 16 = 2 then some ((n - 0x200) / 16)
  else if n = 0x302 then some 16
  else if n = 0x312 then some 17
  else none

/-- The level of source `n` (R366). A source that the table does not name never has one. -/
def State.level (s : State) (n : Nat) : Bool :=
  match holdingBit n with
  | some (reg, bit) => wordBits (s.rd reg) bit 1 != 0
  | none =>
    if n = 0x090 then s.pmc.ovfEvt else
    match hkcSource n with
    | some d => s.hkcWin d
    | none => false

/-- Bit `i` of the source word `w` of the register array at `base`. -/
def State.sourceBit (s : State) (base n : Nat) : Bool := wordBits (s.rd (wordAt base 48 (n / 32))) (n % 32) 1 != 0

/-- That bit set to `b`. -/
def State.putSource (s : State) (base n : Nat) (b : Bool) : State :=
  s.put ⟨wordAt base 48 (n / 32), n % 32, 1⟩ b.toNat

/-! ### Performance counters (R399, R400) -/

/-- `n` added to counter `c` of block `blk`: it wraps at 2^48, which sets its PMC_OVF bit and PMC_EVT.OVF. -/
def Pmc.bump (p : Pmc) (blk c n : Nat) : Pmc :=
  let v := p.live.getD (blk * 8 + c) 0 + n
  let p1 := { p with live := p.live.put (blk * 8 + c) (v % 2 ^ 48) }
  if v < 2 ^ 48 then p1 else { p1 with ovf := p1.ovf.put blk (p1.ovf.getD blk 0 ||| 2 ^ c), ovfEvt := true }

/-- The hub filter `f` counts work of hub `h`; work without a home hub passes every filter (R400). -/
def hubPasses (f : Nat) (h : Option Hub) : Bool :=
  match h with
  | none => true
  | some .he => f != 2
  | some .hw => f != 1

/-- `n` occurrences of event `code` in block `blk`, for every counter of the block that selects it. -/
def Pmc.tally (p : Pmc) (blk code n : Nat) (h : Option Hub) : Pmc :=
  (List.range 8).foldl (fun p c =>
    let e := p.active.getD (blk * 8 + c) (0, 0)
    if e.2 = code ∧ hubPasses e.1 h then p.bump blk c n else p) p

/-- The same, of the block's state. -/
def State.tally (s : State) (blk code n : Nat) (h : Option Hub) : State := 
  s.modPmc fun p => p.tally blk code n h

end Sys2Proof.Machine
end

