-- ==== Sys2Proof/Machine/Ops.lean ====
section
/-!
DEFINITION. The shared operations of the block: unit addresses, error reports and the patrol log (R312-R314), protocol
violations (R184), MSI-X vectors (R182, R183, R377), completion records and the backlog (R172, R176-R179).
-/

namespace Sys2Proof.Machine

/-! ### Small helpers -/

/-- Hub number: HE 0, HW 1. -/
def hubNum (h : Hub) : Nat :=
  match h with
  | .he => 0
  | .hw => 1

/-- The hub with number `n`. -/
def hubOf (n : Nat) : Hub := if n = 0 then .he else .hw

/-- The other hub. -/
def otherHub (h : Hub) : Hub :=
  match h with
  | .he => .hw
  | .hw => .he

/-- LAP_NUM: the lap that runs. -/
def State.lap (s : State) : Nat := s.rd64 Reg.LAP_NUM

/-- A lap runs (LAP_STS.RUNNING). -/
def State.running (s : State) : Bool := s.flag Fld.LAP_STS_RUNNING

/-- The module is halted (PWR_STS.HALTED, R362). -/
def State.halted (s : State) : Bool := s.flag Fld.PWR_STS_HALTED

/-- A snowplough pause runs: no firing, mogul job, lane item or transfer is started (R329). -/
def State.paused (s : State) : Bool := s.ledger.pausing.isSome

/-- The value at position `i` of a list of numbers, 0 past its end. -/
def nth (l : List Nat) (i : Nat) : Nat := l.getD i 0

/-! ### Unit addresses (R3) -/

/-- A unit address without an array. -/
def unitAddr (die kind index : Nat) : Word := BitVec.ofNat 32 (die * 2 ^ 27 + kind * 2 ^ 24 + index * 2 ^ 10)

/-- A whole-die address: dies 0-15, HE 16, HW 17; 31 the module. -/
def dieAddr (die : Nat) : Word := unitAddr die 0 16383

/-- A tile's address. -/
def tileAddr (die tile : Nat) : Word := unitAddr die 0 tile

/-- An array's address. -/
def arrayAddr (die tile array : Nat) : Word := unitAddr die 0 tile ||| BitVec.ofNat 32 (2 ^ 9 + array * 2)

/-- Die code of a hub. -/
def hubDie (h : Hub) : Nat := 16 + hubNum h

/-- Address of a hub unit of kind `kind` with `perHub` units of its kind on each hub (R2). -/
def hubUnit (kind perHub index : Nat) : Word := unitAddr (16 + index / perHub) kind index

/-! ### Error reports (R312-R314) -/

/-- Report severities (R312). -/
def sevInfo : Nat := 0
/-- CORRECTED. -/
def sevCorrected : Nat := 1
/-- CONTAINED. -/
def sevContained : Nat := 2
/-- DEGRADED. -/
def sevDegraded : Nat := 3
/-- FATAL. -/
def sevFatal : Nat := 4

/-- A report of the device's own, of one occurrence. NS, TEMP and RAIL are free values (log entry 5). -/
def State.mkReport (s : State) (unit : Word) (element kind sev detail : Nat) (bib : Word) : Report :=
  let e := Config.reportEnv s.drawn
  { unit := unit, element := BitVec.ofNat 16 element, kind := BitVec.ofNat 8 kind, sev := sev, count := 1, bib := bib,
    layer := 0xFFFF#16, opkind := 0#8, stage := 0xFF#8, temp := e.extractLsb' 0 16, rail := e.extractLsb' 16 16,
    lap := s.lap, ns := (e.extractLsb' 32 32).toNat, gtime := s.rd64 Reg.LNK_GTIME, lastGtime := s.rd64 Reg.LNK_GTIME,
    detail := BitVec.ofNat 64 detail }

/-- The ring positions of the entries not yet drained, oldest first. -/
def State.logPositions (s : State) : List Nat :=
  let n := 4096 - s.get Fld.PAT_LOG_FREE_VALUE
  (List.range n).map fun i => (s.get Fld.PAT_LOG_TAIL_VALUE + i) % 4096

/-- A report written at PAT_LOG_HEAD. -/
def State.logAppend (s : State) (r : Report) : State :=
  let h := s.get Fld.PAT_LOG_HEAD_VALUE % 4096
  let s1 := s.modPat fun t => { t with log := t.log.put h r }
  (s1.put Fld.PAT_LOG_HEAD_VALUE ((h + 1) % 4096)).put Fld.PAT_LOG_FREE_VALUE (s.get Fld.PAT_LOG_FREE_VALUE - 1)

/-- A drop: PAT_DROP of the severity counts 1 and LOG_STORM rises (R314). -/
def State.logDrop (s : State) (r : Report) : State :=
  ((s.count (Reg.PAT_DROP + 8 * (r.sev % 8)) 1).raise Fld.PAT_EVT_LOG_STORM).tally 24 0x11 1 none

/-- The close of a burst: its register goes to the ring with the LAST bit, carrying the occurrences that no earlier entry
counted (R313). -/
def State.closeBurst (s : State) (i : Nat) : State :=
  match s.pat.bursts.find? (fun b => b.1 == i) with
  | none => s
  | some (_, b) =>
    let s1 := s.modPat fun t => { t with bursts := t.bursts.filter (fun c => c.1 != i) }
    let r := { b.newest with sev := b.newest.sev % 8 + 128, count := b.extra }
    if s1.get Fld.PAT_LOG_FREE_VALUE = 0 then s1.logDrop r else s1.logAppend r

/-- The lowest burst register not in use. -/
def freeBurst (l : List (Nat × Burst)) : Nat :=
  match missing (l.map Prod.fst) 0 64 with
  | i :: _ => i
  | [] => 0

/-- The newest report of a burst kept in its register; a burst that has none opens one, closing the oldest of 64 (R313). -/
def State.keepBurst (s : State) (r : Report) (extra : Nat) (opens : Bool) : State :=
  match s.pat.bursts.find? (fun b => b.2.unit == r.unit && b.2.kind == r.kind) with
  | some (i, _) =>
    let kept := s.pat.bursts.map fun c =>
      if c.1 = i then (i, { c.2 with newest := r, extra := c.2.extra + extra }) else c
    s.modPat fun t => { t with bursts := kept }
  | none =>
    if opens then
      let s1 := if s.pat.bursts.length < 64 then s else
        match s.pat.bursts with
        | (i, _) :: _ => s.closeBurst i
        | [] => s
      s1.modPat fun t => { t with bursts := t.bursts ++ [(freeBurst t.bursts, ⟨r.unit, r.kind, r, extra⟩)] }
    else s

/-- A report reaches the logger (R313, R314): it merges into an entry of its UNIT and KIND within MERGE_US, enters the
ring, or, with 64 or fewer entries free, is dropped. -/
def State.logReport (s : State) (r : Report) : State :=
  let s := (s.count Reg.PAT_REPORTS 1).tally 24 0x10 1 none
  let window := s.get Fld.PAT_LOG_CFG_MERGE_US * 1000
  let hit := s.logPositions.find? fun p =>
    match s.pat.log.get? p with
    | some e => e.unit == r.unit && e.kind == r.kind && decide (e.sev < 128) && decide (r.gtime - e.gtime ≤ window)
    | none => false
  match hit with
  | some p =>
    let merge := fun (e : Report) => { e with count := e.count + r.count, lastGtime := r.lastGtime }
    let s1 := s.modPat fun t => { t with log := t.log.modify p merge }
    (s1.count Reg.PAT_MERGED 1).keepBurst r 0 true
  | none =>
    if s.get Fld.PAT_LOG_FREE_VALUE ≤ 64 then (s.logDrop r).keepBurst r r.count false
    else (s.logAppend r).keepBurst r 0 false

/-- A report of the device's own goes to the logger. -/
def State.report (s : State) (unit : Word) (element kind sev detail : Nat) (bib : Word) : State :=
  (s.logReport (s.mkReport unit element kind sev detail bib)).draw

/-- A host protocol violation with subcode `sub` (R184): a HOST_VIOLATION report with the queue pair and the BAR offset or
descriptor index, QP_VIOL and QP_EVT.VIOL. -/
def State.violation (s : State) (sub qp index : Nat) (bib : Word) : State :=
  ((s.report (dieAddr 17) sub 0x30 sevInfo (qp % 2 ^ 14 * 2 ^ 32 + index % 2 ^ 32) bib).count Reg.QP_VIOL 1).raise
    Fld.QP_EVT_VIOL

/-- The host's number among the requesters (R373). -/
def hostReq : Nat := 5

/-- Offsets that RECOVERY leaves undecoded: all but those of the GLB and BON windows (R394). -/
def State.hidden (s : State) (off : Nat) : Bool :=
  s.flag Fld.BON_STS_RECOVERY && off / 0x100000 != 0 && off / 0x100000 != 32

/-- A host write of an offset that RECOVERY leaves undecoded is ignored and logged (R394, R423). -/
def State.undecoded (s : State) (off : Nat) : State := s.violation 0x02 0 off 0#32

/-! ### Messages to peers (R273-R276) -/

/-- A port in OFF (R278). -/
def Port.new : Port :=
  { expSeq := 0, sendSeq := 0, retry := [], wait := [], ackOwed := false, part := [], nackSeq := 0, nackRun := 0,
    nacked := [], heard := false, echoTx := 0, echoRx := 0, peerRoot := 0xFFFF, peerHops := 0, peerDlap := 0, txLanes := 0#5, locked := 0#5 }

/-- Port `p`. -/
def State.port (s : State) (p : Nat) : Port := s.lnk.ports.getD p Port.new

/-- Port `p` changed by `f`. -/
def State.modPort (s : State) (p : Nat) (f : Port → Port) : State :=
  s.modLnk fun l => { l with ports := l.ports.put p (f (l.ports.getD p Port.new)) }

/-- State of port `p` (R278): 4 UP, 5 DEGRADED, 6 DOWN. -/
def State.portState (s : State) (p : Nat) : Nat := s.get (Fld.LNK_PSTS_STATE.sel p)

/-- Something sent out of the block. -/
def State.send (s : State) (o : Out) : State := { s with sent := s.sent ++ [o] }

/-- The PORTS entry of port `p` (R277). -/
def State.portRec (s : State) (p : Nat) : Option PortRec := (s.bon.image.bind (·.link)).bind fun l => l.ports[p]?

/-- Class of a message kind (R275). -/
def kindClass (kind : Nat) : Nat := kind / 256

/-- The class is enabled on the port (R277). -/
def PortRec.admits (r : PortRec) (c : Nat) : Bool := r.classes.getLsbD 0 && r.classes.getLsbD (c + 1)

/-- Bytes of frames that the retry buffer keeps. -/
def frameBytes (l : List Frame) : Nat := (l.map fun f => 24 + f.payload.length).sum

/-- The port of a peer's trunk that a message of a class takes: UP or DEGRADED, fewest bytes queued, lowest on ties (R275). -/
def State.trunkPort (s : State) (peer c : Nat) : Option Nat :=
  let ok := (List.range 32).filter fun p =>
    (s.portState p == 4 || s.portState p == 5) && match s.portRec p with
      | some r => r.peer == peer && r.admits c
      | none => false
  (sortBy (fun x y => decide (frameBytes (s.port x).wait ≤ frameBytes (s.port y).wait)) ok).head?

/-- A DATA frame leaves with the port's next SEQ, is kept until acknowledged, and carries the acknowledgement owed (R274). -/
def State.sendData (s : State) (p : Nat) (f : Frame) : State :=
  let g := { f with seq := BitVec.ofNat 32 (s.port p).sendSeq, ack := BitVec.ofNat 32 (s.port p).expSeq }
  let s1 := s.modPort p fun x =>
    { x with sendSeq := (x.sendSeq + 1) % 2 ^ 32, retry := x.retry ++ [g], ackOwed := false }
  ((s1.send (.frame p g)).count Reg.LNK_PAY_TX f.payload.length).tally 23 0x10 f.payload.length none

/-- Waiting frames leave in order while the 128 KiB retry buffer has room (R274). -/
def State.pumpList (s : State) (p : Nat) : List Frame → State
  | [] => s.modPort p fun x => { x with wait := [] }
  | f :: r =>
    if frameBytes (s.port p).retry + 24 + f.payload.length ≤ 131072 then (s.sendData p f).pumpList p r
    else s.modPort p fun x => { x with wait := f :: r }

/-- The port sends what it may. -/
def State.pump (s : State) (p : Nat) : State := s.pumpList p (s.port p).wait

/-- The domain lap of lap `n` (R284). -/
def State.dlap (s : State) (n : Nat) : Nat := (n + s.rd64 Reg.LNK_DLAP_OFS) % 2 ^ 64

/-- The DATA frames of a message of a class, 256 bytes each, the last filled up with zeros to a multiple of 4 (R273, R275). -/
def messageFrames (c : Nat) (body : List Byte) : List Frame :=
  let bytes := body ++ List.replicate ((4 - body.length % 4) % 4) 0#8
  let n := (bytes.length + 255) / 256
  (List.range n).map fun i =>
    let part := (bytes.drop (256 * i)).take 256
    { type := 1#8, flags := BitVec.ofNat 8 ((if i = 0 then 128 else 0) + (if i + 1 = n then 64 else 0) + c)
      len := BitVec.ofNat 16 part.length, seq := 0#32, ack := 0#32, payload := part, crcOk := true }

/-- Frames of class `c` take their place among those that wait: class 1 ahead of classes 2 to 4 (R276). -/
def enqueue (wait fs : List Frame) (c : Nat) : List Frame :=
  let first := wait.takeWhile fun f => f.flags.extractLsb' 0 3 == 1#3
  if c = 1 then first ++ fs ++ wait.drop first.length else wait ++ fs

/-- A message goes whole to one port of the peer's trunk (R275); with none open it is lost. -/
def State.sendMessage (s : State) (kind peer : Nat) (body : List Byte) : State :=
  match s.trunkPort peer (kindClass kind) with
  | none => s
  | some p =>
    let bytes := leBytes kind 2 ++ leBytes 0 2 ++ leBytes body.length 4 ++ leBytes (s.dlap s.lap) 8 ++ body
    (s.modPort p fun x => { x with wait := enqueue x.wait (messageFrames (kindClass kind) bytes) (kindClass kind) }).pump p

/-! ### MSI-X (R182, R183, R377) -/

/-- Offset of the vector control word of a vector's MSI-X table entry (R424). -/
def msixControl (vec : Nat) : Nat := 0x80000 + 16 * (vec % 4096) + 12

/-- The vector is masked. The PCIe specification's reset value of the mask bit is 1. DEDUCED, unsafe; log entry 10. -/
def State.masked (s : State) (vec : Nat) : Bool :=
  match s.rf.regs.get? (msixControl vec) with
  | some v => wordBits v 0 1 != 0
  | none => true

/-- The function can write to host memory and send messages: D0 with Bus Master Enable (R172, R183). -/
def State.canWrite (s : State) : Bool := s.pcie.busMaster && !s.pcie.d3hot

/-- A vector fires: its count and timer restart; the message goes out, or its pending bit is set (R182, R183). -/
def State.fireVector (s : State) (vec : Nat) : State :=
  let s1 := s.modPcie fun p => { p with timers := p.timers.filter (· != vec), l1Vectors := p.l1Vectors.filter (· != vec) }
  let s2 := s1.put (Fld.QP_VSTS_COUNTED.sel vec) 0
  if s.masked vec || !s.canWrite then s2.put (Fld.QP_VSTS_PENDING.sel vec) 1
  else ((s2.put (Fld.QP_VSTS_PENDING.sel vec) 0).send (.msix vec)).tally 18 0x12 1 none

/-- A vector counts a record written to host memory (R182). -/
def State.countVector (s : State) (vec : Nat) : State :=
  let n := s.get (Fld.QP_VSTS_COUNTED.sel vec) + 1
  let s1 := s.put (Fld.QP_VSTS_COUNTED.sel vec) n
  if s.get (Fld.QP_VCFG_COUNT.sel vec) ≤ n then s1.fireVector vec
  else s1.modPcie fun p => { p with timers := insertNat vec p.timers }

/-! ### Checkpoint tails and mirrors (R302-R304) -/

/-- The header of checkpoint mirror and migration messages (R304). -/
def mirrorHeader (op origin : Nat) (bib : Word) (lap first n tailN : Nat) : List Byte :=
  leBytes op 1 ++ leBytes 0 1 ++ leBytes origin 2 ++ leBytes bib.toNat 4 ++ leBytes lap 8 ++ leBytes first 4
  ++ leBytes n 4 ++ leBytes tailN 4 ++ leBytes 0 4

/-- A token tail: 4 bytes a token. -/
def tokenBytes (l : List Nat) : List Byte := l.flatMap fun t => leBytes t 4

/-- The identifier names the entry's current bib (R150). -/
def State.names (s : State) (id : Word) : Bool :=
  match s.bibs.get? (id.toNat % 65536) with
  | some b => b.gen == id.toNat / 65536 && b.state != .free
  | none => false

/-- Tokens written to host memory are appended to the bib's token tail and, for a guarded bib with a mirror, sent to its
mirror peer (R302, R303). -/
def State.appendTail (s : State) (id : Word) (toks : List Nat) : State :=
  let i := id.toNat % 65536
  if s.names id then
    match s.pat.ckpts.get? i with
    | some c =>
      if c.entry.isSome then
        let next := if c.due then (c.tailNext ++ toks).take 16383 else c.tailNext
        let c' := { c with tail := (c.tail ++ toks).take 16383, tailNext := next }
        let s1 := s.modPat fun t => { t with ckpts := t.ckpts.put i c' }
        match (s.bibs.get? i).bind (·.mirrorPeer) with
        | some peer =>
          s1.sendMessage 0x0301 peer
            (mirrorHeader 3 (s.get Fld.LNK_ID_MODULE_ID) id (s.dlap c.lap) 0 0 toks.length ++ tokenBytes toks)
        | none => s1
      else s
    | none => s
  else s

/-! ### Completion records (R172, R176-R179) -/

/-- A queue pair that has never been enabled. -/
def Qp.new : Qp :=
  { sqTail := 0, cqHead := 0, cqUsed := 0, phase := true, backlog := [], fence := none, longs := [], lostBibs := [],
    counts := ⟨0, 0, 0, 0, 0, 0, 0, 0⟩, mirror := ⟨0, 0, 0, 0, 0, 0, 0, 0⟩, mirrorLap := 0 }

/-- Queue pair `q` (R170). -/
def State.qp (s : State) (q : Nat) : Qp := s.qps.getD q Qp.new

/-- Queue pair `q` set to `p`. -/
def State.putQp (s : State) (q : Nat) (p : Qp) : State := { s with qps := s.qps.put q p }

/-- Queue pair `q` changed by `f`. -/
def State.modQp (s : State) (q : Nat) (f : Qp → Qp) : State := s.putQp q (f (s.qp q))

/-- A ring size from its 4-bit field: 0 stands for 16 (R170). -/
def ringSize (field : Nat) : Nat := if field = 0 then 2 ^ 16 else 2 ^ field

/-- Entries of the submission ring of `q`. -/
def State.sqSize (s : State) (q : Nat) : Nat := ringSize (s.get (Fld.QP_CFG_SQ_LOG.sel q))

/-- Entries of the completion ring of `q`. -/
def State.cqSize (s : State) (q : Nat) : Nat := ringSize (s.get (Fld.QP_CFG_CQ_LOG.sel q))

/-- QP_CFG.EN of `q`. -/
def State.enabled (s : State) (q : Nat) : Bool := s.flag (Fld.QP_CFG_EN.sel q)

/-- Records of `q` go to the ring: EN is 1, the function can write, and an entry is free (R172). -/
def State.ringOpen (s : State) (q : Nat) : Bool :=
  s.enabled q && s.canWrite && decide ((s.qp q).cqUsed < s.cqSize q)

/-- The address at which a LOGITS record at ring index `i` of `q` has its logits (R179). -/
def State.logitAddr (s : State) (q i : Nat) : Nat := s.rd64 (keyAt q Reg.QP_LOGIT_BASE) + i * 8192

/-- A logit entry: index in [23:0], BF16 logit in [47:32] (R179). -/
def logitBytes (l : List (Nat × BitVec 16)) : List Byte :=
  l.flatMap fun x => leBytes (x.1 % 2 ^ 24 + x.2.toNat * 2 ^ 32) 8

/-- A record written at the completion tail of `q`: its logits first (R179), the phase (R170), the counts and the vector
(R182). -/
def State.ringWrite (s : State) (q : Nat) (r : Record) : State :=
  let p := s.qp q
  let i := s.get (Fld.QP_CQ_TAIL_INDEX.sel q)
  let i' := (i + 1) % s.cqSize q
  let s1 := if r.logits then s.send (.logits (s.logitAddr q i) (logitBytes r.logitVals)) else s
  let s2 := s1.send (.record q i p.phase r)
  let s3 := s2.putQp q { p with cqUsed := p.cqUsed + 1, phase := if i' = 0 then !p.phase else p.phase,
                                counts := { p.counts with recs := p.counts.recs + 1 } }
  let s3 := if r.kind = .token then s3.appendTail r.bib r.toks else s3
  let s4 := (s3.put (Fld.QP_CQ_TAIL_INDEX.sel q) i').tally 18 0x11 1 none
  if s4.flag (Fld.QP_CFG_IRQ_EN.sel q) then s4.countVector (s4.get (Fld.QP_VEC_VECTOR.sel q)) else s4

/-- A record that finds the backlog full is dropped and counted; the bib's next record carries LOST (R172). -/
def State.dropRecord (s : State) (q : Nat) (r : Record) : State :=
  let s1 := s.modQp q fun p => { p with lostBibs := if r.bib ∈ p.lostBibs then p.lostBibs else r.bib :: p.lostBibs }
  let s2 := (s1.count Reg.QP_REC_DROP 1).raise (Fld.QP_STS_LOST.sel q)
  (s2.raise Fld.QP_EVT_LOST).violation 0x14 q 0 r.bib

/-- A record of queue pair `q` (R172): into the ring when it is open and no older record waits, else into the backlog of 256,
else dropped. The first record of a bib after a drop carries LOST. -/
def State.emit (s : State) (q : Nat) (r0 : Record) : State :=
  let p := s.qp q
  let r := if r0.bib ∈ p.lostBibs then { r0 with lost := true } else r0
  let kept := fun (t : State) => t.modQp q fun p => { p with lostBibs := p.lostBibs.filter (· != r0.bib) }
  if s.ringOpen q ∧ p.backlog = [] then (kept s).ringWrite q r
  else if p.backlog.length < 256 then (kept s).modQp q fun p => { p with backlog := p.backlog ++ [r] }
  else s.dropRecord q r0

/-- Backlogged records enter the ring in order while it is open (R172). -/
def State.drainList (s : State) (q : Nat) : List Record → State
  | [] => s.modQp q fun p => { p with backlog := [] }
  | r :: rest =>
    if s.ringOpen q then (s.ringWrite q r).drainList q rest
    else s.modQp q fun p => { p with backlog := r :: rest }

/-- BACKLOG_DRAIN of queue pair `q`. -/
def State.drain (s : State) (q : Nat) : State := s.drainList q (s.qp q).backlog

/-- BACKLOG_DRAIN of every queue pair. -/
def State.drainAll (s : State) : State := s.qps.keys.foldl (fun s q => s.drain q) s

end Sys2Proof.Machine
end

