-- ==== Sys2Proof/Machine/Operands.lean ====
section
/-!
DEFINITION. The operand forms of the block: the fields of descriptors (R173-R175) with the checks of R185 steps 1 and 2,
and the byte layouts of the request table entry (R151), completion records (R176, R177), QUERY responses (R210, R253),
error reports (R312) and the counter mirror (R406).
-/

namespace Sys2Proof.Machine

/-! ### Descriptors -/

/-- `k` bytes of a descriptor from offset `o` (R173). -/
def dfield (d : Desc) (o k : Nat) : Nat := bits d.toNat (8 * o) (8 * k)

/-- Command codes of R174. -/
def opcodes : List Nat := [0x01, 0x02, 0x03, 0x04, 0x05, 0x10, 0x11, 0x20, 0x21, 0x30, 0x3F]

/-- OPCODE. -/
def dOpcode (d : Desc) : Nat := dfield d 0 1
/-- FLAGS. -/
def dFlags (d : Desc) : Nat := dfield d 1 1
/-- CID. -/
def dCid (d : Desc) : BitVec 16 := BitVec.ofNat 16 (dfield d 2 2)
/-- BIB. -/
def dBib (d : Desc) : Word := BitVec.ofNat 32 (dfield d 4 4)
/-- MODEL_SLOT. -/
def dSlot (d : Desc) : Nat := bits (dfield d 4 1) 0 6
/-- WAX, at 0x1C (R175): VALID and index. -/
def dWax (d : Desc) : Option Nat :=
  let w := dfield d 0x1C 4
  if bits w 31 1 = 1 then some (bits w 0 17) else none
/-- The wax index of WAX_LOAD and WAX_FIT. -/
def dWaxIndex (d : Desc) : Nat := bits (dfield d 0x1C 4) 0 17

/-- Every one of the byte ranges (offset, length) is 0. -/
def zeros (d : Desc) (l : List (Nat × Nat)) : Bool := l.all fun r => dfield d r.1 r.2 == 0

/-- The FP32 word is finite and at least 0.0; -0.0 equals 0.0 (R175 TEMP). -/
def fpNonNeg (w : Nat) : Bool := decide (bits w 23 8 < 255) && (bits w 31 1 == 0 || bits w 0 31 == 0)

/-- The FP32 word is greater than 0 and at most 1.0 (R175 TOP_P). -/
def fpUnit (w : Nat) : Bool := decide (0 < w) && decide (w ≤ 0x3F800000)

/-- MODEL_SLOT with its reserved bits. -/
def slotOk (d : Desc) : Bool := dfield d 4 4 == bits (dfield d 4 4) 0 6

/-- The WAX field with its reserved bits. -/
def waxOk (d : Desc) : Bool := bits (dfield d 0x1C 4) 17 14 == 0

/-- Step 2 of R185 for the descriptor's own bytes: reserved fields 0 and values in range, by OPCODE (R173-R175, R208). -/
def descBytesOk (d : Desc) : Bool :=
  let f := dFlags d
  match dOpcode d with
  | 0x01 =>
    bits f 3 1 == 0 && slotOk d && waxOk d && bits (dfield d 0x20 8) 48 16 == 0
    && dfield d 0x10 4 != 0 && dfield d 0x14 4 != 0
    && fpNonNeg (dfield d 0x28 4) && fpUnit (dfield d 0x2C 4)
    && bits (dfield d 0x38 4) 24 7 == 0 && decide (dfield d 0x3C 2 ≤ 1024)
    && (if bits f 6 1 = 1 then decide (1 ≤ dfield d 0x3E 2) && decide (dfield d 0x3E 2 ≤ 1024) else dfield d 0x3E 2 == 0)
  | 0x02 => f == 0 && dfield d 0x10 4 != 0 && zeros d [(0x14, 44)]
  | 0x03 => f == 0 && dfield d 0x08 4 != 0 && zeros d [(0x0C, 52)]
  | 0x04 => f == 0 && zeros d [(0x08, 56)]
  | 0x05 => f == 0 && zeros d [(0x08, 56)]
  | 0x10 =>
    bits f 5 3 == 0 && bits f 0 2 != 3 && slotOk d && waxOk d && dfield d 0x10 4 != 0
    && decide (dfield d 0x10 4 ≤ 2097151) && zeros d [(0x14, 8), (0x20, 32)]
  | 0x11 => f == 0 && zeros d [(0x04, 4), (0x0E, 2), (0x10, 48)]
  | 0x20 => bits f 2 6 == 0 && slotOk d && waxOk d && bits (dfield d 0x1C 4) 31 1 == 0 && zeros d [(0x14, 8), (0x20, 32)]
  | 0x21 =>
    f == 0 && slotOk d && waxOk d && bits (dfield d 0x1C 4) 31 1 == 0 && decide (64 ≤ dfield d 0x10 4)
    && decide (dfield d 0x10 4 ≤ 16777216) && zeros d [(0x14, 8), (0x20, 32)]
  | 0x30 =>
    bits f 2 6 == 0 && bits f 0 2 != 0 && (bits f 0 2 == 1 || dfield d 4 4 == 0)
    && (bits f 0 2 != 1 || dfield d 0x10 8 == 0) && (bits f 0 2 != 2 || bits (dfield d 0x10 8) 48 16 == 0)
    && (bits f 0 2 != 3 || bits (dfield d 0x10 8) 17 47 == 0) && zeros d [(0x18, 40)]
    && bits (dfield d 0x08 8) 0 6 == 0
  | 0x3F => bits f 2 6 == 0 && zeros d [(0x04, 60)]
  | _ => false

/-! ### CRC-32C -/

/-- One bit of the reflected CRC-32C register (Castagnoli polynomial). -/
def crcBit (r : Word) : Word := if r.getLsbD 0 then (r >>> 1) ^^^ 0x82F63B78#32 else r >>> 1

/-- One byte of it. -/
def crcByte (r : Word) (b : Byte) : Word :=
  crcBit (crcBit (crcBit (crcBit (crcBit (crcBit (crcBit (crcBit (r ^^^ b.setWidth 32))))))))

/-- CRC-32C of bytes, with the register preset to ones and the result inverted. PRESUMED, unsafe; log entry 30. -/
def crc32c (l : List Byte) : Word := ~~~ (l.foldl crcByte 0xFFFFFFFF#32)

/-! ### Codes -/

/-- State codes (R152). -/
def stateCode : BibState → Nat
  | .free => 0 | .admitted => 1 | .towing => 2 | .decoding => 3 | .paused => 4 | .lodged => 5 | .closing => 6
  | .faulted => 7

/-- PEND codes (R151). -/
def pendCode : Pend → Nat
  | .none => 0 | .tow => 1 | .pause => 2 | .close => 3

/-- CAUSE codes (R154). -/
def causeCode : Cause → Nat
  | .none => 0 | .open => 1 | .grantTow => 2 | .grantDecode => 3 | .append => 4 | .pause => 5 | .resume => 6
  | .close => 7 | .stopToken => 9 | .maxLen => 10 | .ttlExpired => 11 | .planLodge => 12 | .quota => 13
  | .restoreDone => 14 | .ckptRestore => 15 | .poison => 16 | .uncovered => 17 | .restoreFail => 18
  | .faultHold => 19 | .released => 20

/-- Record kinds (R176). -/
def kindCode : RecKind → Nat
  | .cmd => 0 | .token => 1 | .event => 2 | .work => 3

/-! ### Status codes (R177, R211, R252) -/

/-- OK. -/
def stOk : Byte := 0x00#8
/-- BAD_OPCODE. -/
def stBadOpcode : Byte := 0x01#8
/-- BAD_PARAM. -/
def stBadParam : Byte := 0x02#8
/-- BAD_STATE. -/
def stBadState : Byte := 0x03#8
/-- NOT_OWNER. -/
def stNotOwner : Byte := 0x04#8
/-- STALE_BIB. -/
def stStaleBib : Byte := 0x05#8
/-- UNKNOWN_BIB. -/
def stUnknownBib : Byte := 0x06#8
/-- TABLE_FULL. -/
def stTableFull : Byte := 0x07#8
/-- OVERSIZE. -/
def stOversize : Byte := 0x08#8
/-- NO_MODEL. -/
def stNoModel : Byte := 0x09#8
/-- PREFIX_INVALID. -/
def stPrefixInvalid : Byte := 0x0A#8
/-- WAX_DENIED. -/
def stWaxDenied : Byte := 0x0B#8
/-- DMA_ERROR. -/
def stDmaError : Byte := 0x0C#8
/-- BUSY. -/
def stBusy : Byte := 0x0D#8
/-- EXPIRED. -/
def stExpired : Byte := 0x10#8
/-- POISONED. -/
def stPoisoned : Byte := 0x11#8
/-- FAULTED. -/
def stFaulted : Byte := 0x12#8
/-- POOL_EMPTY. -/
def stPoolEmpty : Byte := 0x20#8
/-- QUOTA_FULL. -/
def stQuotaFull : Byte := 0x21#8
/-- PREFIX_DROPPED. -/
def stPrefixDropped : Byte := 0x22#8
/-- PREFIX_TABLE_FULL. -/
def stPrefixTableFull : Byte := 0x23#8
/-- WAX_BUSY. -/
def stWaxBusy : Byte := 0x24#8
/-- WAX_FULL. -/
def stWaxFull : Byte := 0x25#8
/-- WAX_BAD_IMAGE. -/
def stWaxBadImage : Byte := 0x26#8
/-- WAX_NOFIT. -/
def stWaxNofit : Byte := 0x27#8
/-- WAX_DROPPED. -/
def stWaxDropped : Byte := 0x28#8

/-! ### The request table entry (R151) -/

/-- The identifier of entry `i` with generation `g` (R148). -/
def bibIdOf (i g : Nat) : Word := BitVec.ofNat 32 (g % 65536 * 65536 + i % 65536)

/-- PREFIX of an entry is the handle, 0 for none (R151, R207). -/
def Bib.flagsByte (b : Bib) : Nat :=
  (match b.kind with | .normal => 0 | _ => 128) + b.restored.toNat * 64 + b.logits.toNat * 32 + b.spread.toNat * 16
  + b.guarded.toNat * 8 + b.priority % 8

/-- The 128 bytes of entry `i` (R151). -/
def Bib.bytes (b : Bib) (i : Nat) : List Byte :=
  leBytes (bibIdOf i b.gen).toNat 4
  ++ leBytes (hubNum b.home * 128 + b.prefillDone.toNat * 64 + pendCode b.pend * 16 + stateCode b.state) 1
  ++ leBytes b.flagsByte 1 ++ leBytes b.tenant 2 ++ leBytes b.modelSlot 1 ++ leBytes (causeCode b.cause) 1
  ++ leBytes b.qp 2 ++ leBytes (b.decSlot.getD 0xFFFF) 2 ++ leBytes (b.towSlot.getD 0xFF) 1 ++ leBytes 0 1
  ++ leBytes (b.deadline.getD 0xFFFFFFFFFFFFFFFF) 8 ++ leBytes b.admitLap 8 ++ leBytes b.promptLen 4
  ++ leBytes b.promptDone 4 ++ leBytes b.genTokens 4 ++ leBytes b.maxLen 4 ++ leBytes b.kvBase 8
  ++ leBytes b.pageList 8 ++ leBytes b.pfxHandle 8 ++ leBytes b.ckptPos 4 ++ leBytes b.ckptLap 4
  ++ leBytes (match b.wax with | some w => 2 ^ 31 + w | none => 0) 4 ++ leBytes b.ttl 4 ++ leBytes b.temp.toNat 4
  ++ leBytes b.topP.toNat 4 ++ leBytes b.topK 4 ++ leBytes (match b.stop with | some t => 2 ^ 31 + t | none => 0) 4
  ++ leBytes b.seed.toNat 8 ++ leBytes b.draws 8 ++ leBytes b.lastToken 4 ++ leBytes 0 4

/-! ### Completion records (R176) -/

/-- The 32 bytes of a record with phase `p`. -/
def recordBytes (r : Record) (p : Bool) : List Byte :=
  leBytes r.bib.toNat 4 ++ leBytes r.cid.toNat 2
  ++ leBytes (p.toNat * 128 + kindCode r.kind * 32 + r.lost.toNat * 16 + r.logits.toNat * 8 + r.adj.toNat * 4
      + r.final.toNat * 2) 1
  ++ leBytes r.status.toNat 1 ++ leBytes r.state 1 ++ leBytes r.cause 1
  ++ leBytes (if r.kind = .token then r.toks.length else 0) 1 ++ leBytes 0 1 ++ leBytes r.count 4
  ++ (if r.kind = .token then
        leBytes (nth r.toks 0) 4 ++ leBytes (nth r.toks 1) 4 ++ leBytes (nth r.toks 2) 4 ++ leBytes (nth r.toks 3) 4
      else leBytes r.result0.toNat 8 ++ leBytes r.result1.toNat 8)

/-! ### Responses, reports, mirror -/

/-- The 32 bytes of a QUERY of KIND 2 (R210). -/
def prefixResponse (handle state hub slot tenant len refs pages : Nat) (wax : Option Nat) : List Byte :=
  leBytes handle 8 ++ leBytes state 1 ++ leBytes hub 1 ++ leBytes slot 1 ++ leBytes 0 1 ++ leBytes tenant 2
  ++ leBytes 0 2 ++ leBytes len 4 ++ leBytes refs 4 ++ leBytes pages 4
  ++ leBytes (match wax with | some w => 2 ^ 31 + w | none => 0) 4

/-- The 32 bytes of a QUERY of KIND 3 (R253). -/
def waxResponse (index state slot tenant refs pages lap steps loss : Nat) : List Byte :=
  leBytes index 4 ++ leBytes state 1 ++ leBytes slot 1 ++ leBytes tenant 2 ++ leBytes refs 4 ++ leBytes pages 4
  ++ leBytes lap 8 ++ leBytes steps 4 ++ leBytes loss 4

/-- The 64 bytes of an error report (R312). -/
def reportBytes (r : Report) : List Byte :=
  leBytes r.unit.toNat 4 ++ leBytes r.element.toNat 2 ++ leBytes r.kind.toNat 1 ++ leBytes r.sev 1 ++ leBytes r.count 4
  ++ leBytes r.bib.toNat 4 ++ leBytes r.layer.toNat 2 ++ leBytes r.opkind.toNat 1 ++ leBytes r.stage.toNat 1
  ++ leBytes r.temp.toNat 2 ++ leBytes r.rail.toNat 2 ++ leBytes r.lap 8 ++ leBytes r.ns 4 ++ leBytes 0 4
  ++ leBytes r.gtime 8 ++ leBytes r.lastGtime 8 ++ leBytes r.detail.toNat 8

/-- The 128 bytes of a queue pair's counter mirror, +0x100 to +0x17F (R406). -/
def mirrorBytes (lap : Nat) (c : QpCounts) : List Byte :=
  leBytes lap 8 ++ leBytes c.descs 8 ++ leBytes c.recs 8 ++ leBytes c.toks 8 ++ leBytes c.positions 8
  ++ leBytes c.refused 8 ++ leBytes c.pages 4 ++ leBytes c.bibs 4 ++ leBytes c.decoding 4 ++ List.replicate 68 0#8

/-- The 16 words of 64 bytes, or the 32 of 128: word `i`. -/
def wordOf (l : List Byte) (i : Nat) : Word := BitVec.ofNat 32 (bytesAt l (4 * i) 4)

end Sys2Proof.Machine
end

