-- ==== Sys2Proof/Machine/Pages.lean ====
section
/-!
DEFINITION. Pools, quotas and pages of the KV memory (R188, R195-R200, R213).
-/

namespace Sys2Proof.Machine

/-! ### Entries -/

/-- A FREE entry with generation `g`: every other field 0 or its none value (R159). -/
def Bib.free (g : Nat) : Bib :=
  { gen := g, state := .free, home := .he, prefillDone := false, pend := .none, kind := .normal, restored := false,
    logits := false, spread := false, guarded := false, priority := 0, tenant := 0, modelSlot := 0, cause := .none,
    qp := 0, decSlot := none, towSlot := none, deadline := none, admitLap := 0, promptLen := 0, promptDone := 0,
    genTokens := 0, maxLen := 0, kvBase := 0, pageList := 0, pfxHandle := 0, ckptPos := 0, ckptLap := 0, wax := none,
    ttl := 0, temp := 0#32, topP := 0#32, topK := 0, stop := none, seed := 0#64, draws := 0, lastToken := 0,
    logitN := 0, pendCid := 0xFFFF#16, appended := false, inputs := [], batch := [], granted := false,
    dlMissed := false, starve := 0, blocking := false, chunk := 0, blocks := [], listPages := [], restorePages := [],
    xfer := .none, lodgeLap := 0, replay := false, closing := 0, faulted := 0, guests := [], handedOff := false,
    silent := false, mirrorPeer := none }

/-- Entry `i` of the request table; after reset every entry is FREE with generation 1 (R148). -/
def State.bib (s : State) (i : Nat) : Bib := s.bibs.getD i (Bib.free 1)

/-- Entry `i` set to `b`. -/
def State.putBib (s : State) (i : Nat) (b : Bib) : State := { s with bibs := s.bibs.put i b }

/-- Entry `i` changed by `f`. -/
def State.modBib (s : State) (i : Nat) (f : Bib → Bib) : State := s.putBib i (f (s.bib i))

/-- The identifier of entry `i` (R148). -/
def State.bibId (s : State) (i : Nat) : Word := bibIdOf i (s.bib i).gen

/-- The index in an identifier. -/
def idIndex (id : Word) : Nat := id.toNat % 65536

/-- The generation in an identifier. -/
def idGen (id : Word) : Nat := id.toNat / 65536

/-- The entries that are not FREE, ascending. -/
def State.liveBibs (s : State) : List Nat :=
  (s.bibs.entries.filter fun e => decide (e.2.state ≠ .free)).map Prod.fst

/-- KV_BASE of entry `i` (R191). -/
def kvBaseOf (i : Nat) : Nat := i * 2 ^ 39

/-- PAGE_LIST of entry `i`: directories of 32 KiB by index in the hub's directory area, whose HBM address the spec does not
give: from 0. DESIGN CHOICE, unsafe; log entry 11. -/
def pageListOf (i : Nat) : Nat := i * 32768

/-! ### Pools -/

/-- The pool of a hub and tier. -/
def Kvm.pool (k : Kvm) (h : Hub) (lodge : Bool) : Pool :=
  match h, lodge with
  | .he, false => k.hbmHe
  | .hw, false => k.hbmHw
  | .he, true => k.lodgeHe
  | .hw, true => k.lodgeHw

/-- That pool set to `p`. -/
def Kvm.setPool (k : Kvm) (h : Hub) (lodge : Bool) (p : Pool) : Kvm :=
  match h, lodge with
  | .he, false => { k with hbmHe := p }
  | .hw, false => { k with hbmHw := p }
  | .he, true => { k with lodgeHe := p }
  | .hw, true => { k with lodgeHw := p }

/-- Selection of a pool in KVM_PSEL: TIER × 2 + HUB. -/
def poolSel (h : Hub) (lodge : Bool) : Nat := lodge.toNat * 2 + hubNum h

/-- Pages of a pool (KVM_POOL_TOTAL). -/
def State.poolTotal (s : State) (h : Hub) (lodge : Bool) : Nat := s.get (Fld.KVM_POOL_TOTAL_PAGES.sel (poolSel h lodge))

/-- Pages in use or retired, ascending. A page may be both while its channel has failed and it is not yet returned (R300). -/
def Pool.busy (p : Pool) : List Nat := p.retired.foldl (fun l x => insertNat x l) p.used

/-- Pages of the blocks selected for eviction on hub `h` (R204). -/
def State.leavingPages (s : State) (h : Hub) : List Nat :=
  s.bibs.values.flatMap fun b =>
    if b.home = h then (b.blocks.filter fun k => k.leaving).flatMap fun k => k.pages else []

/-- Pages that no request may take, ascending: those in use or retired, and from the end of the planning pass to the boundary
those of blocks selected for eviction, which count as free within the pass (R198, R204). -/
def State.poolBusy (s : State) (h : Hub) (lodge : Bool) : List Nat :=
  let b := (s.kvm.pool h lodge).busy
  if lodge || !s.plan.cutoffDone then b else (s.leavingPages h).foldl (fun l x => insertNat x l) b

/-- Free pages of a pool. -/
def State.poolFree (s : State) (h : Hub) (lodge : Bool) : Nat := s.poolTotal h lodge - (s.poolBusy h lodge).length

/-- The `n` lowest-numbered free pages (R195). -/
def State.lowestPages (s : State) (h : Hub) (lodge : Bool) (n : Nat) : List Nat := lowestFree (s.poolBusy h lodge) 0 n

/-- Pages taken from a pool. -/
def Pool.take (p : Pool) (pages : List Nat) : Pool := { p with used := pages.foldl (fun l x => insertNat x l) p.used }

/-- Pages returned to a pool; those that are poisoned are retired (R213). -/
def Pool.release (p : Pool) (pages poisoned : List Nat) : Pool :=
  { used := p.used.filter (fun x => !decide (x ∈ pages)),
    retired := (pages.filter fun x => decide (x ∈ poisoned)).foldl (fun l x => insertNat x l) p.retired }

/-- Pages returned to their pool (R213). -/
def State.releasePages (s : State) (h : Hub) (lodge : Bool) (pages poisoned : List Nat) : State :=
  (s.modKvm fun k => k.setPool h lodge ((k.pool h lodge).release pages poisoned)).tally 19 0x11 pages.length (some h)

/-- Pages taken. -/
def State.takePages (s : State) (h : Hub) (lodge : Bool) (pages : List Nat) : State :=
  (s.modKvm fun k => k.setPool h lodge ((k.pool h lodge).take pages)).tally 19 0x10 pages.length (some h)

/-! ### Formats (R188, R189) -/

/-- Modules of the head-spread group; 0 no group (R228). -/
def State.groupSize (s : State) : Nat := s.get Fld.ATT_GROUP_SIZE

/-- The bib holds only this module's share of heads: a guest, or a spread bib after its handoff (R229). -/
def Bib.sharded (b : Bib) : Bool :=
  match b.kind with
  | .guest _ _ => true
  | _ => b.spread && b.handedOff

/-- B of the bib: bytes of a stored position (R188, R189). -/
def State.bytesPer (s : State) (b : Bib) : Nat :=
  let n := s.get (Fld.KVM_MFMT_B.sel b.modelSlot)
  if b.sharded && decide (0 < s.groupSize) then n / s.groupSize else n

/-- PB of the bib: pages of a block (R189). -/
def State.pbOf (s : State) (b : Bib) : Nat :=
  if b.sharded && decide (0 < s.groupSize) then ceilDiv (64 * s.bytesPer b) 65536
  else s.get (Fld.KVM_MFMT_PB.sel b.modelSlot)

/-! ### Quotas (R199) -/

/-- HBM pages of the bib that count in its tenant's use: none of a block in transfer out of HBM, no shared page. -/
def Bib.hbmPages (b : Bib) : Nat :=
  (match b.xfer with
   | .out _ => 0
   | _ => (b.blocks.map fun k => if k.lodge || k.shared || k.leaving then 0 else k.pages.length).sum)
  + b.restorePages.length

/-- A tenant's use (R199): its bibs, the prefixes it created, and the FIT_STORE pages of its fits (R247). -/
def State.tenantUse (s : State) (t : Nat) : Nat :=
  (s.bibs.values.map fun b => if b.state ≠ .free ∧ b.tenant = t then b.hbmPages else 0).sum
  + (s.kvm.prefixes.values.map fun p =>
      if p.state ≠ .free ∧ p.tenant = t then (p.blocks.map fun k => k.pages.length).sum else 0).sum
  + (s.wax.values.map fun w =>
      match w.fit with
      | some f => if w.tenant = t then f.pages.length else 0
      | none => 0).sum

/-- KVM_QUOTA of a tenant. -/
def State.quota (s : State) (t : Nat) : Nat := s.get (Fld.KVM_QUOTA_PAGES.sel t)

/-- A tenant whose use exceeds its quota sets KVM_EVT.QUOTA_OVER (R200). -/
def State.quotaCheck (s : State) (t : Nat) : State :=
  if s.quota t < s.tenantUse t then s.raise Fld.KVM_EVT_QUOTA_OVER else s

/-! ### Requests (R196) -/

/-- The answer to a request for pages: the pages charged to the tenant, and list pages, which are not. -/
inductive PageAnswer where
  | granted (pages lists : List Nat)
  | quotaFull
  | poolEmpty
deriving DecidableEq, Repr

/-- A POOL_EMPTY: the counter, the event, and, for an HBM pool, the request of an eviction pass (R196, R198). -/
def State.poolEmpty (s : State) (h : Hub) (lodge : Bool) : State :=
  let s1 := (s.count Reg.KVM_POOL_EMPTY 1).raise Fld.KVM_EVT_POOL_EMPTY
  match h, lodge with
  | .he, false => s1.modKvm fun k => { k with emptyHe := true }
  | .hw, false => s1.modKvm fun k => { k with emptyHw := true }
  | _, true => s1

/-- A request of `n` pages charged to tenant `t` and of `lists` list pages from the HBM pool of hub `h`: granted whole or
refused, first by the quota, then by the pool (R196). -/
def State.requestHbm (s : State) (h : Hub) (t n lists : Nat) : PageAnswer × State :=
  if s.quota t < s.tenantUse t + n then (.quotaFull, s.count Reg.KVM_QUOTA_REF 1)
  else if s.poolFree h false < n + lists then (.poolEmpty, s.poolEmpty h false)
  else
    let p := s.lowestPages h false (n + lists)
    (.granted (p.take n) (p.drop n), s.takePages h false p)

/-- A request of `n` lodge pages (requesters 3 to 5). -/
def State.requestLodge (s : State) (h : Hub) (n : Nat) : PageAnswer × State :=
  if s.poolFree h true < n then (.poolEmpty, s.poolEmpty h true)
  else
    let p := s.lowestPages h true n
    (.granted p [], s.takePages h true p)

/-! ### A bib's blocks -/

/-- Positions that the bib's allocation covers, counted from position 0 (R197). -/
def Bib.covers (b : Bib) : Nat :=
  match b.blocks.getLast? with
  | some k => k.pos0 + 64
  | none => 0

/-- Resident positions: those stored in the bib's blocks (R193). -/
def Bib.resident (b : Bib) : Nat := (b.blocks.map fun k => k.fill).sum

/-- List pages that `n` pages of a region need (R192). -/
def listPagesFor (n : Nat) : Nat := ceilDiv n 2048

/-- An empty block at position `pos` on the given pages. -/
def emptyBlock (owner pos : Nat) (pages : List Nat) : Block :=
  { pages := pages, lodge := false, shared := false, pos0 := pos, fill := 0, score := 0, poison := [], leaving := false, owner := owner,
    scales := [] }

/-- A run of pages cut into blocks of `pb`, from position `pos`. -/
def cutBlocks (owner pos pb : Nat) (pages : List Nat) : Nat → List Block
  | 0 => []
  | k + 1 => emptyBlock owner pos (pages.take pb) :: cutBlocks owner (pos + 64) pb (pages.drop pb) k

/-- The allocation of bib `i` extended to cover `n` positions; nothing is requested when it already does. -/
def State.growTo (s : State) (i n : Nat) : PageAnswer × State :=
  let b := s.bib i
  let k := ceilDiv (n - b.covers) 64
  if k = 0 then (.granted [] [], s)
  else
    let pb := s.pbOf b
    let lists := listPagesFor ((b.blocks.length + k) * pb) - b.listPages.length
    match s.requestHbm b.home b.tenant (k * pb) lists with
    | (.granted ps ls, s1) =>
      (.granted ps ls,
        s1.modBib i fun b => { b with blocks := b.blocks ++ cutBlocks i b.covers pb ps k, listPages := b.listPages ++ ls })
    | (a, s1) => (a, s1)

/-- A block's own pages returned to their pool; those of a block selected for eviction already are (R204). -/
def State.freeBlock (s : State) (h : Hub) (k : Block) : State :=
  if k.shared || k.leaving then s else s.releasePages h k.lodge k.pages k.poison

/-- The list pages beyond those that the bib's blocks need return to the HBM pool (R194). -/
def State.trimLists (s : State) (i : Nat) : State :=
  let b := s.bib i
  let n := listPagesFor (b.blocks.length * s.pbOf b)
  (s.releasePages b.home false (b.listPages.drop n) []).modBib i fun b => { b with listPages := b.listPages.take n }

/-- Every block that holds no stored position is unmapped and its pages return (R197). -/
def State.unmapEmpty (s : State) (i : Nat) : State :=
  let b := s.bib i
  let s1 := (b.blocks.filter fun k => decide (k.fill = 0)).foldl (fun s k => s.freeBlock b.home k) s
  (s1.modBib i fun b => { b with blocks := b.blocks.filter fun k => decide (k.fill ≠ 0) }).trimLists i

/-- Every page of the bib returns to its pool: its blocks, its list pages and the pages of a restore (R159). -/
def State.freeKv (s : State) (i : Nat) : State :=
  let b := s.bib i
  let s1 := b.blocks.foldl (fun s k => s.freeBlock b.home k) s
  let s2 := s1.releasePages b.home false (b.listPages ++ b.restorePages) []
  s2.modBib i fun b => { b with blocks := [], listPages := [], restorePages := [], xfer := .none }

end Sys2Proof.Machine
end

