-- ==== Sys2Proof/Machine/Bibs.lean ====
section
/-!
DEFINITION. The request table: free list, records of a bib, its transitions and what they release (R148-R163, R178-R180,
R197, R205-R209).
-/

namespace Sys2Proof.Machine

/-! ### Free lists (R149, R207) -/

/-- The head of a free list over `size` indices. -/
def FreeList.head (f : FreeList) (size : Nat) : Option Nat :=
  if f.fresh < size then some f.fresh else f.freed.head?

/-- The list without its head. -/
def FreeList.pop (f : FreeList) (size : Nat) : FreeList :=
  if f.fresh < size then { f with fresh := f.fresh + 1 } else { f with freed := f.freed.tail }

/-- An index joins the tail. -/
def FreeList.push (f : FreeList) (i : Nat) : FreeList := { f with freed := f.freed ++ [i] }

/-- The generation after `g`: 0xFFFF wraps to 0x0001 (R148). -/
def nextGen (g : Nat) : Nat := if g = 0xFFFF then 1 else g + 1

/-! ### Records of a bib -/

/-- A record without DATA. -/
def plainRecord (bib : Word) (cid : BitVec 16) (kind : RecKind) (status : Byte) (state cause count : Nat) : Record :=
  { bib := bib, cid := cid, kind := kind, lost := false, logits := false, logitVals := [], adj := false, final := false,
    status := status, state := state, cause := cause, toks := [], count := count, result0 := 0#64, result1 := 0#64 }

/-- A record of entry `i`; guests and internal bibs are never named in a record, nor are bibs closed by a function level
reset (R157, R186, R208). -/
def State.emitFor (s : State) (i : Nat) (r : Record) : State :=
  let b := s.bib i
  match b.kind with
  | .normal => if b.silent then s else s.emit b.qp r
  | _ => s

/-- The tokens gathered for entry `i` leave in a TOKEN record, with the logits of a LOGITS bib (R179). -/
def State.tokenRecord (s : State) (i : Nat) (vals : List (Nat × BitVec 16)) : State :=
  let b := s.bib i
  if b.batch = [] then s
  else
    let r0 := plainRecord (s.bibId i) 0xFFFF#16 .token stOk (stateCode b.state) 0 b.genTokens
    let r := { r0 with toks := b.batch, logits := b.logits, logitVals := vals }
    let s1 := (s.modBib i fun b => { b with batch := [] }).emitFor i r
    match b.kind with
    | .normal => s1.modQp b.qp fun p => { p with counts := { p.counts with toks := p.counts.toks + b.batch.length } }
    | _ => s1

/-- The tokens gathered for entry `i` leave in a TOKEN record (R179). -/
def State.flushTokens (s : State) (i : Nat) : State := s.tokenRecord i []

/-- The EVENT record of the transition that entry `i` has just made (R178). -/
def State.eventRecord (s : State) (i : Nat) (cid : BitVec 16) (status : Byte) (final : Bool) (result0 : Nat) : State :=
  let b := s.bib i
  let r := plainRecord (s.bibId i) cid .event status (stateCode b.state) (causeCode b.cause) b.genTokens
  s.emitFor i { r with final := final, result0 := BitVec.ofNat 64 result0 }

/-! ### Transitions (R153) -/

/-- The state of entry `i` changes, for a cause; a grant that the plan made it is stale (R162). -/
def State.transition (s : State) (i : Nat) (st : BibState) (c : Cause) : State :=
  let s1 := (s.modBib i fun b => { b with state := st, cause := c }).tally 17 0x12 1 (some (s.bib i).home)
  s1.modPlan fun p => { p with grants := p.grants.map fun g => if g.bib = s.bibId i then { g with stale := true } else g }

/-- Slots and tow chunk released (R159). -/
def Bib.noSlots (b : Bib) : Bib := { b with decSlot := none, towSlot := none, chunk := 0 }

/-! ### What a bib refers to -/

/-- Prefix entry `p`. -/
def Prefix.free (g : Nat) : Prefix :=
  { gen := g, state := .free, hub := .he, modelSlot := 0, tenant := 0, wax := none, length := 0, refs := 0, blocks := [],
    poisoned := false, bib := 0, qp := 0, cid := 0#16, dropped := false }

/-- Prefix entry `p`; generations as R148. -/
def State.pfx (s : State) (p : Nat) : Prefix := s.kvm.prefixes.getD p (Prefix.free 1)

/-- Prefix entry `p` set. -/
def State.putPfx (s : State) (p : Nat) (x : Prefix) : State := s.modKvm fun k => { k with prefixes := k.prefixes.put p x }

/-- A wax index that is ABSENT. -/
def Wax.absent : Wax :=
  { state := .absent, tenant := 0, modelSlot := 0, refs := 0, pages := 0, inLodge := false, versionLap := 0, steps := 0,
    loss := 0#32, lastUse := 0, layers := [], load := none, fit := none, move := none }

/-- Wax index `w`. -/
def State.waxAt (s : State) (w : Nat) : Wax := s.wax.getD w Wax.absent

/-- Wax index `w` set; an ABSENT one is not listed. -/
def State.putWax (s : State) (w : Nat) (x : Wax) : State :=
  s.setWax (if x.state = .absent then s.wax.erase w else s.wax.put w x)

/-- A set in DRAINING whose REFS is 0 is freed, with the pages of a move that has completed (R240, R244). -/
def State.waxSettle (s : State) (w : Nat) : State :=
  let x := s.waxAt w
  if x.state = .draining ∧ x.refs = 0 ∧ x.fit = none ∧ x.load = none ∧ x.move = none then s.putWax w Wax.absent else s

/-- A selection of wax set `w` ends: REFS falls, and a DRAINING set with none is freed (R240). -/
def State.dropWax (s : State) (w : Option Nat) : State :=
  match w with
  | some w => (s.putWax w { (s.waxAt w) with refs := (s.waxAt w).refs - 1 }).waxSettle w
  | none => s

/-- A selection of wax set `w` begins (R240). -/
def State.takeWax (s : State) (w : Option Nat) : State :=
  match w with
  | some w => s.putWax w { (s.waxAt w) with refs := (s.waxAt w).refs + 1 }
  | none => s

/-- A prefix whose REFS is 0: its pages are freed, its wax selection ends and the entry joins the free list (R207, R209). -/
def State.pfxSettle (s : State) (p : Nat) : State :=
  let x := s.pfx p
  if x.refs = 0 ∧ (x.state = .draining ∨ x.state = .ready) then
    let s1 := x.blocks.foldl (fun s k => s.releasePages x.hub false k.pages k.poison) s
    let s2 := s1.putPfx p (Prefix.free (nextGen x.gen))
    (s2.modKvm fun k => { k with freePrefixes := k.freePrefixes.push p }).dropWax x.wax
  else s

/-- A reference to the prefix with handle `h` is dropped (R209); 0 names none. -/
def State.dropPrefix (s : State) (h : Nat) : State :=
  if h = 0 then s
  else
    let p := h % 65536
    (s.putPfx p { (s.pfx p) with refs := (s.pfx p).refs - 1 }).pfxSettle p

/-- The mirror of entry `i` is dropped at its peer (R303). -/
def State.dropMirror (s : State) (i : Nat) : State :=
  match (s.bib i).mirrorPeer with
  | some peer =>
    (s.sendMessage 0x0301 peer (mirrorHeader 5 (s.get Fld.LNK_ID_MODULE_ID) (s.bibId i) 0 0 0 0)).modBib i
      fun b => { b with mirrorPeer := none }
  | none => s

/-- Keys and values held under owner `o` are forgotten; the key puts the owner above 2^64 positions and streams. -/
def State.forgetVectors (s : State) (o : Nat) : State :=
  s.modKvm fun k => { k with vectors := k.vectors.filter fun key _ => key / 2 ^ 64 != o }

/-- Owner number under which the checkpoint copy of entry `i` is held. -/
def ckptOwner (i : Nat) : Nat := 262144 + i

/-- The checkpoint area of entry `i` is freed, with its mirror (R159). -/
def State.freeCkpt (s : State) (i : Nat) : State :=
  let s1 := match s.pat.ckpts.get? i with
    | some c =>
      let h := (s.bib i).home
      ((((s.releasePages (otherHub h) true c.pages []).releasePages h true c.homePages []).modPat
        fun t => { t with ckpts := t.ckpts.erase i }).forgetVectors (ckptOwner i))
    | none => s
  s1.dropMirror i

/-- What a bib gives up on entry to CLOSING or FAULTED: slots, pages, prefix and wax references (R159, R209, R240). -/
def State.release (s : State) (i : Nat) : State :=
  let b := s.bib i
  let s1 := (s.freeKv i).modBib i fun b => { b.noSlots with pend := .none, replay := false }
  ((s1.dropPrefix b.pfxHandle).dropWax b.wax).forgetVectors i

/-! ### Entries to the states -/

/-- Entry to CLOSING (R153, R159); `cid` is that of a pending CLOSE, none at the acceptance of a command. -/
def State.enterClosing (s : State) (i : Nat) (c : Cause) (cid : Option (BitVec 16)) : State :=
  let s1 := ((s.flushTokens i).release i).freeCkpt i
  let s2 := (s1.transition i .closing c).modBib i fun b => { b with closing := 0 }
  match cid with
  | some x => s2.eventRecord i x stOk false 0
  | none => s2

/-- Entry to FREE (R148, R149, R159): the generation rises, every other field takes its reset value, the index joins the
tail of the free list. -/
def State.enterFree (s : State) (i : Nat) : State :=
  let s1 := s.freeCkpt i
  let s2 := (s1.putBib i (Bib.free (nextGen (s.bib i).gen))).tally 17 0x12 1 (some (s.bib i).home)
  s2.modFree fun f => f.push i

/-- A bib's last record, of its entry to FREE: STATE 0 and FINAL, under its own identifier (R178). -/
def State.finalRecord (s : State) (i : Nat) (c : Cause) (status : Byte) : State :=
  s.emitFor i { plainRecord (s.bibId i) 0xFFFF#16 .event status 0 (causeCode c) (s.bib i).genTokens with final := true }

/-- Entry to FAULTED (R153, R159), which gives up what the bib holds unless it is in CLOSING and already has: the event, the EVENT record with the status of the cause (R177). -/
def State.enterFaulted (s : State) (i : Nat) (c : Cause) (result0 : Nat) : State :=
  let s1 := if (s.bib i).state = .closing then s else (s.flushTokens i).release i
  let s2 := ((s1.transition i .faulted c).modBib i fun b => { b with faulted := 0 }).raise Fld.BIB_EVT_FAULTED
  s2.eventRecord i 0xFFFF#16 (if c = .poison then stPoisoned else stFaulted) false result0

/-- Blocks of the bib that a copy out of HBM moves: its own, in HBM, holding positions (R197, R206). -/
def Block.movesOut (k : Block) : Bool := !k.lodge && !k.shared && decide (k.fill ≠ 0)

/-- The bib has blocks to copy out of HBM. -/
def Bib.hasOut (b : Bib) : Bool := b.blocks.any Block.movesOut

/-- Blocks of the bib in the lodge tier. -/
def Bib.lodgeBlocks (b : Bib) : Nat := (b.blocks.filter fun k => k.lodge).length

/-- The pages granted to a restore return to the HBM pool. -/
def State.dropRestore (s : State) (i : Nat) : State :=
  let b := s.bib i
  (s.releasePages b.home false b.restorePages []).modBib i fun b => { b with restorePages := [] }

/-- Leaving blocks are unmapped and slots released before the KV of entry `i` leaves HBM. -/
def State.parkKv (s : State) (i : Nat) (forPause : Bool) : State :=
  let s1 := (s.dropRestore i).modBib i fun b =>
    { b.noSlots with blocks := b.blocks.filter (fun k => !k.leaving), restored := false, replay := false }
  let s2 := s1.unmapEmpty i
  s2.modBib i fun b => { b with xfer := if b.hasOut then .out forPause else if forPause then .none else .wait }

/-- Entry to PAUSED (R153, R197, R206); `cid` is that of a pending PAUSE, none at acceptance. -/
def State.enterPaused (s : State) (i : Nat) (cid : Option (BitVec 16)) : State :=
  let s1 := (s.flushTokens i).parkKv i true
  let s2 := (s1.transition i .paused .pause).modBib i fun b => { b with pend := .none }
  match cid with
  | some x => s2.eventRecord i x stOk false 0
  | none => s2

/-- Entry to LODGED by the device (PLAN_LODGE, QUOTA; R142, R200). -/
def State.enterLodged (s : State) (i : Nat) (c : Cause) : State :=
  let s1 := (s.flushTokens i).parkKv i false
  let s2 := (s1.transition i .lodged c).modBib i fun b => { b with lodgeLap := s.lap }
  s2.eventRecord i 0xFFFF#16 stOk false 0

/-- The pending transition of entry `i` takes effect (R155, R156). -/
def State.applyPend (s : State) (i : Nat) : State :=
  let b := s.bib i
  let s0 := if b.appended then s.modBib i fun b => { b with appended := false, prefillDone := false } else s
  match b.pend with
  | .none => s
  | .tow =>
    let s1 := (s0.flushTokens i).modBib i fun b => { b.noSlots with pend := .none }
    (s1.transition i .towing .append).eventRecord i b.pendCid stOk false 0
  | .pause => s0.enterPaused i (some b.pendCid)
  | .close => s0.enterClosing i .close (some b.pendCid)

/-- A restore of entry `i` is requested: HBM pages for every block in the lodge tier in one request (R206). -/
def State.requestRestore (s : State) (i : Nat) : State :=
  let b := s.bib i
  let s0 := s.modBib i fun b => { b with xfer := .wait }
  let n := b.lodgeBlocks * s.pbOf b
  if n = 0 then s0.modBib i fun b => { b with xfer := .back }
  else
    match s0.requestHbm b.home b.tenant n 0 with
    | (.granted ps _, s1) => s1.modBib i fun b => { b with xfer := .back, restorePages := ps }
    | (_, s1) => s1

/-! ### Counts (R153, R161, R166) -/

/-- A bib in PAUSED, CLOSING or FAULTED at a boundary: TTL falls, the boundaries since its entry are counted. -/
def Bib.age (b : Bib) : Bib :=
  match b.state with
  | .paused => { b with ttl := b.ttl - 1 }
  | .closing => { b with closing := b.closing + 1 }
  | .faulted => { b with faulted := b.faulted + 1 }
  | _ => b

/-- TTL_EXPIRED, RELEASED or FAULT_HOLD is due for the bib (R153). -/
def State.leavesTable (s : State) (b : Bib) : Bool :=
  match b.state with
  | .paused => b.ttl == 0
  | .closing => decide (2 ≤ b.closing)
  | .faulted => decide (s.get Fld.BIB_CFG_FAULT_HOLD ≤ b.faulted)
  | _ => false

/-- State of the entry after every action of its boundary. -/
def State.stateAfter (s : State) (b : Bib) : Nat := if s.leavesTable b then 0 else stateCode b.state

/-- BIB_CNT0 to BIB_CNT7 at the boundary that begins lap `n` (R166). -/
def State.countStates (s : State) (n : Nat) : State :=
  let codes := s.bibs.values.map fun b => s.stateAfter b
  let s1 := (List.range' 1 7).foldl (fun s c => s.wr (wordAt Reg.BIB_CNT 8 c) (BitVec.ofNat 32 (codes.countP (· == c)))) s
  (s1.wr Reg.BIB_CNT (BitVec.ofNat 32 (65536 - codes.countP (· != 0)))).put Fld.BIB_CNT_LAPNUM_LAP n

/-! ### Slots and waves (R14, R17, R128) -/

/-- Hub of decode slot `d`. -/
def decHub (d : Nat) : Hub := hubOf (d / 2048)

/-- Hub of tow slot `t`. -/
def towHub (t : Nat) : Hub := hubOf (t / 16)

/-- The applied piste's WAVE record `i`; none before an image is applied. -/
def State.wave (s : State) (i : Nat) : Option WaveRec := s.bon.image.bind fun m => m.waves[i]?

/-- Model slot to which wave record `i` is bound. -/
def State.waveSlot (s : State) (i : Nat) : Option Nat := (s.wave i).bind (·.modelSlot)

/-- Decode slot `d` is bound to model slot `m`. -/
def State.decBound (s : State) (d m : Nat) : Bool := s.waveSlot (d / 128) == some m

/-- Tow slot `t` is bound to model slot `m`. -/
def State.towBound (s : State) (t m : Nat) : Bool := s.waveSlot (32 + 2 * t) == some m

/-- Decode waves of hub `h` bound to model slot `m`. -/
def State.decWaves (s : State) (h : Hub) (m : Nat) : List Nat :=
  (List.range 16).map (fun w => 16 * hubNum h + w) |>.filter fun w => s.waveSlot w == some m

/-- Hub `h` has a decode wave bound to model slot `m` (R135). -/
def State.eligible (s : State) (h : Hub) (m : Nat) : Bool := !(s.decWaves h m).isEmpty

/-- Decode slots of hub `h` bound to `m` that hold no bib. -/
def State.emptyDec (s : State) (h : Hub) (m : Nat) : Nat :=
  128 * (s.decWaves h m).length
  - (s.bibs.values.filter fun b => b.state == .decoding && b.home == h && b.modelSlot == m && b.decSlot.isSome).length

/-- Bibs of model slot `m` on hub `h` in ADMITTED or TOWING. -/
def State.waiting (s : State) (h : Hub) (m : Nat) : Nat :=
  (s.bibs.values.filter fun b =>
    (b.state == .admitted || b.state == .towing) && b.home == h && b.modelSlot == m).length

/-- The home hub of R135 for model slot `m` and, for a bib with a prefix, the prefix's hub; none when no hub is eligible. -/
def State.homeHub (s : State) (m : Nat) (pfxHub : Option Hub) : Option Hub :=
  match s.eligible .he m, s.eligible .hw m with
  | false, false => none
  | true, false => some .he
  | false, true => some .hw
  | true, true =>
    match pfxHub with
    | some h => some h
    | none =>
      if s.emptyDec .he m ≠ s.emptyDec .hw m then
        some (if s.emptyDec .hw m < s.emptyDec .he m then .he else .hw)
      else if s.waiting .he m ≠ s.waiting .hw m then
        some (if s.waiting .he m < s.waiting .hw m then .he else .hw)
      else some .he

end Sys2Proof.Machine
end

