-- ==== Sys2Proof/Machine/Transfers.lean ====
section
/-!
DEFINITION. What ends a prefix build or a fit, transfers between the tiers and restores (R205, R206), prefixes ready
(R208), poison (R212, R213).
-/

namespace Sys2Proof.Machine

/-! ### Ends of long commands (R178, R208, R250) -/

/-- The WORK record of a long command of queue pair `q` (R178). -/
def State.workRecord (s : State) (q : Nat) (cid : BitVec 16) (status : Byte) (result0 result1 : Nat) : State :=
  let r := plainRecord 0#32 cid .work status 0 0 0
  (s.modQp q fun p => { p with longs := p.longs.erase cid }).emit q
    { r with result0 := BitVec.ofNat 64 result0, result1 := BitVec.ofNat 64 result1 }

/-- Prefix entry `p` returns to the free list with the next generation (R207). -/
def State.freePfx (s : State) (p : Nat) : State :=
  (s.putPfx p (Prefix.free (nextGen (s.pfx p).gen))).modKvm fun k => { k with freePrefixes := k.freePrefixes.push p }

/-- The build of prefix `p` ends without a prefix; what its bib held is given up elsewhere. -/
def State.failBuild (s : State) (p : Nat) (status : Byte) : State :=
  let x := s.pfx p
  (s.freePfx p).workRecord x.qp x.cid status 0 0

/-- The fit of wax set `w` ends (R250): its FIT_STORE pages are freed, FITTING clears, one WORK record. -/
def State.endFit (s : State) (w : Nat) (status : Byte) : State :=
  let x := s.waxAt w
  match x.fit with
  | some f =>
    let s1 := s.releasePages (s.bib f.bib).home false f.pages []
    let s2 := (s1.putWax w { x with fit := none }).waxSettle w
    s2.workRecord f.qp f.cid status f.done f.loss.toNat
  | none => s

/-- Entry `i` of an internal bib returns to FREE without records, giving up what it holds (R208, R250). -/
def State.endInternal (s : State) (i : Nat) : State := (s.release i).enterFree i

/-- Entry `i` enters FAULTED; a build or a fit that it served ends with the status of the cause. DEDUCED; log entry 12. -/
def State.faultBib (s : State) (i : Nat) (c : Cause) (result0 : Nat) : State :=
  let b := s.bib i
  let status := if c = .poison then stPoisoned else stFaulted
  let s1 := s.enterFaulted i c result0
  match b.kind with
  | .build p => s1.failBuild p status
  | .fit w => s1.endFit w status
  | _ => s1

/-- Entry `i` may enter FAULTED (R153): any state but FREE and FAULTED. -/
def Bib.mayFault (b : Bib) : Bool := b.state != .free && b.state != .faulted

/-! ### Transfers (R205, R206) -/

/-- A block's image on new pages of the other tier; POISON travels page by page (R205). -/
def Block.copyTo (k : Block) (pages : List Nat) (lodge : Bool) : Block :=
  let bad := ((k.pages.zip pages).filter fun x => decide (x.1 ∈ k.poison)).map Prod.snd
  { k with pages := pages, lodge := lodge, poison := bad }

/-- A stale message of a unit of the device: discarded and counted (R162). -/
def State.staleInt (s : State) : State := (s.count Reg.BIB_STALE_INT 1).tally 17 0x11 1 none

/-- Block `blk` of entry `i` moves to the lodge tier (R206): lodge pages for it, or it waits in HBM (R196). -/
def State.moveOut (s : State) (i blk : Nat) (k : Block) (forPause : Bool) : State :=
  let b := s.bib i
  match s.requestLodge b.home k.pages.length with
  | (.granted ps _, s1) =>
    let s2 := (s1.releasePages b.home false k.pages k.poison).tally 19 0x13 1 (some b.home)
    let s3 := s2.modBib i fun b => { b with blocks := modifyAt b.blocks blk fun k => k.copyTo ps true }
    s3.modBib i fun b => { b with xfer := if b.hasOut then b.xfer else if forPause then .none else .wait }
  | (_, s1) => s1.raise Fld.KVM_EVT_LODGE_FULL

/-- Block `blk` of entry `i` moves back into HBM, into pages that the restore was granted (R206). -/
def State.moveBack (s : State) (i blk : Nat) (k : Block) : State :=
  let b := s.bib i
  let n := s.pbOf b
  let s1 := (s.releasePages b.home true k.pages k.poison).tally 19 0x13 1 (some b.home)
  s1.modBib i fun b =>
    { b with blocks := modifyAt b.blocks blk fun k => k.copyTo (b.restorePages.take n) false
             restorePages := b.restorePages.drop n }

/-- TRANSFER_BLOCK_DONE (R205, R206): a completion for an entry whose generation has changed, or that no longer transfers,
is discarded (R162). -/
def execTransferBlockDone (bib : Word) (blk : Nat) (s : State) : Host.Outcome State Fault Refusal :=
  let i := idIndex bib
  let b := s.bib i
  if !s.names bib ∨ b.state = .closing ∨ b.state = .faulted then .next s.staleInt
  else
    match b.xfer, b.blocks[blk]? with
    | .out forPause, some k => .next (if k.movesOut then s.moveOut i blk k forPause else s)
    | .back, some k =>
      .next (if k.lodge ∧ s.pbOf b ≤ b.restorePages.length then s.moveBack i blk k else s)
    | _, _ => .next s

/-- RESTORE_DONE (R153, R206): every block is in HBM; RESTORED is set, or, with PREFILL_DONE clear, the bib enters TOWING. -/
def execRestoreDone (bib : Word) (s : State) : Host.Outcome State Fault Refusal :=
  let i := idIndex bib
  let b := s.bib i
  if !s.names bib ∨ b.state ≠ .lodged then .next s.staleInt
  else if b.xfer = .back ∧ b.lodgeBlocks = 0 then
    let s1 := (s.dropRestore i).modBib i fun b => { b with xfer := .none, restored := b.prefillDone }
    if b.prefillDone then .next s1
    else .next ((s1.transition i .towing .restoreDone).eventRecord i 0xFFFF#16 stOk false 0)
  else .next s

/-- Restores are requested at a boundary, in order of the lap of entry to LODGED, then bib index (R206). -/
def State.retryRestores (s : State) : State :=
  let w := (s.bibs.entries.filter fun e => e.2.state == .lodged && e.2.xfer == .wait).map fun e => (e.2.lodgeLap, e.1)
  (sortBy (fun x y => decide (x.1 ≤ y.1)) w).foldl (fun s x => s.requestRestore x.2) s

/-! ### Prefixes (R208) -/

/-- Keys and values of owner `o` pass to owner `o'`. -/
def State.moveVectors (s : State) (o o' : Nat) : State :=
  let mine := s.kvm.vectors.entries.filter fun e => e.1 / 2 ^ 64 == o
  (s.forgetVectors o).modKvm fun k =>
    { k with vectors := mine.foldl (fun t e => t.put (o' * 2 ^ 64 + e.1 % 2 ^ 64) e.2) k.vectors }

/-- Owner number of prefix `p` (`Block.owner`). -/
def pfxOwner (p : Nat) : Nat := 65536 + p

/-- The last chunk of the build of prefix `p` in entry `i` is stored: its blocks become the prefix's, it is READY with
REFS 1, the bib returns to FREE and the WORK record carries the handle (R208). -/
def State.finishBuild (s : State) (i p : Nat) : State :=
  let s0 := s.unmapEmpty i
  let b := s0.bib i
  let x := s0.pfx p
  let blocks := b.blocks.map fun k => { k with shared := true, owner := pfxOwner p }
  let s1 := s0.putPfx p { x with state := .ready, refs := 1, length := b.promptDone, blocks := blocks,
                                 poisoned := blocks.any fun k => !k.poison.isEmpty }
  let s2 := (s1.moveVectors i (pfxOwner p)).modBib i fun b => { b with blocks := [], wax := none }
  (s2.endInternal i).workRecord x.qp x.cid stOk (x.gen * 2 ^ 32 + p) 0

/-- PREFIX_READY (R208). -/
def execPrefixReady (i : Fin 65536) (s : State) : Host.Outcome State Fault Refusal :=
  let b := s.bib i
  match b.kind with
  | .build p =>
    if b.state = .towing ∧ b.promptDone = b.promptLen ∧ !(s.pfx p).dropped then .next (s.finishBuild i p) else .next s
  | _ => .next s

/-! ### Poison (R212, R213) -/

/-- The token vectors of the bib's slots in the running lap, as wave × 128 + token. -/
def Bib.tokens (b : Bib) : List Nat :=
  (match b.decSlot with | some d => [d] | none => [])
  ++ (match b.towSlot with | some t => List.range' ((32 + 2 * t) * 128) 256 | none => [])

/-- A poisoned read ends entry `i` (R212): its token vectors are zero from here on and it enters FAULTED. -/
def State.endPoisoned (s : State) (i : Nat) : State :=
  let b := s.bib i
  let s1 := s.modFab fun f => { f with zeroed := b.tokens.foldl (fun l x => insertNat x l) f.zeroed }
  (s1.faultBib i .poison 0).count Reg.KVM_POISON_END 1

/-- POISON set in a page's list entry (R212): page `pg` of block `blk` of entry `i`; a shared page also in its prefix. -/
def State.poisonPage (s : State) (i blk pg : Nat) : State :=
  let b := s.bib i
  match b.blocks[blk]? with
  | some k =>
    match k.pages[pg]? with
    | some n =>
      let mark := fun (k : Block) => { k with poison := insertNat n k.poison }
      let s1 := s.modBib i fun b => { b with blocks := modifyAt b.blocks blk mark }
      let s2 := if k.shared then
          s1.putPfx (k.owner - 65536)
            { (s1.pfx (k.owner - 65536)) with poisoned := true, blocks := modifyAt (s1.pfx (k.owner - 65536)).blocks blk mark }
        else s1
      s2.report (dieAddr (hubDie b.home)) 0xFFFF 0x14 sevContained n (s.bibId i)
    | none => s
  | none => s

/-- POISON (R212, R213): an attention lane reads poisoned data of entry `i`, or its list or directory fails. -/
def execPoison (i : Fin 65536) (page : Option (Nat × Nat)) (s : State) : Host.Outcome State Fault Refusal :=
  if (s.bib i).mayFault then
    let s1 := match page with
      | some (blk, pg) => s.poisonPage i blk pg
      | none => s.report (dieAddr (hubDie (s.bib i).home)) 0xFFFF 0x14 sevContained 0 (s.bibId i)
    .next ((s1.raise Fld.KVM_EVT_POISON).endPoisoned i)
  else .next s

end Sys2Proof.Machine
end

