-- ==== Sys2Proof/Machine/Faults.lean ====
section
/-!
DEFINITION. Tiles and arrays as the other families reach them, the persistent log (R396), halts (R362), the module out of
service (R293), reserve units and their claims (R101-R104), replay marks (R224, R296) and the fencing of a tile (R295,
R298).
-/

namespace Sys2Proof.Machine

/-! ### Tiles and arrays -/

/-- Key of a tile. -/
def tileKey (die tile : Nat) : Nat := die * 8448 + tile

/-- Key of an array. -/
def arrKey (die tile array : Nat) : Nat := tileKey die tile * 256 + array

/-- A tile as reset leaves it, before the grooming tables are read: a spare with every trim at mid-code (R43, R117). -/
def Tile.new : Tile :=
  { state := .spare, replaces := none, merged := false, range := 0, accums := .empty, badWaves := [], satHot := 0,
    zeroHot := 0, hotFirings := 0, lastSatHot := 0, lastZeroHot := 0, offOk := false, refOk := false, statOk := false,
    retries := [0, 0, 0], retryStep := 0, failed := false, outOfTrim := false, tempOut := false, passes := 0, lastLap := 0,
    lastTime := 0, passPending := false, passBanked := false, sets := [], inForce := [], bank := none, setsChanged := false, sensor := 0,
    halfA := [], badA := [], fences := 0, passTemp := none, prove := .none, proveLap := 0, spare := none,
    plannedFence := false, fenceClaimed := false, spareReady := false, holdsWeights := false, claimed := none }

/-- An array that holds nothing, with gain 1.0 (R98) and the identity column map (R25). -/
def Arr.new : Arr :=
  { held := none, gain := 0x4000, oor := false, age := 0xFFF, map := [none, none, none, none], rcells := [], refs := [],
    refRange := 0, newGain := none, newMap := none, newCells := none, bankGain := none, bankMap := none, bankCells := none }

/-- Tile `t` of die `d`. -/
def State.tile (s : State) (d t : Nat) : Tile := s.fab.tiles.getD (tileKey d t) Tile.new

/-- Tile `t` of die `d` changed by `f`. -/
def State.modTile (s : State) (d t : Nat) (f : Tile → Tile) : State :=
  s.modFab fun x => { x with tiles := x.tiles.put (tileKey d t) (f (s.tile d t)) }

/-- Array `a` of the tile. -/
def State.arr (s : State) (d t a : Nat) : Arr := s.fab.arrays.getD (arrKey d t a) Arr.new

/-- Array `a` of the tile changed by `f`. -/
def State.modArr (s : State) (d t a : Nat) (f : Arr → Arr) : State :=
  s.modFab fun x => { x with arrays := x.arrays.put (arrKey d t a) (f (s.arr d t a)) }

/-- Every tile that is listed, changed by `f`. -/
def State.mapTiles (s : State) (f : Tile → Tile) : State :=
  s.modFab fun x => { x with tiles := x.tiles.map fun _ t => f t }

/-- ARK_TILE_STATE codes (R43). -/
def tileCode : TileState → Nat
  | .inService => 0 | .spare => 1 | .programming => 2 | .proving => 3 | .fenced => 4 | .retired => 5

/-- The tile state with an ARK_TILE_STATE code. -/
def tileOfCode (n : Nat) : TileState :=
  match n with
  | 0 => .inService | 1 => .spare | 2 => .programming | 3 => .proving | 4 => .fenced | _ => .retired

/-- Sequencer states of a die (ARK_STS): 1 GROOM_ONLY, 2 RUNNING, 3 HELD, 4 FAULTED; 0 OFF. -/
def State.seqState (s : State) (d : Nat) : Nat := s.get (Fld.ARK_STS_SEQ_STATE.die d)

/-- Every die that is neither OFF nor FAULTED enters sequencer state `n`. -/
def State.setDies (s : State) (n : Nat) : State :=
  (List.range 16).foldl (fun s d =>
    if s.seqState d = 0 ∨ s.seqState d = 4 then s else s.put (Fld.ARK_STS_SEQ_STATE.die d) n) s

/-- The sequencers of the dies that are present show the lap they execute (ARK_STS.LAP_LO). -/
def State.showLap (s : State) (n : Nat) : State :=
  (List.range 16).foldl (fun s d =>
    if s.seqState d = 0 ∨ s.seqState d = 4 then s else s.put (Fld.ARK_STS_LAP_LO.die d) n) s

/-! ### Persistent log (R382, R396) -/

/-- What an erased byte of the flash reads (R383: EMPTY is the erased value). -/
def erased : Byte := 0xFF#8

/-- First byte of the log region (R382). -/
def logBase : Nat := 0x07810000

/-- Blocks of the log region (R382). -/
def logBlocks : Nat := if Config.flash2Gbit then 2175 else 127

/-- Entries of a block (R396). -/
def logPerBlock : Nat := 1023

/-- Flash address of log entry `n`, behind its block's header. -/
def logAddr (n : Nat) : Nat := logBase + n / logPerBlock % logBlocks * 0x10000 + 64 + n % logPerBlock * 64

/-- A run of flash bytes erased. -/
def State.eraseFlash (s : State) (lo len : Nat) : State :=
  s.modBon fun b => { b with flash := b.flash.filter fun k _ => decide (k < lo) || decide (lo + len ≤ k) }

/-- Bytes written to the flash. -/
def State.writeFlash (s : State) (lo : Nat) (bytes : List Byte) : State :=
  s.modBon fun b => { b with flash := Memory.writeAll erased b.flash lo bytes }

/-- Bytes read from the flash. -/
def State.readFlash (s : State) (lo n : Nat) : List Byte := Memory.readAll erased s.bon.flash lo n

/-- An entry is written to the persistent log; the first of a block erases the block, the oldest when the ring is full, and
writes its header (R396). -/
def State.persist (s : State) (r : Report) : State :=
  let n := s.bon.logNext
  let b := logBase + n / logPerBlock % logBlocks * 0x10000
  let s1 := if n % logPerBlock = 0 then
      (s.eraseFlash b 0x10000).writeFlash b (leBytes 0x474F4C42 4 ++ leBytes (n / logPerBlock) 8 ++ List.replicate 52 0#8)
    else s
  (s1.writeFlash (logAddr n) (reportBytes r)).modBon fun b => { b with logNext := n + 1 }

/-- Start-up runs: events 1 to 10 of R392, not RECOVERY. -/
def State.startingUp (s : State) : Bool :=
  decide (1 ≤ s.get Fld.BON_STS_STAGE) && decide (s.get Fld.BON_STS_STAGE < 11) && !s.flag Fld.BON_STS_RECOVERY

/-- An entry of Bonos' own (R396); during start-up it waits (R393). -/
def State.bonosEntry (s : State) (kind detail : Nat) : State :=
  let r := s.mkReport (dieAddr 17) 0xFFFF kind sevInfo detail 0#32
  (if s.startingUp then s.modBon fun b => { b with owed := b.owed ++ [r] } else s.persist r).draw

/-- The entries that waited are written. -/
def State.writeOwed (s : State) : State :=
  (s.bon.owed.foldl (fun s r => s.persist r) s).modBon fun b => { b with owed := [] }

/-! ### Halts and the module out of service -/

/-- HALT_CAUSE codes (PWR_STS). -/
def haltInputs : Nat := 1
/-- DISCREPANCY. -/
def haltDisc : Nat := 2
/-- THERMAL. -/
def haltThermal : Nat := 3
/-- RESET. -/
def haltReset : Nat := 4

/-- HALT_LATCH (R362): dies HELD in mid-lap, lanes, units, engines and planner stopped, the module out of service, an entry in
the persistent log. A module already HALTED latches no second halt. DEDUCED; log entry 14. -/
def State.haltLatch (s : State) (cause : Nat) : State :=
  if s.halted then s
  else
    let s1 := ((s.put Fld.PWR_STS_HALTED 1).put Fld.PWR_STS_HALT_CAUSE cause).raise Fld.PWR_EVT_HALT
    let s2 := ((s1.count Reg.PWR_HALT_CNT 1).setDies 3).put Fld.LAP_STS_RUNNING 0
    let s3 := (s2.modAtt fun a => { a with lanes := .empty, ready := [] }).modPat fun p => { p with outOfService := true }
    s3.bonosEntry 0x41 cause

/-- A fault of R293 takes the module out of service: the MODULE_FAULT report with the case, 1 to 4. -/
def State.serviceFault (s : State) (unit : Word) (n : Nat) : State :=
  (s.report unit n 0x1B sevFatal 0 0#32).modPat fun p => { p with outOfService := true }

/-! ### Reserve mogul units (R101-R104) -/

/-- States of a mogul unit (R106): 0 PLANNED, 1 RESERVE, 2 FALLBACK, 3 STANDIN, 4 FENCED. -/
def State.unitState (s : State) (u : Nat) : Nat := s.get (Fld.LAP_MOG_USTS_STATE.sel u)

/-- Unit `u` takes state `n` and covers `addr`. -/
def State.setUnit (s : State) (u n : Nat) (addr : Word) : State :=
  (s.put (Fld.LAP_MOG_USTS_STATE.sel u) n).wr (keyAt u Reg.LAP_MOG_UTILE) addr

/-- Address of mogul unit `u` (R3). -/
def mogulAddr (u : Nat) : Word := hubUnit 1 16 u

/-- Units of hub `h`, highest-numbered first. -/
def unitsOf (h : Hub) : List Nat := (List.range' (16 * hubNum h) 16).reverse

/-- The free reserve unit that a claim on hub `h` takes: the highest-numbered. DEDUCED; log entry 15. -/
def State.freeUnit (s : State) (h : Hub) : Option Nat := (unitsOf h).find? fun u => s.unitState u == 1

/-- The unit of hub `h` that covers `addr`. -/
def State.coverOf (s : State) (h : Hub) (addr : Word) : Option Nat :=
  (unitsOf h).find? fun u => (s.unitState u == 2 || s.unitState u == 3) && s.rd (keyAt u Reg.LAP_MOG_UTILE) == addr

/-- Hub `h` has no free reserve unit for work to be covered (R104): MOG_RESERVE_FULL, tow slots withheld from the next lap, and
the module out of service as case 4 of R293. -/
def State.uncover (s : State) (h : Hub) (addr : Word) : State :=
  let s1 := (s.raise Fld.LAP_MOG_EVT_RESERVE_FULL).modPlan fun p =>
    match h with
    | .he => { p with fullHe := true }
    | .hw => { p with fullHw := true }
  let s2 := s1.modPat fun p =>
    { p with uncovered := if (hubNum h, addr) ∈ p.uncovered then p.uncovered else p.uncovered ++ [(hubNum h, addr)] }
  (s2.report (dieAddr (hubDie h)) 0xFFFF 0x0F sevFatal addr.toNat 0#32).serviceFault addr 4

/-- A claim on hub `h` to cover `addr`, in unit state `n` (R101, R103, R104). -/
def State.claimUnit (s : State) (h : Hub) (n : Nat) (addr : Word) : State :=
  match s.freeUnit h with
  | some u => s.setUnit u n addr
  | none => s.uncover h addr

/-- A unit of hub `h` has become free: it takes the hub's oldest uncovered work; with none left, tow slots are withheld no
more (R104). DEDUCED; log entry 15. -/
def State.unitFreed (s : State) (h : Hub) : State :=
  match s.freeUnit h, s.pat.uncovered.find? fun x => x.1 == hubNum h with
  | some u, some x =>
    let n := if wordBits x.2 24 3 = 1 then 3 else 2
    let s1 := (s.setUnit u n x.2).modPat fun p => { p with uncovered := p.uncovered.erase x }
    if s1.pat.uncovered.any fun x => x.1 == hubNum h then s1
    else s1.modPlan fun p => match h with
      | .he => { p with fullHe := false }
      | .hw => { p with fullHw := false }
  | some _, none =>
    s.modPlan fun p => match h with
      | .he => { p with fullHe := false }
      | .hw => { p with fullHw := false }
  | none, _ => s

/-- The units that cover `addr` return to the reserve (R102). -/
def State.returnUnits (s : State) (addr : Word) : State :=
  let s0 := s.modPat fun p => { p with uncovered := p.uncovered.filter fun x => x.2 != addr }
  [Hub.he, Hub.hw].foldl (fun s h =>
    match s.coverOf h addr with
    | some u => ((s.setUnit u 1 0#32).modPat fun p => { p with begun := p.begun.filter (· != u) }).unitFreed h
    | none => s) s0

/-! ### Replay (R224, R296) -/

/-- The entry that holds decode slot `d`. -/
def State.decHolder (s : State) (d : Nat) : Option Nat :=
  (s.bibs.entries.find? fun e => e.2.decSlot == some d && e.2.state != .free).map Prod.fst

/-- The entry that holds tow slot `t`. -/
def State.towHolder (s : State) (t : Nat) : Option Nat :=
  (s.bibs.entries.find? fun e => e.2.towSlot == some t && e.2.state != .free).map Prod.fst

/-- The entry whose token vector is `token` of wave `w` (R17); a tow wave holds its slot's chunk only so far as it reaches. -/
def State.holder (s : State) (w token : Nat) : Option Nat :=
  if w < 32 then s.decHolder (128 * w + token)
  else
    match s.towHolder ((w - 32) / 2) with
    | some i => if (w - 32) % 2 * 128 + token < (s.bib i).chunk then some i else none
    | none => none

/-- The token vector is carried as zeros for the rest of the lap (R212, R224). -/
def State.zeroToken (s : State) (w token : Nat) : State :=
  s.modFab fun f => { f with zeroed := insertNat (w * 128 + token) f.zeroed }

/-- Token `token` of wave `w` is marked for replay (R224); whether it was marked before. -/
def State.markReplay (s : State) (w token : Nat) : State :=
  match s.holder w token with
  | some i => (s.zeroToken w token).modBib i fun b => { b with replay := true }
  | none => s

/-- The same for a fault: each bib newly marked adds 1 to PAT_REPLAY_FAULT (R296). -/
def State.faultReplay (s : State) (w token : Nat) : State :=
  match s.holder w token with
  | some i => if (s.bib i).replay then s.markReplay w token else (s.markReplay w token).count Reg.PAT_REPLAY_FAULT 1
  | none => s

/-- The bib whose token vector it is ends, its work uncovered (R104, R153). -/
def State.endUncovered (s : State) (w token : Nat) : State :=
  let s1 := s.modFab fun f => { f with invalid := insertNat (w * 128 + token) f.invalid }
  match s1.holder w token with
  | some i => if (s1.bib i).mayFault then (s1.zeroToken w token).faultBib i .uncovered 0 else s1
  | none => s1

/-! ### Fencing (R295, R298, R299) -/

/-- Group of a tile (R13). -/
def tileGroup (t : Nat) : Nat := t / 33

/-- The spare that patrol chooses for tile `t` of die `d`: the lowest of its group, else of the die, that no other fenced tile
has (R298). -/
def State.chooseSpare (s : State) (d t : Nat) : Option Nat :=
  let onDie := s.fab.tiles.entries.filter fun e => e.1 / 8448 == d
  let taken := (onDie.filter fun e => e.2.state == .fenced).filterMap fun e => e.2.spare
  let free := ((onDie.filter fun e => e.2.state == .spare).map fun e => e.1 % 8448).filter fun x => !decide (x ∈ taken)
  match free.find? fun x => tileGroup x == tileGroup t with
  | some x => some x
  | none => free.head?

/-- The die has no spare left for the fenced tile: it becomes RETIRED, its units stay claimed, PAT_SPARE_OUT (R298). -/
def State.spareOut (s : State) (d t : Nat) : State :=
  let s1 := s.modTile d t fun x => { x with state := .retired, spare := none }
  let n := (s1.fab.tiles.entries.filter fun e => e.1 / 8448 == d && e.2.state == .retired).length
  (s1.raise Fld.PAT_EVT_SPARE_OUT).report (tileAddr d t) 0xFFFF 0x0B sevDegraded n 0#32

/-- The spare of a fenced tile is chosen, or the die has none. -/
def State.takeSpare (s : State) (d t : Nat) : State :=
  match s.chooseSpare d t with
  | some x => s.modTile d t fun y => { y with spare := some x, spareReady := false }
  | none => s.spareOut d t

/-- Tile `t` of die `d` enters FENCED: the counters, the event, its spare (R295, R298). -/
def State.fence (s : State) (d t : Nat) : State :=
  let s1 := s.modTile d t fun x =>
    { x with state := .fenced, fences := min 255 (x.fences + 1), plannedFence := false, fenceClaimed := false }
  ((s1.count Reg.PAT_FENCE 1).raise Fld.PAT_EVT_FENCE).takeSpare d t

/-- A reserve unit is claimed on each hub for the tile (R101), HE first; a hub that has one for it already keeps it. -/
def State.claimBoth (s : State) (d t : Nat) : State :=
  [Hub.he, Hub.hw].foldl (fun s h =>
    if (s.coverOf h (tileAddr d t)).isSome then s else s.claimUnit h 2 (tileAddr d t)) s

/-- A planned fence of the tile from the next planned lap (R299); of a spare, retirement (R307). -/
def State.planFence (s : State) (d t : Nat) : State :=
  match (s.tile d t).state with
  | .spare => s.modTile d t fun x => { x with state := .retired }
  | .inService | .proving => s.modTile d t fun x => { x with plannedFence := true }
  | _ => s

end Sys2Proof.Machine
end

