-- ==== Sys2Proof/Machine/Slices.lean ====
section
/-!
DEFINITION. The applied piste and the resident models as the arrays and the hubs read them: the slice map (R49, R388), the
templates (R131, R132), the layers and stages (R257), and the keys of the stores of a lap's vectors.
-/

namespace Sys2Proof.Machine

/-! ### Keys of the stores -/

/-- Key of token vector `token` of wave `w` at layer `l`. -/
def tokenKey (w token l : Nat) : Nat := (w * 128 + token) * 256 + l

/-- Key of column block `b` of stage `st`. -/
def colKey (w token l st b : Nat) : Nat := (tokenKey w token l * 16 + st) * 4096 + b

/-- Key of the message of logical tile `t` of die `d` for a column block (R73). -/
def msgKey (col d t : Nat) : Nat := col * 2 ^ 18 + tileKey d t

/-- Key of input block `c` of point `p`. -/
def blockKey (w token l p c : Nat) : Nat := (tokenKey w token l * 8 + p) * 4096 + c

/-- The store of a token's residual stream, kept under layer 0, and of its attention output, beside those of stages 0-7. -/
def residStage : Nat := 8
/-- The attention output of a layer (point 1, R54). -/
def attStage : Nat := 9

/-! ### The slice map (R388) -/

/-- Roles of a run: 0 SINGLE, 1 SINGLE_B, 2 HIGH_A, 3 HIGH_B, 4 LOW. -/
def SliceRun.roles (r : SliceRun) : List Nat :=
  if r.roleset = 0 then [0] else if r.roleset = 1 then [0, 1] else [2, 3, 4]

/-- Role of array FIRST + i. -/
def SliceRun.roleOf (r : SliceRun) (i : Nat) : Nat := nth r.roles ((if r.merged then i / 2 else i) % r.roles.length)

/-- Row chunk of array FIRST + i. -/
def SliceRun.rowOf (r : SliceRun) (i : Nat) : Nat :=
  let n := r.roles.length
  if r.merged then r.row + 2 * (i / 2 / n) + i % 2 else r.row + i / n

/-- Row chunks of the run. -/
def SliceRun.rows (r : SliceRun) : List Nat := List.range' r.row (r.count / r.roles.length)

/-- The runs of the applied piste; none before an image is applied. -/
def State.runs (s : State) : List SliceRun :=
  match s.bon.image with
  | some m => m.slices
  | none => []

/-- Logical position of a tile: that of the tile it replaces (R74), in turn; a die has 256 spares. -/
def State.logicalIn (s : State) (d t : Nat) : Nat → Nat
  | 0 => t
  | n + 1 =>
    match (s.tile d t).replaces with
    | some x => s.logicalIn d x n
    | none => t

/-- Logical position of a tile. -/
def State.logical (s : State) (d t : Nat) : Nat := s.logicalIn d t 256

/-- The run to which array `a` of the tile belongs. -/
def State.sliceOf (s : State) (d t a : Nat) : Option SliceRun :=
  s.runs.find? fun r => r.die == d && r.tile == s.logical d t && decide (r.first ≤ a) && decide (a < r.first + r.count)

/-- The role shift of R70. -/
def roleShift (role : Nat) : Nat := if role = 2 ∨ role = 3 then 3 else 0

/-- The runs that hold column block `b` of the stage, in ascending die, tile, array (R388). -/
def State.runsOf (s : State) (slot l st b : Nat) : List SliceRun :=
  s.runs.filter fun r => r.slot == slot && r.layer == l && r.stage == st && r.col == b

/-- The tile positions of a column block, ascending (R74). -/
def State.positions (s : State) (slot l st b : Nat) : List (Nat × Nat) :=
  ((s.runsOf slot l st b).map fun r => (r.die, r.tile)).eraseDups

/-- The tiles of die `d` that stand in the position of tile `t`, with their states. -/
def State.standing (s : State) (d t : Nat) : List (Nat × TileState) :=
  (s.fab.tiles.entries.filter fun e => e.1 / 8448 == d && s.logical d (e.1 % 8448) == t).map
    fun e => (e.1 % 8448, e.2.state)

/-- The physical tile in the position of tile `t` of die `d`: one in service, else one being proved, else one fenced, else the
newest that was. -/
def State.physical (s : State) (d t : Nat) : Nat :=
  let l := s.standing d t
  match (l.find? fun x => x.2 == .inService).or (l.find? fun x => x.2 == .proving) with
  | some x => x.1
  | none =>
    match (l.find? fun x => x.2 == .fenced).or (l.find? fun x => x.2 == .retired && !(l.any fun y =>
        (s.tile d y.1).replaces == some x.1)) with
    | some x => x.1
    | none => t

/-! ### Templates (R131, R132) -/

/-- Accumulator pair of a record. -/
def recPair (r : DWord) : Nat := bits r.toNat 56 6
/-- Kind of a record. -/
def recKind (r : DWord) : Nat := bits r.toNat 62 2
/-- Array of a record. -/
def recArray (r : DWord) : Nat := bits r.toNat 48 8
/-- High nibble of an 8-bit input. -/
def recHigh (r : DWord) : Bool := bits r.toNat 47 1 == 1
/-- Token vector of a record. -/
def recToken (r : DWord) : Nat := bits r.toNat 40 7

/-- The program of logical tile `t` of die `d` for wave `w`. -/
def State.program (s : State) (d t w : Nat) : List DWord :=
  match s.bon.image with
  | some m =>
    match m.tileMaps.find? fun e => e.die == d && e.tile == t && e.mask.getLsbD w with
    | some e =>
      let x := m.tmplIndex.getD e.template (0, 0)
      (m.tmplRecs.drop x.1).take x.2
    | none => []
  | none => []

/-- The tile takes 8-bit inputs in the wave: its program fires high nibbles. The piste alone says so. DEDUCED; log entry 19. -/
def State.wideTile (s : State) (d t w : Nat) : Bool := (s.program d t w).any recHigh

/-- The contributions that the slice map expects for a column block on logical tile `t`, in the order of R71: nibble, high
first, then array; a merged pair takes the place of its first array. -/
def State.expected (s : State) (d t w slot l st b : Nat) : List (Nat × Bool) :=
  let runs := (s.runsOf slot l st b).filter fun r => r.die == d && r.tile == t
  let arrays := runs.flatMap fun r =>
    (List.range r.count).filterMap fun i => if r.merged && i % 2 == 1 then none else some (r.first + i)
  let low := arrays.map fun a => (a, false)
  if s.wideTile d t w then arrays.map (fun a => (a, true)) ++ low else low

/-! ### Models (R257) -/

/-- Layer `l` of the model in slot `m`; the head is the layer after the last. -/
def State.layerOf (s : State) (m l : Nat) : Option Layer := (s.ldr.slots.get? m).bind fun x => x.content.get? l

/-- The stage with code `st` of a layer. -/
def Layer.stage (y : Layer) (st : Nat) : Option Stage := y.stages.find? fun x => x.stage == st

/-- Model slot of wave `w`, or an unused one. -/
def State.slotOf (s : State) (w : Nat) : Nat := (s.waveSlot w).getD 64

/-- Input point of a stage of a layer. -/
def State.pointOf (s : State) (m l st : Nat) : Nat :=
  match (s.layerOf m l).bind (·.stage st) with
  | some x => x.point
  | none => 0

/-- The point of a layer takes 8-bit inputs in the wave. -/
def State.widePoint (s : State) (w m l p : Nat) : Bool :=
  s.runs.any fun r => r.slot == m && r.layer == l && s.pointOf m l r.stage == p && s.wideTile r.die r.tile w

/-- The hub of a wave record (R128). -/
def waveHub (w : Nat) : Hub := if w < 32 then hubOf (w / 16) else hubOf ((w - 32) / 32)

/-! ### Input blocks -/

/-- High part of an 8-bit value (R50). -/
def highPart (v : Int) : Int := (v + 8) / 16

/-- The input codes of an element for a nibble: the value itself, or the high or low part (R50, R59). -/
def nibbleOf (wide high : Bool) (v : Int) : Int :=
  if !wide then v else if high then highPart v else v - 16 * highPart v

/-- The quantised input block, an all-zero one where none is stored. -/
def State.block (s : State) (w token l p c : Nat) : QBlock :=
  s.fab.blocks.getD (blockKey w token l p c) ⟨0#8, 0, [], []⟩

/-- The codes that drive row chunk `c` for a nibble; a token vector carried as zeros drives none (R212, R224). -/
def State.codes (s : State) (w token l p c : Nat) (wide high : Bool) : List Int :=
  if w * 128 + token ∈ s.fab.zeroed then []
  else (s.block w token l p c).vals.map (nibbleOf wide high)

/-- Nonzero codes. -/
def nnzOf (l : List Int) : Nat := (l.filter (· != 0)).length

/-- The alignment of R70 for a block's scale code, 0 for an all-zero block. -/
def alignOf (scale : Byte) (floor : Int) : Nat := if scale = 0#8 then 0 else ((scale.toNat : Int) - 127 - floor).toNat

/-- The token vector takes part in its wave: its slot held a bib when the wave was issued (R18, R127). -/
def State.occupied (s : State) (w token : Nat) : Bool :=
  decide (w ∈ s.plan.issued) && ((s.holder w token).isSome || decide (w * 128 + token ∈ s.fab.zeroed))

end Sys2Proof.Machine
end

