-- ==== Sys2Proof/Machine/Arrays.lean ====
section
/-!
DEFINITION. Arrays and firing (R23-R45), the tile accumulator (R68-R73), the drift gain (R99, R100) and the host's test
operations (R43-R45).
-/

namespace Sys2Proof.Machine

/-! ### Issue (R26-R37) -/

/-- ARK_PLAN_FAULT on the tile (R37): the register bit, and every partial of the wave invalid. -/
def State.planFault (s : State) (d t : Nat) (w : Option Nat) : State :=
  let s1 := s.raise (Fld.ARK_STS_PLAN_FAULT.die d)
  match w with
  | some w => s1.modTile d t fun x => { x with badWaves := insertNat w x.badWaves }
  | none => s1

/-- An array still holds an output tile, its own or that of its merged pair (R32, R36). -/
def State.arrayBusy (s : State) (d t a : Nat) : Bool :=
  (s.arr d t a).held.isSome
  || (a % 2 == 1 && match (s.arr d t (a - 1)).held with | some h => h.kind == .merged | none => false)

/-- Phases that drive a row for `n` nonzero inputs (R27). -/
def phases (n : Nat) : Nat := if n = 0 then 0 else if n ≤ 64 then 1 else 2

/-- Energy in fJ that `n` driven rows in their phases take (R42). -/
def driveEnergy (n : Nat) : Nat := n * 60 + phases n * 400

/-- Actual energy in fJ of a separate firing (R42). -/
def separateEnergy (n : Nat) : Nat := if n = 0 then 1400 else 1400 + driveEnergy n + 5120

/-- Actual energy in fJ of a merged conversion of the pair (R32, R42). -/
def mergedEnergy (n m : Nat) : Nat :=
  if n = 0 ∧ m = 0 then 2800 else 2800 + driveEnergy n + driveEnergy m + 11520

/-- A sparsity credit in fJ (R28, R42). -/
def State.credit (s : State) (fj : Nat) : State := s.modLedger fun l => { l with credit := l.credit + fj }

/-- The counters of the die for one firing of `n` nonzero inputs (R43, R400). -/
def State.countFiring (s : State) (d n : Nat) (h : Hub) : State :=
  let s1 := (s.count (arkKey Reg.ARK_FIRE_CNT d) 1).count (arkKey Reg.ARK_NNZ_SUM d) n
  let s2 := (s1.tally d 0x10 1 (some h)).tally d 0x11 n (some h)
  let s3 := if n ≤ 64 then (s2.count (arkKey Reg.ARK_ONEPH_CNT d) 1).tally d 0x12 1 (some h) else s2
  if n = 0 then (s3.count (arkKey Reg.ARK_ZERO_CNT d) 1).tally d 0x13 1 (some h) else s3

/-- The die takes piste work: it is RUNNING and the module is not halted (ARK_STS, R362). -/
def State.dieRuns (s : State) (d : Nat) : Bool := s.seqState d == 2 && !s.halted

/-- The input of array `a` for a record of the wave: nonzero count, scale code and floor of its block (R26, R70). -/
def State.inputOf (s : State) (d t a w token : Nat) (high : Bool) : Nat × Byte × Int :=
  match s.sliceOf d t a with
  | some r =>
    let c := r.rowOf (a - r.first)
    let p := s.pointOf r.slot r.layer r.stage
    let b := s.block w token r.layer p c
    (nnzOf (s.codes w token r.layer p c (s.wideTile r.die r.tile w) high), b.scale, b.floor)
  | none => (0, 0#8, 0)

/-- The alignment of a merged conversion (R70). -/
def mergedAlign (e1 e2 : Byte) (floor : Int) : Nat :=
  if e1 = 0#8 then alignOf e2 floor else if e2 = 0#8 ∨ e1 = e2 then alignOf e1 floor else (Config.mergedAlign e1 e2).val

/-- A planned firing, separate or merged (R32, R34, R36): the codes are latched, counted and driven, and the array holds its
output tile. -/
def State.fire (s : State) (d t w : Nat) (rec : DWord) : State :=
  let a := recArray rec
  let k := recToken rec
  let merged := recKind rec == 1
  if s.paused ∨ !s.dieRuns d ∨ (s.tile d t).state ≠ .inService ∨ 2 ≤ recKind rec ∨ !s.occupied w k then s
  else if s.arrayBusy d t a ∨ (merged ∧ s.arrayBusy d t (a + 1)) then s.planFault d t (some w)
  else
    let (n, e, f) := s.inputOf d t a w k (recHigh rec)
    let h := waveHub w
    if merged then
      let (m, e2, f2) := s.inputOf d t (a + 1) w k (recHigh rec)
      let floor := if e = 0#8 then f2 else f
      let held : Held := { kind := .merged, nnz := n, nnz2 := m, wave := w, token := k, pair := recPair rec,
                           nibble := recHigh rec, align := mergedAlign e e2 floor, floor := floor }
      (((s.modArr d t a fun x => { x with held := some held }).countFiring d n h).countFiring d m h).credit
        (31280 - mergedEnergy n m)
    else
      let held : Held := { kind := .separate, nnz := n, nnz2 := 0, wave := w, token := k, pair := recPair rec,
                           nibble := recHigh rec, align := alignOf e f, floor := f }
      ((s.modArr d t a fun x => { x with held := some held }).countFiring d n h).credit (15000 - separateEnergy n)

/-- FIRING_ISSUE (R34). -/
def execFiringIssue (die : Fin 16) (tile : Fin 8448) (wave : Fin 96) (rec : DWord) (s : State) :
    Host.Outcome State Fault Refusal :=
  .next (s.fire die tile wave rec)

/-- The value of a sign-magnitude code; 0x8 is zero (R26). -/
def codeValue (c : BitVec 4) : Int := if c.msb then -(c.toNat % 8 : Nat) else (c.toNat : Int)

/-- A transposed read (R40): separate mode, the columns driven by the codes. -/
def State.transpose (s : State) (d t w : Nat) (rec : DWord) (codes : List (BitVec 4)) : State :=
  let a := recArray rec
  if s.paused ∨ !s.dieRuns d ∨ (s.tile d t).state ≠ .inService ∨ (s.tile d t).merged then s
  else if s.arrayBusy d t a then s.planFault d t (some w)
  else
    let n := nnzOf ((codes.take 128).map codeValue)
    let held : Held := { kind := .transposed, nnz := n, nnz2 := 0, wave := w, token := recToken rec, pair := recPair rec,
                         nibble := recHigh rec, align := 0, floor := 0 }
    ((s.modArr d t a fun x => { x with held := some held }).count (arkKey Reg.ARK_TRANS_CNT d) 1).credit
      (17000 - (separateEnergy n + 2000))

/-- TRANSPOSED_READ (R40). -/
def execTransposedRead (die : Fin 16) (tile : Fin 8448) (wave : Fin 96) (rec : DWord) (codes : List (BitVec 4))
    (s : State) : Host.Outcome State Fault Refusal :=
  .next (s.transpose die tile wave rec codes)

/-- Rows driven by a reference read at range shift `r` (R41). -/
def refRows (r : Nat) : Nat := min 128 (16 * 2 ^ r)

/-- Actual energy in fJ of a reference read (R42). -/
def refEnergy (r : Nat) : Nat := 1400 + refRows r * 60 + ceilDiv (refRows r) 64 * 400 + 80

/-- A reference read of an array (R41), in GROOM_ONLY or RUNNING. -/
def State.readRefs (s : State) (d t a : Nat) : State :=
  if s.halted ∨ s.paused ∨ (s.seqState d ≠ 1 ∧ s.seqState d ≠ 2) then s
  else if s.arrayBusy d t a then s.planFault d t none
  else
    let r := (s.tile d t).range
    let held : Held := { kind := .reference, nnz := refRows r, nnz2 := 0, wave := 0, token := 0, pair := 0,
                         nibble := false, align := 0, floor := 0 }
    ((s.modArr d t a fun x => { x with held := some held }).count (arkKey Reg.ARK_REFRD_CNT d) 1).credit
      (9960 - refEnergy r)

/-- REFERENCE_READ (R41). -/
def execReferenceRead (die : Fin 16) (tile : Fin 8448) (array : Fin 256) (s : State) :
    Host.Outcome State Fault Refusal :=
  .next (s.readRefs die tile array)

/-! ### Conversion (R29-R32, R64) -/

/-- A converter's code and CLIP flag for a charge, with the largest magnitude of the mode (R31, R32). -/
def clip (top : Nat) (q : Int) : Int × Bool :=
  if (top : Int) < q then (top, true) else if q < -(top : Int) then (-(top : Int), true) else (q, false)

/-- The largest code magnitude (R31, R32). -/
def topCode (k : FireKind) : Nat := match k with | .merged => 255 | _ => 127

/-- The 128 codes of an output tile; exact zeros without sampling when nothing was driven (R29, R32). -/
def Held.codes (h : Held) (charge : List Int) : List (Int × Bool) :=
  if h.nnz = 0 ∧ h.nnz2 = 0 then List.replicate 128 (0, false)
  else (List.range 128).map fun c => clip (topCode h.kind) (charge.getD c 0)

/-- Saturation of the partials at 32 bits (R72), with whether it was needed. -/
def sat32 (x : Int) : Int × Bool :=
  if 2 ^ 31 - 1 < x then (2 ^ 31 - 1, true) else if x < -2 ^ 31 then (-2 ^ 31, true) else (x, false)

/-- The contribution of code `c` with gain `g` and shift `k` (R69). -/
def contribution (c : Int) (g k : Nat) : Int := (c * g * 2 ^ k + 8192) / 16384

/-- The total shift of R70. -/
def totalShift (range role : Nat) (high : Bool) (align : Nat) : Nat :=
  range + roleShift role + (if high then 4 else 0) + align

/-- A pair opened by its first conversion slot (R68). -/
def Accum.new (w token l st b : Nat) (floor : Int) : Accum :=
  { wave := w, token := token, layer := l, stage := st, block := b, partials := List.replicate 128 0,
    sat := List.replicate 128 false, taken := 0, floor := floor, valid := true, closed := false }

/-- Contributions added to the partials, saturating (R72). -/
def Accum.add (x : Accum) (a : List Int) : Accum :=
  let sums := (x.partials.zip a).map fun y => sat32 (y.1 + y.2)
  { x with partials := sums.map Prod.fst, sat := (x.sat.zip (sums.map Prod.snd)).map fun y => y.1 || y.2,
           taken := x.taken + 1 }

/-- Columns newly saturated between two values of a pair. -/
def newlySat (old new : Accum) : Nat := ((new.sat.zip old.sat).filter fun y => y.1 && !y.2).length

/-- The saturation and zero counters of an output tile (R64, R66). -/
def State.countCodes (s : State) (d t : Nat) (h : Held) (codes : List (Int × Bool)) : State :=
  if h.nnz = 0 ∧ h.nnz2 = 0 then s.tally d 0x16 (if h.kind = .merged then 2 else 1) (some (waveHub h.wave))
  else
    let sat := (codes.filter Prod.snd).length
    let zeroes := (codes.filter fun y => y.1 == 0).length
    let th := Fld.die
    let satHot := decide (s.get (th Fld.ARK_OTQ_TH_OT_SAT d) < sat)
    let zeroHot := decide (s.get (th Fld.ARK_OTQ_TH_OT_ZERO d) < zeroes)
    let s1 := (s.count (arkKey Reg.ARK_OTQ_SAT d) sat).count (arkKey Reg.ARK_OTQ_ZERO d) zeroes
    let s2 := s1.tally d 0x14 sat (some (waveHub h.wave))
    let s3 := if h.kind = .merged then s2.count (arkKey Reg.ARK_MERGED_CNT d) 1 else s2
    s3.modTile d t fun x =>
      { x with satHot := x.satHot + satHot.toNat, zeroHot := x.zeroHot + zeroHot.toNat,
               hotFirings := x.hotFirings + (satHot || zeroHot).toNat }

/-- The array has been drained: it may take its next firing (R34 event 8). -/
def State.drainArray (s : State) (d t a : Nat) : State := s.modArr d t a fun x => { x with held := none }

/-- A piste conversion (R68-R72): the slot names the array and nibble that the slice map expects next for the pair, and each
code adds its contribution; the last one closes the pair. -/
def State.accumulate (s : State) (d t a : Nat) (h : Held) (charge : List Int) : State :=
  match s.sliceOf d t a with
  | none => s.drainArray d t a
  | some r =>
    let x := s.tile d t
    let e := s.expected d (s.logical d t) h.wave r.slot r.layer r.stage r.col
    let p := x.accums.getD h.pair (Accum.new h.wave h.token r.layer r.stage r.col h.floor)
    if e[p.taken]? ≠ some (a, h.nibble) ∨ p.closed ∨ p.wave ≠ h.wave ∨ p.token ≠ h.token ∨ p.block ≠ r.col then
      s.planFault d t (some h.wave)
    else
      let codes := h.codes charge
      let k := totalShift x.range (r.roleOf (a - r.first)) h.nibble h.align
      let g := (s.arr d t a).gain
      let y := p.add (codes.map fun c => contribution c.1 g k)
      let y := { y with closed := decide (y.taken = e.length), floor := if codes.all (·.1 == 0) then y.floor else h.floor }
      let s1 := (s.countCodes d t h codes).count (arkKey Reg.ARK_ACC_SAT d) (newlySat p y)
      (s1.modTile d t fun x => { x with accums := x.accums.put h.pair y }).drainArray d t a

/-- A reference read's difference joins the last reads at one range shift (R99, R100). -/
def State.addReference (s : State) (d t a : Nat) (charge : List Int) : State :=
  let r := (s.tile d t).range
  let diff := (clip 127 (charge.getD 0 0)).1 - (clip 127 (charge.getD 1 0)).1
  s.modArr d t a fun x =>
    let old := if x.refRange = r then x.refs else []
    { x with held := none, refs := old.drop (old.length - 15) ++ [diff], refRange := r }

/-- A planned conversion slot (R30, R37). A slot of an empty token vector stays idle (R18). -/
def State.convert (s : State) (d t w : Nat) (rec : DWord) (charge : List Int) : State :=
  let a := recArray rec
  match (s.arr d t a).held with
  | some h =>
    match h.kind with
    | .reference => s.addReference d t a charge
    | .transposed => s.drainArray d t a
    | _ => if !s.dieRuns d ∨ (s.tile d t).state ≠ .inService then s else s.accumulate d t a h charge
  | none =>
    if !s.dieRuns d ∨ (s.tile d t).state ≠ .inService then s
    else if !s.occupied w (recToken rec) then s.tally d 0x16 (if recKind rec = 1 then 2 else 1) (some (waveHub w))
    else s.planFault d t (some w)

/-- CONVERSION_SLOT (R30). -/
def execConversionSlot (die : Fin 16) (tile : Fin 8448) (wave : Fin 96) (rec : DWord) (charge : List Int) (s : State) :
    Host.Outcome State Fault Refusal :=
  .next (s.convert die tile wave rec charge)

/-! ### Release (R73, R294) -/

/-- Message of a closed pair. -/
def Accum.message (p : Accum) (valid : Bool) : Partial :=
  { partials := p.partials, sat := p.sat, floor := p.floor, valid := valid }

/-- The message of pair `p` of the tile reaches the home hub. -/
def State.sendPartial (s : State) (d t : Nat) (p : Accum) (valid : Bool) : State :=
  let k := msgKey (colKey p.wave p.token p.layer p.stage p.block) d (s.logical d t)
  s.modFab fun f => { f with messages := f.messages.put k (p.message valid) }

/-- A closed partial leaves 1 µs after its last slot when no detector has fired by then (R73, R294). -/
def State.releasePartial (s : State) (d t pair : Nat) : State :=
  let x := s.tile d t
  match x.accums.get? pair with
  | some p =>
    if p.closed ∧ x.state = .inService then
      (s.sendPartial d t p (p.valid && !decide (p.wave ∈ x.badWaves))).modTile d t
        fun x => { x with accums := x.accums.erase pair }
    else s
  | none => s

/-- PARTIAL_RELEASE (R294). -/
def execPartialRelease (die : Fin 16) (tile : Fin 8448) (pair : Fin 64) (s : State) :
    Host.Outcome State Fault Refusal :=
  .next (s.releasePartial die tile pair)

/-! ### Drift gain (R99, R100) -/

/-- Ideal difference of REFA and REFB at range shift `r` (R99). -/
def idealDiff (r : Nat) : Nat := 10 * refRows r / 2 ^ r

/-- The gain that 16 differences give, none when it is out of range (R99). -/
def driftGain (sum : Int) (ideal : Nat) : Option Nat :=
  if sum ≤ 0 then none
  else
    let g := (2 ^ 14 * 16 * ideal * 2 + sum.toNat) / (2 * sum.toNat)
    if g < 0x3000 ∨ 0x5FFF < g then none else some g

/-- The 16th reference read of an array gives a new gain for the bank, or is out of range (R99, R100). -/
def State.updateGain (s : State) (d t a : Nat) : State :=
  let x := s.arr d t a
  if x.refs.length < 16 then s
  else
    match driftGain (x.refs.foldl (· + ·) 0) (idealDiff x.refRange) with
    | some g => s.modArr d t a fun x => { x with newGain := some g, oor := false, refs := [] }
    | none =>
      ((s.modArr d t a fun x => { x with oor := true, refs := [] }).count Reg.LAP_MOG_DRIFT_OOR 1).raise
        Fld.LAP_MOG_EVT_DRIFT_RANGE

/-- DRIFT_GAIN_UPDATE (R99). -/
def execDriftGainUpdate (die : Fin 16) (tile : Fin 8448) (array : Fin 256) (s : State) :
    Host.Outcome State Fault Refusal :=
  .next (s.updateGain die tile array)

/-! ### Host test operations (R43-R45) -/

/-- Kind of a test operation by ARK_TEST_CTL.KIND. -/
def testKind (n : Nat) : FireKind :=
  match n with
  | 0 => .separate | 1 => .merged | 2 => .transposed | _ => .reference

/-- The 256 codes of ARK_TEST_IN of die `d`. -/
def State.testCodes (s : State) (d : Nat) : List (BitVec 4) :=
  (List.range 32).flatMap fun i =>
    (List.range 8).map fun m => BitVec.ofNat 4 (wordBits (s.rd (arkKey (wordAt Reg.ARK_TEST_IN 32 i) d)) (4 * m) 4)

/-- START with the fields as written (R44, R45): refused by the tile's state or the array, or running with everything latched. A
tile whose range differs takes the new one (R44). -/
def State.startTest (s : State) (d : Nat) : State :=
  let t := s.get (Fld.ARK_TSEL_TILE.die d)
  let st := (s.tile d t).state
  let a := s.get (Fld.ARK_TEST_CTL_ARRAY.die d)
  let k := s.get (Fld.ARK_TEST_CTL_KIND.die d)
  let r := s.get (Fld.ARK_TEST_CTL_RANGE.die d)
  if st ≠ .spare ∧ st ≠ .fenced then s.put (Fld.ARK_TEST_CTL_STATUS.die d) 2
  else if k = 1 ∧ a % 2 = 1 then s.put (Fld.ARK_TEST_CTL_STATUS.die d) 3
  else
    let op : TestOp := { kind := testKind k, tile := t, range := r, array := a, codes := s.testCodes d }
    let s1 := (s.modFab fun f => { f with tests := f.tests.put d op }).modTile d t fun x => { x with range := r }
    (s1.put (Fld.ARK_TEST_CTL_START.die d) 1).put (Fld.ARK_TEST_CTL_BUSY.die d) 1

/-- A write of `v` to ARK_TEST_CTL of die `d` (R43, R44): RANGE 7 and START while BUSY are violations. -/
def State.writeTestCtl (s : State) (req d : Nat) (v : Word) : State :=
  let off := arkKey Reg.ARK_TEST_CTL d
  let bad := fun (s : State) => if req = 5 then s.violation 0x03 0 off 0#32 else s
  let s1 := (s.put (Fld.ARK_TEST_CTL_KIND.die d) (wordBits v 20 2)).put (Fld.ARK_TEST_CTL_ARRAY.die d) (wordBits v 0 8)
  let s2 := if wordBits v 16 3 = 7 then bad s1 else s1.put (Fld.ARK_TEST_CTL_RANGE.die d) (wordBits v 16 3)
  if wordBits v 31 1 = 0 ∨ wordBits v 16 3 = 7 then s2
  else if (s.fab.tests.get? d).isSome then bad s2
  else s2.startTest d

/-- ARK_TEST_SEPARATE (R44). -/
def execArkTestSeparate (die : Fin 16) (v : Word) (s : State) : Host.Outcome State Fault Refusal :=
  .next (if s.hidden Reg.ARK_TEST_CTL then s.undecoded (arkKey Reg.ARK_TEST_CTL die) else s.writeTestCtl 5 die v)

/-- ARK_TEST_MERGED (R44). -/
def execArkTestMerged (die : Fin 16) (v : Word) (s : State) : Host.Outcome State Fault Refusal :=
  .next (if s.hidden Reg.ARK_TEST_CTL then s.undecoded (arkKey Reg.ARK_TEST_CTL die) else s.writeTestCtl 5 die v)

/-- ARK_TEST_TRANSPOSED (R44). -/
def execArkTestTransposed (die : Fin 16) (v : Word) (s : State) : Host.Outcome State Fault Refusal :=
  .next (if s.hidden Reg.ARK_TEST_CTL then s.undecoded (arkKey Reg.ARK_TEST_CTL die) else s.writeTestCtl 5 die v)

/-- ARK_TEST_REFERENCE (R44). -/
def execArkTestReference (die : Fin 16) (v : Word) (s : State) : Host.Outcome State Fault Refusal :=
  .next (if s.hidden Reg.ARK_TEST_CTL then s.undecoded (arkKey Reg.ARK_TEST_CTL die) else s.writeTestCtl 5 die v)

/-- The codes that drive a test operation: those of its array, and of the next for a merged pair. -/
def TestOp.driven (o : TestOp) : List (BitVec 4) := if o.kind = .merged then o.codes else o.codes.take 128

/-- The outputs of a test operation (R29, R41, ARK_TEST_OUT): raw codes with CLIP. -/
def TestOp.outputs (o : TestOp) (charge : List Int) : List (Int × Bool) :=
  match o.kind with
  | .reference => (List.range 128).map fun c => if c < 2 then clip 127 (charge.getD c 0) else (0, false)
  | k =>
    if o.driven.all fun c => codeValue c == 0 then List.replicate 128 (0, false)
    else (List.range 128).map fun c => clip (topCode k) (charge.getD c 0)

/-- A half of an ARK_TEST_OUT register: code and CLIP flag. -/
def testHalf (y : Int × Bool) : BitVec 16 := BitVec.ofNat 16 (y.2.toNat * 2 ^ 15 + (BitVec.ofInt 9 y.1).toNat)

/-- The running test of die `d` ends (R44, R45): outputs, DONE, and a claim that waited for it takes effect. -/
def State.endTest (s : State) (d : Nat) (charge : List Int) : State :=
  match s.fab.tests.get? d with
  | none => s
  | some o =>
    let out := o.outputs charge
    let s1 := (List.range 64).foldl (fun s i =>
      s.wr (arkKey (wordAt Reg.ARK_TEST_OUT 64 i) d)
        (testHalf (out.getD (2 * i + 1) (0, false)) ++ testHalf (out.getD (2 * i) (0, false)))) s
    let s2 := (s1.put (Fld.ARK_TEST_CTL_START.die d) 0).put (Fld.ARK_TEST_CTL_BUSY.die d) 0
    let s3 := (s2.put (Fld.ARK_TEST_CTL_STATUS.die d) 1).modFab fun f => { f with tests := f.tests.erase d }
    s3.modTile d o.tile fun x => { x with state := x.claimed.getD x.state, claimed := none }

/-- ARK_TEST_DONE (R44). -/
def execArkTestDone (die : Fin 16) (charge : List Int) (s : State) : Host.Outcome State Fault Refusal :=
  .next (s.endTest die charge)

/-- A claim of the tile for `st` by patrol or the loader, which waits for a running test operation on it (R45). -/
def State.claimTile (s : State) (d t : Nat) (st : TileState) : State :=
  match s.fab.tests.get? d with
  | some o => if o.tile = t then s.modTile d t fun x => { x with claimed := some st } else s.modTile d t fun x => { x with state := st }
  | none => s.modTile d t fun x => { x with state := st }

end Sys2Proof.Machine
end

