-- ==== Sys2Proof/Machine/Events.lean ====
section
/-!
DEFINITION. The event gatherer (R366-R379): pending, claims, completions, holds, storms, interrupt lines.
-/

namespace Sys2Proof.Machine

/-- The gatherer has 1,536 sources (R366). -/
def sources : Nat := 1536

/-- The table of R366 names source `n`; the others are reserved and never become pending. -/
def namedSource (n : Nat) : Bool := (holdingBit n).isSome || decide (n = 0x090) || (hkcSource n).isSome

/-- Pending bit of source `n`. -/
def State.evtPend (s : State) (n : Nat) : Bool := s.sourceBit Reg.EVT_PEND n

/-- Mask bit of source `n`; that of source 0x010 reads 0 (R367). -/
def State.evtMasked (s : State) (n : Nat) : Bool := n != 0x010 && s.sourceBit Reg.EVT_MASK n

/-- In-service bit of source `n`. -/
def State.inService (s : State) (n : Nat) : Bool := s.sourceBit Reg.EVT_INSVC n

/-- The word of EVT_SRC of source `n`. -/
def srcWord (f : Fld) (n : Nat) : Fld := { f with reg := wordAt f.reg 1536 n }

/-- Route of source `n`; that of source 0x010 always includes Bonos (R367). -/
def State.route (s : State) (n : Nat) : Nat :=
  let r := s.get (srcWord Fld.EVT_SRC_ROUTE n)
  if n = 0x010 then r ||| 1 else r

/-- Source `n` is routed to target `t` (R373). -/
def State.routedTo (s : State) (n t : Nat) : Bool := s.route n / 2 ^ t % 2 == 1

/-- The word of source `n` in EVT_PEND (or, for `false`, EVT_MASK) is held (R371). -/
def State.heldWord (s : State) (pend : Bool) (n : Nat) : Bool :=
  match s.evt.hold with
  | some (_, r, w) => r == pend && w == n / 32
  | none => false

/-- Target `t`'s copy of a per-target register. -/
def Fld.target (f : Fld) (t : Nat) : Fld := { f with reg := wordAt f.reg 6 t }

/-! ### Lines (R375-R377) -/

/-- An MSI-X message that no counted record causes: sent, or kept pending (R182, R183, R377). -/
def State.sendVector (s : State) (vec : Nat) : State :=
  if s.masked vec || !s.canWrite then s.put (Fld.QP_VSTS_PENDING.sel vec) 1
  else (s.send (.msix vec)).tally 18 0x12 1 none

/-- The line of target `t` asserts; the host's sends its vector, once (R375, R377). -/
def State.assertLine (s : State) (t : Nat) : State :=
  if s.flag (Fld.EVT_TSTS_LINE.target t) then s
  else
    let s1 := (s.put (Fld.EVT_TSTS_LINE.target t) 1).modEvt fun e => { e with timers := e.timers.filter (· != t) }
    if t = 5 then s1.sendVector (s1.get Fld.EVT_HVEC_VECTOR) else s1

/-- Target `t` holds a source in service. -/
def State.holdsService (s : State) (t : Nat) : Bool :=
  (List.range 48).any fun w => s.rd (wordAt Reg.EVT_INSVC 48 w) != 0#32
    && (List.range 32).any fun i => s.inService (32 * w + i) && s.get (srcWord Fld.EVT_SRC_CLAIMER (32 * w + i)) == t

/-- Target `t` is idle (R376). -/
def State.idleTarget (s : State) (t : Nat) : Bool := !s.flag (Fld.EVT_TSTS_LINE.target t) && !s.holdsService t

/-- Source `n` has become pending for target `t`: it is counted, and the line asserts when the count reaches COUNT, at once
for source 0x010 (R367) and outside SERVICE for an idle target (R376); else the timer runs from the first (R375). -/
def State.countTarget (s : State) (n t : Nat) : State :=
  let c := s.get (Fld.EVT_TSTS_COUNTED.target t) + 1
  let idle := s.idleTarget t
  let s1 := s.put (Fld.EVT_TSTS_COUNTED.target t) (min c 255)
  if s.get (Fld.EVT_TCFG_COUNT.target t) ≤ c ∨ n = 0x010 ∨ (s.get Fld.EVT_CTL_MODE ≠ 0 ∧ idle) then s1.assertLine t
  else if s.flag (Fld.EVT_TSTS_LINE.target t) then s1
  else s1.modEvt fun e => { e with timers := insertNat t e.timers }

/-- Source `n`'s pending bit rises, for each target of its route (R368, R375). -/
def State.becomePending (s : State) (n : Nat) : State :=
  if s.evtPend n then s
  else
    ((List.range 6).filter fun t => s.routedTo n t).foldl (fun s t => s.countTarget n t) (s.putSource Reg.EVT_PEND n true)

/-- EVT_SOURCE_PENDING (R366-R368, R371): the level of the source is high, its mask 0, its route not 0, it is not in service;
a held word defers the set. -/
def execEvtSourcePending (src : Fin 1536) (s : State) : Host.Outcome State Fault Refusal :=
  let n := src.val
  if s.level n ∧ !s.evtMasked n ∧ s.route n ≠ 0 ∧ !s.inService n then
    if s.heldWord true n then
      .next (if s.evtPend n ∨ Deferred.setPend n ∈ s.evt.deferred then s
        else s.modEvt fun e => { e with deferred := e.deferred ++ [.setPend n] })
    else .next (s.becomePending n)
  else .next s

/-- EVT_LINE_TIMER (R375): TIME has passed since the first counted source. -/
def execEvtLineTimer (t : Fin 6) (s : State) : Host.Outcome State Fault Refusal :=
  .next (if t.val ∈ s.evt.timers then s.assertLine t else s)

/-! ### Claims and completion (R369, R373, R374) -/

/-- What an unsuccessful claim returns (R373). -/
def noSource : Nat := 0x7FF

/-- Source `n` may be claimed by target `t`. -/
def State.claimable (s : State) (t n : Nat) : Bool :=
  s.evtPend n && !s.evtMasked n && s.routedTo n t && !s.heldWord true n

/-- STORM_MASK (R369): the claim of source `n` exceeds the limit; its mask bit is set, or waits for the release of a hold of
its EVT_MASK word (R371). Source 0x010 is never masked (R367). -/
def State.stormMask (s : State) (n : Nat) : State :=
  let s1 := ((s.put Fld.EVT_STS_STORM 1).put Fld.EVT_STS_STORM_SRC n).count Reg.EVT_STORM_CNT 1
  if s.heldWord false n then s1.modEvt fun e => { e with deferred := e.deferred ++ [.setMask n] }
  else s1.putSource Reg.EVT_MASK n true

/-- A claim of source `n` is counted against EVT_CTL.STORM (R369). -/
def State.countClaim (s : State) (n : Nat) : State :=
  let c := s.evt.claims.getD n 0 + 1
  let s1 := s.modEvt fun e => { e with claims := e.claims.put n c }
  let lim := s.get Fld.EVT_CTL_STORM
  if lim ≠ 0 ∧ lim < c ∧ n ≠ 0x010 then s1.stormMask n else s1

/-- Target `t` claims source `n` (R373). -/
def State.takeClaim (s : State) (t n : Nat) : State :=
  let s1 := (s.putSource Reg.EVT_PEND n false).putSource Reg.EVT_INSVC n true
  (((s1.put (srcWord Fld.EVT_SRC_CLAIMER n) t).count Reg.EVT_CLAIMS 1).countClaim n).send (.claim t n)

/-- A claim of target `t` finds nothing: it returns 0x7FF, and the line, its count and its timer restart (R373, R375). -/
def State.missClaim (s : State) (t : Nat) : State :=
  let s1 := ((s.count Reg.EVT_SPURIOUS 1).put (Fld.EVT_TSTS_LINE.target t) 0).put (Fld.EVT_TSTS_COUNTED.target t) 0
  (s1.modEvt fun e => { e with timers := e.timers.filter (· != t) }).send (.claim t noSource)

/-- The lowest-numbered source that target `t` may claim. -/
def State.lowestClaim (s : State) (t : Nat) : Option Nat :=
  (List.range 48).findSome? fun w =>
    if s.rd (wordAt Reg.EVT_PEND 48 w) = 0#32 then none
    else ((List.range 32).map fun i => 32 * w + i).find? fun n => s.claimable t n

/-- A read of EVT_CLAIM of target `t` by `req` (R373). -/
def State.claim (s : State) (req t : Nat) : State :=
  if req ≠ t then s.send (.claim t noSource)
  else
    match s.lowestClaim t with
    | some n => s.takeClaim t n
    | none => s.missClaim t

/-- EVT_CLAIM (R373). -/
def execEvtClaim (req : Requester) (t : Fin 6) (s : State) : Host.Outcome State Fault Refusal :=
  .next (if req.val = hostReq ∧ s.hidden Reg.EVT_CLAIM then s.send (.read (Reg.EVT_CLAIM + 8 * t) 0#32) else s.claim req t)

/-- A write of `n` to EVT_DONE of target `t` by `req` (R374). -/
def State.done (s : State) (req t n : Nat) : State :=
  if req = t ∧ n < sources ∧ s.inService n ∧ s.get (srcWord Fld.EVT_SRC_CLAIMER n) = t then
    (s.putSource Reg.EVT_INSVC n false).put (srcWord Fld.EVT_SRC_CLAIMER n) 0
  else s.count Reg.EVT_DONE_BAD 1

/-- EVT_DONE (R374). -/
def execEvtDone (req : Requester) (t : Fin 6) (v : Word) (s : State) : Host.Outcome State Fault Refusal :=
  .next (if req.val = hostReq ∧ s.hidden Reg.EVT_DONE then s.undecoded (Reg.EVT_DONE + 8 * t) else s.done req t (wordBits v 0 11))

/-- STORM_INTERVAL_END (R369): the 20 ms intervals before lap 0. -/
def execStormIntervalEnd (s : State) : Host.Outcome State Fault Refusal :=
  .next (if s.running then s else s.modEvt fun e => { e with claims := .empty })

/-! ### Holds (R371) -/

/-- A deferred change is applied. -/
def State.applyDeferred (s : State) (d : Deferred) : State :=
  match d with
  | .setPend n => s.becomePending n
  | .clearPend n => s.putSource Reg.EVT_PEND n false
  | .setMask n => s.putSource Reg.EVT_MASK n true

/-- The hold ends; its deferred changes are applied in the order they arose. -/
def State.endHold (s : State) : State :=
  let d := s.evt.deferred
  d.foldl (fun s x => s.applyDeferred x) (s.modEvt fun e => { e with hold := none, deferred := [] })

/-- The fields of EVT_HOLD show the hold; on a release HOLD reads 0. -/
def State.showHold (s : State) : State :=
  match s.evt.hold with
  | some (o, r, w) =>
    (((s.put Fld.EVT_HOLD_HOLD 1).put Fld.EVT_HOLD_OWNER o).putB Fld.EVT_HOLD_REG r).put Fld.EVT_HOLD_WORD w
  | none => s.put Fld.EVT_HOLD_HOLD 0

/-- A write of EVT_HOLD by `req` (R371): HOLD 1 takes a free hold or moves the requester's own, HOLD 0 releases its own; the
others are ignored. EXPIRED is the requester's own (R379). A WORD above 47 names no word and takes none. -/
def State.writeHold (s : State) (req : Nat) (v : Word) : State :=
  let s0 := if wordBits v 30 1 = 1 then s.modEvt fun e => { e with expired := e.expired.filter (· != req) } else s
  let mine : Bool := match s.evt.hold with | some (o, _, _) => o == req | none => false
  if wordBits v 31 1 = 1 then
    if wordBits v 0 6 < 48 ∧ (mine ∨ s.evt.hold = none) then
      let s1 := if mine then s0.endHold else s0
      (s1.modEvt fun e => { e with hold := some (req, wordBits v 7 1 == 1, wordBits v 0 6) }).showHold
    else if req = 5 ∧ 48 ≤ wordBits v 0 6 then s0.violation 0x03 0 Reg.EVT_HOLD 0#32
    else s0
  else if mine then s0.endHold.showHold
  else s0

/-- EVT_HOLD_TAKE (R371). -/
def execEvtHoldTake (req : Requester) (v : Word) (s : State) : Host.Outcome State Fault Refusal :=
  .next (if req.val = hostReq ∧ s.hidden Reg.EVT_HOLD then s.undecoded Reg.EVT_HOLD else s.writeHold req v)

/-- EVT_HOLD_RELEASE (R371). -/
def execEvtHoldRelease (req : Requester) (v : Word) (s : State) : Host.Outcome State Fault Refusal :=
  .next (if req.val = hostReq ∧ s.hidden Reg.EVT_HOLD then s.undecoded Reg.EVT_HOLD else s.writeHold req v)

/-- EVT_HOLD_EXPIRE (R371): 4,096 SYS cycles after the hold was taken or last moved. -/
def execEvtHoldExpire (s : State) : Host.Outcome State Fault Refusal :=
  match s.evt.hold with
  | some h =>
    .next (((s.endHold.showHold).modEvt fun e =>
      { e with expired := insertNat h.1 e.expired, discard := some h }).count Reg.EVT_HOLD_EXP 1)
  | none => .next s

/-! ### Writes of the source words (R367, R368, R370, R371) -/

/-- A write of `v` to word `w` of EVT_PEND (or, for `false`, EVT_MASK) by `req`: ignored while another requester holds the
word, discarded once for a former holder whose hold expired; source 0x010 is never masked, and a reserved source is never
pending. A pending bit that the write sets becomes pending for its targets. -/
def State.writeSourceWord (s : State) (req : Nat) (pend : Bool) (w : Nat) (v : Word) : State :=
  if (match s.evt.hold with | some (o, r, x) => r == pend && x == w && o != req | none => false) then s
  else if s.evt.discard = some (req, pend, w) then s.modEvt fun e => { e with discard := none }
  else if pend then
    let bit := fun i => wordBits v i 1 == 1
    let kept := (List.range 32).foldl (fun s i => if bit i then s else s.putSource Reg.EVT_PEND (32 * w + i) false) s
    ((List.range 32).filter fun i => bit i && namedSource (32 * w + i)).foldl (fun s i => s.becomePending (32 * w + i)) kept
  else s.wr (wordAt Reg.EVT_MASK 48 w) (if w = 0 then setBits v 16 1 0 else v)

/-- A write of EVT_SRC of source `n`: its route; bit 0 reads 1 for source 0x010 (R367, R379). -/
def State.writeRoute (s : State) (n : Nat) (v : Word) : State :=
  s.put (srcWord Fld.EVT_SRC_ROUTE n) (if n = 0x010 then wordBits v 0 6 ||| 1 else wordBits v 0 6)

/-- A ROUTING record of the image: route in bits [5:0], mask in bit [6] (R379, R387). -/
def State.applyRouting (s : State) (n : Nat) (r : Byte) : State :=
  let s1 := s.writeRoute n (BitVec.ofNat 32 (bits r.toNat 0 6))
  if n = 0x010 then s1 else s1.putSource Reg.EVT_MASK n (bits r.toNat 6 1 == 1)

end Sys2Proof.Machine
end

