-- ==== Sys2Proof/Machine/Fp32.lean ====
section
/-!
DEFINITION. The FP32 arithmetic of the hubs (R76): IEEE 754 binary32 with rounding to nearest, ties to even, subnormal values
kept, a result that would be infinite replaced by the largest finite value and counted; conversions to BF16 and from integers.
-/

namespace Sys2Proof.Machine

/-- The sign bit. -/
def Fp.neg (w : Word) : Bool := w.msb

/-- Significand and exponent of the magnitude: it is the first times 2 to the second. An encoding of infinity or NaN, which no
step produces, reads as the largest finite magnitude. -/
def Fp.mag (w : Word) : Nat × Int :=
  let e : Nat := w.toNat / 2 ^ 23 % 256
  let f : Nat := w.toNat % 2 ^ 23
  if e = 0 then (f, -149) else if e = 255 then (2 ^ 24 - 1, 104) else (f + 2 ^ 23, (e : Int) - 150)

/-- The signed significand. -/
def Fp.signed (w : Word) : Int := if Fp.neg w then -((Fp.mag w).1 : Int) else (Fp.mag w).1

/-- The word with that sign and those 31 bits. -/
def Fp.word (neg : Bool) (bits : Nat) : Word := BitVec.ofNat 32 (neg.toNat * 2 ^ 31 + bits)

/-- The magnitude a × 2^e, a little more when `sticky`, rounded to nearest even; whether it was replaced (R76). -/
def Fp.pack (neg : Bool) (a : Nat) (e : Int) (sticky : Bool) : Word × Bool :=
  if a = 0 then (Fp.word neg 0, false)
  else
    let q : Int := max (e + (a.log2 + 1 : Nat) - 24) (-149)
    let m :=
      if q ≤ e then a * 2 ^ (e - q).toNat
      else
        let d := 2 ^ (q - e).toNat
        let r := a % d * 2
        if d < r || (r == d && (sticky || a / d % 2 == 1)) then a / d + 1 else a / d
    let b := (q + 149).toNat * 2 ^ 23 + m
    if 0x7F800000 ≤ b then (Fp.word neg 0x7F7FFFFF, true) else (Fp.word neg b, false)

/-- a + b. -/
def Fp.add (a b : Word) : Word × Bool :=
  let e := min (Fp.mag a).2 (Fp.mag b).2
  let s := Fp.signed a * 2 ^ ((Fp.mag a).2 - e).toNat + Fp.signed b * 2 ^ ((Fp.mag b).2 - e).toNat
  if s = 0 then (Fp.word (Fp.neg a && Fp.neg b) 0, false) else Fp.pack (decide (s < 0)) s.natAbs e false

/-- a with the other sign. -/
def Fp.negate (a : Word) : Word := a ^^^ 0x80000000#32

/-- a × b. -/
def Fp.mul (a b : Word) : Word × Bool :=
  Fp.pack (Fp.neg a != Fp.neg b) ((Fp.mag a).1 * (Fp.mag b).1) ((Fp.mag a).2 + (Fp.mag b).2) false

/-- a ÷ b; a quotient by zero would be infinite. -/
def Fp.div (a b : Word) : Word × Bool :=
  let n := (Fp.mag a).1
  let d := (Fp.mag b).1
  let s := Fp.neg a != Fp.neg b
  if d = 0 then (if n = 0 then (Fp.word s 0, false) else (Fp.word s 0x7F7FFFFF, true))
  else
    let k := 28 + d.log2 - n.log2
    Fp.pack s (n * 2 ^ k / d) ((Fp.mag a).2 - (Fp.mag b).2 - k) (n * 2 ^ k % d != 0)

/-- The integer square root of a number below 2^62, bit by bit from bit 30. -/
def isqrt (n : Nat) : Nat :=
  (List.range 31).foldl (fun r i => let c := r + 2 ^ (30 - i); if c * c ≤ n then c else r) 0

/-- √a of a value that is not negative. -/
def Fp.sqrt (a : Word) : Word :=
  let n := (Fp.mag a).1
  let e := (Fp.mag a).2
  if n = 0 then 0#32
  else
    let k0 := 56 - n.log2
    let k := if (e - (k0 : Int)) % 2 = 0 then k0 else k0 + 1
    let r := isqrt (n * 2 ^ k)
    (Fp.pack false r ((e - k) / 2) (r * r != n * 2 ^ k)).1

/-- The order of FP32 values as an order of integers; the two zeros are equal. -/
def Fp.key (a : Word) : Int := if Fp.neg a then -((a.toNat % 2 ^ 31 : Nat) : Int) else (a.toNat % 2 ^ 31 : Nat)

/-- a < b. -/
def Fp.lt (a b : Word) : Bool := decide (Fp.key a < Fp.key b)

/-- The larger, `a` when they are equal. -/
def Fp.max (a b : Word) : Word := if Fp.lt a b then b else a

/-- |a|. -/
def Fp.abs (a : Word) : Word := a &&& 0x7FFFFFFF#32

/-- An integer, rounded (R75 step 1). -/
def Fp.ofInt (n : Int) : Word := (Fp.pack (decide (n < 0)) n.natAbs 0 false).1

/-- a × 2^k. -/
def Fp.scale (a : Word) (k : Int) : Word × Bool := Fp.pack (Fp.neg a) (Fp.mag a).1 ((Fp.mag a).2 + k) false

/-- The value as a fraction of 2^150: value × 2^150 is this integer. -/
def Fp.exact (a : Word) : Int := Fp.signed a * 2 ^ ((Fp.mag a).2 + 150).toNat

/-- n ÷ d rounded to the nearest integer, ties to even. -/
def roundEven (n : Int) (d : Nat) : Int :=
  let q := n / d
  let r := n % d * 2
  if (d : Int) < r ∨ (r = d ∧ q % 2 = 1) then q + 1 else q

/-- n ÷ d rounded to the nearest integer, ties away from zero. -/
def roundAway (n : Int) (d : Nat) : Int :=
  if n < 0 then -((-n * 2 + d) / (2 * d)) else (n * 2 + d) / (2 * d)

/-! ### BF16 -/

/-- A BF16 value widened (R78). -/
def Bf16.widen (h : BitVec 16) : Word := h ++ 0#16

/-- Rounded to BF16; whether the result was replaced by the largest finite value (R76). -/
def Fp.toBf16 (a : Word) : BitVec 16 × Bool :=
  let m := a.toNat % 2 ^ 31
  let r := (m + 0x7FFF + m / 2 ^ 16 % 2) / 2 ^ 16
  let s := (Fp.neg a).toNat * 2 ^ 15
  if 0x7F80 ≤ r then (BitVec.ofNat 16 (s + 0x7F7F), true) else (BitVec.ofNat 16 (s + r), false)

/-! ### Counting the results replaced -/

/-- A step of the hub's arithmetic that counts the results replaced (LAP_OUT_OVF). -/
abbrev Hubm (α : Type) := StateM Nat α

/-- An operation's result, its replacement counted. -/
def counted (r : Word × Bool) : Hubm Word := fun n => (r.1, n + r.2.toNat)

/-- a + b. -/
def fadd (a b : Word) : Hubm Word := counted (Fp.add a b)
/-- a - b. -/
def fsub (a b : Word) : Hubm Word := counted (Fp.add a (Fp.negate b))
/-- a × b. -/
def fmul (a b : Word) : Hubm Word := counted (Fp.mul a b)
/-- a ÷ b. -/
def fdiv (a b : Word) : Hubm Word := counted (Fp.div a b)

/-- The sum of a list in its order, from 0. -/
def fsum (l : List Word) : Hubm Word := l.foldlM fadd 0#32

/-- Rounded to BF16. -/
def fstore (a : Word) : Hubm (BitVec 16) := fun n => ((Fp.toBf16 a).1, n + (Fp.toBf16 a).2.toNat)

end Sys2Proof.Machine
end

