-- ==== Sys2Proof/Machine/Energy.lean ====
section
/-!
DEFINITION. The energy ledger (R325-R332): budget, planned and measured energy, the cap, snowplough pauses and the withholding of
tow slots. Energies are counted in fJ, those of the plan in 256ths of a µJ.
-/

namespace Sys2Proof.Machine

/-! ### Constants of the image (R325, R326, R388) -/

/-- VALUE of the ENERGY record of a kind and index; 0 where the piste has none. -/
def State.energyValue (s : State) (kind index : Nat) : Nat :=
  match s.bon.image.bind fun m => m.energy.find? fun e => e.1 == kind && e.2.1 == index with
  | some e => e.2.2
  | none => 0

/-- E_DEC of model slot `m`, µJ. -/
def State.eDec (s : State) (m : Nat) : Nat := s.energyValue 0 m
/-- E_TOW of model slot `m`, µJ. -/
def State.eTow (s : State) (m : Nat) : Nat := s.energyValue 1 m
/-- IDLE_W, W. -/
def State.idleW (s : State) : Nat := s.get Fld.LAP_ECFG_IDLE_W
/-- OPT_W, W. -/
def State.optW (s : State) : Nat := s.energyValue 3 0

/-- L in ms (LAP_STS.LEN_MS). -/
def State.lapMs (s : State) : Nat := s.get Fld.LAP_STS_LEN_MS

/-- P_eff in hundredths of a W (R320, R325). -/
def State.pEff100 (s : State) : Nat :=
  s.get Fld.LAP_EBUDGET_WATTS * (if 2 ≤ s.get Fld.THM_STS_LEVEL then s.get Fld.LAP_ECFG_THR_PCT else 100)

/-- P_eff × `ns`, in fJ. -/
def State.effEnergy (s : State) (ns : Nat) : Nat := s.pEff100 * ns * 10000

/-- The module belongs to a lap domain (R277, R392). -/
def State.inDomain (s : State) : Bool := s.get Fld.LNK_ID_MODULE_ID != 0xFFFF && (s.bon.image.bind (·.link)).isSome

/-! ### Measured energy (R327) -/

/-- The measured rails: die, voltage input, current input (R322). -/
def rails : List (Nat × Nat × Nat) :=
  ((List.range 16).flatMap fun d => [(d, 12, 13), (d, 14, 15)])
  ++ [16, 17].flatMap fun d => [(d, 28, 29), (d, 30, 31)]

/-- A housekeeping input before its first sample (R323). -/
def HkcInput.new : HkcInput :=
  { sum := 0, count := 0, min := 0xFFF, max := 0, bad := 0, broken := false, level := 0, outside := false, pointSum := 0,
    pointCount := 0 }

/-- Key of a housekeeping input. -/
def hkcKey (die input : Nat) : Nat := die * 64 + input

/-- Housekeeping input `input` of die `die`. -/
def State.hkc (s : State) (die input : Nat) : HkcInput := s.thm.inputs.getD (hkcKey die input) HkcInput.new

/-- That input set. -/
def State.putHkc (s : State) (die input : Nat) (x : HkcInput) : State :=
  s.modThm fun t => { t with inputs := t.inputs.put (hkcKey die input) x }

/-- Energy of one rail over `ns`, in fJ: mean voltage (0.5 mV a code) times mean current (I_SCALE mA a code) times the time; a rail
without samples since the last point adds nothing. -/
def State.railEnergy (s : State) (r : Nat × Nat × Nat) (ns : Nat) : Nat :=
  let v := s.hkc r.1 r.2.1
  let i := s.hkc r.1 r.2.2
  v.pointSum * i.pointSum * s.param r.1 3 * ns / (2 * v.pointCount * i.pointCount)

/-- What a pause point `ns` after the last adds to E_m, in fJ (R327). -/
def State.pointEnergy (s : State) (ns : Nat) : Nat :=
  (rails.map fun r => s.railEnergy r ns).sum + s.optW * ns * 1000000

/-- E_m formed at real time `ns` of the lap; the means restart (R327). -/
def State.measurePoint (s : State) (ns : Nat) : State :=
  let e := s.pointEnergy (ns - s.ledger.point)
  let s1 := s.modLedger fun l => { l with meas := l.meas + e, point := max l.point ns }
  s1.modThm fun t => { t with inputs := t.inputs.map fun _ x => { x with pointSum := 0, pointCount := 0 } }

/-! ### The cap (R328) -/

/-- E_cap advanced to real time `ns` of the lap, by whole µs. -/
def State.advanceCap (s : State) (ns : Nat) : State :=
  let us := ns / 1000 - s.ledger.elapsed / 1000
  s.modLedger fun l => { l with cap := l.cap + s.effEnergy (1000 * us), elapsed := max l.elapsed ns }

/-- The ledger at the beginning of a lap: what is planned is the lap's fixed part with the charges of its plan (R326). -/
def State.newLedger (s : State) : State :=
  s.modLedger fun l =>
    { l with meas := 0, credit := 0, cap := 0, elapsed := 0, point := 0, pauses := 0, pauseUs := 0, pausing := none
             planned := 256 * s.idleW * (s.lapMs * 1000 + s.plan.stretchNow) + l.plannedNext
             plannedNext := 0 }

/-! ### Withholding (R332) -/

/-- Energy of a chunk of `c` positions, in 256ths of a µJ; a fit step is charged as 256 (R326). -/
def State.chunkEnergy (s : State) (m c : Nat) : Nat := s.eTow m * c

/-- E_B of a lap, in 256ths of a µJ (R325). -/
def State.eBudget (s : State) : Nat := s.pEff100 * s.lapMs * 10 * 256

/-- A decode slot held into the planned lap, before the plan's grants. -/
def State.holdsDecode (s : State) (b : Bib) (id : Word) : Bool :=
  b.state == .decoding && b.decSlot.isSome && !decide (id ∈ s.plan.lodges) && !decide (id ∈ s.plan.parting)

/-- Planned energy of the occupied decode slots and of the granted ones, and the fixed part, in 256ths of a µJ. -/
def State.decodeEnergy (s : State) : Nat :=
  256 * (s.idleW * s.lapMs * 1000
    + (s.bibs.entries.map fun e => if s.holdsDecode e.2 (bibIdOf e.1 e.2.gen) then s.eDec e.2.modelSlot else 0).sum
    + (s.plan.grants.map fun g =>
        if g.kind = .decode then s.eDec (s.bib (g.bib.toNat % 65536)).modelSlot else 0).sum)

/-- Chunks and fit steps of the planned lap: tow slot and charge. -/
def State.towCharges (s : State) : List (Nat × Nat) :=
  (s.plan.grants.filter fun g => g.kind != .decode).map fun g =>
    (g.slot, s.chunkEnergy (s.bib (g.bib.toNat % 65536)).modelSlot (if g.kind = .fit then 256 else g.chunk))

/-- The highest-numbered tow slot of hub `h` not in `w`. -/
def nextWithheld (w : List Nat) (h : Hub) : Option Nat :=
  ((List.range' (16 * hubNum h) 16).reverse).find? fun t => !decide (t ∈ w)

/-- Tow slots of hub `h` not in `w`. -/
def leftOn (w : List Nat) (h : Hub) : Nat := ((List.range' (16 * hubNum h) 16).filter fun t => !decide (t ∈ w)).length

/-- Step 1 of R332: tow slots withheld one at a time while E_P exceeds E_B; the slots withheld and E_P. -/
def withhold (eB : Nat) (charges : List (Nat × Nat)) : Nat → List Nat → Nat → List Nat × Nat
  | 0, w, e => (w, e)
  | n + 1, w, e =>
    if e ≤ eB then (w, e)
    else
      match nextWithheld w (if leftOn w .he < leftOn w .hw then .hw else .he) with
      | some t => withhold eB charges n (insertNat t w) (e - ((charges.filter fun c => c.1 == t).map Prod.snd).sum)
      | none => (w, e)

/-- Withheld slots of hub `h` in a list. -/
def onHub (w : List Nat) (h : Hub) : Nat := (w.filter fun t => towHub t == h).length

/-- The ledger's withholding as its registers show it. -/
def State.showWithheld (s : State) (w : List Nat) : State :=
  ((s.modLedger fun l => { l with withheld := w }).put Fld.LAP_ESTS_WH_HE (onHub w .he)).put Fld.LAP_ESTS_WH_HW (onHub w .hw)

/-- The ledger withholds for the planned lap (R332); its E_P after withholding, and whether it withholds. -/
def State.ledgerWithhold (s : State) : (Nat × Bool) × State :=
  let charges := s.towCharges
  let e := s.decodeEnergy + (charges.map Prod.snd).sum
  if e ≤ s.eBudget then ((e, false), s.showWithheld [])
  else
    let r := withhold s.eBudget charges 32 [] e
    ((r.2, true), (s.showWithheld r.1).raise Fld.LAP_EEVT_SHORT)

/-- NEW_LIMIT of hub `h` for E_P (R332 step 2); none is unlimited. -/
def State.newLimit (s : State) (h : Hub) (eP : Nat) : Option Nat :=
  if s.eBudget ≤ eP then some 0
  else
    let waves := (List.range' (16 * hubNum h) 16).filterMap fun w => s.waveSlot w
    match (waves.map s.eDec).foldl max 0 with
    | 0 => none
    | d => some ((s.eBudget - eP) / 512 / d)

/-- LAP_ENEW's coding of NEW_LIMIT. -/
def limitCode (l : Option Nat) : Nat := match l with | some n => min n 0xFFFE | none => 0xFFFF

/-- P_eff has been lowered between the cutoff and the boundary: E_P again, and the new withholding applies under R127 (R332). -/
def State.reWithhold (s : State) : State :=
  if s.plan.cutoffDone then
    let s1 := s.ledgerWithhold.2
    s1.modPlan fun p => { p with lateWithheld := s1.ledger.withheld.foldl (fun l t => insertNat t l) p.lateWithheld }
  else s

/-! ### A change of P_eff (R328) -/

/-- P_eff changes with `f`, at real time `ns` of the lap with `em` measured: the cap follows the old value up to here, and a lower
value cuts it to E_m and renews the withholding. -/
def State.changePower (s : State) (em ns : Nat) (f : State → State) : State :=
  let s0 := if s.running then s.advanceCap ns else s
  let s1 := f s0
  if s1.pEff100 < s.pEff100 ∧ s.running then
    (s1.modLedger fun l => { l with cap := min l.cap em }).reWithhold
  else s1

/-- A write of `v` to LAP_EBUDGET by `req` (R334). -/
def State.writeEbudget (s : State) (req : Nat) (v : Word) (em ns : Nat) : State :=
  let w := wordBits v 0 16
  if w < s.get Fld.LAP_EBUDGET_MIN ∨ 1600 < w then (if req = 5 then s.violation 0x03 0 Reg.LAP_EBUDGET 0#32 else s)
  else s.changePower em ns fun s => s.put Fld.LAP_EBUDGET_WATTS w

/-- LAP_EBUDGET (R328). -/
def execLapEbudget (v : Word) (em : Nat) (ns : Nat) (s : State) : Host.Outcome State Fault Refusal :=
  .next (if s.hidden Reg.LAP_EBUDGET then s.undecoded Reg.LAP_EBUDGET else s.writeEbudget 5 v em ns)

/-! ### Pause points (R326, R329-R331) -/

/-- L′ in ns: the running lap with its planned stretch. -/
def State.lapNs (s : State) : Nat := s.lapMs * 1000000 + s.plan.stretchNow * 1000

/-- E_pl(k) in fJ (R326). -/
def State.plannedTo (s : State) (k : Nat) : Int :=
  ((s.ledger.planned * 1000000000 * (k * s.get Fld.LAP_ECFG2_PSTEP * 5) / (256 * s.lapNs) : Nat) : Int) - s.ledger.credit
    + s.effEnergy (s.ledger.pauseUs * 1000)

/-- X of pause point `k`, in fJ (R329). -/
def State.excess (s : State) (k : Nat) : Int :=
  (s.ledger.meas : Int) - (s.get Fld.LAP_ECFG2_MARGIN * 1000000000000 : Nat) - min (s.plannedTo k) s.ledger.cap

/-- q in µs for an excess `x` above 0 (R329). -/
def State.pauseLength (s : State) (x : Nat) : Nat :=
  min (s.get Fld.LAP_ECFG_PAUSE_MAX) (max 2 (ceilDiv (x * 100) ((s.pEff100 - 100 * s.idleW) * 1000000000)))

/-- A pause of `q` µs begins (R330, R331). -/
def State.beginPause (s : State) (q0 : Nat) : State :=
  let used := s.ledger.pauseUs
  let q := min q0 (65535 - used)
  if used = 65535 then s
  else
    let free := if s.inDomain then 19 - used else 0
    let moves := q - free
    let s1 := s.modLedger fun l => { l with pauses := l.pauses + 1, pauseUs := used + q, pausing := some q }
    let s2 := (s1.put Fld.LAP_STS_STRETCH_US (s.get Fld.LAP_STS_STRETCH_US + moves)).put Fld.LAP_STS_SNOWPLOUGH 1
    let s3 := ((s2.raise Fld.LAP_EEVT_PAUSE).count Reg.LAP_PAUSE_CNT 1).count Reg.LAP_STRETCH_TOT moves
    let s4 := ((s3.tally 16 0x12 moves none).tally 16 0x13 1 none)
    let s5 := if s.inDomain && decide (0 < moves) then s4.modLnk fun l => { l with realign := true } else s4
    if used + q = 65535 then s5.raise Fld.LAP_EEVT_PAUSE_CAP else s5

/-- Pause point `k` lies in the lap (R329). -/
def State.pointInLap (s : State) (k : Nat) : Bool :=
  decide (1 ≤ k) && decide (k * s.get Fld.LAP_ECFG2_PSTEP * 5 + 100000 < s.lapNs)

/-- PAUSE_POINT (R329): the ledger forms E_m and X at point `k`. -/
def execPausePoint (k : Nat) (ns : Nat) (s : State) : Host.Outcome State Fault Refusal :=
  if s.running ∧ !s.halted ∧ s.pointInLap k then
    let s1 := (s.measurePoint ns).advanceCap ns
    let x := s1.excess k
    .next (if 0 < x then s1.beginPause (s1.pauseLength x.toNat) else s1)
  else .next s

/-- SNOWPLOUGH_END (R329): the piste clock resumes. -/
def execSnowploughEnd (s : State) : Host.Outcome State Fault Refusal :=
  .next (s.modLedger fun l => { l with pausing := none })

end Sys2Proof.Machine
end

