-- ==== Sys2Proof/Machine/Thermal.lean ====
section
/-!
DEFINITION. Sensors, thermal levels and housekeeping conversion (R316-R324).
-/

namespace Sys2Proof.Machine

/-! ### Inputs (R316, R322) -/

/-- The class of a sensor input: 0 Arkor die, 1 hub die, 2 HBM4 stack, 3 optical engine; none for a rail or a check (R316). -/
def sensorClass (die input : Nat) : Option Nat :=
  if die < 16 then if input < 12 then some 0 else none
  else if input < 24 then some 1
  else if input < 28 then some 3
  else if 32 ≤ input ∧ input < 40 then some 2
  else none

/-- The housekeeping converter of the die converts the input (R322). -/
def converted (die input : Nat) : Bool := if die < 16 then decide (input < 17) else decide (input < 32)

/-- The code of `t` °C (R316). -/
def tempCode (t : Nat) : Nat := t * 16 + 1024

/-- A bad sensor sample: a failed read, 0x000, 0xFFF, or outside -40 °C to 150 °C (R317). -/
def badSample (c : Option Nat) : Bool :=
  match c with
  | some n => decide (n < 384) || decide (3424 < n)
  | none => true

/-- Threshold of level `l` (1 to 3) of a class, as a code (R318). -/
def State.threshold (s : State) (cls l : Nat) : Nat :=
  let f := if l = 1 then Fld.THM_TH_WARN else if l = 2 then Fld.THM_TH_THR else Fld.THM_TH_SHUT
  tempCode (s.get { f with reg := f.reg + 4 * cls })

/-! ### Levels (R318-R320) -/

/-- The level to which sample `c` moves a sensor of class `cls` at level `l` (R318); 5 °C are 80 codes. -/
def State.nextLevel (s : State) (cls l c : Nat) : Nat :=
  let top := if s.threshold cls 3 ≤ c then 3 else if s.threshold cls 2 ≤ c then 2 else if s.threshold cls 1 ≤ c then 1 else 0
  if l < top then top
  else if 0 < l ∧ c + 80 < s.threshold cls l then
    (([2, 1].filter fun j => j < l).find? fun j => s.threshold cls j ≤ c + 80).getD 0
  else l

/-- A sensor is excluded from the module level (THM_SSTS.EXCL). -/
def State.excluded (s : State) (die input : Nat) : Bool := s.flag (Fld.THM_SSTS_EXCL.sel (hkcKey die input))

/-- The highest level of a sensor that is not excluded (R319). -/
def State.moduleLevel (s : State) : Nat :=
  (s.thm.inputs.entries.map fun e => if s.excluded (e.1 / 64) (e.1 % 64) then 0 else e.2.level).foldl max 0

/-- THERM_TRIP_N asserted digitally, TRIP_DIG, and the halt (R320). -/
def State.shutdown (s : State) : State :=
  ((s.put Fld.THM_STS_TRIP_DIG 1).modThm fun t => { t with tripDig := true }).haltLatch haltThermal

/-- The module level becomes `n`; a rise takes the action of every level passed (R320). -/
def State.setLevel (s : State) (n em ns : Nat) : State :=
  let old := s.get Fld.THM_STS_LEVEL
  let s1 := s.changePower em ns fun s => s.put Fld.THM_STS_LEVEL n
  let s2 := if old < 1 ∧ 1 ≤ n then s1.raise Fld.THM_EVT_WARN else s1
  let s3 := if old < 2 ∧ 2 ≤ n then s2.raise Fld.THM_EVT_THROTTLE else s2
  if old < 3 ∧ 3 ≤ n then s3.shutdown else s3

/-- The module level follows its sensors. -/
def State.updateLevel (s : State) (em ns : Nat) : State := s.setLevel s.moduleLevel em ns

/-! ### Samples (R317, R323, R324) -/

/-- The bit of HKC_WPEND of an input. -/
def pendBit (die input : Nat) : Fld :=
  ⟨keyAt die (if input < 32 then Reg.HKC_WPEND else Reg.HKC_WPEND_HI), input % 32, 1⟩

/-- A result joins the accumulators of its input (R323, R327). -/
def HkcInput.add (x : HkcInput) (c : Nat) : HkcInput :=
  { x with sum := x.sum + c, count := x.count + 1, min := Nat.min x.min c, max := Nat.max x.max c,
           pointSum := x.pointSum + c, pointCount := x.pointCount + 1 }

/-- A result outside the window after one inside, or the first, holds HKC_WIN (R324). -/
def State.window (s : State) (die input c : Nat) : State :=
  let k := hkcKey die input
  let lo := s.get (Fld.HKC_WIN_LO.sel k)
  let hi := s.get (Fld.HKC_WIN_HI.sel k)
  let out := decide (lo ≤ hi) && (decide (c < lo) || decide (hi < c))
  let s1 := if out && !(s.hkc die input).outside then s.put (pendBit die input) 1 else s
  s1.putHkc die input { (s1.hkc die input) with outside := out }

/-- The hottest result of the lap among sensors not excluded. -/
def State.trackHottest (s : State) (die input c : Nat) : State :=
  if s.excluded die input then s
  else
    s.modThm fun t =>
      { t with hottest := match t.hottest with
        | some h => if h.1 < c then some (c, die, input) else some h
        | none => some (c, die, input) }

/-- A result of an input enters its accumulators and window, and for a sensor its trackers and level (R318, R323, R324). -/
def State.takeReading (s : State) (die input c : Nat) (cls : Option Nat) (em ns : Nat) : State :=
  let s1 := (s.putHkc die input ((s.hkc die input).add c)).window die input c
  match cls with
  | none => s1
  | some k =>
    let x := s1.hkc die input
    let s2 := s1.putHkc die input { x with level := s1.nextLevel k x.level c }
    (s2.trackHottest die input c).updateLevel em ns

/-- A sensor is found broken (R317): the event and a SENSOR_BROKEN report with the raw code, a free value when the read failed. -/
def State.breakSensor (s : State) (die input : Nat) (code : Option Nat) : State :=
  let raw := match code with | some c => c | none => (Config.measured s.drawn).toNat
  ((s.putHkc die input { (s.hkc die input) with broken := true, bad := 3 }).raise Fld.THM_EVT_BROKEN).report (dieAddr die) input
    0x19 sevDegraded raw 0#32

/-- A sample of a sensor of class `cls` (R317): discarded while bad, the class's throttle threshold once broken. -/
def State.sampleSensor (s : State) (die input cls : Nat) (code : Option Nat) (em ns : Nat) : State :=
  let x := s.hkc die input
  let thr := s.threshold cls 2
  if x.broken then s.takeReading die input thr (some cls) em ns
  else if badSample code then
    if x.bad < 2 then s.putHkc die input { x with bad := x.bad + 1 }
    else (s.breakSensor die input code).takeReading die input thr (some cls) em ns
  else (s.putHkc die input { x with bad := 0 }).takeReading die input (code.getD 0) (some cls) em ns

/-- HKC_SAMPLE (R322). -/
def execHkcSample (die : Fin 18) (input : Fin 40) (code : BitVec 12) (em : Nat) (ns : Nat) (s : State) :
    Host.Outcome State Fault Refusal :=
  if converted die input then
    match sensorClass die input with
    | some k => .next (s.sampleSensor die input k (some code.toNat) em ns)
    | none => .next (s.takeReading die input code.toNat none em ns)
  else .next s

/-- HBM_SENSOR_READ (R316): stack 8h + i is input 32 + i of hub h. -/
def execHbmSensorRead (stack : Fin 16) (code : Option (BitVec 12)) (em : Nat) (ns : Nat) (s : State) :
    Host.Outcome State Fault Refusal :=
  .next (s.sampleSensor (16 + stack.val / 8) (32 + stack.val % 8) 2 (code.map (·.toNat)) em ns)

/-! ### Intervals (R323) -/

/-- The results of one input are copied to its last-interval set and cleared. A sensor without a result in the interval keeps
THM_SSTS.TEMP; the mean is taken by floor. DESIGN CHOICE; log entry 29. -/
def State.copyInterval (s : State) (k : Nat) (x : HkcInput) : State :=
  let s1 := ((s.wr (keyAt k Reg.HKC_SUM) (BitVec.ofNat 32 x.sum)).wr (keyAt k Reg.HKC_CNT) (BitVec.ofNat 32 x.count)).wr
    (keyAt k Reg.HKC_MINMAX) (BitVec.ofNat 32 (x.max * 65536 + x.min))
  let s2 := if (sensorClass (k / 64) (k % 64)).isSome ∧ 0 < x.count then
      s1.put (Fld.THM_SSTS_TEMP.sel k) (BitVec.ofInt 16 ((x.sum / x.count : Nat) - 1024)).toNat
    else s1
  s2.modThm fun t => { t with inputs := t.inputs.modify k fun y => { y with sum := 0, count := 0, min := 0xFFF, max := 0 } }

/-- An accumulation interval ends (R323). -/
def State.endInterval (s : State) : State :=
  let s1 := s.thm.inputs.entries.foldl (fun s e => s.copyInterval e.1 e.2) s
  (s1.put Fld.HKC_IVAL_COUNT (s1.get Fld.HKC_IVAL_COUNT + 1)).put Fld.HKC_LAPNUM_LAP s1.lap

/-- HKC_INTERVAL_END (R323): 50 ms after the last interval ended. -/
def execHkcIntervalEnd (s : State) : Host.Outcome State Fault Refusal := .next s.endInterval

/-- The hottest sample of the lap that ends is shown (THM_STS). -/
def State.showHottest (s : State) : State :=
  match s.thm.hottest with
  | some h =>
    (((s.put Fld.THM_STS_HOT_T (BitVec.ofInt 16 ((h.1 : Int) - 1024)).toNat).put Fld.THM_STS_HOT_DIE h.2.1).put
      Fld.THM_STS_HOT_INPUT h.2.2).modThm fun t => { t with hottest := none }
  | none => s

/-- Mean temperature of an Arkor die's sensor over the last interval, 1/16 °C (R117). -/
def State.sensorTemp (s : State) (die input : Nat) : Int :=
  let k := hkcKey die input
  ((s.get (Fld.HKC_SUM_VALUE.sel k) / s.get (Fld.HKC_CNT_VALUE.sel k) : Nat) : Int) - 1024

/-! ### Exclusion and the comparators (R319, R321) -/

/-- Excluded sensors of a die. -/
def State.excludedOn (s : State) (die : Nat) : Nat := ((List.range 40).filter fun i => s.excluded die i).length

/-- A write of `v` to THM_SSTS of the selected sensor by `req` (R319). -/
def State.writeSsts (s : State) (req : Nat) (v : Word) (em ns : Nat) : State :=
  let d := s.get Fld.THM_SSEL_DIE
  let i := s.get Fld.THM_SSEL_INPUT
  let bad := !(s.hkc d i).broken || decide (4 ≤ s.excludedOn d)
  if wordBits v 31 1 = 1 ∧ !s.excluded d i ∧ bad then (if req = 5 then s.violation 0x03 0 Reg.THM_SSTS 0#32 else s)
  else (s.put (Fld.THM_SSTS_EXCL.sel (hkcKey d i)) (wordBits v 31 1)).updateLevel em ns

/-- THM_SSTS_EXCL (R319). -/
def execThmSstsExcl (v : Word) (em : Nat) (ns : Nat) (s : State) : Host.Outcome State Fault Refusal :=
  .next (if s.hidden Reg.THM_SSTS then s.undecoded Reg.THM_SSTS else s.writeSsts 5 v em ns)

/-- THERMAL_COMPARATOR_TRIP (R321): THERM_TRIP_N and TRIP_ANA, until the power-on reset of AON. -/
def execThermalComparatorTrip (die : Fin 18) (s : State) : Host.Outcome State Fault Refusal :=
  .next ((s.put Fld.THM_STS_TRIP_ANA 1).modThm fun t => { t with tripAna := insertNat die.val t.tripAna })

end Sys2Proof.Machine
end

