-- ==== Sys2Proof/Machine/Grooming.lean ====
section
/-!
DEFINITION. Grooming (R108-R123): the steps of a pass, bad columns, the temperature sets, the shadow bank and its commit,
the grooming tables (R390, R391).

A trim set keeps OFF, BG and COLG of each converter; an empty list of sets, or of trims, is mid-code everywhere.
-/

namespace Sys2Proof.Machine

/-! ### Trims (R108) -/

/-- Converters of a tile. -/
def converters : Nat := 128

/-- Mid-code. -/
def midTrim : Trim := ⟨0x200, 0x200, 0⟩

/-- A number held between two bounds. -/
def clampTo (lo hi v : Int) : Int := if v < lo then lo else if hi < v then hi else v

/-- A 10-bit code held in 0x000-0x3FF. -/
def clampCode (v : Int) : Nat := (clampTo 0 0x3FF v).toNat

/-- A column-gain term held in -512 to 511. -/
def clampColg (v : Int) : Int := clampTo (-512) 511 v

/-- The REF code applied: BG + COLG, clamped (R108). -/
def Trim.ref (x : Trim) : Nat := clampCode (x.bg + x.colg)

/-- The trim of converter `c` in a list. -/
def trimAt (l : List Trim) (c : Nat) : Trim := l.getD c midTrim

/-! ### Temperature sets (R117-R119) -/

/-- The sets that bracket temperature `t`, the same one twice at or beyond an end, and whether `t` is outside (R118). -/
def bracket (temps : List Int) (t : Int) : Nat × Nat × Bool :=
  let n := temps.length
  let k := (temps.filter fun x => decide (x ≤ t)).length
  if n = 0 then (0, 0, false)
  else if k = 0 then (0, 0, true)
  else if k = n then (n - 1, n - 1, decide (temps.getD (n - 1) 0 < t))
  else (k - 1, k, false)

/-- The exact interpolation of R118 between `ca` at `ta` and `cb` at `tb`. -/
def interpolate (ca cb ta tb t : Int) : Int := ca + ((cb - ca) * (t - ta) * 2 + (tb - ta)) / (2 * (tb - ta))

/-- The trim of converter `c` that the sets give at temperature `t` (R118). -/
def interpTrim (temps : List Int) (sets : List (List Trim)) (t : Int) (c : Nat) : Trim :=
  let (i, j, _) := bracket temps t
  let a := trimAt (sets.getD i []) c
  let b := trimAt (sets.getD j []) c
  if i = j then a
  else
    let ta := temps.getD i 0
    let tb := temps.getD j 0
    { off := clampCode (interpolate a.off b.off ta tb t)
      bg := clampCode (interpolate a.bg b.bg ta tb t)
      colg := clampColg (interpolate a.colg b.colg ta tb t) }

/-- Set temperatures of die `d`; none before the grooming tables are read. -/
def State.temps (s : State) (d : Nat) : List Int := s.fab.setTemps.getD d []

/-- The temperature T of a tile of die `d` (R117). -/
def State.tileTemp (s : State) (d : Nat) (x : Tile) : Int := s.sensorTemp d x.sensor

/-- Its trim sets written out: mid-code for a tile that has none. -/
def Tile.fullSets (x : Tile) (n : Nat) : List (List Trim) :=
  if x.sets = [] then List.replicate (max 1 n) (List.replicate converters midTrim) else x.sets

/-- A trim changed by differences of OFF, BG and COLG. -/
def Trim.shift (x : Trim) (off bg colg : Int) : Trim :=
  { off := clampCode (x.off + off), bg := clampCode (x.bg + bg), colg := clampColg (x.colg + colg) }

/-- An accepted step's results enter the sets (R119): `f` gives for the trim in force and converter `c` the accepted trim, of
which only what the step measures is compared with the interpolated value by `g`. -/
def Tile.accept (x : Tile) (temps : List Int) (t : Int) (f : Trim → Nat → Trim) (g : Trim → Trim → Int × Int × Int) :
    Tile :=
  let (i, j, _) := bracket temps t
  let sets := x.fullSets temps.length
  let d := (List.range converters).map fun c => g (f (trimAt x.inForce c) c) (interpTrim temps sets t c)
  let move := fun (l : List Trim) => (l.zip d).map fun y => y.1.shift y.2.1 y.2.2.1 y.2.2.2
  { x with sets := modifyAt (if i = j then sets else modifyAt sets j move) i move, setsChanged := true }

/-! ### Steps (R110, R111) -/

/-- A code of a converter is out of trim (R116). -/
def trimOut (v : Int) : Bool := decide (v < 0x20) || decide (0x3DF < v)

/-- The tile's converters as the sets now give them are out of trim. -/
def Tile.anyOut (x : Tile) (temps : List Int) (t : Int) : Bool :=
  (List.range converters).any fun c =>
    let y := interpTrim temps x.sets t c
    trimOut y.off || trimOut (y.bg + y.colg)

/-- The steps required for a complete pass have been accepted (R110, R113). -/
def Tile.passDone (x : Tile) : Bool := x.offOk && x.refOk && (x.statOk || !x.holdsWeights)

/-- A converter out of trim (R116): the event, the converter fault. -/
def State.trimLimit (s : State) (d t c : Nat) (code : Nat) : State :=
  (s.raise Fld.GRM_EVT_TRIM_LIMIT).report (tileAddr d t) c 0x07 sevDegraded code 0#32

/-- A step is accepted: its flag, its retry count, and the pass when it was the last (R110). `out` lists the converters whose
new code is out of trim, with the clamped code. -/
def State.acceptStep (s : State) (d t step : Nat) (out : List (Nat × Nat)) : State :=
  let temp := s.tileTemp d (s.tile d t)
  let temps := s.temps d
  let mark := fun (x : Tile) =>
    let y := match step with
      | 0 => { x with offOk := true }
      | 1 => { x with refOk := true }
      | _ => { x with statOk := true }
    { y with retries := y.retries.set step 0, retryStep := step, passPending := y.passDone,
             outOfTrim := y.anyOut temps temp }
  let s1 := (s.modTile d t mark).tally 25 0x10 1 none
  let s2 := out.foldl (fun s o => s.trimLimit d t o.1 o.2) s1
  if out = [] then s2 else s2.planFence d t

/-- A pass fails (R111): the event, the report with the step, and the tile leaves service (R299). -/
def State.failPass (s : State) (d t step : Nat) : State :=
  let n := nth (s.tile d t).retries step
  let s1 := s.modTile d t fun x =>
    { x with failed := true, retries := [0, 0, 0], offOk := false, refOk := false, statOk := false }
  let s2 := ((s1.count Reg.GRM_FAILS 1).raise Fld.GRM_EVT_PASS_FAIL).report (tileAddr d t) step 0x06 sevDegraded n 0#32
  s2.planFence d t

/-- The halves of a step disagree (R111). -/
def State.disagree (s : State) (d t step : Nat) : State :=
  let s1 := s.modTile d t fun x => { x with retries := x.retries.modify step (· + 1), retryStep := step }
  let s2 := (s1.count Reg.GRM_DISAGREE 1).tally 25 0x11 1 none
  if s.get Fld.GRM_TOL_RETRY_MAX ≤ nth (s1.tile d t).retries step then s2.failPass d t step else s2

/-- The tile is groomed: neither out of use nor waiting for the commit of a pass. -/
def Tile.groomed (x : Tile) : Bool :=
  x.state != .fenced && x.state != .retired && !x.passPending && !x.passBanked

/-- A measurement that found nothing to correct. -/
def GroomMeasure.none : GroomMeasure := ⟨0, 0, 3200, -3200, 3200, -3200⟩

/-- The OFFSET results of the two halves agree (R111). -/
def offAgree (tol : Nat) (m : GroomMeasure) : Bool := decide (16 * (m.offA - m.offB).natAbs ≤ tol * 64)

/-- 16 × the mean of the halves' means, rounded (R110). -/
def offStep (m : GroomMeasure) : Int := roundAway ((m.offA + m.offB) * 16) 128

/-- (m₊ − m₋) × 32 of the halves; G is this divided by 6,400. -/
def gainA (m : GroomMeasure) : Int := m.plusA - m.minusA
/-- The same of half B. -/
def gainB (m : GroomMeasure) : Int := m.plusB - m.minusB

/-- The REFERENCE results of the two halves agree (R111). -/
def refAgree (tol : Nat) (m : GroomMeasure) : Bool := decide (5000 * (gainA m - gainB m).natAbs ≤ tol * 6400)

/-- (G − 1) × 5,000 of the halves' mean, rounded (R110). -/
def refStep (m : GroomMeasure) : Int := roundAway ((gainA m + gainB m - 12800) * 5000) 12800

/-- The OFFSET step of a tile (R110). -/
def State.offsetStep (s : State) (d t : Nat) (ms : List GroomMeasure) : State :=
  let x := s.tile d t
  let at' := fun c => ms.getD c GroomMeasure.none
  if (List.range converters).all fun c => offAgree (s.get Fld.GRM_TOL_AGREE_OFF) (at' c) then
    let new := fun (y : Trim) c => (y.off : Int) - offStep (at' c)
    let out := (List.range converters).filterMap fun c =>
      let v := new (trimAt x.inForce c) c
      if trimOut v then some (c, clampCode v) else none
    let s1 := s.modTile d t fun x =>
      x.accept (s.temps d) (s.tileTemp d x) (fun y c => { y with off := clampCode (new y c) })
        fun a b => ((a.off : Int) - b.off, 0, 0)
    s1.acceptStep d t 0 out
  else s.disagree d t 0

/-- The REFERENCE step of a tile (R110). -/
def State.referenceStep (s : State) (d t : Nat) (ms : List GroomMeasure) : State :=
  let x := s.tile d t
  let at' := fun c => ms.getD c GroomMeasure.none
  if (List.range converters).all fun c => refAgree (s.get Fld.GRM_TOL_AGREE_REF) (at' c) then
    let new := fun (y : Trim) c => (y.bg : Int) + refStep (at' c)
    let out := (List.range converters).filterMap fun c =>
      let y := trimAt x.inForce c
      let v := new y c + y.colg
      if trimOut v then some (c, clampCode v) else none
    let s1 := s.modTile d t fun x =>
      x.accept (s.temps d) (s.tileTemp d x) (fun y c => { y with bg := clampCode (new y c) })
        fun a b => (0, (a.bg : Int) - b.bg, 0)
    s1.acceptStep d t 1 out
  else s.disagree d t 1

/-- A grooming window: the OFFSET and REFERENCE steps that the pass still needs (R110). -/
def State.groom (s : State) (d t : Nat) (ms : List GroomMeasure) : State :=
  if s.halted ∨ (s.seqState d ≠ 1 ∧ s.seqState d ≠ 2) ∨ !(s.tile d t).groomed then s
  else
    let s0 := s.tally d 0x15 256 none
    let s1 := if (s0.tile d t).offOk then s0 else s0.offsetStep d t ms
    if (s1.tile d t).groomed ∧ !(s.tile d t).refOk then s1.referenceStep d t ms else s1

/-- GROOM_WINDOW (R110). -/
def execGroomWindow (die : Fin 16) (tile : Fin 8448) (ms : List GroomMeasure) (s : State) :
    Host.Outcome State Fault Refusal :=
  .next (s.groom die tile ms)

/-! ### STATISTICS (R112, R115) -/

/-- G of a half: the square root of the ratio of the variances, in FP32 (R110). -/
def statGain (h : Word × Word) : Word := Fp.sqrt (Fp.div h.1 h.2).1

/-- A half's variances of converter `c`. -/
def halfAt (l : List (Word × Word)) (c : Nat) : Word × Word := l.getD c (0#32, 0#32)

/-- Both halves give an estimate of converter `c`: no ideal variance is below STAT_MIN (R112). -/
def State.estimates (s : State) (a b : List (Word × Word)) (c : Nat) : Bool :=
  let m := BitVec.ofNat 32 (s.param 0 1)
  !Fp.lt (halfAt a c).2 m && !Fp.lt (halfAt b c).2 m

/-- The halves' gains agree: 5,000 × |G_A − G_B| ≤ AGREE_STAT (R111). -/
def statAgree (tol : Nat) (ga gb : Word) : Bool := decide (5000 * (Fp.exact ga - Fp.exact gb).natAbs ≤ tol * 2 ^ 150)

/-- (G − 1) × 5,000 of the halves' mean, rounded (R110). -/
def statStep (ga gb : Word) : Int := roundAway ((Fp.exact ga + Fp.exact gb - 2 ^ 151) * 5000) (2 ^ 151)

/-- The column map that will follow the running lap's of array `a` (R115, R120). -/
def Arr.nextMap (x : Arr) : List (Option Nat) := (x.newMap.or x.bankMap).getD x.map

/-- A column bad in both halves whose array has no spare column left (R115). -/
def State.columnOut (s : State) (d t a c : Nat) : State :=
  if (s.arr d t a).nextMap.any (·.isNone) then s
  else (s.raise Fld.GRM_EVT_SPARE_OUT).report (arrayAddr d t a) c 0x08 sevDegraded a 0#32

/-- The two halves of a STATISTICS step are compared (R110-R112). -/
def State.statistics (s : State) (d t : Nat) (a b : List (Word × Word)) : State :=
  let x := s.tile d t
  let est := (List.range converters).filter fun c => s.estimates a b c
  let g := fun c => (statGain (halfAt a c), statGain (halfAt b c))
  if est.all fun c => statAgree (s.get Fld.GRM_TOL_AGREE_STAT) (g c).1 (g c).2 then
    let new := fun (y : Trim) c => if c ∈ est then y.colg + statStep (g c).1 (g c).2 else y.colg
    let out := est.filterMap fun c =>
      let y := trimAt x.inForce c
      let v := (y.bg : Int) + new y c
      if trimOut v then some (c, clampCode v) else none
    let s1 := s.modTile d t fun x =>
      x.accept (s.temps d) (s.tileTemp d x) (fun y c => { y with colg := clampColg (new y c) })
        fun a b => (0, 0, a.colg - b.colg)
    s1.acceptStep d t 2 out
  else s.disagree d t 2

/-- A half closes (R112): A is kept, B is compared with it, and columns bad in both are corrected (R115). -/
def State.closeHalf (s : State) (d t : Nat) (halfB : Bool) (st : List StatHalf) (bad : List (Nat × Nat)) : State :=
  let vars := st.map fun h => (h.varCode, h.varIdeal)
  let x := s.tile d t
  if s.halted ∨ !x.groomed ∨ !x.holdsWeights then s
  else if !halfB then s.modTile d t fun x => { x with halfA := vars, badA := bad }
  else if x.halfA = [] then s
  else
    let s1 := s.modTile d t fun x => { x with halfA := [], badA := [] }
    let s2 := (bad.filter fun y => decide (y ∈ x.badA)).foldl (fun s y => s.columnOut d t y.1 y.2) s1
    if x.statOk then s2 else s2.statistics d t x.halfA vars

/-- GRM_STAT_HALF_CLOSE (R112). -/
def execGrmStatHalfClose (die : Fin 16) (tile : Fin 8448) (halfB : Bool) (st : List StatHalf)
    (bad : List (Fin 256 × Fin 128)) (s : State) : Host.Outcome State Fault Refusal :=
  .next (s.closeHalf die tile halfB st (bad.map fun y => (y.1.val, y.2.val)))

/-- The loader has programmed a spare column with column `c`'s slices: the map entry waits for the bank (R115). -/
def State.useSpare (s : State) (d t a c : Nat) : State :=
  let m := (s.arr d t a).nextMap
  match m.findIdx? (·.isNone) with
  | some i => (s.modArr d t a fun x => { x with newMap := some (m.set i (some c)) }).count Reg.GRM_SPARECOL 1
  | none => s

/-- SPARE_COLUMN_PROGRAMMED (R115). -/
def execSpareColumnProgrammed (die : Fin 16) (tile : Fin 8448) (array : Fin 256) (col : Fin 128) (s : State) :
    Host.Outcome State Fault Refusal :=
  .next (s.useSpare die tile array col)

/-! ### The shadow bank and commit (R120, R121) -/

/-- The trims of a tile at its temperature. -/
def State.composed (s : State) (d : Nat) (x : Tile) : List Trim :=
  (List.range converters).map fun c => interpTrim (s.temps d) x.sets (s.tileTemp d x) c

/-- The trims in force written out. -/
def Tile.trims (x : Tile) : List Trim := if x.inForce = [] then List.replicate converters midTrim else x.inForce

/-- A tile's part of the bank: its trims when they change, the pass that they complete, its temperature; a replacement that is
ready enters service with the commit (R298). -/
def State.composeTile (s : State) (d : Nat) (x : Tile) : Tile :=
  let new := s.composed d x
  let out := (bracket (s.temps d) (s.tileTemp d x)).2.2
  { x with bank := if new = x.trims then none else some new, tempOut := out,
           passBanked := x.passBanked || x.passPending, passPending := false }

/-- An array's part of the bank. -/
def Arr.compose (x : Arr) : Arr :=
  { x with bankGain := x.newGain.or x.bankGain, bankMap := x.newMap.or x.bankMap, bankCells := x.newCells.or x.bankCells,
           newGain := none, newMap := none, newCells := none }

/-- The bank is composed; a tile outside its die's sets raises GRM_TEMP_OUT (R118). -/
def State.compose (s : State) : State :=
  let s1 := s.modFab fun f =>
    { f with tiles := f.tiles.map fun k x => s.composeTile (k / 8448) x, arrays := f.arrays.map fun _ x => x.compose }
  let s2 := if s1.fab.tiles.values.any (·.tempOut) then s1.raise Fld.GRM_EVT_TEMP_OUT else s1
  s2.modPlan fun p => { p with composed := true }

/-- The arrays whose replacement lists and maps a ready spare brings into service are those of the bank; the spare is claimed
for service at the boundary (R298). -/
def State.bankSpares (s : State) : State :=
  let ready := s.fab.tiles.entries.filter fun e => e.2.state == .fenced && e.2.spareReady
  ready.foldl (fun s e =>
    match e.2.spare with
    | some x => s.modTile (e.1 / 8448) x fun y => { y with claimed := some .inService }
    | none => s) s

/-- TRIM_BANK_COMPOSE (R120): once in a lap, 100 µs before its end. -/
def execTrimBankCompose (s : State) : Host.Outcome State Fault Refusal :=
  .next (if s.plan.composed ∨ !s.running ∨ s.halted then s else s.compose.bankSpares)

/-- A tile takes its bank at a boundary; a pass is complete with it: lap `lap`, global time `g` (R110, R120). -/
def Tile.commit (x : Tile) (lap g : Nat) : Tile :=
  let y := { x with inForce := x.bank.getD x.inForce, bank := none }
  if x.passBanked then
    { y with passBanked := false, passes := min 0xFFFFFFFF (y.passes + 1), lastLap := lap, lastTime := g, offOk := false,
             refOk := false, statOk := false, failed := false }
  else y

/-- An array takes its bank; its gain ages a lap, or is new (ARK_GAIN.AGE). -/
def Arr.commit (x : Arr) : Arr :=
  let y := { x with map := x.bankMap.getD x.map, rcells := x.bankCells.getD x.rcells, bankGain := none, bankMap := none,
                    bankCells := none }
  match x.bankGain with
  | some g => { y with gain := g, age := 0 }
  | none => { y with age := min 0xFFF (y.age + 1) }

/-- Every tile of the module takes its bank at the boundary that begins lap `lap` (R120). -/
def State.commitBanks (s : State) (lap g : Nat) : State :=
  let n := (s.fab.tiles.values.filter (·.passBanked)).length
  (s.modFab fun f =>
    { f with tiles := f.tiles.map fun _ x => x.commit lap g, arrays := f.arrays.map fun _ x => x.commit }).count
    Reg.GRM_PASSES n

/-! ### The grooming tables (R390, R391) -/

/-- Flash address of the grooming tables (R382). -/
def groomBase : Nat := 0x02810000

/-- Flash address of slot record `i`. -/
def slotRecAddr (i : Nat) : Nat := groomBase + 64 * i

/-- Flash address of the header of die `d`. -/
def dieBlockAddr (d : Nat) : Nat := groomBase + 4096 + d * (4096 + 8448 * 576)

/-- Flash address of a tile record. -/
def tileRecAddr (d t : Nat) : Nat := dieBlockAddr d + 4096 + t * 576

/-- A two's complement number of `k` bytes. -/
def leInt (v : Int) (k : Nat) : List Byte := leBytes (v % (2 ^ (8 * k) : Nat)).toNat k

/-- The two's complement number in `k` bits. -/
def signedOf (n k : Nat) : Int := if n < 2 ^ (k - 1) then n else (n : Int) - (2 ^ k : Nat)

/-- The word of a converter in the anchor set. -/
def trimWord (x : Trim) : Nat := x.off + x.bg * 2 ^ 10 + (x.colg % 1024).toNat * 2 ^ 20

/-- The trim that an anchor word spells. -/
def trimOfWord (n : Nat) : Trim := ⟨bits n 0 10, bits n 10 10, signedOf (bits n 20 10) 10⟩

/-- Tile means of a set's differences from the anchor set, rounded (R391). -/
def setOffsets (anchor l : List Trim) : Int × Int × Int :=
  let d := fun (f : Trim → Int) =>
    roundAway ((List.range converters).foldl (fun a c => a + (f (trimAt l c) - f (trimAt anchor c))) 0) converters
  (d fun x => x.off, d fun x => x.bg, d fun x => x.colg)

/-- The 576 bytes of the record of tile `own` (R390); REPLACES is as in ARK_TILE_STATE. -/
def Tile.recordBytes (x : Tile) (own n anchor : Nat) : List Byte :=
  let sets := x.fullSets n
  let a := sets.getD anchor []
  let offs := (List.range 8).flatMap fun i =>
    if i = anchor ∨ n ≤ i then List.replicate 6 0#8
    else
      let o := setOffsets a (sets.getD i [])
      leInt o.1 2 ++ leInt o.2.1 2 ++ leInt o.2.2 2
  let body := ((List.range converters).flatMap fun c => leBytes (trimWord (trimAt a c)) 4) ++ offs
    ++ leBytes (tileCode x.state) 1 ++ leBytes x.sensor 1 ++ leBytes (x.replaces.getD own) 2 ++ List.replicate 8 0#8
  body ++ leBytes (crc32c body).toNat 4

/-- The tile's record is to be written: its sets, its state or what it replaces have changed since it was. -/
def State.recordStale (s : State) (d t : Nat) (x : Tile) : Bool :=
  x.setsChanged || s.readFlash (tileRecAddr d t + 0x230) 1 != leBytes (tileCode x.state) 1
  || s.readFlash (tileRecAddr d t + 0x232) 2 != leBytes (x.replaces.getD t) 2

/-- One changed tile record is written (R391). -/
def State.flushTile (s : State) (d t : Nat) (x : Tile) : State :=
  if s.recordStale d t x then
    (s.writeFlash (tileRecAddr d t) (x.recordBytes t (s.temps d).length (s.fab.anchors.getD d 0))).modTile d t
      fun x => { x with setsChanged := false }
  else s

/-- Every changed record is written back (R119, R391). -/
def State.flushSets (s : State) : State :=
  (s.fab.tiles.entries.foldl (fun s e => s.flushTile (e.1 / 8448) (e.1 % 8448) e.2) s).modBon
    fun b => { b with flushLaps := 0 }

/-- GRM_FLUSH (R119): at most once every FLUSH_LAPS laps, and not during start-up (R393). -/
def execGrmFlush (s : State) : Host.Outcome State Fault Refusal :=
  .next (if s.param 0 2 ≤ s.bon.flushLaps ∧ !s.startingUp then s.flushSets else s)

/-! ### Registers (R123) -/

/-- GRM_TRIM takes the trims in force of the selected converter of the selected tile. -/
def State.latchTrim (s : State) : State :=
  let x := s.tile (s.get Fld.GRM_TSEL_DIE) (s.get Fld.GRM_TSEL_TILE)
  let y := trimAt x.inForce (s.get Fld.GRM_CSEL_CONV)
  (s.put Fld.GRM_TRIM_REF y.ref).put Fld.GRM_TRIM_OFF y.off

/-- A write of `v` to GRM_TSEL by `req`. -/
def State.writeGrmTsel (s : State) (req : Nat) (v : Word) : State :=
  if 8447 < wordBits v 0 14 then (if req = 5 then s.violation 0x03 0 Reg.GRM_TSEL 0#32 else s)
  else
    let s1 := (s.put Fld.GRM_TSEL_DIE (wordBits v 16 4)).put Fld.GRM_TSEL_TILE (wordBits v 0 14)
    let x := s1.tile (wordBits v 16 4) (wordBits v 0 14)
    let s2 := (((s1.putB Fld.GRM_TILE_STS_TEMP_OUT x.tempOut).putB Fld.GRM_TILE_STS_OUT_OF_TRIM x.outOfTrim).putB
      Fld.GRM_TILE_STS_FAILED x.failed).put Fld.GRM_TILE_STS_RETRIES (nth x.retries x.retryStep)
    let s3 := ((s2.putB Fld.GRM_TILE_STS_STAT_OK x.statOk).putB Fld.GRM_TILE_STS_REF_OK x.refOk).putB
      Fld.GRM_TILE_STS_OFF_OK x.offOk
    ((s3.put Fld.GRM_TILE_PASSES_COUNT x.passes).wr64 Reg.GRM_TILE_LAST_LAP x.lastLap).wr64 Reg.GRM_TILE_LAST_TIME
      x.lastTime |>.latchTrim

/-- GRM_TSEL (R123). -/
def execGrmTsel (v : Word) (s : State) : Host.Outcome State Fault Refusal :=
  .next (if s.hidden Reg.GRM_TSEL then s.undecoded Reg.GRM_TSEL else s.writeGrmTsel 5 v)

/-- A write of `v` to GRM_CSEL. -/
def State.writeGrmCsel (s : State) (v : Word) : State := (s.put Fld.GRM_CSEL_CONV (wordBits v 0 7)).latchTrim

/-- GRM_CSEL (R123). -/
def execGrmCsel (v : Word) (s : State) : Host.Outcome State Fault Refusal :=
  .next (if s.hidden Reg.GRM_CSEL then s.undecoded Reg.GRM_CSEL else s.writeGrmCsel v)

end Sys2Proof.Machine
end

