-- ==== Sys2Proof/Machine/Weights.lean ====
section
/-!
DEFINITION. The shadow image as the mogul path and the hubs read it (R46-R50, R89-R97, R101, R105), element functions (R79) and
reductions (R80-R82).
-/

namespace Sys2Proof.Machine

/-! ### Weights (R46-R50, R89) -/

/-- Bytes of one column block of a row chunk of width `b` (R89). -/
def chunkBytes (b : Nat) : Nat := if b ≤ 4 then 8192 else 16384

/-- Width of row chunk `c` of a stage. -/
def Stage.width (x : Stage) (c : Nat) : Nat := (x.widths.getD c (8, false)).1

/-- Bytes of row chunks 0 to `n` - 1. -/
def Stage.bytesTo (x : Stage) (n : Nat) : Nat := ((x.widths.take n).map fun y => chunkBytes y.1 * x.colBlocks).sum

/-- First byte of a stage's weights in the layer's WEIGHTS section: stages in ascending code (R89). -/
def Layer.stageBase (y : Layer) (st : Nat) : Nat :=
  ((y.stages.filter fun x => decide (x.stage < st)).map fun x => x.bytesTo x.widths.length).sum

/-- The weight integer of row `r` of row chunk `c` and column `k` of column block `b`. -/
def Layer.weight (y : Layer) (x : Stage) (c b r k : Nat) : Int :=
  let w := x.width c
  let base := y.stageBase x.stage + x.bytesTo c + b * chunkBytes w
  let p := (Config.weightPlace r k).val
  if w ≤ 4 then
    Config.nibbleWeight (BitVec.ofNat 4 ((y.weights.getD (base + p / 2) 0#8).toNat / 16 ^ (p % 2)))
  else (y.weights.getD (base + p) 0#8).toInt

/-- The level multiplier m of a width (R46). -/
def levelMultiplier (b : Nat) : Nat := if b ≤ 2 then 4 else if b = 3 then 2 else 1

/-- F of R101 for row chunk `c`: m, 2m with the duplicated top slice, 1 for widths 5 to 8. -/
def Stage.factor (x : Stage) (c : Nat) : Nat :=
  let y := x.widths.getD c (8, false)
  levelMultiplier y.1 * (if y.2 then 2 else 1)

/-- k for which f of R75 step 2 is 2^-k. -/
def Stage.factorLog (x : Stage) (build slot l : Nat) : Nat :=
  let fs := (List.range x.widths.length).map x.factor
  if fs.all (· == x.factor 0) then (x.factor 0).log2 else (Config.mixedFactor build slot l x.stage).val

/-- Σ over the rows of a chunk of weight × code for column `k`. -/
def Layer.dot (y : Layer) (x : Stage) (c b k : Nat) (codes : List Int) : Int :=
  ((List.range 128).map fun r => y.weight x c b r k * codes.getD r 0).foldl (· + ·) 0

/-- Build number of the applied image; 0 before one is applied. -/
def State.build (s : State) : Nat := match s.bon.image with | some m => m.build | none => 0

/-! ### Substitutes and shadow-resident stages (R101, R105) -/

/-- The terms of R101 for column `k`, in order: nibbles as R71 gives, row chunks ascending. -/
def State.shadowTerms (s : State) (w token l b k : Nat) (y : Layer) (x : Stage) (rows : List Nat) (wide : Bool) : List Int :=
  (if wide then [true, false] else [false]).flatMap fun high => rows.map fun c =>
    let q := s.block w token l x.point c
    y.dot x c b k (s.codes w token l x.point c wide high) * x.factor c
      * 2 ^ ((if high then 4 else 0) + alignOf q.scale q.floor)

/-- The exact substitute of logical tile `t` of die `d` for a column block: 128 columns, each addition saturating (R101). -/
def State.substitute (s : State) (w token l st b d t : Nat) : List Int :=
  let m := s.slotOf w
  match s.layerOf m l with
  | some y =>
    match y.stage st with
    | some x =>
      let rows := ((s.runsOf m l st b).filter fun r => r.die == d && r.tile == t).flatMap SliceRun.rows
      (List.range 128).map fun k =>
        (s.shadowTerms w token l b k y x rows (s.wideTile d t w)).foldl (fun p a => (sat32 (p + a)).1) 0
    | none => []
  | none => []

/-- MACs of a substitute: the weights of the tile for the block (R87). -/
def State.substituteMacs (s : State) (w l st b d t : Nat) : Nat :=
  (((s.runsOf (s.slotOf w) l st b).filter fun r => r.die == d && r.tile == t).flatMap SliceRun.rows).length * 16384

/-- S of a shadow-resident stage for column `k` (R105): the 64-bit sum over all its row chunks. DEDUCED; log entry 21. -/
def State.residentSum (s : State) (w token l b k : Nat) (y : Layer) (x : Stage) : Int :=
  (s.shadowTerms w token l b k y x (List.range x.rowChunks) false).foldl (· + ·) 0

/-! ### Residual cells (R96-R98) -/

/-- The corrections of array `a` of physical tile `t` for column `k`, in entry order (R97). -/
def State.corrections (s : State) (d t a w token k : Nat) : List Int :=
  match s.sliceOf d t a with
  | some r =>
    let i := a - r.first
    let c := r.rowOf i
    let p := s.pointOf r.slot r.layer r.stage
    let q := s.block w token r.layer p c
    let wide := s.wideTile r.die r.tile w
    ((s.arr d t a).rcells.filter fun e => e.col == k).flatMap fun e =>
      (if wide then [true, false] else [false]).map fun high =>
        e.delta * (s.codes w token r.layer p c wide high).getD e.row 0
          * 2 ^ (roleShift (r.roleOf i) + (if high then 4 else 0) + alignOf q.scale q.floor)
  | none => []

/-- The arrays of a logical tile that hold slices of a column block, ascending. -/
def State.arraysOf (s : State) (m l st b d t : Nat) : List Nat :=
  ((s.runsOf m l st b).filter fun r => r.die == d && r.tile == t).flatMap fun r => List.range' r.first r.count

/-! ### Static outlier channels (R92, R93) -/

/-- Output columns of the stages at point `p`, before stage `st`. -/
def Layer.columnsBefore (y : Layer) (p st : Nat) : Nat :=
  ((y.stages.filter fun x => x.point == p && decide (x.stage < st)).map fun x => x.colBlocks * 128).sum

/-- Output columns of all stages at point `p` (R87). -/
def Layer.columnsOf (y : Layer) (p : Nat) : Nat :=
  ((y.stages.filter fun x => x.point == p).map fun x => x.colBlocks * 128).sum

/-- q(c, j) for the `j`-th listed channel and column `k` of the stage (R92): the OUTLIER section holds the columns channel by
channel, the stages of a point in ascending code. -/
def Layer.outlier (y : Layer) (x : Stage) (j k : Nat) : Int :=
  let base := ((y.outliers.take j).map fun o => y.columnsOf o.1).sum
  (y.outlierCols.getD (base + y.columnsBefore x.point x.stage + k) 0#8).toInt

/-- The listed channels of point `p` with their places in the list. -/
def Layer.channels (y : Layer) (p : Nat) : List (Nat × Nat) :=
  ((List.range y.outliers.length).zip y.outliers).filterMap fun o => if o.2.1 = p then some (o.1, o.2.2) else none

/-- FP32 column weight scale of column `k` of the stage. -/
def Stage.scaleOf (x : Stage) (k : Nat) : Word := x.scales.getD k 0#32

/-- The static term of column `k` (R93). -/
def staticTerm (y : Layer) (x : Stage) (input : List (BitVec 16)) (k : Nat) : Hubm Word := do
  let acc ← (y.channels x.point).foldlM (fun acc o => do
    let p ← fmul (Bf16.widen (input.getD o.2 0#16)) (Fp.ofInt (y.outlier x o.1 k))
    fadd acc p) 0#32
  let t ← fmul acc (x.scaleOf k)
  counted (Fp.scale t (-(x.u : Int)))

/-- The accepted residues of a token at a point, ascending (block, element), with their element numbers. -/
def State.residues (s : State) (w token l p n : Nat) : List (Nat × Word) :=
  (List.range n).flatMap fun c => (s.block w token l p c).residues.map fun r => (c * 128 + r.1, r.2)

/-- The residue term of column `k` (R95). -/
def State.residueTerm (s : State) (w token l : Nat) (y : Layer) (x : Stage) (k : Nat) : Hubm Word := do
  let acc ← (s.residues w token l x.point x.rowChunks).foldlM (fun acc r => do
    let p ← fmul r.2 (Fp.ofInt (y.weight x (r.1 / 128) (k / 128) (r.1 % 128) (k % 128)))
    fadd acc p) 0#32
  fmul acc (x.scaleOf k)

/-! ### Element functions (R79) -/

/-- FP32 1.0. -/
def fone : Word := 0x3F800000#32

/-- exp(-x) and the quotient of SILU. -/
def silu (x : Word) : Hubm Word := do
  let d ← fadd fone (Config.exp (Fp.negate x))
  fdiv x d

/-- GELU_TANH. -/
def gelu (x : Word) : Hubm Word := do
  let x2 ← fmul x x
  let x3 ← fmul x2 x
  let c ← fmul 0x3D372713#32 x3
  let t ← fadd x c
  let a ← fmul 0x3F4C422A#32 t
  let y ← fadd fone (Config.tanh a)
  let h ← fmul 0x3F000000#32 x
  fmul h y

/-- The element function with code `f`. -/
def element (f : Nat) (x : Word) : Hubm Word :=
  match f with
  | 1 => pure (if Fp.neg x then 0#32 else x)
  | 2 => silu x
  | 3 => gelu x
  | _ => pure x

/-! ### Reductions (R80-R82) -/

/-- A list cut into blocks of 128. -/
def blocks128 (l : List Word) : List (List Word) :=
  (List.range (ceilDiv l.length 128)).map fun b => (l.drop (128 * b)).take 128

/-- The sum of squares, block by block (R80). -/
def sumSquares (l : List Word) : Hubm Word := do
  let s ← (blocks128 l).mapM fun b => b.foldlM (fun a x => do fadd a (← fmul x x)) 0#32
  fsum s

/-- n, mean and m2 of one block (R81). -/
def blockMoments (l : List Word) : Hubm (Nat × Word × Word) :=
  l.foldlM (fun (a : Nat × Word × Word) x => do
    let d ← fsub x a.2.1
    let q ← fdiv d (Fp.ofInt (a.1 + 1 : Nat))
    let mean ← fadd a.2.1 q
    let e ← fsub x mean
    let p ← fmul d e
    let m2 ← fadd a.2.2 p
    pure (a.1 + 1, mean, m2)) (0, 0#32, 0#32)

/-- Two blocks' moments merged (R81). -/
def mergeMoments (a b : Nat × Word × Word) : Hubm (Nat × Word × Word) := do
  let nt := Fp.ofInt (a.1 + b.1 : Nat)
  let d ← fsub b.2.1 a.2.1
  let r ← fdiv (Fp.ofInt b.1) nt
  let mean ← fadd a.2.1 (← fmul d r)
  let sq ← fmul d d
  let p ← fmul (Fp.ofInt a.1) (Fp.ofInt b.1)
  let q ← fdiv p nt
  let x ← fmul sq q
  let m2 ← fadd (← fadd a.2.2 b.2.2) x
  pure (a.1 + b.1, mean, m2)

/-- Mean and variance of a vector (R81). -/
def moments (l : List Word) : Hubm (Word × Word) := do
  match ← (blocks128 l).mapM blockMoments with
  | [] => pure (0#32, 0#32)
  | x :: r =>
    let t ← r.foldlM mergeMoments x
    let v ← fdiv t.2.2 (Fp.ofInt l.length)
    pure (t.2.1, v)

/-- The maximum of a list, the first of equals. -/
def fmaxOf (l : List Word) : Word := match l with | [] => 0#32 | x :: r => r.foldl Fp.max x

/-- The lowest index of the maximum. -/
def argmax (l : List Word) : Nat := (l.findIdx? fun x => Fp.key x == Fp.key (fmaxOf l)).getD 0

/-- m and s in MAX_SUM mode (R82). -/
def maxSum (l : List Word) : Hubm (Word × Word) := do
  let s ← (blocks128 l).mapM fsum
  pure (fmaxOf l, ← fsum s)

/-- exp(β × (x - m)). -/
def expTerm (β x m : Word) : Hubm Word := do
  let d ← fsub x m
  pure (Config.exp (← fmul β d))

/-- m and s in MAX_SUMEXP mode (R82). -/
def maxSumExp (β : Word) (l : List Word) : Hubm (Word × Word) := do
  let bs ← (blocks128 l).mapM fun b => do
    let m := fmaxOf b
    let s ← b.foldlM (fun a x => do fadd a (← expTerm β x m)) 0#32
    pure (m, s)
  match bs with
  | [] => pure (0#32, 0#32)
  | x :: r => r.foldlM (fun (a : Word × Word) y => do
      let m := Fp.max a.1 y.1
      let p ← fmul a.2 (← expTerm β a.1 m)
      let q ← fmul y.2 (← expTerm β y.1 m)
      pure (m, ← fadd p q)) x

end Sys2Proof.Machine
end

