-- ==== Sys2Proof/Machine/Quant.lean ====
section
/-!
DEFINITION. Rotation (R52-R54) and activation quantisation (R57-R60, R64, R65, R94).
-/

namespace Sys2Proof.Machine

/-! ### Rotation (R52-R54) -/

/-- One step of the generator of R53. -/
def xorshift (x : Word) : Word :=
  let a := x ^^^ (x <<< 13)
  let b := a ^^^ (a >>> 17)
  b ^^^ (b <<< 5)

/-- Output word `n` of the generator from a state. -/
def xorWord (x : Word) : Nat → Word
  | 0 => xorshift x
  | n + 1 => xorWord (xorshift x) n

/-- Stored head dimension (R188). -/
def Model.dh (m : Model) : Nat := if m.dh256 then 256 else 128

/-- Length of input point `p` (R54), heads at their stored dimension. DEDUCED; log entry 22. -/
def Model.pointLength (m : Model) (p : Nat) : Nat :=
  match p with
  | 0 => m.dModel | 1 => m.qheads * m.dh | 2 => m.dModel | 3 => m.ffWidth | _ => m.kvheads * m.dh

/-- W_p: the first word of point `p` (R54). -/
def Model.pointWord (m : Model) (p : Nat) : Nat := ((List.range p).map m.pointLength).sum / 32

/-- The signs of block `c` of point `p`: true means -1 (R53). -/
def Model.signs (m : Model) (seed : Word) (p c : Nat) : List Bool :=
  (List.range 4).flatMap fun k =>
    let w := xorWord seed (m.pointWord p + 4 * c + k)
    (List.range 32).map fun i => w.getLsbD i

/-- One butterfly stage of stride `s` (R52). -/
def butterfly (s : Nat) (l : List Word) : Hubm (List Word) :=
  (List.range l.length).mapM fun i =>
    if i / s % 2 = 0 then fadd (l.getD i 0#32) (l.getD (i + s) 0#32)
    else fsub (l.getD (i - s) 0#32) (l.getD i 0#32)

/-- y = 2^-3.5 × H × D × x (R52). -/
def rotate (signs : List Bool) (x : List Word) : Hubm (List Word) := do
  let d := (x.zip signs).map fun y => if y.2 then Fp.negate y.1 else y.1
  let h ← [1, 2, 4, 8, 16, 32, 64].foldlM (fun l s => butterfly s l) d
  h.mapM fun v => fmul v 0x3DB504F3#32

/-! ### Exponents (R58) -/

/-- ⌈log2 v⌉ of a positive value, exact. -/
def ceilLog2 (v : Word) : Int :=
  let n := (Fp.mag v).1
  (if n = 2 ^ n.log2 then (n.log2 : Int) else n.log2 + 1) + (Fp.mag v).2

/-- The root mean square of a block (R58 step 1). -/
def rms (y : List Word) : Hubm Word := do
  let s ← y.foldlM (fun a x => do fadd a (← fmul x x)) 0#32
  pure (Fp.sqrt (← fdiv s (Fp.ofInt 128)))

/-- The exponent of a block before the floor, none for an all-zero block (R58 steps 1 to 4). -/
def blockExponent (kappa : Byte) (q : Nat) (y : List Word) : Hubm (Option Int) := do
  let r ← rms y
  if (Fp.mag r).1 = 0 then pure none
  else
    let k := (Fp.scale (Fp.ofInt kappa.toNat) (-4)).1
    let v ← fdiv (← fmul k r) (Fp.ofInt q)
    pure (some (max (-126) (min 127 (ceilLog2 v))))

/-! ### Elements (R59, R60) -/

/-- |y| ≥ (Q + 0.5) × 2^e. -/
def splits (q : Nat) (e : Int) (y : Word) : Bool :=
  decide ((2 * q + 1 : Int) * 2 ^ (e + 150).toNat ≤ 2 * Fp.exact (Fp.abs y))

/-- The neighbour of a magnitude that is 8 more than a multiple of 16, for an 8-bit point (R59). -/
def avoidEight (n : Int) (d : Nat) (v : Int) : Int :=
  if v.natAbs % 16 ≠ 8 then v
  else
    let m : Int := if (v.natAbs * d : Int) < n.natAbs then v.natAbs + 1 else v.natAbs - 1
    if v < 0 then -m else m

/-- The value of an element that is not split (R59). -/
def roundElement (wide : Bool) (e : Int) (y : Word) : Int :=
  let d := 2 ^ (e + 150).toNat
  let v := roundEven (Fp.exact y) d
  if wide then avoidEight (Fp.exact y) d v else v

/-- Value of an element and, when it is split, its residue (R59, R60). -/
def quantElement (wide : Bool) (q : Nat) (e : Int) (y : Word) : Hubm (Int × Option Word) := do
  if splits q e y then
    let top := (Fp.scale (Fp.ofInt q) e).1
    let r ← fsub y (if Fp.neg y then Fp.negate top else top)
    pure (if Fp.neg y then -(q : Int) else q, some r)
  else pure (roundElement wide e y, none)

/-! ### A point of a token -/

/-- A block before its residues are accepted: exponent, elements with their values and residues, the rotated vector. -/
structure RawBlock where
  e : Option Int
  elems : List (Int × Option Word)
  y : List Word

/-- The blocks of a vector at a point, with e_max - 4 (R57-R60). -/
def quantVector (signs : Nat → List Bool) (kappa : Byte) (wide : Bool) (x : List Word) : Hubm (List RawBlock × Int) := do
  let q := if wide then 119 else 7
  let bs := blocks128 x
  let ys ← ((List.range bs.length).zip bs).mapM fun b => rotate (signs b.1) b.2
  let es ← ys.mapM fun y => blockExponent kappa q y
  let top := (es.filterMap id).foldl max (-126)
  let raw ← (ys.zip es).mapM fun (y : List Word × Option Int) =>
    match y.2 with
    | none => pure ({ e := none, elems := y.1.map fun _ => (0, none), y := y.1 } : RawBlock)
    | some e0 => do
      let e := max e0 (top - 4)
      let l ← y.1.mapM fun v => quantElement wide q e v
      pure ({ e := some e, elems := l, y := y.1 } : RawBlock)
  pure (raw, top - 4)

/-- RES_POOL of a wave, layer and point (R94): that of the piste's residue jobs. -/
def State.residuePool (s : State) (w l p : Nat) : Nat :=
  match s.bon.image with
  | some m =>
    match m.mogulJobs.find? fun j => j.kind == 1 && j.wave == w && j.layer == l && j.point == p with
    | some j => j.pool
    | none => 0
  | none => 0

/-- Key of a wave's pool. -/
def poolKey (w l p : Nat) : Nat := (w * 256 + l) * 8 + p

/-- A residue offered by a token (R60, R94): accepted when it is among the token's first 64 of the layer and the pool has room;
else counted as refused. -/
def State.offerResidue (s : State) (w token l p : Nat) : Bool × State :=
  let used := s.fab.tokenUsed.getD (tokenKey w token l) 0
  let pool := s.fab.poolUsed.getD (poolKey w l p) 0
  if 64 ≤ used then (false, s.count Reg.LAP_MOG_RES_64 1)
  else if s.residuePool w l p ≤ pool then
    (false, (s.count Reg.LAP_MOG_RES_POOL 1).modFab fun f =>
      { f with poolLap := f.poolLap + 1, tokenUsed := f.tokenUsed.put (tokenKey w token l) (used + 1) })
  else
    (true, (s.count Reg.LAP_MOG_RES_ACC 1).modFab fun f =>
      { f with tokenUsed := f.tokenUsed.put (tokenKey w token l) (used + 1)
               poolUsed := f.poolUsed.put (poolKey w l p) (pool + 1) })

/-- The residues of a block offered in element order; those accepted. -/
def State.offerBlock (s : State) (w token l p : Nat) (b : RawBlock) : List (Nat × Word) × State :=
  ((List.range b.elems.length).zip b.elems).foldl (fun (a : List (Nat × Word) × State) x =>
    match x.2.2 with
    | some r =>
      let (ok, s) := a.2.offerResidue w token l p
      (if ok then a.1 ++ [(x.1, r)] else a.1, s)
    | none => a) ([], s)

/-- Selection of an entry of the LAP_QNT registers. -/
def qntSel (m l p : Nat) : Nat := m * 2048 + l * 8 + p

/-- SAT and ZERO of a block (R64): elements that ended at ±Q without an accepted residue, and zero codes of nonzero elements.
DEDUCED; log entry 23. -/
def blockCounts (q : Nat) (b : RawBlock) (accepted : List (Nat × Word)) : Nat × Nat :=
  let l := (List.range b.elems.length).zip (b.elems.zip b.y)
  ((l.filter fun x => decide (x.2.1.1.natAbs = q) && !(accepted.any fun r => r.1 == x.1)).length,
   (l.filter fun x => x.2.1.1 == 0 && decide ((Fp.mag x.2.2).1 ≠ 0)).length)

/-- The quantiser's counters for a block (R64, R65). -/
def State.countBlock (s : State) (m l p : Nat) (bib : Word) (sat nil : Nat) : State :=
  let k := qntSel m l p
  let satHot := decide (s.get (Fld.LAP_QNT_TH_BLK_SAT.sel k) < sat)
  let nilHot := decide (s.get (Fld.LAP_QNT_TH_BLK_ZERO.sel k) < nil)
  let o := s.fab.qnt.getD k (0, 0, 0, 0)
  s.modFab fun f =>
    { f with
      qnt := f.qnt.put k (o.1 + sat, o.2.1 + nil, o.2.2.1 + satHot.toNat, o.2.2.2 + nilHot.toNat)
      qntFirst := if (satHot || nilHot) && (f.qntFirst.get? k).isNone then f.qntFirst.put k bib else f.qntFirst }

/-- One block quantised and stored. -/
def State.storeBlock (s : State) (m w token l p c : Nat) (wide : Bool) (floor : Int) (bib : Word) (b : RawBlock) : State :=
  match b.e with
  | none => s.modFab fun f => { f with blocks := f.blocks.put (blockKey w token l p c) ⟨0#8, floor, b.elems.map Prod.fst, []⟩ }
  | some e =>
    let (res, s1) := s.offerBlock w token l p b
    let n := blockCounts (if wide then 119 else 7) b res
    (s1.countBlock m l p bib n.1 n.2).modFab fun f =>
      let q : QBlock := ⟨BitVec.ofNat 8 (e + 127).toNat, floor, b.elems.map Prod.fst, res⟩
      { f with blocks := f.blocks.put (blockKey w token l p c) q }

/-- Results replaced by the largest finite value are counted (R76). -/
def State.runHub {α : Type} (s : State) (x : Hubm α) : α × State :=
  let r := x.run 0
  (r.1, s.count Reg.LAP_OUT_OVF r.2)

/-- The static outlier channels set to 0 (R57). -/
def withoutChannels (y : Layer) (p : Nat) (input : List (BitVec 16)) : List (BitVec 16) :=
  (y.channels p).foldl (fun l o => modifyAt l o.2 fun _ => 0#16) input

/-- The input of a token at a point is rotated and quantised (R52, R57-R60). -/
def State.quantise (s : State) (w token l p : Nat) (input : List (BitVec 16)) : State :=
  let m := s.slotOf w
  match s.ldr.slots.get? m, s.layerOf m l with
  | some x, some y =>
    let wide := s.widePoint w m l p
    let bib := match s.holder w token with | some i => s.bibId i | none => 0#32
    let ((bs, floor), s1) := s.runHub (quantVector (x.signs y.seed p) (y.kappa.getD p 0#8) wide
      ((withoutChannels y p input).map Bf16.widen))
    ((List.range bs.length).zip bs).foldl (fun s b => s.storeBlock m w token l p b.1 wide floor bib b.2) s1
  | _, _ => s

end Sys2Proof.Machine
end

