-- ==== Sys2Proof/Machine/Kv.lean ====
section
/-!
DEFINITION. Keys and values as they are stored and read (R56, R188-R190, R193).
-/

namespace Sys2Proof.Machine

/-! ### Stored vectors -/

/-- Block `b` of the stored output of stage `st`. -/
def State.outBlock (s : State) (w token l st b : Nat) : Option (List (BitVec 16)) :=
  s.fab.vectors.get? (colKey w token l st b)

/-- The stored output of a stage in `n` column blocks, none until every block is stored. -/
def State.outVector (s : State) (w token l st n : Nat) : Option (List (BitVec 16)) :=
  ((List.range n).mapM fun b => s.outBlock w token l st b).map List.flatten

/-- A whole vector stored under stage `st`, in blocks of 128. -/
def State.putVector (s : State) (w token l st : Nat) (v : List (BitVec 16)) : State :=
  (List.range (ceilDiv v.length 128)).foldl (fun s b =>
    s.modFab fun f => { f with vectors := f.vectors.put (colKey w token l st b) ((v.drop (128 * b)).take 128) }) s

/-- Key of a stored vector: owner (`Block.owner`), sequence position, layer, kind (0 key, 1 value), KV head. -/
def kvKey (owner pos l kind head : Nat) : Nat := owner * 2 ^ 64 + ((pos * 256 + l) * 2 + kind) * 256 + head

/-- Length of the bib's prefix; 0 without one. -/
def State.pfxLen (s : State) (b : Bib) : Nat := if b.pfxHandle = 0 then 0 else (s.pfx (b.pfxHandle % 65536)).length

/-- Sequence position of the bib's next position: prefix, then positions stored (R151). -/
def State.nextPos (s : State) (b : Bib) : Nat := s.pfxLen b + b.promptDone

/-- Sequence position of the token vector `token` of wave `w` for bib `b` (R17). -/
def State.tokenPos (s : State) (b : Bib) (w token : Nat) : Nat :=
  if w < 32 then s.nextPos b else s.nextPos b + (w - 32) % 2 * 128 + token

/-- The KV heads of model `x` that this module holds for the bib (R228). -/
def State.shareOf (s : State) (b : Bib) (x : Model) : List Nat :=
  if b.sharded && decide (0 < s.groupSize) then
    let n := x.kvheads / s.groupSize
    List.range' (s.get Fld.ATT_GROUP_MEMBER * n) n
  else List.range x.kvheads

/-- The place of a stream's scale in a block. -/
def streamIndex (x : Model) (l kind head : Nat) : Nat := l * (2 * x.kvheads) + kind * x.kvheads + head

/-- Entry `i` of a list of scales set, the list extended with 0. -/
def setScale (l : List Byte) (i : Nat) (e : Byte) : List Byte :=
  modifyAt (l ++ List.replicate (i + 1 - l.length) 0#8) i fun _ => e

/-- Largest code magnitude of a stream (R190). -/
def streamQ (x : Model) (kind : Nat) : Nat := if x.key4 && kind == 0 then 7 else 127

/-- The exponent of a stream, from the elements of the block's lowest position (R190). -/
def streamExponent (y : Layer) (q : Nat) (v : List Word) : Int :=
  let a := fmaxOf (v.map Fp.abs)
  let e := if (Fp.mag a).1 = 0 then y.eMin else ceilLog2 (Fp.div a (Fp.ofInt q)).1 + y.hr
  max (-127) (min 127 e)

/-- An element's code and whether it was clamped (R190). -/
def streamCode (q : Nat) (e : Int) (v : Word) : Int × Bool :=
  let c := roundEven (Fp.exact v) (2 ^ (e + 150).toNat)
  if (q : Int) < c then (q, true) else if c < -(q : Int) then (-(q : Int), true) else (c, false)

/-- The rotation with point 4 of the layer of key or query head `head`, 128 elements at a time (R56). -/
def rotateKey (x : Model) (y : Layer) (head : Nat) (v : List Word) : Hubm (List Word) := do
  let bs := blocks128 v
  let ys ← ((List.range bs.length).zip bs).mapM fun b => rotate (x.signs y.seed 4 (head * (x.dh / 128) + b.1)) b.2
  pure ys.flatten

/-- The bib's own block that takes sequence position `p`. -/
def Bib.blockAt (b : Bib) (p : Nat) : Option Nat :=
  b.blocks.findIdx? fun k => !k.shared && decide (k.pos0 ≤ p) && decide (p < k.pos0 + 64)

/-- A head's vector as it is stored: a key of a KEY4 slot is rotated (R190). -/
def State.rotated (s : State) (kind head : Nat) (x : Model) (y : Layer) (v : List Word) : List Word × State :=
  if x.key4 && kind == 0 then s.runHub (rotateKey x y head v) else (v, s)

/-- One head of one position written (R190): the block's lowest position fixes the stream's scale and clears its SCORE. -/
def State.storeHead (s : State) (i pos l kind head : Nat) (x : Model) (y : Layer) (v : List Word) : State :=
  let b := s.bib i
  match b.blockAt pos with
  | none => s
  | some n =>
    let (u, s1) := s.rotated kind head x y v
    let q := streamQ x kind
    let k := b.blocks.getD n (emptyBlock i pos [])
    let ix := streamIndex x l kind head
    let e := if pos = k.pos0 then streamExponent y q u else ((k.scales.getD ix 0#8).toNat : Int) - 127
    let codes := u.map (streamCode q e)
    let fix := fun (k : Block) =>
      if pos = k.pos0 then { k with scales := setScale k.scales ix (BitVec.ofNat 8 (e + 127).toNat), score := 0 } else k
    let s2 := (s1.modBib i fun b => { b with blocks := modifyAt b.blocks n fix }).count Reg.KVM_SAT
      (codes.filter Prod.snd).length
    s2.modKvm fun m => { m with vectors := m.vectors.put (kvKey i pos l kind head) (codes.map Prod.fst) }

/-- The K (kind 0) or V (kind 1) output of a token is appended, head by head (R188-R190). A token carried as zeros appends nothing
that is counted (R224). -/
def State.storeKv (s : State) (w token l kind : Nat) (v : List (BitVec 16)) : State :=
  match s.holder w token with
  | none => s
  | some i =>
    let b := s.bib i
    if w * 128 + token ∈ s.fab.zeroed then s
    else
    match s.ldr.slots.get? b.modelSlot, s.layerOf b.modelSlot l with
    | some x, some y =>
      (s.shareOf b x).foldl (fun s h =>
        s.storeHead i (s.tokenPos b w token) l kind h x y (((v.drop (h * x.dh)).take x.dh).map Bf16.widen)) s
    | _, _ => s

/-- `n` positions of the running lap of entry `i` are stored: PROMPT_DONE and the blocks count them (R151, R193, R406). -/
def State.commitPositions (s : State) (i n : Nat) : State :=
  let b := s.bib i
  let p := s.nextPos b
  let inBlock := fun (k : Block) => min (p + n) (k.pos0 + 64) - max p k.pos0
  let s1 := s.modBib i fun b =>
    { b with promptDone := b.promptDone + n
             blocks := b.blocks.map fun k => if k.shared then k else { k with fill := k.fill + inBlock k } }
  match b.kind with
  | .normal => s1.modQp b.qp fun q => { q with counts := { q.counts with positions := q.counts.positions + n } }
  | _ => s1

/-- A stored vector of the position as the lanes read it: codes and exponent of its stream (R190, R193). -/
def State.readHead (s : State) (x : Model) (k : Block) (pos l kind head : Nat) : List Int × Int :=
  (s.kvm.vectors.getD (kvKey k.owner pos l kind head) [],
   ((k.scales.getD (streamIndex x l kind head) 0#8).toNat : Int) - 127)

/-- The resident positions in order, each with its block's place in the list (R193). -/
def Bib.residentList (b : Bib) : List (Nat × Nat) :=
  ((List.range b.blocks.length).zip b.blocks).flatMap fun k =>
    (List.range k.2.fill).map fun j => (k.1, k.2.pos0 + j)

/-- A position of the running lap with the place of its block. -/
def Bib.newPosition (b : Bib) (p : Nat) : List (Nat × Nat) :=
  match b.blockAt p with
  | some n => [(n, p)]
  | none => []

/-- The first `n` positions of the running lap, from sequence position `p`. -/
def Bib.newPositions (b : Bib) (p n : Nat) : List (Nat × Nat) := (List.range n).flatMap fun j => b.newPosition (p + j)

end Sys2Proof.Machine
end

