-- ==== Sys2Proof/Machine/Attention.lean ====
section
/-!
DEFINITION. The attention lanes (R215-R227, R232): work items, scores, the pass over keys and values, the merge, gather parts, the
due time.
-/

namespace Sys2Proof.Machine

/-! ### Items (R215, R221, R223) -/

/-- G: query heads that share a KV head (R216). -/
def Model.sharing (x : Model) : Nat := x.qheads / x.kvheads

/-- Key of a slot's KV head at a layer. -/
def headKey (w slot head l : Nat) : Nat := ((w * 256 + l) * 128 + slot) * 256 + head

/-- Key of an item. -/
def itemKey (w slot head l seg : Nat) : Nat := headKey w slot head l * 2 ^ 20 + seg

/-- Query tokens of a slot: the decode slot's token, or those of the tow wave that the chunk reaches (R215). A tow wave's slot
is 0. -/
def State.queryTokens (s : State) (w slot : Nat) : List Nat :=
  if w < 32 then [slot] else (List.range 128).filter fun k => (s.holder w k).isSome

/-- What a slot's tokens read, in order: the resident positions, then those of the running lap (R193, R221); with each its block's
place in the bib's list. -/
def State.attended (s : State) (i w : Nat) : List (Nat × Nat) :=
  let b := s.bib i
  b.residentList ++ b.newPositions (s.nextPos b) (if w < 32 then 1 else min b.chunk ((w - 32) % 2 * 128 + 128))

/-- How many of them token `token` reads (R221). -/
def State.reach (s : State) (i w token : Nat) : Nat :=
  (s.bib i).resident + (if w < 32 then 1 else (w - 32) % 2 * 128 + token + 1)

/-- Segments of a slot (R215). -/
def State.segments (s : State) (i w : Nat) : Nat := ceilDiv (s.attended i w).length 4096

/-- The whole output of stage `st` of a token is stored. -/
def State.stageStored (s : State) (w token l st : Nat) : Bool :=
  match (s.layerOf (s.slotOf w) l).bind (·.stage st) with
  | some x => (s.outVector w token l st x.colBlocks).isSome
  | none => false

/-- K and V of every token of the wave are appended at the layer (R223). -/
def State.keysReady (s : State) (w l : Nat) : Bool :=
  (List.range 128).all fun k => (s.holder w k).isNone || (s.stageStored w k l 1 && s.stageStored w k l 2)

/-- The items of one slot; those of a bib already marked for replay are not formed (R223). -/
def State.slotItems (s : State) (w l slot : Nat) : List LaneItem :=
  match s.holder w slot with
  | none => []
  | some i =>
    let b := s.bib i
    match s.ldr.slots.get? b.modelSlot with
    | some x =>
      if b.replay then []
      else (s.shareOf b x).flatMap fun h => (List.range (s.segments i w)).map fun g =>
        { wave := Fin.ofNat 96 w, layer := Fin.ofNat 256 l, slot := Fin.ofNat 128 slot, head := Fin.ofNat 256 h, segment := g }
    | none => []

/-- The order of R223, by issue time of the wave, then layer, slot, KV head, segment. -/
def State.itemOrder (s : State) (a : LaneItem) : List Nat :=
  [s.plan.issued.findIdx fun w => w == a.wave.val, a.layer, a.slot, a.head, a.segment]

/-- Lexicographic order of lists of numbers. -/
def lexLe : List Nat → List Nat → Bool
  | [], _ => true
  | _ :: _, [] => false
  | a :: r, b :: t => decide (a < b) || (a == b && lexLe r t)

/-- Key of a wave and layer. -/
def waveLayer (w l : Nat) : Nat := w * 256 + l

/-! ### Gather parts (R231, R232) -/

/-- SPREAD_SLOTS of a wave. -/
def State.spreadOf (s : State) (w : Nat) : Nat := match s.wave w with | some r => r.spread | none => 0

/-- The other members of the group: member number and module ID. -/
def State.members (s : State) : List (Nat × Nat) :=
  match s.bon.image.bind (·.link) with
  | some k => ((List.range k.size).map fun j => (j, nth k.ids j)).filter fun x => x.1 != k.member
  | none => []

/-- This module's member number. -/
def State.member (s : State) : Nat := s.get Fld.ATT_GROUP_MEMBER

/-- Heads of the query that member `k` holds: first and number (R228). -/
def State.queryShare (s : State) (x : Model) (k : Nat) : Nat × Nat :=
  let n := x.qheads / s.groupSize
  (k * n, n)

/-- REPLAY bits of a wave's slots (R231). -/
def State.replayMask (s : State) (w : Nat) : BitVec 128 :=
  BitVec.ofNat 128 (((List.range 128).map fun k =>
    match s.holder w k with
    | some i => if (s.bib i).replay then 2 ^ k else 0
    | none => 0).sum)

/-- Outputs of this member for a spread slot: its query heads' BF16 values, zeros where none are merged. -/
def State.partOutputs (s : State) (x : Model) (w token l : Nat) : List (BitVec 16) :=
  let q := s.queryShare x s.member
  let r := x.dh / 128
  (List.range (q.2 * r)).flatMap fun b => (s.outBlock w token l attStage (q.1 * r + b)).getD (List.replicate 128 0#16)

/-- The gather part of a wave and layer (R231). -/
def State.gatherBytes (s : State) (x : Model) (w l : Nat) : List Byte :=
  leBytes (s.dlap s.lap) 8 ++ leBytes w 1 ++ leBytes l 1 ++ leBytes s.member 1 ++ leBytes 0 5 ++ leBytes (s.replayMask w).toNat 16
  ++ ((List.range (s.spreadOf w)).flatMap fun k => s.partOutputs x w k l).flatMap fun h => leBytes h.toNat 2

/-- Every item of the wave's spread slots at the layer is merged (R231). -/
def State.spreadMerged (s : State) (w l : Nat) : Bool :=
  decide (waveLayer w l ∈ s.att.formed) && (List.range (s.spreadOf w)).all fun k =>
    match s.holder w k with
    | some i =>
      let b := s.bib i
      if b.replay || !b.sharded then true
      else match s.ldr.slots.get? b.modelSlot with
        | some x => (s.shareOf b x).all fun h => decide (headKey w k h l ∈ s.att.merged)
        | none => true
    | none => true

/-- The member's gather part goes to every other member when its items for the wave and layer are merged, once (R231). -/
def State.gather (s : State) (w l : Nat) : State :=
  let sent := s.att.parts.any fun p => p.1 == w && p.2.1 == l && p.2.2.1 == s.member
  if w < 32 ∧ 0 < s.spreadOf w ∧ 0 < s.groupSize ∧ !sent ∧ s.spreadMerged w l then
    match s.ldr.slots.get? (s.slotOf w) with
    | some x =>
      let bytes := s.gatherBytes x w l
      let s1 := s.modAtt fun a => { a with parts := a.parts ++ [(w, l, s.member, s.replayMask w)] }
      s.members.foldl (fun s p => (s.sendMessage 0x0103 p.2 bytes).count Reg.ATT_GATHER_TX bytes.length) s1
    | none => s
  else s

/-! ### Forming and starting items -/

/-- The items of a wave and layer become ready when its keys and values are appended, once (R223). -/
def State.formItems (s : State) (w l : Nat) : State :=
  if waveLayer w l ∈ s.att.formed ∨ !s.keysReady w l then s
  else
    let slots := if w < 32 then List.range 128 else [0]
    let items := slots.flatMap fun k => s.slotItems w l k
    let s1 := s.modAtt fun a =>
      { a with formed := a.formed ++ [waveLayer w l]
               ready := items.foldl (fun r x => insertBy (fun y z => lexLe (s.itemOrder y) (s.itemOrder z)) x r) a.ready }
    s1.gather w l

/-- Hub of a lane (R215). -/
def laneHub (lane : Nat) : Hub := hubOf (lane / 32)

/-- An idle lane takes the first ready item of its hub (R223). -/
def State.startItem (s : State) (lane : Nat) : State :=
  if s.halted ∨ s.paused ∨ (s.att.lanes.get? lane).isSome ∨ s.flag (Fld.ATT_LSTS_FENCED.sel lane) then s
  else
    match s.att.ready.find? fun a => waveHub a.wave == laneHub lane with
    | some a => s.modAtt fun t => { t with lanes := t.lanes.put lane a, ready := t.ready.erase a }
    | none => s

/-- ATT_ITEM_START (R223). -/
def execAttItemStart (lane : Fin 64) (s : State) : Host.Outcome State Fault Refusal := .next (s.startItem lane)

/-! ### Queries and scores (R217, R218) -/

/-- A query head quantised: codes and exponent of each 128-element block (R217). -/
def quantQuery (v : List Word) : List (List Int × Int) :=
  (blocks128 v).map fun b =>
    let a := fmaxOf (b.map Fp.abs)
    if (Fp.mag a).1 = 0 then (b.map fun _ => 0, -127)
    else
      let e := ceilLog2 (Fp.div a (Fp.ofInt 127)).1
      (b.map fun x => (streamCode 127 e x).1, e)

/-- Exact integer dot product. -/
def dotInt (a b : List Int) : Int := ((a.zip b).map fun x => x.1 * x.2).foldl (· + ·) 0

/-- The score of a query head against a key (R218). -/
def score (q : List (List Int × Int)) (key : List Int) (ek : Int) (sigma : Word) : Hubm Word := do
  let ts ← ((List.range q.length).zip q).mapM fun b =>
    counted (Fp.scale (Fp.ofInt (dotInt b.2.1 ((key.drop (128 * b.1)).take 128))) (b.2.2 + ek))
  match ts with
  | [] => pure 0#32
  | t :: r => do fmul (← r.foldlM fadd t) sigma

/-! ### The pass over keys and values (R219) -/

/-- A position as a lane reads it: key codes and exponent, value codes and exponent. -/
abbrev KvRead := List Int × Int × List Int × Int

/-- A segment before its first step. -/
def Segment.start (dh blocks : Nat) : Segment :=
  { m := none, s := 0#32, o := List.replicate dh 0#32, mass := List.replicate blocks (0#32, none) }

/-- exp(a - m). -/
def expDiff (a m : Word) : Hubm Word := do
  let d ← fsub a m
  pure (Config.exp d)

/-- exp(a - m), 0 for minus infinity. -/
def expFrom (a : Option Word) (m : Word) : Hubm Word :=
  match a with
  | some x => expDiff x m
  | none => pure 0#32

/-- round(127 × e), ties to even, 0 to 127. -/
def massCode (e : Word) : Hubm Int := do
  let p ← fmul 0x42FE0000#32 e
  pure (max 0 (min 127 (roundEven (Fp.exact p) (2 ^ 150))))

/-- One step over the unmasked positions `ps` of block number `blk` of the segment, for one query head and token (R219). -/
def laneStep (q : List (List Int × Int)) (sigma : Word) (a : Segment) (blk : Nat) (ps : List KvRead) : Hubm Segment := do
  if ps.isEmpty then pure a
  else
    let xs ← ps.mapM fun p => score q p.1 p.2.1 sigma
    let top := fmaxOf xs
    let mn := match a.m with | some m => Fp.max m top | none => top
    let f ← expFrom a.m mn
    let cs ← xs.mapM fun x => do massCode (← expDiff x mn)
    let sum := Fp.ofInt (cs.foldl (· + ·) 0)
    let s ← fadd (← fmul a.s f) sum
    let ev := match ps with | p :: _ => p.2.2.2 | [] => 0
    let o ← ((List.range a.o.length).zip a.o).mapM fun y => do
      let n := dotInt cs (ps.map fun p => p.2.2.1.getD y.1 0)
      let t ← counted (Fp.scale (Fp.ofInt n) ev)
      fadd (← fmul y.2 f) t
    let old := (a.mass.getD blk (0#32, none)).1
    let nw ← fadd (← fmul old f) sum
    pure { m := some mn, s := s, o := o, mass := modifyAt a.mass blk fun _ => (nw, some mn) }

/-- Positions cut into steps of 16 that never cross a block (R219): block, then the positions with their places in the order. The
newest step stands first. -/
def addToSteps (l : List (Nat × List (Nat × Nat))) (p : Nat × Nat × Nat) : List (Nat × List (Nat × Nat)) :=
  match l with
  | (b, ps) :: r => if b = p.2.1 ∧ ps.length < 16 then (b, ps ++ [(p.1, p.2.2)]) :: r else (p.2.1, [(p.1, p.2.2)]) :: (b, ps) :: r
  | [] => [(p.2.1, [(p.1, p.2.2)])]

/-- The steps of a segment in order: place of the block, then (place in the order, sequence position). -/
def stepsOf (positions : List (Nat × Nat)) (seg : Nat) : List (Nat × List (Nat × Nat)) :=
  let l := (((List.range positions.length).zip positions).drop (4096 * seg)).take 4096
  (l.foldl addToSteps []).reverse

/-- The blocks of a segment in order. -/
def segmentBlocks (steps : List (Nat × List (Nat × Nat))) : List Nat := (steps.map Prod.fst).eraseDups

/-- A query head of a token, rotated when keys are stored as KEY4, and quantised (R217). -/
def State.query (s : State) (w token l head g : Nat) (x : Model) (y : Layer) : Hubm (List (List Int × Int)) := do
  let blocks := match y.stage 0 with | some st => st.colBlocks | none => 0
  let v := if w * 128 + token ∈ s.fab.zeroed then [] else (s.outVector w token l 0 blocks).getD []
  let q := (List.range x.dh).map fun j => Bf16.widen (v.getD ((head * x.sharing + g) * x.dh + j) 0#16)
  let u ← if x.key4 then rotateKey x y head q else pure q
  pure (quantQuery u)

/-- The segment result of one query head and token. -/
def State.laneSegment (s : State) (i w l head g token seg : Nat) (x : Model) (y : Layer) : Hubm Segment := do
  let b := s.bib i
  let steps := stepsOf (s.attended i w) seg
  let blocks := segmentBlocks steps
  let q ← s.query w token l head g x y
  let reach := s.reach i w token
  steps.foldlM (fun a st =>
    let k := b.blocks.getD st.1 (emptyBlock i 0 [])
    let ps := (st.2.filter fun p => decide (p.1 < reach)).map fun p =>
      let key := s.readHead x k p.2 l 0 head
      let val := s.readHead x k p.2 l 1 head
      ((key.1, key.2, val.1, val.2) : KvRead)
    laneStep q y.sigma a (blocks.findIdx (· == st.1)) ps) (Segment.start x.dh blocks.length)

/-- Every segment result of an item: query heads ascending, then tokens. -/
def State.laneItem (s : State) (i w slot l head seg : Nat) (x : Model) (y : Layer) : Hubm (List Segment) :=
  ((List.range x.sharing).flatMap fun g => (s.queryTokens w slot).map fun k => (g, k)).mapM fun p =>
    s.laneSegment i w l head p.1 p.2 seg x y

/-- Cycles of an item (R222). -/
def State.itemCycles (s : State) (i w slot seg : Nat) (x : Model) : Nat :=
  let toks := s.queryTokens w slot
  24 + ((stepsOf (s.attended i w) seg).map fun st =>
    (toks.filter fun k => st.2.any fun p => decide (p.1 < s.reach i w k)).length * x.sharing * x.dh / 128).sum

/-! ### Attention mass (R226, R227) -/

/-- M_b of block number `blk` of a segment over the query heads (R226). -/
def blockMass (segs : List Segment) (blk : Nat) : Hubm Word :=
  segs.foldlM (fun t g => do
    let a := g.mass.getD blk (0#32, none)
    let e ← match a.2, g.m with
      | some mb, some m => expDiff mb m
      | _, _ => pure 0#32
    let p ← fmul a.1 e
    let r ← fdiv p g.s
    fadd t r) 0#32

/-- C_b (R226). -/
def scoreShare (m : Word) (nq : Nat) : Nat := (Fp.exact m).toNat * 2 ^ 24 / (nq * 2 ^ 150)

/-- Nq: the model's layers times the query heads that this module holds for the bib (R226). -/
def State.heldQueries (s : State) (b : Bib) (x : Model) : Nat := x.layers * ((s.shareOf b x).length * x.sharing)

/-- The masses of a decode item join the SCOREs of its blocks, saturating (R226, R227). -/
def State.addScores (s : State) (i : Nat) (blocks : List Nat) (segs : List Segment) (nq : Nat) : State :=
  ((List.range blocks.length).zip blocks).foldl (fun s b =>
    let (m, s1) := s.runHub (blockMass segs b.1)
    let c := scoreShare m nq
    s1.modBib i fun e =>
      { e with blocks := modifyAt e.blocks b.2 fun k => { k with score := min 0xFFFFFFFF (k.score + c) } }) s

/-- The item of a lane ends (R219, R222, R226): its results are kept for the merge, its cycles and positions counted. -/
def State.endItem (s : State) (lane : Nat) : State :=
  match s.att.lanes.get? lane with
  | none => s
  | some a =>
    let s0 := s.modAtt fun t => { t with lanes := t.lanes.erase lane }
    match s.holder a.wave a.slot with
    | none => s0
    | some i =>
      let b := s.bib i
      match s.ldr.slots.get? b.modelSlot, s.layerOf b.modelSlot a.layer with
      | some x, some y =>
        let steps := stepsOf (s.attended i a.wave) a.segment
        let n := (steps.map fun st => st.2.length).sum
        let cyc := s.itemCycles i a.wave a.slot a.segment x
        let h := some (laneHub lane)
        let (segs, s1) := s0.runHub (s.laneItem i a.wave a.slot a.layer a.head a.segment x y)
        let s2 := s1.modAtt fun t =>
          { t with segments := t.segments.put (itemKey a.wave a.slot a.head a.layer a.segment) segs
                   busy := t.busy.put lane (t.busy.getD lane 0 + cyc) }
        let s3 := (s2.count Reg.ATT_ITEMS 1).count Reg.ATT_POS n
        let s4 := ((s3.tally 20 0x10 1 h).tally 20 0x11 n h).tally 20 0x12 cyc h
        if a.wave.val < 32 then s4.addScores i (segmentBlocks steps) segs (s.heldQueries b x) else s4
      | _, _ => s0

/-- ATT_ITEM_DONE (R226). -/
def execAttItemDone (lane : Fin 64) (s : State) : Host.Outcome State Fault Refusal := .next (s.endItem lane)

/-! ### The merge (R220) -/

/-- Two segments combined (R220). -/
def mergeSegment (a b : Segment) : Hubm Segment := do
  match a.m, b.m with
  | _, none => pure a
  | none, _ => pure b
  | some ma, some mb =>
    let mn := Fp.max ma mb
    let fa ← expDiff ma mn
    let fb ← expDiff mb mn
    let s ← fadd (← fmul a.s fa) (← fmul b.s fb)
    let o ← (a.o.zip b.o).mapM fun x => do fadd (← fmul x.1 fa) (← fmul x.2 fb)
    pure { m := some mn, s := s, o := o, mass := [] }

/-- The attention output of one query head and token: o ÷ s as BF16. -/
def headOutput (l : List Segment) : Hubm (List (BitVec 16)) := do
  match l with
  | [] => pure []
  | a :: r =>
    let t ← r.foldlM mergeSegment a
    t.o.mapM fun x => do fstore (← fdiv x t.s)

/-- A head's output stored in the attention output vector of a token. -/
def State.putHead (s : State) (w token l q : Nat) (x : Model) (v : List (BitVec 16)) : State :=
  (List.range (x.dh / 128)).foldl (fun s c =>
    s.modFab fun f =>
      { f with vectors := f.vectors.put (colKey w token l attStage (q * (x.dh / 128) + c)) ((v.drop (128 * c)).take 128) }) s

/-- The attention output of a token is complete: the O stage's input is quantised (R54, R220). A token carried as zeros reads
zeros. -/
def State.attComplete (s : State) (w token l : Nat) (x : Model) : State :=
  match s.outVector w token l attStage (x.pointLength 1 / 128) with
  | some v => s.quantise w token l 1 (if w * 128 + token ∈ s.fab.zeroed then v.map fun _ => 0#16 else v)
  | none => s

/-- The segment results of a slot's head for query head and token number `n`, in ascending segment order; none while one is
missing. -/
def State.segmentsOf (s : State) (w slot head l count n : Nat) : Option (List Segment) :=
  (List.range count).mapM fun g => (s.att.segments.get? (itemKey w slot head l g)).bind (·[n]?)

/-- Every segment of a slot, head and layer is done: combined and stored (R220). -/
def State.mergeHead (s : State) (w slot head l : Nat) : State :=
  match s.holder w slot with
  | none => s
  | some i =>
    let b := s.bib i
    match s.ldr.slots.get? b.modelSlot with
    | none => s
    | some x =>
      let toks := s.queryTokens w slot
      let count := s.segments i w
      let all := (List.range count).all fun g => (s.att.segments.get? (itemKey w slot head l g)).isSome
      if waveLayer w l ∉ s.att.formed ∨ headKey w slot head l ∈ s.att.merged ∨ !all ∨ head ∉ s.shareOf b x then s
      else
        let pairs := (List.range x.sharing).flatMap fun g => toks.map fun k => (g, k)
        let s1 := ((List.range pairs.length).zip pairs).foldl (fun s p =>
          let (v, s1) := s.runHub (headOutput ((s.segmentsOf w slot head l count p.1).getD []))
          s1.putHead w p.2.2 l (head * x.sharing + p.2.1) x v) s
        let s2 := s1.modAtt fun a => { a with merged := a.merged ++ [headKey w slot head l] }
        (toks.foldl (fun s k => s.attComplete w k l x) s2).gather w l

/-- ATT_MERGE (R220). -/
def execAttMerge (wave : Fin 96) (slot : Fin 128) (head : Fin 256) (layer : Fin 256) (s : State) :
    Host.Outcome State Fault Refusal :=
  .next (s.mergeHead wave slot head layer)

/-! ### The due time (R224, R232, R268) -/

/-- Every item of the slot at the layer is finished and merged. -/
def State.slotMerged (s : State) (i w slot l : Nat) : Bool :=
  let b := s.bib i
  match s.ldr.slots.get? b.modelSlot with
  | some x => (s.shareOf b x).all fun h => decide (headKey w slot h l ∈ s.att.merged)
  | none => true

/-- The members whose part of the wave and layer has not arrived. -/
def State.missingParts (s : State) (w l : Nat) : List Nat :=
  (s.members.map Prod.fst).filter fun j => !(s.att.parts.any fun p => p.1 == w && p.2.1 == l && p.2.2.1 == j)

/-- A part received for the wave and layer carries the token's REPLAY bit. -/
def State.partReplays (s : State) (w l token : Nat) : Bool :=
  s.att.parts.any fun p => p.1 == w && p.2.1 == l && p.2.2.1 != s.member && p.2.2.2.getLsbD token

/-- Marked for replay for an unfinished item (R224). -/
def State.laneReplay (s : State) (w token : Nat) : State :=
  ((s.markReplay w token).count Reg.ATT_REPLAY_LANE 1).modAtt fun a => { a with replayLane := a.replayLane + 1 }

/-- Marked for replay by R232. -/
def State.spreadReplay (s : State) (w token : Nat) : State :=
  ((s.markReplay w token).count Reg.ATT_REPLAY_SPREAD 1).modAtt fun a => { a with replaySpread := a.replaySpread + 1 }

/-- The gate of the slot is closed at the layer in this lap (R266, R268). -/
def State.gatedLayer (s : State) (m l : Nat) : Bool :=
  match s.ldr.op with
  | some o => o.slot == m && o.gate == some l
  | none => false

/-- A token of a gated slot at the gated layer: as marked for replay, and counted once (R268). -/
def State.gateHold (s : State) (w token : Nat) : State :=
  match s.holder w token with
  | none => s
  | some i =>
    if (s.bib i).replay then s.markReplay w token
    else ((s.markReplay w token).count Reg.LDR_GATE_HELD 1).tally 22 0x11 1 none

/-- The attention of one token falls due (R224, R232). A part missing at the last layer marks no guest: it changes nothing that the
member keeps. DEDUCED; log entry 25. -/
def State.dueToken (s : State) (w l token : Nat) : State :=
  match s.holder w token with
  | none => s
  | some i =>
    let b := s.bib i
    if b.replay then s.markReplay w token
    else if s.gatedLayer b.modelSlot l then s.gateHold w token
    else if !s.slotMerged i w (if w < 32 then token else 0) l then s.laneReplay w token
    else if b.sharded then
      let last := match s.ldr.slots.get? b.modelSlot with | some x => decide (l + 1 = x.layers) | none => false
      let guest := match b.kind with | .guest _ _ => true | _ => false
      if s.partReplays w l token ∨ (s.missingParts w l ≠ [] ∧ !(last && guest)) then s.spreadReplay w token else s
    else s

/-- The wave holds a bib of the group's spread slots. -/
def State.holdsSpread (s : State) (w : Nat) : Bool :=
  (List.range 128).any fun k => match s.holder w k with | some i => (s.bib i).sharded | none => false

/-- Gather parts missing at their due time are counted (R232). -/
def State.countLate (s : State) (w l : Nat) : State :=
  let n := (s.missingParts w l).length
  if s.holdsSpread w ∧ 0 < n then (s.count Reg.ATT_GATHER_LATE n).raise Fld.ATT_EVT_GATHER_LATE else s

/-- ATT_DUE of a wave and layer (R224). -/
def State.attentionDue (s : State) (w l : Nat) : State :=
  if w ∉ s.plan.issued then s
  else (List.range 128).foldl (fun s k => s.dueToken w l k) (s.countLate w l)

/-- ATT_DUE (R224). -/
def execAttDue (wave : Fin 96) (layer : Fin 256) (s : State) : Host.Outcome State Fault Refusal :=
  .next (s.attentionDue wave layer)

end Sys2Proof.Machine
end

