-- ==== Sys2Proof/Machine/Hub.lean ====
section
/-!
DEFINITION. The hub stages of a wave: its issue (R18, R19, R127), the column sums (R74-R77, R101, R104, R105), the output stage
(R78-R82) and the join units (R83, R84).
-/

namespace Sys2Proof.Machine

/-! ### The residual stream -/

/-- The residual stream of a token. -/
def State.residual (s : State) (w token : Nat) (x : Model) : List (BitVec 16) :=
  (s.outVector w token 0 residStage (x.dModel / 128)).getD []

/-! ### Reductions (R78, R80-R82) -/

/-- Key of a stored vector's reductions. -/
def reduceKey (w token l st : Nat) : Nat := tokenKey w token l * 16 + st

/-- Mean, variance, sum of squares, maximum, sum and index of a stored vector; β when its sum is one of exponentials. -/
def reduce (β : Option Word) (v : List (BitVec 16)) : Hubm (List Word) := do
  let x := v.map Bf16.widen
  let mv ← moments x
  let q ← sumSquares x
  let ms ← match β with
    | some c => maxSumExp c x
    | none => maxSum x
  pure [mv.1, mv.2, q, ms.1, ms.2, BitVec.ofNat 32 (argmax x)]

/-- The reductions of a stored vector. -/
def State.reductionsOf (s : State) (w token l st : Nat) : List Word := s.fab.reductions.getD (reduceKey w token l st) []

/-- A vector's reductions formed and kept. -/
def State.reduceVector (s : State) (w token l st : Nat) (β : Option Word) (v : List (BitVec 16)) : State :=
  let (r, s1) := s.runHub (reduce β v)
  s1.modFab fun f => { f with reductions := f.reductions.put (reduceKey w token l st) r }

/-- The residual stream becomes `v`, with its mean and variance for the next layer's input side (R81). -/
def State.putResidual (s : State) (w token : Nat) (v : List (BitVec 16)) : State :=
  (s.putVector w token 0 residStage v).reduceVector w token 0 residStage none v

/-- The normalised residual stream as the input of a point (R81). -/
def State.normalised (s : State) (w token : Nat) (x : Model) : List (BitVec 16) :=
  let r := s.reductionsOf w token 0 residStage
  (s.residual w token x).map fun h => Config.normalise (Bf16.widen h) (r.getD 0 0#32) (r.getD 1 0#32)

/-- The residual stream is read for the layer's point 0 or 2. -/
def State.readPoint (s : State) (w token l p : Nat) (x : Model) : State :=
  s.quantise w token l p (s.normalised w token x)

/-! ### Issue (R18, R127, R231) -/

/-- The embedding row of a token (R255 EMBED). -/
def Model.embedding (x : Model) (tok : Nat) : List (BitVec 16) :=
  (List.range x.dModel).map fun j => BitVec.ofNat 16 (bytesAt x.embed ((tok * x.dModel + j) * 2) 2)

/-- Input token of token vector `token` of wave `w`: the bib's last token, or the prompt position (R17, R19). -/
def State.inputToken (s : State) (i w token : Nat) : Nat :=
  if w < 32 then nth (s.bib i).inputs 0 else nth (s.bib i).inputs ((w - 32) % 2 * 128 + token)

/-- A token vector enters its wave: embedding, statistics, the first input point. -/
def State.enterToken (s : State) (w token i : Nat) : State :=
  match s.ldr.slots.get? (s.slotOf w) with
  | some x => (s.putResidual w token (x.embedding (s.inputToken i w token))).readPoint w token 0 0 x
  | none => s

/-- A guest has its GRANT, or its token of the lap before (R231). -/
def State.guestReady (s : State) (i : Nat) : Bool :=
  match (s.bib i).kind with
  | .guest _ _ =>
    decide (s.bibId i ∈ s.att.granted) || s.att.tokensIn.any fun x => x.1 == s.bibId i && x.2 + 1 == s.dlap s.lap
  | _ => true

/-- Wax sets that the token vectors of wave `w` select, each once. -/
def State.waveSets (s : State) (w : Nat) : List Nat :=
  (List.range 128).foldl (fun l k =>
    match (s.holder w k).bind fun i => (s.bib i).wax with
    | some x => insertNat x l
    | none => l) []

/-- The join units read the layer records of a wave's sets, every layer's once (R243). DESIGN CHOICE, safe: all are counted as the
wave is issued; log entry 24. -/
def State.countWaxReads (s : State) (w : Nat) : State :=
  let n := (s.waveSets w).length * (match s.ldr.slots.get? (s.slotOf w) with | some x => x.layers | none => 0)
  if n = 0 then s else (s.count Reg.WAX_READ n).tally 21 0x10 n (some (waveHub w))

/-- Wave `w` is issued with its occupancy: every occupied token vector enters (R18, R127). -/
def State.issueWave (s : State) (w : Nat) : State :=
  if !s.running ∨ s.halted ∨ w ∈ s.plan.issued ∨ (s.waveSlot w).isNone then s
  else
    let s1 := (s.modPlan fun p => { p with issued := p.issued ++ [w] }).countWaxReads w
    (List.range 128).foldl (fun s k =>
      match s.holder w k with
      | some i =>
        if (s.bib i).replay then s.zeroToken w k
        else if s.guestReady i then s.enterToken w k i
        else ((s.markReplay w k).count Reg.ATT_REPLAY_SPREAD 1).modAtt fun a => { a with replaySpread := a.replaySpread + 1 }
      | none => s) s1

/-- WAVE_ISSUE (R127). -/
def execWaveIssue (wave : Fin 96) (s : State) : Host.Outcome State Fault Refusal := .next (s.issueWave wave)

/-! ### Join units (R83, R84, R236, R237) -/

/-- The wax set whose record a bib's tokens read. -/
def State.waxOf (s : State) (w token : Nat) : Option Nat := (s.holder w token).bind fun i => (s.bib i).wax

/-- Code of element `e` of vector `vec` at layer `l` in a wax set, with its block's scale; none where no block is there. -/
def State.waxValue (s : State) (ix l vec e : Nat) : Option Word :=
  let r := ((s.waxAt ix).layers.getD l []).find? fun n => n.vec == vec && n.block == e / 128
  r.map fun n => (Fp.scale (Fp.ofInt (n.codes.getD (e % 128) 0)) ((n.e.toNat : Int) - 127)).1

/-- The operand b of a join operation for element `e`; none is the exact identity (R84, R237). -/
def State.operand (s : State) (w token l : Nat) (x : Model) (src partner e : Nat) : Option Word :=
  match src with
  | 0 => some (Bf16.widen ((s.residual w token x).getD e 0#16))
  | 1 => some (Bf16.widen (((s.outBlock w token l partner (e / 128)).getD []).getD (e % 128) 0#16))
  | n => (s.waxOf w token).bind fun ix => s.waxValue ix l (n - 2) e

/-- One join operation on element `e` (R83). -/
def joinOp (op : Nat) (a : Word) (b : Option Word) : Hubm Word :=
  match op, b with
  | 1, some b => fadd a b
  | 2, some b => fmul a b
  | _, _ => pure a

/-- The joins of a stage in the piste's order, at most three (R78). -/
def State.joinsOf (s : State) (m l st : Nat) : List (Nat × Nat) :=
  ((Config.joins s.build m l st).take 3).map fun j => (j.1.val, j.2.val)

/-- Every join of a stage on element `e`. -/
def State.joinAll (s : State) (w token l st : Nat) (x : Model) (e : Nat) (a : Word) : Hubm Word :=
  let m := s.slotOf w
  (s.joinsOf m l st).foldlM (fun a j =>
    joinOp j.1 a (s.operand w token l x j.2 (Config.partner s.build m l st).val e)) a

/-! ### Column sums (R74, R75) -/

/-- The value of one tile position: none while the hub waits for it; else the partials, and whether they are a substitute. -/
def State.position (s : State) (w token l st b : Nat) (p : Nat × Nat) : Option (List Int × Bool) :=
  let phys := s.physical p.1 p.2
  let sub :=
    match s.coverOf (waveHub w) (tileAddr p.1 phys) with
    | some u => if u ∈ s.pat.begun then some (s.substitute w token l st b p.1 p.2, true) else none
    | none => none
  match s.fab.messages.get? (msgKey (colKey w token l st b) p.1 p.2) with
  | some q => if q.valid then some (q.partials, false) else sub
  | none => if (s.tile p.1 phys).state = .inService then none else sub

/-- Two's complement in 64 bits (R74). -/
def wrap64 (x : Int) : Int := (BitVec.ofInt 64 x).toInt

/-- The FP32 value of a column after R75, from its sum S with the corrections added. -/
def State.columnValue (s : State) (w token l : Nat) (y : Layer) (x : Stage) (input : List (BitVec 16)) (k : Nat)
    (sum : Int) (floor : Int) : Hubm Word := do
  let f := x.factorLog s.build (s.slotOf w) l
  let a ← counted (Fp.scale (Fp.ofInt sum) (floor - f))
  let c ← fmul a (x.scaleOf k)
  let d ← fadd c (← staticTerm y x input k)
  fadd d (← s.residueTerm w token l y x k)

/-- The stage whose stored output DOWN reads: of GATE and UP, the one with a PARTNER operand, else UP. -/
def State.gateStage (s : State) (m l : Nat) : Nat := if (s.joinsOf m l 4).any (·.2 == 1) then 4 else 5

/-- The stored input vector of a point (R54): the normalised residual stream, the attention output, or the gated product. -/
def State.inputOfPoint (s : State) (w token l p : Nat) (x : Model) : List (BitVec 16) :=
  match p with
  | 1 => (s.outVector w token l attStage (x.pointLength 1 / 128)).getD []
  | 3 => (s.outVector w token l (s.gateStage (s.slotOf w) l) (x.ffWidth / 128)).getD []
  | _ => s.normalised w token x

/-- A token whose output is poisoned by a granule of the shadow image that its sum reads (R91). -/
def State.poisonedPart (s : State) (m l st : Nat) : Bool :=
  match s.ldr.slots.get? m with
  | some x => x.poisonedGranules.any fun g =>
      (Config.granulePart m g).1.val == l && (Config.granulePart m g).2.val == st
  | none => false

/-- The 128 stored values of a column block, with the number of results replaced: joins and element function on each column
(R75, R78). -/
def State.blockValues (s : State) (w token l b : Nat) (m : Model) (y : Layer) (x : Stage) (sums : List Int) :
    Hubm (List (BitVec 16)) :=
  let input := s.inputOfPoint w token l x.point m
  let floor := (s.block w token l x.point 0).floor
  (List.range 128).mapM fun k => do
    let v ← s.columnValue w token l y x input (128 * b + k) (sums.getD k 0) floor
    let a ← element x.elem v
    let j ← s.joinAll w token l x.stage m (128 * b + k) a
    fstore j

/-! ### A stage's output complete -/

/-- β of the output head: 1 ÷ TEMP of the bib; TEMP 0 runs in MAX_SUM (R82, R164). -/
def State.headBeta (s : State) (w token : Nat) : Option Word :=
  match s.holder w token with
  | some i => if Fp.key (s.bib i).temp = 0 then none else some (Fp.div fone (s.bib i).temp).1
  | none => none

/-- What follows when the whole output of stage `st` is stored: the reductions, the keys and values appended, the residual
stream, and the next point read (R54, R78, R190). -/
def State.stageDone (s : State) (w token l st : Nat) (x : Model) (v : List (BitVec 16)) : State :=
  let m := s.slotOf w
  let β := if st = 7 then s.headBeta w token else if Config.sumExp s.build m l st then some fone else none
  let s1 := s.reduceVector w token l st β (if st = 7 then v.take x.vocab else v)
  if st = 1 ∨ st = 2 then (s1.storeKv w token l (st - 1) v).formItems w l
  else if st = 3 then (s1.putResidual w token v).readPoint w token l 2 x
  else if st = 6 then (s1.putResidual w token v).readPoint w token (l + 1) 0 x
  else if st = s.gateStage m l then s1.quantise w token l 3 v
  else s1

/-- A column block stored, and the stage completed when it is the last. -/
def State.storeOut (s : State) (w token l b : Nat) (m : Model) (x : Stage) (v : List (BitVec 16)) : State :=
  let s1 := s.modFab fun f => { f with vectors := f.vectors.put (colKey w token l x.stage b) v }
  let join := ((s.joinsOf (s.slotOf w) l x.stage).filter fun j => j.1 != 0).length
  let s2 := s1.tally 27 0x10 (128 * join) (some (waveHub w))
  match s2.outVector w token l x.stage x.colBlocks with
  | some u => s2.stageDone w token l x.stage m u
  | none => s2

/-- The sums of a column block over its positions in order, wrapped at 64 bits (R74), with the residual cells of the positions
that tiles fill (R75, R98). -/
def State.columnSums (s : State) (w token l st b : Nat) (ps : List ((Nat × Nat) × List Int × Bool)) : List Int :=
  let m := s.slotOf w
  (List.range 128).map fun k =>
    let base := ps.foldl (fun a p => wrap64 (a + p.2.1.getD k 0)) 0
    ps.foldl (fun a p =>
      if p.2.2 then a
      else
        let phys := s.physical p.1.1 p.1.2
        (s.arraysOf m l st b p.1.1 p.1.2).foldl (fun a r =>
          (s.corrections p.1.1 phys r w token k).foldl (fun a c => wrap64 (a + c)) a) a) base

/-- Residual cell corrections that a column block takes (LAP_MOG_RCELL). -/
def State.correctionCount (s : State) (w token l st b : Nat) (ps : List ((Nat × Nat) × List Int × Bool)) : Nat :=
  let m := s.slotOf w
  (ps.map fun p =>
    if p.2.2 then 0
    else
      let phys := s.physical p.1.1 p.1.2
      ((s.arraysOf m l st b p.1.1 p.1.2).map fun r =>
        ((List.range 128).map fun k => (s.corrections p.1.1 phys r w token k).length).sum).sum).sum

/-- COLUMN_SUM of a column block of an occupied token vector: the hub waits for every position, adds, scales, joins and stores
(R74-R84). A token carried as zeros stores zeros (R212, R224). -/
def State.sumColumn (s : State) (w token l st b : Nat) : State :=
  let m := s.slotOf w
  match s.ldr.slots.get? m, (s.layerOf m l).bind (fun y => (y.stage st).map fun x => (y, x)) with
  | some md, some (y, x) =>
    if !s.occupied w token ∨ x.colBlocks ≤ b then s
    else if s.gatedLayer m l then s.gateHold w token
    else if w * 128 + token ∈ s.fab.zeroed then s.storeOut w token l b md x (List.replicate 128 0#16)
    else if x.resident = 1 then
      let sums := (List.range 128).map fun k => wrap64 (s.residentSum w token l b k y x)
      let (v, s1) := s.runHub (s.blockValues w token l b md y x sums)
      s1.storeOut w token l b md x v
    else
      match (s.positions m l st b).mapM fun p => (s.position w token l st b p).map fun v => (p, v) with
      | none => s
      | some ps =>
        let subs := ps.filter fun p => p.2.2
        let (v, s1) := s.runHub (s.blockValues w token l b md y x (s.columnSums w token l st b ps))
        let s2 := ((s1.count Reg.LAP_ACC_SUB subs.length).count Reg.LAP_MOG_FB_MSG subs.length).count Reg.LAP_MOG_RCELL
          (s.correctionCount w token l st b ps)
        let macs := (subs.map fun p => s.substituteMacs w l st b p.1.1 p.1.2).sum
        let s3 := (s2.tally 26 0x11 macs (some (waveHub w))).storeOut w token l b md x v
        if !subs.isEmpty ∧ s.poisonedPart m l st then
          match s.holder w token with
          | some i => if (s3.bib i).mayFault then s3.endPoisoned i else s3
          | none => s3
        else s3
  | _, _ => s

/-- COLUMN_SUM (R74). -/
def execColumnSum (wave : Fin 96) (token : Fin 128) (layer : Fin 256) (stage : Fin 8) (block : Fin 4096) (s : State) :
    Host.Outcome State Fault Refusal :=
  .next (s.sumColumn wave token layer stage block)

end Sys2Proof.Machine
end

