-- ==== Sys2Proof/Machine/Mogul.lean ====
section
/-!
DEFINITION. The planned jobs of the mogul path (R86, R87, R103, R104) and poison of the shadow image (R91). The terms that the
jobs form are in Machine/Weights.lean, where the addition of R75 takes them.
-/

namespace Sys2Proof.Machine

/-- Job `k` of the applied piste. -/
def State.mogulRec (s : State) (k : Nat) : Option MogulRec := s.bon.image.bind fun m => m.mogulJobs[k]?

/-- Valid residual cell entries of the arrays of a stage (R87). -/
def State.stageCells (s : State) (m l st : Nat) : Nat :=
  ((s.runs.filter fun r => r.slot == m && r.layer == l && r.stage == st).map fun r =>
    ((List.range r.count).map fun a => (s.arr r.die (s.physical r.die r.tile) (r.first + a)).rcells.length).sum).sum

/-- Output columns of a stage. -/
def State.stageColumns (s : State) (m l st : Nat) : Nat :=
  match (s.layerOf m l).bind (·.stage st) with
  | some x => x.colBlocks * 128
  | none => 0

/-- MACs that the piste charges for a job (R87), of a wave of 128 token vectors. -/
def State.jobMacs (s : State) (j : MogulRec) : Nat :=
  let m := s.slotOf j.wave
  match s.layerOf m j.layer with
  | none => 0
  | some y =>
    match j.kind with
    | 0 => 2 * (y.channels j.point).length * s.stageColumns m j.layer j.stage * 128
    | 1 => 3 * j.pool * y.columnsOf j.point
    | 2 => s.stageCells m j.layer j.stage * (if s.widePoint j.wave m j.layer j.point then 2 else 1) * 128
    | _ =>
      match y.stage j.stage with
      | some x => x.rowChunks * x.colBlocks * 16384 * 128
      | none => 0

/-- The occupied token vectors of a wave. -/
def State.occupiedTokens (s : State) (w : Nat) : List Nat := (List.range 128).filter fun k => s.occupied w k

/-- The job reads shadow weights or outlier columns of the token (R91): a residue job only for tokens with residues. -/
def State.jobReads (s : State) (j : MogulRec) (token : Nat) : Bool :=
  if j.kind = 1 then
    match (s.layerOf (s.slotOf j.wave) j.layer).bind (·.stage j.stage) with
    | some x => !(s.residues j.wave token j.layer j.point x.rowChunks).isEmpty
    | none => false
  else true

/-- The bib of a token vector ends by poison, or uncovered. -/
def State.endToken (s : State) (w token : Nat) (poisoned : Bool) : State :=
  if poisoned then
    match s.holder w token with
    | some i => if (s.bib i).mayFault then s.endPoisoned i else s
    | none => s
  else s.endUncovered w token

/-- MOGUL_JOB (R87): the job's MACs and products, and what its consumers suffer when its unit has failed without a stand-in (R103,
R104) or when it reads a poisoned granule (R91). -/
def State.runJob (s : State) (j : MogulRec) : State :=
  let h := some (waveHub j.wave)
  let m := s.slotOf j.wave
  let toks := s.occupiedTokens j.wave
  if !s.running ∨ s.halted ∨ s.paused then s
  else if s.unitState j.unit = 4 ∧ (s.coverOf (waveHub j.wave) (mogulAddr j.unit)).isNone then
    toks.foldl (fun s k => s.endToken j.wave k false) s
  else
    let macs := s.jobMacs j
    let s1 := s.tally 26 0x10 macs h
    let s2 :=
      if j.kind = 0 then
        let n := match s.layerOf m j.layer with | some y => (y.channels j.point).length | none => 0
        s1.count Reg.LAP_MOG_STATIC (n * s.stageColumns m j.layer j.stage * toks.length)
      else if j.kind = 3 then s1.count Reg.LAP_MOG_SHRES (macs / 128 * toks.length)
      else s1
    if s.poisonedPart m j.layer j.stage then
      (toks.filter fun k => s.jobReads j k).foldl (fun s k => s.endToken j.wave k true) s2
    else s2

/-- MOGUL_JOB (R87). -/
def execMogulJob (index : Nat) (s : State) : Host.Outcome State Fault Refusal :=
  match s.mogulRec index with
  | some j => .next (s.runJob j)
  | none => .next s

/-- The hub whose stacks hold granule `g` (R2, R89). -/
def granuleHub (g : Nat) : Hub := if g % 16 < 8 then .he else .hw

/-- SHADOW_POISON (R91). -/
def State.poisonShadow (s : State) (m g : Nat) : State :=
  match s.ldr.slots.get? m with
  | some x =>
    let x' := { x with poisonedGranules := insertNat g x.poisonedGranules }
    let s1 := s.modLdr fun l => { l with slots := l.slots.put m x' }
    ((s1.put (Fld.LDR_SLOT_STS_POISON.sel m) 1).raise Fld.LAP_MOG_EVT_SHADOW_POISON).report
      (dieAddr (hubDie (granuleHub g))) 0xFFFF 0x15 sevDegraded g 0#32
  | none => s

/-- SHADOW_POISON (R91). -/
def execShadowPoison (slot : Fin 64) (granule : Nat) (s : State) : Host.Outcome State Fault Refusal :=
  .next (s.poisonShadow slot granule)

end Sys2Proof.Machine
end

