-- ==== Sys2Proof/Machine/Patrol.lean ====
section
/-!
DEFINITION. Patrol: tile faults and spares (R292-R299), failed units (R103, R104, R292), memory channels (R300), proving
windows (R307), the log and its registers (R313-R315).
-/

namespace Sys2Proof.Machine

/-! ### Tile faults (R294-R296) -/

/-- KIND of a tile detector's report (R312). -/
def detectorKind : Detector → Nat
  | .plan => 1 | .conv => 2 | .seq => 3 | .pwr => 4 | .msg => 5

/-- The pairs of a tile that are open or held leave with VALID clear, and their tokens are marked for replay (R294, R296). -/
def State.voidPairs (s : State) (d t : Nat) : State :=
  let ps := (s.tile d t).accums.values
  let s1 := ps.foldl (fun s p => (s.sendPartial d t p false).faultReplay p.wave p.token) s
  let s2 := s1.modTile d t fun x => { x with accums := .empty }
  s2.modFab fun f =>
    { f with arrays := f.arrays.map fun k x => if k / 256 = tileKey d t then { x with held := none } else x }

/-- Tile `x` of die `d` cannot replace a fenced tile: it is RETIRED and the next spare is taken (R298). -/
def State.retireSpare (s : State) (d x : Nat) : State :=
  let s1 := s.modTile d x fun y => { y with state := .retired, claimed := none }
  let waiting := s1.fab.tiles.entries.filter fun e => e.1 / 8448 == d && e.2.state == .fenced && e.2.spare == some x
  waiting.foldl (fun s e => s.takeSpare d (e.1 % 8448)) s1

/-- A tile fault (R294, R295): the report; a tile in service is fenced with a unit claimed on each hub, a spare is RETIRED. -/
def State.tileFault (s : State) (d t : Nat) (det : Detector) (element : Nat) : State :=
  let e := if det = .conv then element else 0xFFFF
  let s1 := (s.report (tileAddr d t) e (detectorKind det) sevContained (Config.measured s.drawn).toNat 0#32)
  match (s1.tile d t).state with
  | .inService => ((s1.voidPairs d t).fence d t).claimBoth d t
  | .spare | .programming => s1.retireSpare d t
  | _ => s1

/-- TILE_FAULT_DETECT (R294). -/
def execTileFaultDetect (die : Fin 16) (tile : Fin 8448) (det : Detector) (element : BitVec 16) (s : State) :
    Host.Outcome State Fault Refusal :=
  .next (s.tileFault die tile det element.toNat)

/-- RESERVE_UNIT_BEGIN (R296): the unit begins substituting; the tokens of the pairs it skips are replayed. -/
def execReserveUnitBegin (unit : Fin 32) (skipped : List (Fin 96 × Fin 128)) (s : State) :
    Host.Outcome State Fault Refusal :=
  let st := s.unitState unit
  if (st = 2 ∨ st = 3) ∧ unit.val ∉ s.pat.begun then
    let s1 := s.modPat fun p => { p with begun := insertNat unit.val p.begun }
    .next (skipped.foldl (fun s x => s.faultReplay x.1 x.2) s1)
  else .next s

/-! ### Spares (R298) -/

/-- At a boundary the spare chosen for each fenced tile is taken for programming, while VPP is up (R265, R298). -/
def State.startSpares (s : State) : State :=
  if !s.flag Fld.PWR_STS_VPP_OK then s
  else
    let w := s.fab.tiles.entries.filter fun e => e.2.state == .fenced && !e.2.spareReady
    w.foldl (fun s e =>
      match e.2.spare with
      | some x =>
        if (s.tile (e.1 / 8448) x).state = .spare then s.claimTile (e.1 / 8448) x .programming else s
      | none => s) s

/-- The piste's entry for a tile position: merged mode and range shift. -/
def State.positionMode (s : State) (d t : Nat) : Option (Bool × Nat) :=
  (s.bon.image.bind fun m => m.tileMaps.find? fun e => e.die == d && e.tile == t).map fun e => (e.merged, e.range)

/-- At a boundary a ready spare of the bank enters IN_SERVICE in the place of its fenced tile, which is RETIRED; its reserve
units return (R102, R298). -/
def State.enterSpares (s : State) : State :=
  let ready := s.fab.tiles.entries.filter fun e => e.2.state == .fenced && e.2.spareReady
  ready.foldl (fun s e =>
    let d := e.1 / 8448
    let t := e.1 % 8448
    match e.2.spare with
    | some x =>
      if (s.tile d x).claimed = some .inService then
        let mode := (s.positionMode d (s.logical d t)).getD (e.2.merged, e.2.range)
        let s1 := s.modTile d x fun y =>
          { y with state := .inService, claimed := none, replaces := some t, merged := mode.1, range := mode.2 }
        let s2 := s1.modTile d t fun y => { y with state := .retired, spareReady := false }
        (s2.returnUnits (tileAddr d t)).count Reg.PAT_SWAPIN 1
      else s
    | none => s) s

/-- The fenced tile of die `d` for which tile `x` is being programmed. -/
def State.replacedBy (s : State) (d x : Nat) : Option Nat :=
  (s.fab.tiles.entries.find? fun e => e.1 / 8448 == d && e.2.state == .fenced && e.2.spare == some x).map
    fun e => e.1 % 8448

/-- SPARE_PROGRAMMED (R298): programming and the grooming pass of a replacement are complete, or R265 step 4 has failed. -/
def execSpareProgrammed (die : Fin 16) (tile : Fin 8448) (ok : Bool) (s : State) : Host.Outcome State Fault Refusal :=
  match s.replacedBy die tile with
  | some t =>
    if (s.tile die tile).state ≠ .programming then .next s
    else if ok then
      .next ((s.modTile die tile fun y => { y with holdsWeights := true }).modTile die t fun y => { y with spareReady := true })
    else .next (s.retireSpare die tile)
  | none => .next s

/-! ### Planned fences (R299) -/

/-- The units that cover an address substitute from the next pair on. -/
def State.beginUnits (s : State) (addr : Word) : State :=
  [Hub.he, Hub.hw].foldl (fun s h =>
    match s.coverOf h addr with
    | some u => s.modPat fun p => { p with begun := insertNat u p.begun }
    | none => s) s

/-- At the boundary the tiles whose units were claimed at the cutoff are fenced; substitution starts with the lap's first pair and
nothing is replayed (R299). -/
def State.fencePlanned (s : State) : State :=
  (s.fab.tiles.entries.filter fun e => e.2.fenceClaimed).foldl (fun s e =>
    let d := e.1 / 8448
    let t := e.1 % 8448
    if e.2.state = .inService then (s.fence d t).beginUnits (tileAddr d t)
    else s.modTile d t fun x => { x with fenceClaimed := false, plannedFence := false }) s

/-! ### Units (R103, R104, R292) -/

/-- A mogul unit fails (R103): FENCED, its jobs, or what it covered, to a free reserve unit of its hub. -/
def State.failUnit (s : State) (u : Nat) : State :=
  let h := hubOf (u / 16)
  let st := s.unitState u
  let addr := s.rd (keyAt u Reg.LAP_MOG_UTILE)
  if st = 4 then s
  else
    let s1 := (s.setUnit u 4 0#32).modPat fun p => { p with begun := p.begun.filter (· != u) }
    let s2 := s1.report (mogulAddr u) 0xFFFF 0x0C sevContained 0 0#32
    match st with
    | 0 => s2.claimUnit h 3 (mogulAddr u)
    | 2 => s2.claimUnit h 2 addr
    | 3 => s2.claimUnit h 3 addr
    | _ => s2

/-- MOGUL_UNIT_FAIL (R103). -/
def execMogulUnitFail (unit : Fin 32) (s : State) : Host.Outcome State Fault Refusal := .next (s.failUnit unit)

/-- The address of the work that an uncovered request names (R3). -/
def uncoveredAddr : UncoveredUnit → Word
  | .tile d t => tileAddr d t
  | .unit u => mogulAddr u

/-- RESERVE_FULL (R104): a request for work that no unit covers finds no free reserve unit on the hub. -/
def execReserveFull (h : Hub) (u : UncoveredUnit) (s : State) : Host.Outcome State Fault Refusal :=
  if (s.freeUnit h).isSome ∨ (s.coverOf h (uncoveredAddr u)).isSome then .next s
  else .next (s.uncover h (uncoveredAddr u))

/-- LANE_FAIL (R292): the lane is fenced and its item goes back to the other lanes of its hub. -/
def execLaneFail (lane : Fin 64) (s : State) : Host.Outcome State Fault Refusal :=
  if s.flag (Fld.ATT_LSTS_FENCED.sel lane.val) then .next s
  else
    let s1 := (s.put (Fld.ATT_LSTS_FENCED.sel lane.val) 1).report (hubUnit 3 32 lane) 0xFFFF 0x0D sevContained 0 0#32
    match s1.att.lanes.get? lane.val with
    | some a => .next (s1.modAtt fun x => { x with lanes := x.lanes.erase lane.val, ready := a :: x.ready })
    | none => .next s1

/-- The wave of hub `h` in flight: the last that was issued. -/
def State.waveInFlight (s : State) (h : Hub) : Option Nat := (s.plan.issued.filter fun w => waveHub w == h).getLast?

/-- JOIN_UNIT_FAIL (R292): the hub's other join units take its operations from the next wave; the tokens of the wave in flight
are replayed. -/
def execJoinUnitFail (unit : Fin 64) (s : State) : Host.Outcome State Fault Refusal :=
  if unit.val ∈ s.pat.fencedJoin then .next s
  else
    let s1 := (s.modPat fun p => { p with fencedJoin := insertNat unit.val p.fencedJoin }).report (hubUnit 2 32 unit) 0xFFFF
      0x0E sevContained 0 0#32
    match s1.waveInFlight (hubOf (unit.val / 32)) with
    | some w => .next (if s1.running then (s1.occupiedTokens w).foldl (fun s k => s.faultReplay w k) s1 else s1)
    | none => .next s1

/-! ### Memory channels (R300) -/

/-- Pages of a block that stand on the failed channel are poisoned. -/
def Block.poisonPages (k : Block) (pages : List Nat) : Block :=
  { k with poison := (k.pages.filter fun x => decide (x ∈ pages)).foldl (fun l x => insertNat x l) k.poison }

/-- The list names a page on the failed channel. -/
def touches (l pages : List Nat) : Bool := l.any fun x => decide (x ∈ pages)

/-- A checkpoint area that stood on the failed channel is invalid, and the next checkpoint copies from position 0 (R300). -/
def State.voidCkpt (s : State) (i : Nat) (pages : List Nat) (onHome : Bool) : State :=
  match s.pat.ckpts.get? i with
  | some c =>
    let h := (s.bib i).home
    let bad := if onHome then touches c.homePages pages else touches c.pages pages
    if bad then
      let s1 := (s.releasePages (otherHub h) true c.pages pages).releasePages h true c.homePages pages
      ((s1.modPat fun t => { t with ckpts := t.ckpts.erase i }).forgetVectors (ckptOwner i)).modBib i
        fun b => { b with ckptPos := 0 }
    else s
  | none => s

/-- A lodged or paused bib with pages on a failed lodge channel ends RESTORE_FAIL (R292, R305). -/
def State.failLodged (s : State) (i : Nat) : State :=
  let b := s.bib i
  if b.state = .lodged ∨ b.state = .paused then s.faultBib i .restoreFail 0 else s

/-- Every page of the channel in the pool of a hub and tier is poisoned and retired; the blocks on it know it (R300, R213). -/
def State.poisonChannel (s : State) (h : Hub) (lodge : Bool) (pages : List Nat) : State :=
  let pool := s.kvm.pool h lodge
  let s1 := s.modKvm fun k =>
    k.setPool h lodge { pool with retired := pages.foldl (fun l x => insertNat x l) pool.retired }
  let mark := fun (k : Block) => if k.lodge = lodge then k.poisonPages pages else k
  let hit := fun (b : Bib) => b.home == h && b.blocks.any fun k => k.lodge == lodge && touches k.pages pages
  let owners := (s.bibs.entries.filter fun e => hit e.2).map Prod.fst
  let s2 := s1.setBibs (s1.bibs.map fun _ b => if b.home = h then { b with blocks := b.blocks.map mark } else b)
  let s3 := if lodge then s2 else s2.modKvm fun k =>
    { k with prefixes := k.prefixes.map fun _ p =>
        if p.hub = h ∧ p.blocks.any (fun b => touches b.pages pages) then
          { p with poisoned := true, blocks := p.blocks.map fun b => b.poisonPages pages }
        else p }
  let inUse := pages.filter fun x => decide (x ∈ pool.used)
  let s4 := inUse.foldl (fun s x =>
    (s.raise Fld.KVM_EVT_POISON).report (dieAddr (hubDie h)) 0xFFFF 0x14 sevContained x 0#32) s3
  if lodge then
    let s5 := (owners.filter fun i => (s.bib i).blocks.any fun k => k.lodge && touches k.pages pages).foldl
      (fun s i => s.failLodged i) s4
    let s6 := s5.pat.ckpts.keys.foldl (fun s i => s.voidCkpt i pages ((s.bib i).home == h)) s5
    s6.modPat fun t => { t with mirrors := t.mirrors.filter fun m => !(m.hub == h && touches m.pages pages) }
  else s4

/-- MEMORY_CHANNEL_FAULT (R300). -/
def execMemoryChannelFault (ch : MemChannel) (pages : List Nat) (s : State) : Host.Outcome State Fault Refusal :=
  match ch with
  | .hbm pc =>
    if pc.val ∈ s.pat.fencedHbm then .next s
    else
      let s1 := (s.modPat fun p => { p with fencedHbm := insertNat pc.val p.fencedHbm }).report (hubUnit 4 256 pc) 0xFFFF
        0x11 sevContained (Config.measured s.drawn).toNat 0#32
      .next (s1.poisonChannel (hubOf (pc.val / 256)) false pages)
  | .lodge c =>
    if c.val ∈ s.pat.fencedLodge then .next s
    else
      let s1 := (s.modPat fun p => { p with fencedLodge := insertNat c.val p.fencedLodge }).report (hubUnit 5 8 c) 0xFFFF
        0x13 sevContained (Config.measured s.drawn).toNat 0#32
      .next (s1.poisonChannel (hubOf (c.val / 8)) true pages)

/-! ### Proving (R307) -/

/-- A stress point fails: the digital kernel, or more column results than PROVE_OUT. -/
def State.pointFails (s : State) (p : ProvePoint) : Bool := !p.digitalOk || decide (bits (s.param 0 4) 16 16 < p.bad)

/-- The first stress point that fails. -/
def State.firstFailing (s : State) (ps : List ProvePoint) : Option Nat := (ps.take 4).findIdx? fun p => s.pointFails p

/-- A proving window and its verdict (R307): FAIL when NOM fails, MARGINAL when only a stressed point does. -/
def State.prove (s : State) (d t : Nat) (ps : List ProvePoint) (temp : Nat) : State :=
  let x := s.tile d t
  if x.state ≠ .inService ∧ x.state ≠ .spare then s
  else
    let s1 := s.count Reg.PAT_PROVE_RUN 1
    match s.firstFailing ps with
    | none => s1.modTile d t fun y => { y with prove := .pass, proveLap := s.lap, passTemp := some temp }
    | some k =>
      let v := if k = 0 then Verdict.fail else .marginal
      let n := match ps[k]? with | some p => p.bad | none => 0
      let s2 := ((s1.modTile d t fun y => { y with prove := v, proveLap := s.lap }).count Reg.PAT_PROVE_FAIL 1).raise
        Fld.PAT_EVT_PROVE_FAIL
      (s2.report (tileAddr d t) k 0x09 (if k = 0 then sevContained else sevDegraded) n 0#32).planFence d t

/-- PROVING_WINDOW (R307). -/
def execProvingWindow (die : Fin 16) (tile : Fin 8448) (points : List ProvePoint) (temp : Nat) (s : State) :
    Host.Outcome State Fault Refusal :=
  .next (s.prove die tile points temp)

/-! ### The log (R313, R314) -/

/-- ERROR_REPORT (R313). -/
def execErrorReport (r : Report) (s : State) : Host.Outcome State Fault Refusal := .next (s.logReport r)

/-- BURST_CLOSE (R313). -/
def execBurstClose (i : Fin 64) (s : State) : Host.Outcome State Fault Refusal := .next (s.closeBurst i)

/-! ### Registers (R315) -/

/-- Codes of PAT_TILE.PROVE. -/
def verdictCode : Verdict → Nat
  | .none => 0 | .pass => 1 | .marginal => 2 | .fail => 3

/-- A write of `v` to PAT_TSEL by `req`: it latches PAT_TILE and PAT_TILE_PLAP. -/
def State.writePatTsel (s : State) (req : Nat) (v : Word) : State :=
  if 8447 < wordBits v 0 14 then (if req = 5 then s.violation 0x03 0 Reg.PAT_TSEL 0#32 else s)
  else
    let s1 := (s.put Fld.PAT_TSEL_DIE (wordBits v 16 4)).put Fld.PAT_TSEL_TILE (wordBits v 0 14)
    let x := s1.tile (wordBits v 16 4) (wordBits v 0 14)
    let s2 := (s1.put Fld.PAT_TILE_FENCES x.fences).put Fld.PAT_TILE_PASS_TEMP (x.passTemp.getD 0xFF)
    ((s2.put Fld.PAT_TILE_PROVE (verdictCode x.prove)).put Fld.PAT_TILE_SPARE (x.spare.getD 0x3FFF)).wr64
      Reg.PAT_TILE_PLAP x.proveLap

/-- PAT_TSEL (R315). -/
def execPatTsel (v : Word) (s : State) : Host.Outcome State Fault Refusal :=
  .next (if s.hidden Reg.PAT_TSEL then s.undecoded Reg.PAT_TSEL else s.writePatTsel 5 v)

/-- Where a slot's PAT_FPSTS and PAT_FPLAP stand before a write of PAT_FPSEL latches them. -/
def fpHome (slot : Nat) : Nat := slot + 1

/-- A write of `v` to PAT_FPSEL: it latches PAT_FPSTS and PAT_FPLAP. -/
def State.writeFpsel (s : State) (v : Word) : State :=
  let m := wordBits v 0 6
  let s1 := (s.put Fld.PAT_FPSEL_SLOT m).wr Reg.PAT_FPSTS (s.rd (keyAt (fpHome m) Reg.PAT_FPSTS))
  s1.wr64 Reg.PAT_FPLAP (s.rd64 (keyAt (fpHome m) Reg.PAT_FPLAP))

/-- PAT_FPSEL (R315). -/
def execPatFpsel (v : Word) (s : State) : Host.Outcome State Fault Refusal :=
  .next (if s.hidden Reg.PAT_FPSEL then s.undecoded Reg.PAT_FPSEL else s.writeFpsel v)

/-- A write of `v` to PAT_LOG_SEL: entry INDEX is copied into PAT_LOG0 to PAT_LOG15; one never written copies as zeros. -/
def State.writeLogSel (s : State) (v : Word) : State :=
  let i := wordBits v 0 12
  let bytes := match s.pat.log.get? i with
    | some r => reportBytes r
    | none => List.replicate 64 0#8
  (List.range 16).foldl (fun s k => s.wr (wordAt Reg.PAT_LOG 16 k) (wordOf bytes k)) (s.put Fld.PAT_LOG_SEL_INDEX i)

/-- PAT_LOG_SEL (R315). -/
def execPatLogSel (v : Word) (s : State) : Host.Outcome State Fault Refusal :=
  .next (if s.hidden Reg.PAT_LOG_SEL then s.undecoded Reg.PAT_LOG_SEL else s.writeLogSel v)

end Sys2Proof.Machine
end

