-- ==== Sys2Proof/Machine/QueuePairs.lean ====
section
/-!
DEFINITION. Queue pairs and host commands (R167-R186, R155-R157, R207-R210): doorbells, enabling, the descriptors of
requests, prefixes, queries and fences, and the power states of the function.
-/

namespace Sys2Proof.Machine

/-! ### Doorbells and enabling (R169-R171, R184) -/

/-- Number of bytes of a doorbell write's violation index: the BAR2 offset (R427). -/
def bar2Off (q : Nat) (off : Nat) : Nat := q * 0x1000 + off

/-- SQ_TAIL of `q` becomes `v` (R171); a tail beyond the ring is a violation. -/
def State.writeSqTail (s : State) (q v : Nat) : State :=
  if s.sqSize q ≤ v then s.violation 0x09 q (bar2Off q 0) 0#32
  else s.modQp q fun p => { p with sqTail := v }

/-- Entries that a CQ_HEAD write of `h` returns (R170). -/
def cqReturned (size head used h : Nat) : Nat :=
  if h = head then (if used = size then size else 0) else (h + size - head) % size

/-- CQ_HEAD of `q` becomes `h` (R170); the backlog drains into the entries returned (R172). -/
def State.writeCqHead (s : State) (q h : Nat) : State :=
  let p := s.qp q
  let n := cqReturned (s.cqSize q) p.cqHead p.cqUsed h
  if s.cqSize q ≤ h ∨ p.cqUsed < n then s.violation 0x0A q (bar2Off q 8) 0#32
  else (s.modQp q fun p => { p with cqHead := h, cqUsed := p.cqUsed - n }).drain q

/-- A write to doorbell page `q` (R169, R184 subcodes 0x07 to 0x0A). Bits [31:16] are reserved. -/
def State.doorbell (s : State) (q off nbytes : Nat) (v : Word) : State :=
  if nbytes ≠ 4 ∨ off % 4 ≠ 0 ∨ (off ≠ 0 ∧ off ≠ 8) then s.violation 0x07 q (bar2Off q off) 0#32
  else if !s.enabled q then s.violation 0x08 q (bar2Off q off) 0#32
  else if off = 0 then s.writeSqTail q (wordBits v 0 16)
  else s.writeCqHead q (wordBits v 0 16)

/-- SQ_TAIL (R171). -/
def execSqTail (q : Fin 16384) (off : BitVec 12) (nbytes : Fin 9) (v : Word) (s : State) :
    Host.Outcome State Fault Refusal :=
  .next (s.doorbell q off.toNat nbytes v)

/-- CQ_HEAD (R170). -/
def execCqHead (q : Fin 16384) (off : BitVec 12) (nbytes : Fin 9) (v : Word) (s : State) :
    Host.Outcome State Fault Refusal :=
  .next (s.doorbell q off.toNat nbytes v)

/-- A ring-size field is valid: not 1 to 3 (R170). -/
def logOk (n : Nat) : Bool := n == 0 || decide (4 ≤ n)

/-- Queue pair `q` may be enabled with QP_CFG `v`: ring bases aligned (they hold bits [63:12] only), the logit base 8 KiB
aligned, SQ_LOG and CQ_LOG valid (R184 subcode 0x05, R187). -/
def State.enableOk (s : State) (q : Nat) (v : Word) : Bool :=
  s.rd64 (keyAt q Reg.QP_LOGIT_BASE) % 8192 == 0 && logOk (wordBits v 20 4) && logOk (wordBits v 16 4)

/-- The bits of QP_CFG that may change while EN is 1: EN, IRQ_EN, MIRROR, TOKBATCH (R184 subcode 0x04). -/
def qpCfgFree : Word := fieldMask 31 1 ||| fieldMask 30 1 ||| fieldMask 29 1 ||| fieldMask 14 2

/-- The bits of QP_CFG that hold fields; [25:24] are reserved (R187). -/
def qpCfgMask : Word := ~~~ fieldMask 24 2

/-- Queue pair `q` starts: heads, tails and counts 0, phase 1, records of the backlog follow (R170, R172, R406). -/
def State.startQp (s : State) (q : Nat) : State :=
  let s1 := s.modQp q fun p => { p with sqTail := 0, cqHead := 0, cqUsed := 0, phase := true, fence := none,
                                        counts := ⟨0, 0, 0, 0, 0, 0, 0, 0⟩ }
  let s2 := ((s1.put (Fld.QP_SQ_HEAD_INDEX.sel q) 0).put (Fld.QP_CQ_TAIL_INDEX.sel q) 0).put
    (Fld.QP_STS_ENABLED.sel q) 1
  s2.drain q

/-- Queue pair `q` stops: its records go to the backlog from here, FETCH_ERR clears (R170, R172, R187). -/
def State.stopQp (s : State) (q : Nat) : State :=
  (s.put (Fld.QP_STS_ENABLED.sel q) 0).put (Fld.QP_STS_FETCH_ERR.sel q) 0

/-- A write of `v` to QP_CFG of the selected queue pair (R170, R184 subcodes 0x04 and 0x05). -/
def State.writeQpCfg (s : State) (v : Word) : State :=
  let q := s.get Fld.QP_SEL_QP
  let k := keyAt q Reg.QP_CFG
  let old := s.rd k
  let new := v &&& qpCfgMask
  if s.enabled q then
    if (old ^^^ new) &&& ~~~ qpCfgFree ≠ 0#32 then s.violation 0x04 q Reg.QP_CFG 0#32
    else
      let s1 := s.wr k new
      if wordBits v 31 1 = 0 then s1.stopQp q else s1
  else if wordBits v 31 1 = 0 then s.wr k new
  else if s.enableOk q new then (s.wr k new).startQp q
  else ((s.wr k (setBits new 31 1 0)).raise (Fld.QP_STS_CFG_ERR.sel q)).violation 0x05 q Reg.QP_CFG 0#32

/-- QP_ENABLE (R170). -/
def execQpEnable (v : Word) (s : State) : Host.Outcome State Fault Refusal :=
  .next (if s.hidden Reg.QP_CFG then s.undecoded Reg.QP_CFG else s.writeQpCfg v)

/-- QP_DISABLE (R170). -/
def execQpDisable (v : Word) (s : State) : Host.Outcome State Fault Refusal :=
  .next (if s.hidden Reg.QP_CFG then s.undecoded Reg.QP_CFG else s.writeQpCfg v)

/-! ### Acceptance (R171, R178, R185) -/

/-- The descriptor at the head of `q` may be accepted: the queue pair runs, its ring is not empty, no FENCE holds it, fetch
has not stopped, the function can read host memory and the module is not halted (R171, R181, R184, R362). While the
module is IDLE only a QUERY or FENCE is accepted (R171, R359). -/
def State.mayAccept (s : State) (q : Nat) (op : Nat) : Bool :=
  s.enabled q && decide (s.get (Fld.QP_SQ_HEAD_INDEX.sel q) ≠ (s.qp q).sqTail) && (s.qp q).fence.isNone
  && !s.flag (Fld.QP_STS_FETCH_ERR.sel q) && s.canWrite && !s.halted
  && (s.running || decide (op = 0x30) || decide (op = 0x3F))

/-- The descriptor at the head of `q` is taken: the head moves, QP_DESC counts it (R171, R187, R406). -/
def State.takeDesc (s : State) (q : Nat) : State :=
  let h := s.get (Fld.QP_SQ_HEAD_INDEX.sel q)
  let s1 := (s.put (Fld.QP_SQ_HEAD_INDEX.sel q) ((h + 1) % s.sqSize q)).count Reg.QP_DESC 1
  s1.modQp q fun p => { p with counts := { p.counts with descs := p.counts.descs + 1 } }

/-- A refusal: status, the subcode under which it is logged, if it is (R184), and the bib's current state and count when the
refusing check comes after ownership (R178). -/
structure Nack where
  status : Byte
  sub : Option Nat
  state : Nat
  count : Nat
deriving DecidableEq, Repr

/-- A refusal of steps 1 to 5 of R185, or of a command without a bib. -/
def nack (status : Byte) (sub : Option Nat) : Option Nack := some ⟨status, sub, 0, 0⟩

/-- A refusal of steps 6 to 13 for a bib command. -/
def nackOwn (status : Byte) (sub : Option Nat) (b : Bib) (count : Nat) : Option Nack :=
  some ⟨status, sub, stateCode b.state, count⟩

/-- A refused descriptor: its CMD record, and the violation when the refusal is logged (R178, R184). -/
def State.refuse (s : State) (q : Nat) (d : Desc) (bib : Word) (n : Nack) : State :=
  let idx := s.get (Fld.QP_SQ_HEAD_INDEX.sel q)
  let s1 := (s.takeDesc q).modQp q fun p => { p with counts := { p.counts with refused := p.counts.refused + 1 } }
  let s2 := match n.sub with
    | some sub => s1.violation sub q idx bib
    | none => s1
  s2.emit q (plainRecord bib (dCid d) .cmd n.status n.state 0 n.count)

/-- A descriptor of command `op` on queue pair `q`: unknown OPCODE, the checks in the order of R185, or acceptance. A
descriptor of another command is none of this row's. -/
def State.command (s : State) (q op : Nat) (d : Desc) (bib : Word) (check : Option Nack) (accept : State → State) :
    State :=
  if !s.mayAccept q (dOpcode d) then s
  else if dOpcode d ∉ opcodes then s.refuse q d 0#32 ⟨stBadOpcode, some 0x0C, 0, 0⟩
  else if dOpcode d ≠ op then s
  else
    match check with
    | some n => s.refuse q d bib n
    | none => accept ((s.takeDesc q).tally 18 0x10 1 none)

/-- Steps 3 to 5 of R185 for the bib `id` (R157, R162). -/
def State.bibCheck (s : State) (q : Nat) (id : Word) : Option Nack :=
  let b := s.bib (idIndex id)
  if b.gen ≠ idGen id then nack stStaleBib (some 0x0E)
  else if b.state = .free then nack stUnknownBib (some 0x0F)
  else if b.qp ≠ q ∨ b.kind ≠ .normal then nack stNotOwner (some 0x10)
  else none

/-- A stale or unknown identifier counts in BIB_STALE_HOST (R162). -/
def State.countStale (s : State) (n : Option Nack) : State :=
  match n with
  | some x =>
    if x.status = stStaleBib ∨ x.status = stUnknownBib then (s.count Reg.BIB_STALE_HOST 1).tally 17 0x11 1 none else s
  | none => s

/-- A command that names a bib: steps 1 to 5 of R185, then `own`, then `accept`. -/
def State.bibCommand (s : State) (q op : Nat) (d : Desc) (own : Bib → Option Nack) (accept : State → State) : State :=
  let c := if !descBytesOk d then nack stBadParam (some 0x0D)
    else match s.bibCheck q (dBib d) with
      | some n => some n
      | none => own (s.bib (idIndex (dBib d)))
  let s1 := s.command q op d (dBib d) c accept
  if s.mayAccept q (dOpcode d) ∧ dOpcode d = op then s1.countStale c else s1

/-- The CMD record of an accepted bib command (R178). -/
def State.cmdRecord (s : State) (q : Nat) (d : Desc) (id : Word) (state cause count : Nat) (final : Bool) : State :=
  s.emit q { plainRecord id (dCid d) .cmd stOk state cause count with final := final }

/-! ### OPEN (R175, R135, R148, R149) -/

/-- OPEN is accepted for the model slot only in RESIDENT or SWAPPING (R260), and not while it is expelled (R311). -/
def State.slotServes (s : State) (m : Nat) : Bool :=
  let st := s.get (Fld.LDR_SLOT_STS_STATE.sel m)
  (st == 2 || st == 3) && (match s.ldr.slots.get? m with | some x => !x.expelled | none => true)

/-- Vocabulary of the model in slot `m` (R255). -/
def State.vocab (s : State) (m : Nat) : Nat :=
  match s.ldr.slots.get? m with
  | some x => x.vocab
  | none => 0

/-- A decode wave of the model slot has SPREAD_SLOTS above 0 (R229). -/
def State.spreadSlots (s : State) (m : Nat) : Bool :=
  (List.range 32).any fun w => match s.wave w with
    | some r => r.modelSlot == some m && decide (0 < r.spread)
    | none => false

/-- A prefix handle names a valid entry: index, generation, state other than free (R207). -/
def State.pfxNamed (s : State) (h : Nat) : Option Nat :=
  let i := h % 2 ^ 32
  if i < 65536 ∧ h / 2 ^ 32 = (s.pfx i).gen ∧ (s.pfx i).state ≠ .free then some i else none

/-- The wax check of R238: the index is READY and owned by the tenant and model slot. -/
def State.waxReady (s : State) (w tenant m : Nat) : Bool :=
  let x := s.waxAt w
  (x.state == .hbm || x.state == .lodge || x.state == .moving) && x.tenant == tenant && x.modelSlot == m

/-- A bib's region would exceed 2^39 bytes (R191). -/
def State.regionTooBig (s : State) (m len : Nat) : Bool :=
  decide (2 ^ 39 < ceilDiv len 64 * s.get (Fld.KVM_MFMT_PB.sel m) * 65536)

/-- Steps 2 and 6 to 13 of R185 for OPEN. -/
def State.openCheck (s : State) (q : Nat) (d : Desc) (prompt : Option (List Word)) : Option Nack :=
  let f := dFlags d
  let m := dSlot d
  let tenant := s.get (Fld.QP_CFG_TENANT.sel q)
  let count := dfield d 0x10 4
  let maxLen := dfield d 0x14 4
  let h := dfield d 0x20 8
  let pfx := s.pfxNamed h
  let pfxLen := match pfx with | some p => (s.pfx p).length | none => 0
  let stop := dfield d 0x38 4
  let v := s.vocab m
  if !descBytesOk d then nack stBadParam (some 0x0D)
  else if bits f 6 1 = 1 ∧ s.rd64 (keyAt q Reg.QP_LOGIT_BASE) = 0 then nack stBadParam (some 0x0D)
  else if bits f 4 1 = 1 ∧ s.groupSize = 0 then nack stBadParam (some 0x0D)
  else if !s.slotServes m ∨ (!s.eligible .he m ∧ !s.eligible .hw m) then nack stNoModel none
  else if bits stop 31 1 = 1 ∧ v ≤ bits stop 0 24 then nack stBadParam (some 0x0D)
  else if bits f 4 1 = 1 ∧ !s.spreadSlots m then nack stBadParam (some 0x0D)
  else if h ≠ 0 ∧ !(match pfx with
      | some p =>
        let x := s.pfx p
        x.state == .ready && x.tenant == tenant && x.modelSlot == m && x.wax == dWax d && s.eligible x.hub m
      | none => false) then nack stPrefixInvalid (some 0x12)
  else if !(match dWax d with | some w => s.waxReady w tenant m | none => true) then nack stWaxDenied (some 0x13)
  else if maxLen ≤ count ∨ 2097152 < maxLen ∨ 2097152 < pfxLen + maxLen ∨ s.regionTooBig m (pfxLen + maxLen) then
    nack stOversize (some 0x11)
  else if (s.freeBibs.head 65536).isNone then nack stTableFull none
  else
    match prompt with
    | none => nack stDmaError (some 0x0B)
    | some toks => if toks.any fun t => decide (v ≤ t.toNat) then nack stBadParam (some 0x0D) else none

/-- PRIORITY raised to PRIO_FLOOR, and whether it was (R175). -/
def State.floorPrio (s : State) (q p : Nat) : Nat × Bool :=
  let f := s.get (Fld.QP_CFG_PRIO_FLOOR.sel q)
  if p < f then (f, true) else (p, false)

/-- The entry that an accepted OPEN fills (R151, R175). -/
def State.openBib (s : State) (q i : Nat) (d : Desc) (toks : List Word) : Bib :=
  let m := dSlot d
  let h := dfield d 0x20 8
  let dl := dfield d 0x18 4
  let stop := dfield d 0x38 4
  { (Bib.free (s.bib i).gen) with
    state := .admitted
    cause := .open
    home := (s.homeHub m ((s.pfxNamed h).map fun p => (s.pfx p).hub)).getD .he
    logits := bits (dFlags d) 6 1 == 1
    guarded := bits (dFlags d) 5 1 == 1
    spread := bits (dFlags d) 4 1 == 1
    priority := (s.floorPrio q (bits (dFlags d) 0 3)).1
    tenant := s.get (Fld.QP_CFG_TENANT.sel q)
    modelSlot := m
    qp := q
    deadline := if dl = 0 then none else some (s.lap + dl)
    admitLap := s.lap
    promptLen := dfield d 0x10 4
    maxLen := dfield d 0x14 4
    kvBase := kvBaseOf i
    pageList := pageListOf i
    pfxHandle := h
    wax := dWax d
    temp := BitVec.ofNat 32 (dfield d 0x28 4)
    topP := BitVec.ofNat 32 (dfield d 0x2C 4)
    topK := dfield d 0x3C 2
    stop := if bits stop 31 1 = 1 then some (bits stop 0 24) else none
    seed := if bits (dFlags d) 7 1 = 1 then BitVec.ofNat 64 (dfield d 0x30 8) else Config.entropy s.drawn
    logitN := dfield d 0x3E 2
    inputs := (toks.map (·.toNat)).take (dfield d 0x10 4) }

/-- An accepted OPEN: the head of the free list enters ADMITTED (R149, R153), the prefix and wax references rise (R209,
R240), and the CMD record returns the bib. -/
def State.openAccept (s : State) (q : Nat) (d : Desc) (toks : List Word) : State :=
  match s.freeBibs.head 65536 with
  | none => s
  | some i =>
    let b := s.openBib q i d toks
    let s1 := ((s.modFree fun f => f.pop 65536).putBib i b).tally 17 0x12 1 (some b.home)
    let s2 := match s.pfxNamed b.pfxHandle with
      | some p => s1.putPfx p { (s1.pfx p) with refs := (s1.pfx p).refs + 1 }
      | none => s1
    let r := plainRecord (bibIdOf i b.gen) (dCid d) .cmd stOk 1 1 0
    ((s2.takeWax b.wax).draw).emit q { r with adj := (s.floorPrio q (bits (dFlags d) 0 3)).2 }

/-- OPEN (R175). -/
def execOpen (q : Fin 16384) (d : Desc) (prompt : Option (List Word)) (s : State) : Host.Outcome State Fault Refusal :=
  let c := s.openCheck q d prompt
  let s1 := s.command q 0x01 d 0#32 c fun s => s.openAccept q d (prompt.getD [])
  .next (if s.mayAccept q (dOpcode d) ∧ dOpcode d = 0x01 ∧ c = nack stTableFull none then
    (s1.raise Fld.BIB_EVT_TABLE_FULL).count Reg.BIB_OPEN_REF 1 else s1)

/-! ### APPEND, PAUSE, RESUME, CLOSE (R155, R156) -/

/-- The checks of R185 after ownership for APPEND: length, state, prompt. -/
def State.appendCheck (s : State) (d : Desc) (prompt : Option (List Word)) (b : Bib) : Option Nack :=
  if b.maxLen < b.promptLen + b.genTokens + dfield d 0x10 4 then nackOwn stOversize (some 0x11) b b.promptLen
  else if b.state = .closing ∨ b.state = .faulted then nackOwn stBadState none b b.promptLen
  else
    match prompt with
    | none => nackOwn stDmaError (some 0x0B) b b.promptLen
    | some toks =>
      if toks.any fun t => decide (s.vocab b.modelSlot ≤ t.toNat) then nackOwn stBadParam (some 0x0D) b b.promptLen
      else none

/-- An accepted APPEND (R155, R156): the positions are added; a decoding bib holds a pending TOW; a LODGED bib whose restore
is complete moves to TOWING; PREFILL_DONE clears at acceptance unless the bib holds a decode slot. -/
def State.appendAccept (s : State) (q i : Nat) (d : Desc) (toks : List Word) : State :=
  let b := s.bib i
  let add := fun (b : Bib) => { b with promptLen := b.promptLen + dfield d 0x10 4,
                                       inputs := b.inputs ++ (toks.map (·.toNat)).take (dfield d 0x10 4) }
  let id := s.bibId i
  let done := fun (t : State) (cause : Nat) =>
    t.cmdRecord q d id (stateCode (t.bib i).state) cause (t.bib i).promptLen false
  match b.state with
  | .decoding =>
    let hold := fun (b : Bib) => if b.pend = .none then { b with pend := .tow, pendCid := dCid d } else b
    done (s.modBib i fun b => { (hold (add b)) with appended := true }) 0
  | .lodged =>
    let s1 := s.modBib i fun b => { (add b) with prefillDone := false }
    if b.restored then done ((s1.transition i .towing .append).modBib i fun b => { b with restored := false }) 4
    else done s1 0
  | _ => done (s.modBib i fun b => { (add b) with prefillDone := false }) 0

/-- APPEND (R156). -/
def execAppend (q : Fin 16384) (d : Desc) (prompt : Option (List Word)) (s : State) : Host.Outcome State Fault Refusal :=
  .next (s.bibCommand q 0x02 d (s.appendCheck d prompt) fun s =>
    s.appendAccept q (idIndex (dBib d)) d (prompt.getD []))

/-- The bib holds a slot from which a command must take it (R155). -/
def Bib.holdsSlot (b : Bib) : Bool :=
  match b.state with
  | .decoding => true
  | .towing => b.towSlot.isSome
  | _ => false

/-- PAUSE is refused in CLOSING and FAULTED and while a CLOSE is pending (R156). -/
def pauseCheck (b : Bib) : Option Nack :=
  if b.state = .closing ∨ b.state = .faulted ∨ b.pend = .close then nackOwn stBadState none b b.genTokens else none

/-- An accepted PAUSE (R155, R156). -/
def State.pauseAccept (s : State) (q i : Nat) (d : Desc) : State :=
  let b := s.bib i
  let ttl := dfield d 0x08 4
  let id := s.bibId i
  if b.state = .paused then
    (s.modBib i fun b => { b with ttl := ttl }).cmdRecord q d id 4 0 b.genTokens false
  else if b.holdsSlot then
    let s1 := if b.pend = .pause then s else
      s.modBib i fun b => { b with pend := .pause, pendCid := dCid d, ttl := ttl }
    s1.cmdRecord q d id (stateCode b.state) 0 b.genTokens false
  else
    let s1 := (s.modBib i fun b => { b with ttl := ttl }).enterPaused i none
    s1.cmdRecord q d id 4 5 b.genTokens false

/-- PAUSE (R156). -/
def execPause (q : Fin 16384) (d : Desc) (s : State) : Host.Outcome State Fault Refusal :=
  .next (s.bibCommand q 0x03 d pauseCheck fun s => s.pauseAccept q (idIndex (dBib d)) d)

/-- RESUME is refused in every state but PAUSED and LODGED (R156). -/
def resumeCheck (b : Bib) : Option Nack :=
  if b.state = .paused ∨ b.state = .lodged then none else nackOwn stBadState none b b.genTokens

/-- An accepted RESUME: PAUSED moves to LODGED and its restore begins (R153, R206). -/
def State.resumeAccept (s : State) (q i : Nat) (d : Desc) : State :=
  let b := s.bib i
  let id := s.bibId i
  if b.state = .paused then
    let s1 := (s.transition i .lodged .resume).modBib i fun b => { b with lodgeLap := s.lap, ttl := 0 }
    ((s1.requestRestore i).quotaCheck b.tenant).cmdRecord q d id 5 6 b.genTokens false
  else s.cmdRecord q d id (stateCode b.state) 0 b.genTokens false

/-- RESUME (R156). -/
def execResume (q : Fin 16384) (d : Desc) (s : State) : Host.Outcome State Fault Refusal :=
  .next (s.bibCommand q 0x04 d resumeCheck fun s => s.resumeAccept q (idIndex (dBib d)) d)

/-- An accepted CLOSE (R153, R155, R156): FAULTED is freed with its last record, CLOSING does not change, a slot holder holds
a pending CLOSE, which replaces any other, and the rest enter CLOSING. -/
def State.closeAccept (s : State) (q i : Nat) (d : Desc) : State :=
  let b := s.bib i
  let id := s.bibId i
  if b.state = .faulted then (s.cmdRecord q d id 0 7 b.genTokens true).enterFree i
  else if b.state = .closing then s.cmdRecord q d id 6 0 b.genTokens false
  else if b.holdsSlot then
    let s1 := if b.pend = .close then s else s.modBib i fun b => { b with pend := .close, pendCid := dCid d }
    s1.cmdRecord q d id (stateCode b.state) 0 b.genTokens false
  else (s.enterClosing i .close none).cmdRecord q d id 6 7 b.genTokens false

/-- CLOSE (R156). -/
def execClose (q : Fin 16384) (d : Desc) (s : State) : Host.Outcome State Fault Refusal :=
  .next (s.bibCommand q 0x05 d (fun _ => none) fun s => s.closeAccept q (idIndex (dBib d)) d)

/-! ### Prefixes (R207-R209) -/

/-- 16 long commands are outstanding on the queue pair (R178). -/
def State.longsFull (s : State) (q : Nat) : Bool := decide (16 ≤ (s.qp q).longs.length)

/-- A model slot with a resident model (R177, R260). -/
def State.slotHolds (s : State) (m : Nat) : Bool :=
  s.get (Fld.LDR_SLOT_STS_STATE.sel m) == 2 || s.get (Fld.LDR_SLOT_STS_STATE.sel m) == 3

/-- Steps 2 and 6 to 13 of R185 for PREFIX_CREATE (R208). -/
def State.prefixCheck (s : State) (q : Nat) (d : Desc) (prompt : Option (List Word)) : Option Nack :=
  let m := dSlot d
  let tenant := s.get (Fld.QP_CFG_TENANT.sel q)
  if !descBytesOk d then nack stBadParam (some 0x0D)
  else if !s.slotHolds m then nack stNoModel none
  else if !(match dWax d with | some w => s.waxReady w tenant m | none => true) then nack stWaxDenied (some 0x13)
  else if s.regionTooBig m (dfield d 0x10 4) then nack stOversize (some 0x11)
  else if s.longsFull q then nack stBusy none
  else if (s.kvm.freePrefixes.head 65536).isNone then nack stPrefixTableFull none
  else if (s.freeBibs.head 65536).isNone then nack stTableFull none
  else
    match prompt with
    | none => nack stDmaError (some 0x0B)
    | some toks => if toks.any fun t => decide (s.vocab m ≤ t.toNat) then nack stBadParam (some 0x0D) else none

/-- The hub with more free HBM pages among the hubs allowed, ties to HE (R208). -/
def State.roomierHub (s : State) (m : Nat) : Hub :=
  match s.eligible .he m, s.eligible .hw m with
  | true, false => .he
  | false, true => .hw
  | _, _ => if s.poolFree .he false < s.poolFree .hw false then .hw else .he

/-- The hub of a new prefix (R208 step 3). -/
def State.prefixHub (s : State) (d : Desc) : Hub :=
  match bits (dFlags d) 0 2 with
  | 1 => .he
  | 2 => .hw
  | _ => s.roomierHub (dSlot d)

/-- An accepted PREFIX_CREATE: a prefix entry BUILDING and an internal bib in ADMITTED (R208). -/
def State.prefixAccept (s : State) (q : Nat) (d : Desc) (toks : List Word) : State :=
  match s.kvm.freePrefixes.head 65536, s.freeBibs.head 65536 with
  | some p, some i =>
    let m := dSlot d
    let h := s.prefixHub d
    let tenant := s.get (Fld.QP_CFG_TENANT.sel q)
    let prio := s.floorPrio q (bits (dFlags d) 2 3)
    let b := { (Bib.free (s.bib i).gen) with
      state := .admitted
      cause := .open
      home := h
      kind := .build p
      priority := prio.1
      tenant := tenant
      modelSlot := m
      qp := q
      admitLap := s.lap
      promptLen := dfield d 0x10 4
      maxLen := dfield d 0x10 4
      kvBase := kvBaseOf i
      pageList := pageListOf i
      wax := dWax d
      silent := true
      inputs := (toks.map (·.toNat)).take (dfield d 0x10 4) }
    let x := { (Prefix.free (s.pfx p).gen) with
      state := .building, hub := h, modelSlot := m, tenant := tenant, wax := dWax d, bib := i, qp := q, cid := dCid d }
    let s1 := ((s.modFree fun f => f.pop 65536).putBib i b).putPfx p x
    let s2 := (s1.modKvm fun k => { k with freePrefixes := k.freePrefixes.pop 65536 }).takeWax (dWax d)
    let s3 := (s2.tally 17 0x12 1 (some h)).modQp q fun y => { y with longs := y.longs ++ [dCid d] }
    s3.emit q { plainRecord 0#32 (dCid d) .cmd stOk 0 0 0 with adj := prio.2 }
  | _, _ => s

/-- PREFIX_CREATE (R208). -/
def execPrefixCreate (q : Fin 16384) (d : Desc) (prompt : Option (List Word)) (s : State) :
    Host.Outcome State Fault Refusal :=
  .next (s.command q 0x10 d 0#32 (s.prefixCheck q d prompt) fun s => s.prefixAccept q d (prompt.getD []))

/-- PREFIX_DROP names a READY or BUILDING prefix of the queue pair's tenant, or is refused (R209). -/
def State.dropCheck (s : State) (q : Nat) (d : Desc) : Option Nack :=
  if !descBytesOk d then nack stBadParam (some 0x0D)
  else
    match s.pfxNamed (dfield d 0x08 8) with
    | some p =>
      let x := s.pfx p
      if x.tenant = s.get (Fld.QP_CFG_TENANT.sel q) ∧ (x.state = .ready ∨ x.state = .building) then none
      else nack stPrefixInvalid (some 0x12)
    | none => nack stPrefixInvalid (some 0x12)

/-- An accepted PREFIX_DROP: a READY prefix drains, a build is abandoned at the next cutoff (R209). -/
def State.dropAccept (s : State) (q : Nat) (d : Desc) : State :=
  let p := dfield d 0x08 8 % 65536
  let x := s.pfx p
  let s1 := if x.state = .ready then (s.putPfx p { x with state := .draining, refs := x.refs - 1 }).pfxSettle p
    else s.putPfx p { x with dropped := true }
  s1.emit q (plainRecord 0#32 (dCid d) .cmd stOk 0 0 0)

/-- PREFIX_DROP (R209). -/
def execPrefixDrop (q : Fin 16384) (d : Desc) (s : State) : Host.Outcome State Fault Refusal :=
  .next (s.command q 0x11 d 0#32 (s.dropCheck q d) fun s => s.dropAccept q d)

/-! ### QUERY (R180, R210, R253) -/

/-- The checks of QUERY by KIND: steps 2 to 5 for a bib, the prefix's, the wax set's owner. -/
def State.queryCheck (s : State) (q : Nat) (d : Desc) : Option Nack :=
  let tenant := s.get (Fld.QP_CFG_TENANT.sel q)
  if !descBytesOk d then nack stBadParam (some 0x0D)
  else
    match bits (dFlags d) 0 2 with
    | 1 => s.bibCheck q (dBib d)
    | 2 =>
      match s.pfxNamed (dfield d 0x10 8) with
      | some p => if (s.pfx p).tenant = tenant then none else nack stPrefixInvalid (some 0x12)
      | none => nack stPrefixInvalid (some 0x12)
    | _ =>
      let x := s.waxAt (dfield d 0x10 8)
      if x.state = .absent ∨ x.tenant = tenant then none else nack stWaxDenied (some 0x13)

/-- STATE byte of R210. -/
def prefixStateByte (x : Prefix) : Nat :=
  (match x.state with | .free => 0 | .building => 1 | .ready => 2 | .draining => 3) + x.poisoned.toNat * 128

/-- STATE codes of a wax index (R240). -/
def waxCode : WaxState → Nat
  | .absent => 0 | .loading => 1 | .hbm => 2 | .lodge => 3 | .moving => 4 | .draining => 5

/-- FITTING: a fit runs on a set that is READY in HBM (R240). -/
def Wax.fitting (x : Wax) : Bool := x.fit.isSome && x.state == .hbm

/-- The bytes of a QUERY's response. -/
def State.queryBytes (s : State) (d : Desc) : List Byte :=
  match bits (dFlags d) 0 2 with
  | 1 => (s.bib (idIndex (dBib d))).bytes (idIndex (dBib d))
  | 2 =>
    let h := dfield d 0x10 8
    let x := s.pfx (h % 65536)
    prefixResponse h (prefixStateByte x) (hubNum x.hub) x.modelSlot x.tenant x.length x.refs
      (x.blocks.map fun k => k.pages.length).sum x.wax
  | _ =>
    let w := dfield d 0x10 8
    let x := s.waxAt w
    waxResponse w (waxCode x.state + x.fitting.toNat * 128) x.modelSlot x.tenant x.refs x.pages
      x.versionLap x.steps x.loss.toNat

/-- An accepted QUERY: the response, then its CMD record (R180). -/
def State.queryAccept (s : State) (q : Nat) (d : Desc) : State :=
  let s1 := s.send (.response (dfield d 0x08 8) (s.queryBytes d))
  if bits (dFlags d) 0 2 = 1 then
    let b := s.bib (idIndex (dBib d))
    s1.cmdRecord q d (dBib d) (stateCode b.state) 0 b.genTokens false
  else s1.cmdRecord q d 0#32 0 0 0 false

/-- QUERY (R180). -/
def execQuery (q : Fin 16384) (d : Desc) (s : State) : Host.Outcome State Fault Refusal :=
  let c := s.queryCheck q d
  let bib := if bits (dFlags d) 0 2 = 1 then dBib d else 0#32
  let s1 := s.command q 0x30 d bib c fun s => s.queryAccept q d
  .next (if s.mayAccept q (dOpcode d) ∧ dOpcode d = 0x30 then s1.countStale c else s1)

/-! ### FENCE (R181) -/

/-- FENCE: acceptance of later descriptors is held (R181). -/
def execFence (q : Fin 16384) (d : Desc) (s : State) : Host.Outcome State Fault Refusal :=
  .next (s.command q 0x3F d 0#32 (if descBytesOk d then none else nack stBadParam (some 0x0D)) fun s =>
    s.modQp q fun p => { p with fence := some ⟨dCid d, bits (dFlags d) 0 1 == 1, bits (dFlags d) 1 1 == 1⟩ })

/-- The conditions of a FENCE are met: no earlier long command outstanding for WORK, no pending transition of the queue
pair's bibs for PEND (R181). -/
def State.fenceMet (s : State) (q : Nat) (f : Fence) : Bool :=
  (!f.work || (s.qp q).longs.isEmpty)
  && (!f.pend || s.bibs.values.all fun b => !(b.qp == q && b.state != .free && b.pend != .none && b.kind == .normal))

/-- FENCE_COMPLETE (R181). -/
def execFenceComplete (q : Fin 16384) (s : State) : Host.Outcome State Fault Refusal :=
  match (s.qp q).fence with
  | some f =>
    if s.fenceMet q f then
      .next ((s.modQp q fun p => { p with fence := none }).emit q (plainRecord 0#32 f.cid .cmd stOk 0 0 0))
    else .next s
  | none => .next s

/-- DESCRIPTOR_FETCH_ERROR (R184 subcode 0x0B): FETCH_ERR stops fetching until EN is cleared and set again. -/
def execDescriptorFetchError (q : Fin 16384) (s : State) : Host.Outcome State Fault Refusal :=
  let idx := s.get (Fld.QP_SQ_HEAD_INDEX.sel q)
  if s.enabled q ∧ idx ≠ (s.qp q).sqTail ∧ !s.flag (Fld.QP_STS_FETCH_ERR.sel q) then
    .next ((s.put (Fld.QP_STS_FETCH_ERR.sel q) 1).violation 0x0B q idx 0#32)
  else .next s

/-! ### Vectors and power states (R182, R183, R186) -/

/-- MSIX_VECTOR_TIMER (R182): TIME has passed since the first counted record. In L1 the device exits L1 first (R183). -/
def execMsixVectorTimer (vec : Fin 4096) (inL1 : Bool) (s : State) : Host.Outcome State Fault Refusal :=
  if vec.val ∈ s.pcie.timers then
    if inL1 then
      .next (s.modPcie fun p => { p with l1 := true, timers := p.timers.filter (· != vec.val),
                                         l1Vectors := insertNat vec p.l1Vectors })
    else .next (s.fireVector vec)
  else .next s

/-- Pending vectors that may fire now do, in ascending order (R182, R183). -/
def State.firePending (s : State) (vecs : List Nat) : State :=
  vecs.foldl (fun s v =>
    if s.flag (Fld.QP_VSTS_PENDING.sel v) ∧ !s.masked v ∧ s.canWrite then
      ((s.put (Fld.QP_VSTS_PENDING.sel v) 0).send (.msix v)).tally 18 0x12 1 none
    else s) s

/-- A write of the mask bit of a vector's MSI-X table entry; unmasked, a pending vector fires (R182). -/
def State.writeMask (s : State) (vec : Nat) (v : Word) : State := (s.wr (msixControl vec) (v &&& 1#32)).firePending [vec]

/-- MSIX_UNMASK (R182). -/
def execMsixUnmask (vec : Fin 4096) (s : State) : Host.Outcome State Fault Refusal := .next (s.writeMask vec 0#32)

/-- Every vector of the function. -/
def allVectors : List Nat := List.range 4096

/-- D3HOT_ENTRY (R183): records go to the backlog and vectors stay pending; a PME message when one is pending or counting. -/
def execD3hotEntry (pmeEn : Bool) (s : State) : Host.Outcome State Fault Refusal :=
  let s1 := s.modPcie fun p => { p with d3hot := true, pmeEn := pmeEn }
  let waits := allVectors.any fun v =>
    s.flag (Fld.QP_VSTS_PENDING.sel v) || decide (s.get (Fld.QP_VSTS_COUNTED.sel v) ≠ 0)
  .next (if pmeEn ∧ waits then s1.send .pme else s1)

/-- The function can write again: the backlogs first, then every pending vector (R183). -/
def State.flushFunction (s : State) : State :=
  if s.canWrite then (s.drainAll).firePending allVectors else s

/-- D0_RETURN (R183). -/
def execD0Return (busMaster : Bool) (s : State) : Host.Outcome State Fault Refusal :=
  .next ((s.modPcie fun p => { p with d3hot := false, busMaster := busMaster }).flushFunction)

/-- BUS_MASTER_ENABLE (R172). -/
def execBusMasterEnable (en : Bool) (s : State) : Host.Outcome State Fault Refusal :=
  .next ((s.modPcie fun p => { p with busMaster := en }).flushFunction)

/-- L1_EXIT (R183): a vector whose timer expired in L1 fires. -/
def execL1Exit (s : State) : Host.Outcome State Fault Refusal :=
  let vecs := s.pcie.l1Vectors
  let s1 := s.modPcie fun p => { p with l1 := false, l1Vectors := [] }
  .next (vecs.foldl (fun s v => s.fireVector v) s1)

/-- A function level reset as it reaches entry `i`: CLOSE without records (R186). -/
def State.resetBib (s : State) (i : Nat) : State :=
  let s0 := s.modBib i fun b => { b with silent := true, batch := [] }
  let b := s0.bib i
  match b.kind with
  | .normal =>
    if b.state = .faulted then s0.enterFree i
    else if b.state = .closing then s0
    else if b.holdsSlot then s0.modBib i fun b => { b with pend := .close, pendCid := 0xFFFF#16 }
    else s0.enterClosing i .close none
  | .build p => s0.putPfx p { (s0.pfx p) with dropped := true }
  | _ => s0

/-- Queue pair `q` as a function level reset leaves it: disabled, backlog, fence and outstanding commands gone (R186). -/
def State.resetQp (s : State) (q : Nat) : State :=
  let s1 := (s.put (Fld.QP_CFG_EN.sel q) 0).stopQp q
  s1.modQp q fun p => { p with backlog := [], fence := none, longs := [], lostBibs := [] }

/-- Every queue pair and every bib under a function level reset (R186). -/
def State.resetFunction (s : State) : State :=
  let s1 := s.qps.keys.foldl (fun s q => s.resetQp q) s
  s1.liveBibs.foldl (fun s i => s.resetBib i) s1

end Sys2Proof.Machine
end

