-- ==== Sys2Proof/Machine/Sample.lean ====
section
/-!
DEFINITION. The sampler (R164, R165), what a sampled token does to its bib (R153, R179), and the tokens sent to the members of a
head-spread group (R231).
-/

namespace Sys2Proof.Machine

/-! ### Draws (R165) -/

/-- z xor (z >> n), times k. -/
def mix (z : DWord) (n : Nat) (k : DWord) : DWord := (z ^^^ (z >>> n)) * k

/-- draw(seed, n), exact in FP32. -/
def draw (seed : DWord) (n : Nat) : Word :=
  let z := seed + BitVec.ofNat 64 (n + 1) * 0x9E3779B97F4A7C15#64
  let z := mix (mix z 30 0xBF58476D1CE4E5B9#64) 27 0x94D049BB133111EB#64
  let z := z ^^^ (z >>> 31)
  (Fp.scale (Fp.ofInt (z.toNat / 2 ^ 40 : Nat)) (-24)).1

/-! ### The walk (R164) -/

/-- Logits in descending order, the lower index first on ties. -/
def descending (l : List (Nat × Word)) : List (Nat × Word) := sortBy (fun x y => decide (Fp.key y.2 ≤ Fp.key x.2)) l

/-- The indexed logits. -/
def indexed (l : List (BitVec 16)) : List (Nat × Word) := (List.range l.length).zip (l.map Bf16.widen)

/-- The shortest leading run whose sum over s reaches TOP_P, with the sum; at least one. -/
def keepRun (topP sum : Word) : Word → List (Nat × Word) → Hubm (List (Nat × Word) × Word)
  | acc, [] => pure ([], acc)
  | acc, x :: r => do
    let acc' ← fadd acc x.2
    let q ← fdiv acc' sum
    if Fp.lt q topP then
      let t ← keepRun topP sum acc' r
      pure (x :: t.1, t.2)
    else pure ([x], acc')

/-- The first element at which the running sum exceeds `t`. -/
def walk (t : Word) : Word → List (Nat × Word) → Hubm (Option Nat)
  | _, [] => pure none
  | acc, x :: r => do
    let acc' ← fadd acc x.2
    if Fp.lt t acc' then pure (some x.1) else walk t acc' r

/-- The token that a bib's logits give (R164); `m`, `sum`, `top` are the head's maximum, sum and index. -/
def pickToken (b : Bib) (logits : List (BitVec 16)) (m sum : Word) (top : Nat) : Hubm Nat := do
  if Fp.key b.temp = 0 then pure top
  else
    let beta ← fdiv fone b.temp
    let weigh := fun (l : List (Nat × Word)) => l.mapM fun x => do pure (x.1, ← expTerm beta x.2 m)
    let u := draw b.seed b.draws
    if b.topK = 0 ∧ b.topP = fone then
      let ws ← weigh (indexed logits)
      let t ← fmul u sum
      pure ((← walk t 0#32 ws).getD top)
    else
      let k := if b.topK = 0 then 1024 else b.topK
      let ws ← weigh ((descending (indexed logits)).take k)
      let kept ← keepRun b.topP sum 0#32 ws
      let t ← fmul u kept.2
      let last := match kept.1.getLast? with | some x => x.1 | none => top
      pure ((← walk t 0#32 kept.1).getD last)

/-! ### Delivery (R153, R179) -/

/-- The LOGIT_N largest logits (R179). -/
def topLogits (n : Nat) (l : List (BitVec 16)) : List (Nat × BitVec 16) :=
  ((descending (indexed l)).take n).map fun x => (x.1, x.2.extractLsb' 16 16)

/-- A sampled token is delivered: into the bib's record, and at once for a full record or a LOGITS bib (R179). -/
def State.deliver (s : State) (i tok : Nat) (logits : List (BitVec 16)) : State :=
  let s1 := s.modBib i fun b => { b with batch := b.batch ++ [tok] }
  let b := s1.bib i
  if b.logits then s1.tokenRecord i (topLogits b.logitN logits)
  else if s.get (Fld.QP_CFG_TOKBATCH.sel b.qp) + 1 ≤ b.batch.length then s1.flushTokens i
  else s1

/-- The token ends the bib: STOP_TOKEN before MAX_LEN (R153). -/
def endCause (b : Bib) (tok : Nat) : Option Cause :=
  if b.stop = some tok then some .stopToken
  else if b.maxLen ≤ b.promptLen + b.genTokens then some .maxLen
  else none

/-- A token sampled for entry `i`, whose `n` positions of the lap are stored and leave the input; a transition that waited for it
follows (R151, R153, R155, R164). -/
def State.acceptToken (s : State) (i n tok : Nat) (logits : List (BitVec 16)) (last : Bool) : State :=
  let s1 := (s.commitPositions i n).modBib i fun b =>
    { b with genTokens := b.genTokens + 1, draws := b.draws + 1, lastToken := tok, inputs := tok :: b.inputs.drop n
             prefillDone := b.prefillDone || last, chunk := 0 }
  let s2 := ((s1.tally 17 0x10 1 (some (s.bib i).home)).deliver i tok logits)
  match endCause (s2.bib i) tok with
  | some c => s2.enterClosing i c (some 0xFFFF#16)
  | none => if s2.bibId i ∈ s2.plan.parting then s2.applyPend i else s2

/-- The sampler draws for entry `i` from the head's output at a token vector (R82, R164). -/
def State.drawToken (s : State) (i w token n : Nat) (last : Bool) : State :=
  let b := s.bib i
  match s.ldr.slots.get? b.modelSlot with
  | none => s
  | some x =>
    match (s.layerOf b.modelSlot x.layers).bind (·.stage 7) with
    | none => s
    | some st =>
      match s.outVector w token x.layers 7 st.colBlocks with
      | none => s
      | some v =>
        let r := s.reductionsOf w token x.layers 7
        let (tok, s1) := s.runHub (pickToken b (v.take x.vocab) (r.getD 3 0#32) (r.getD 4 0#32) (r.getD 5 0#32).toNat)
        s1.acceptToken i n tok (v.take x.vocab) last

/-! ### Tokens to the group (R231) -/

/-- The slots of this module's part of a wave (R230). -/
def State.ownPart (s : State) (w : Nat) : List Nat :=
  if s.groupSize = 0 then [] else
    let p := s.spreadOf w / s.groupSize
    List.range' (s.member * p) p

/-- Entry of a SPREAD_TOK message for a slot: the bib's last token, or REPLAY. -/
def State.tokEntry (s : State) (w slot : Nat) : Nat :=
  match s.holder w slot with
  | some i => if (s.bib i).replay then 2 ^ 31 else (s.bib i).lastToken
  | none => 0

/-- A decode wave has finished sampling: its tokens go to every member (R231). -/
def State.sendTokens (s : State) (w : Nat) : State :=
  let part := s.ownPart w
  let done := part.all fun k => (s.holder w k).isNone || decide (w * 128 + k ∈ s.plan.sampled)
  if w < 32 ∧ !part.isEmpty ∧ done then
    let body := leBytes (s.dlap s.lap) 8 ++ leBytes w 1 ++ leBytes 0 7 ++ part.flatMap fun k => leBytes (s.tokEntry w k) 4
    s.members.foldl (fun s p => s.sendMessage 0x0102 p.2 body) s
  else s

/-! ### SAMPLE -/

/-- What the sampler does with a token vector: a decoding bib's token, or the last position of a prompt's last chunk; a guest or an
internal bib samples nothing, nor does a token marked for replay (R164, R224, R229, R232). -/
def State.sampleSlot (s : State) (w token : Nat) : State :=
  match s.holder w token with
  | none => s
  | some i =>
    let b := s.bib i
    if b.replay ∨ b.kind ≠ .normal ∨ w * 128 + token ∈ s.fab.zeroed then s
    else if w < 32 then if b.state = .decoding then s.drawToken i w token 1 false else s
    else if b.state = .towing ∧ !b.prefillDone ∧ b.chunk = b.inputs.length ∧ (w - 32) % 2 * 128 + token + 1 = b.chunk then
      s.drawToken i w token b.chunk true
    else s

/-- SAMPLE: each token vector of an issued wave once in a lap. -/
def State.sample (s : State) (w token : Nat) : State :=
  if !s.running ∨ s.halted ∨ w ∉ s.plan.issued ∨ w * 128 + token ∈ s.plan.sampled then s
  else
    let s1 := s.modPlan fun p => { p with sampled := p.sampled ++ [w * 128 + token] }
    let inPart := decide (token ∈ s.ownPart w) && (s.holder w token).isSome
    let s2 := s1.sampleSlot w token
    if inPart then s2.sendTokens w else s2

/-- SAMPLE (R164). -/
def execSample (wave : Fin 96) (slot : Fin 128) (s : State) : Host.Outcome State Fault Refusal := .next (s.sample wave slot)

end Sys2Proof.Machine
end

