-- ==== Sys2Proof/Machine/Evict.lean ====
section
/-!
DEFINITION. The KV steps of the planning pass (R197-R204): growth, quotas, eviction, and the write of KVM_QUOTA (R199).
-/

namespace Sys2Proof.Machine

/-! ### Positions of the running and the planned lap -/

/-- The internal bib of a fit, which keeps no position from lap to lap (R248). -/
def Bib.isFit (b : Bib) : Bool :=
  match b.kind with
  | .fit _ => true
  | _ => false

/-- Positions that entry `i` is still to store in the running lap: a decode slot's token, unless it is sampled or the bib is marked
for replay, and a tow chunk (R198, R224). -/
def State.inflight (s : State) (i : Nat) : Nat :=
  let b := s.bib i
  if b.replay then 0
  else match b.state, b.decSlot with
    | .decoding, some d =>
      match b.kind with
      | .guest _ _ => if s.att.tokensIn.any (fun x => x.1 == s.bibId i && x.2 == s.dlap s.lap) then 0 else 1
      | _ => if d ∈ s.plan.sampled then 0 else 1
    | .towing, _ => if b.isFit then 0 else b.chunk
    | _, _ => 0

/-- Sequence position of the first position that the planned lap stores. -/
def State.plannedPos (s : State) (i : Nat) : Nat := s.nextPos (s.bib i) + s.inflight i

/-- Input positions that the running lap leaves. -/
def State.inputsLeft (s : State) (i : Nat) : Nat := (s.bib i).inputs.length - s.inflight i

/-- r or p of R142 for entry `i` in the planned lap: its resident positions less those selected for eviction, with those that the
running lap stores; before its first tow grant the positions of its prefix. -/
def State.plannedResident (s : State) (i : Nat) : Nat :=
  let b := s.bib i
  if b.granted ∨ !b.blocks.isEmpty then
    ((b.blocks.filter fun k => !k.leaving).map fun k => k.fill).sum + s.inflight i
  else s.pfxLen b

/-! ### Eviction (R202-R204) -/

/-- Block `k` of bib `b` of entry `i` may be evicted (R202). -/
def State.mayEvict (s : State) (b : Bib) (k : Block) : Bool :=
  b.state == .decoding && !k.shared && !k.leaving && !k.lodge && decide (k.pos0 ≠ 0) && decide (k.fill = 64)
  && decide (k.pos0 + 63 + s.get (Fld.KVM_TCFG_RECENT.sel b.tenant) < s.nextPos b - 1)

/-- The eligible blocks of the bibs that `p` admits, in the order of R203: entry and place. -/
def State.evictable (s : State) (p : Bib → Bool) : List (Nat × Nat) :=
  let l := s.bibs.entries.flatMap fun e =>
    if p e.2 then
      ((List.range e.2.blocks.length).zip e.2.blocks).filterMap fun k =>
        if s.mayEvict e.2 k.2 then some ([k.2.score, e.1, k.2.pos0], e.1, k.1) else none
    else []
  (sortBy (fun x y => lexNat x.1 y.1) l).map Prod.snd
where
  /-- Lexicographic order. -/
  lexNat : List Nat → List Nat → Bool
    | [], _ => true
    | _ :: _, [] => false
    | a :: r, b :: t => decide (a < b) || (a == b && lexNat r t)

/-- Block `blk` of entry `i` is selected: its pages return to the pool, poisoned ones retired, and it stays readable until the
boundary (R203, R204). -/
def State.evictBlock (s : State) (i blk : Nat) : State :=
  let b := s.bib i
  match b.blocks[blk]? with
  | none => s
  | some k =>
    let s1 := s.releasePages b.home false k.pages k.poison
    let s2 := s1.modBib i fun b => { b with blocks := modifyAt b.blocks blk fun k => { k with leaving := true } }
    (s2.count Reg.KVM_EVICT_BLK 1).tally 19 0x12 1 (some b.home)

/-- Blocks of a list are evicted while `more` holds. -/
def State.evictWhile (s : State) (more : State → Bool) : List (Nat × Nat) → State
  | [] => s
  | x :: r => if more s then (s.evictBlock x.1 x.2).evictWhile more r else s

/-- The eviction pass of hub `h` (R203). -/
def State.evictPass (s : State) (h : Hub) : State :=
  let high := s.get (Fld.KVM_EVICT_HIGH_PAGES.sel (hubNum h))
  s.evictWhile (fun s => decide (s.poolFree h false < high))
    (s.evictable fun b => b.home == h && s.flag (Fld.KVM_TCFG_EVICT_EN.sel b.tenant))

/-! ### Quota steps (R200) -/

/-- A tenant's use exceeds its quota. -/
def State.overQuota (s : State) (t : Nat) : Bool := decide (s.quota t < s.tenantUse t)

/-- The tenants of the request table, ascending. -/
def State.tenants (s : State) : List Nat :=
  s.bibs.values.foldl (fun l b => if b.state = .free then l else insertNat b.tenant l) []

/-- The DECODING and TOWING bibs of tenant `t` in the order of step 2 of R200. A guest changes state only as its origin says (R229). -/
def State.quotaVictims (s : State) (t : Nat) : List Nat :=
  let l := s.bibs.entries.filter fun e =>
    (e.2.state == .decoding || e.2.state == .towing) && e.2.tenant == t && (match e.2.kind with | .normal => true | _ => false)
  (sortBy (fun x y => decide (y.2.hbmPages ≤ x.2.hbmPages)) l).map Prod.fst

/-- Bibs are lodged for quota while their tenant's use exceeds it (R200 step 2). -/
def State.quotaLodge (s : State) (t : Nat) : List Nat → State
  | [] => s
  | i :: r =>
    if s.overQuota t then ((s.enterLodged i .quota).count Reg.KVM_QUOTA_LODGE 1).quotaLodge t r else s

/-- The quota steps of one tenant (R200). -/
def State.quotaTenant (s : State) (t : Nat) : State :=
  if s.overQuota t then
    let s1 := (s.quotaCheck t).evictWhile (fun s => s.overQuota t) (s.evictable fun b => b.tenant == t)
    s1.quotaLodge t (s1.quotaVictims t)
  else s

/-- The quota steps of every tenant. -/
def State.quotaSteps (s : State) : State := s.tenants.foldl (fun s t => s.quotaTenant t) s

/-! ### Top-ups (R198) -/

/-- Positions that a slot holder stores in the planned lap: 1 in a decode slot, its chunk in a tow slot; none when it holds none. -/
def State.plannedPositions (s : State) (i : Nat) : Option Nat :=
  let b := s.bib i
  if s.bibId i ∈ s.plan.lodges ∨ s.bibId i ∈ s.plan.parting then none
  else if b.state = .decoding ∧ b.decSlot.isSome then some 1
  else if b.state = .towing then
    (s.plan.grants.find? fun g => idIndex g.bib == i && g.kind == .tow).map fun g => g.chunk
  else none

/-- Positions that the allocation of entry `i` must cover by the end of the planned lap (R198). -/
def State.plannedEnd (s : State) (i : Nat) : Nat := s.plannedPos i + (s.plannedPositions i).getD 0

/-- The slot holders of hub `h` in the planned lap, in ascending bib index. -/
def State.planHolders (s : State) (h : Hub) : List Nat :=
  s.liveBibs.filter fun i => (s.bib i).home == h && (s.plannedPositions i).isSome

/-- A holder's allocation is topped up; whether it was (R198 steps 2 and 4). -/
def State.topUp (s : State) (i : Nat) : Bool × State :=
  match s.growTo i (s.plannedEnd i + 64) with
  | (.granted _ _, s1) => (true, s1)
  | (_, s1) => (false, s1)

/-- Top-ups of a list of holders; those refused. -/
def State.topUps (s : State) : List Nat → List Nat × State
  | [] => ([], s)
  | i :: r =>
    let (ok, s1) := s.topUp i
    let (l, s2) := s1.topUps r
    (if ok then l else i :: l, s2)

/-- A holder whose allocation does not cover the planned lap moves to LODGED at the boundary, and its slot is free in the plan
(R198 step 4). -/
def State.planLodge (s : State) (i : Nat) : State :=
  let id := s.bibId i
  s.modPlan fun p => { p with lodges := p.lodges ++ [id], grants := p.grants.filter fun g => g.bib != id }

/-- The holders still refused are lodged when their allocation does not reach the end of the planned lap. -/
def State.lodgeShort (s : State) (l : List Nat) : State :=
  l.foldl (fun s i =>
    let b := s.bib i
    match b.kind with
    | .normal => if b.covers < s.plannedEnd i then s.planLodge i else s
    | _ => s) s

/-- The pass is needed on hub `h`: an HBM POOL_EMPTY since the last cutoff, or free pages below EVICT_LOW (R198 step 3). -/
def State.evictNeeded (s : State) (h : Hub) : Bool :=
  (match h with | .he => s.kvm.emptyHe | .hw => s.kvm.emptyHw)
  || decide (s.poolFree h false < s.get (Fld.KVM_EVICT_LOW_PAGES.sel (hubNum h)))

/-- Steps 2 to 4 of R198 on hub `h`. -/
def State.growHub (s : State) (h : Hub) : State :=
  let (l, s1) := s.topUps (s.planHolders h)
  let s2 := if s1.evictNeeded h then s1.evictPass h else s1
  let s3 := s2.modKvm fun k => match h with
    | .he => { k with emptyHe := false }
    | .hw => { k with emptyHw := false }
  let (l2, s4) := s3.topUps l
  s4.lodgeShort l2

/-- The KV steps of the pass (R198): the quota steps, then growth on each hub. -/
def State.kvSteps (s : State) : State := ((s.quotaSteps).growHub .he).growHub .hw

/-- The blocks selected for eviction are unmapped at the boundary (R204). -/
def State.dropLeaving (s : State) (i : Nat) : State :=
  if (s.bib i).blocks.any fun k => k.leaving then
    (s.modBib i fun b => { b with blocks := b.blocks.filter fun k => !k.leaving }).trimLists i
  else s

/-- A write of KVM_QUOTA takes effect for later requests; a tenant left above its quota sets QUOTA_OVER (R199, R200). -/
def State.writeQuota (s : State) (v : Word) : State :=
  let t := s.get Fld.KVM_TSEL_TENANT
  (s.put (Fld.KVM_QUOTA_PAGES.sel t) (wordBits v 0 32)).quotaCheck t

/-- KVM_QUOTA (R199). -/
def execKvmQuota (v : Word) (s : State) : Host.Outcome State Fault Refusal :=
  .next (if s.hidden Reg.KVM_QUOTA then s.undecoded Reg.KVM_QUOTA else s.writeQuota v)

end Sys2Proof.Machine
end

