-- ==== Sys2Proof/Machine/Wax.lean ====
section
/-!
DEFINITION. Wax sets and wax fitting (R235-R254): the two pools, WAX_LOAD, promotion and demotion, fits, poisoned records.
-/

namespace Sys2Proof.Machine

/-! ### Places and pages (R239) -/

/-- The WAXDIR record of model slot `m` (R387). -/
def State.waxDir (s : State) (m : Nat) : WaxDir :=
  match s.bon.image with
  | some i => i.waxDir.getD m ⟨0, 0#32, 0⟩
  | none => ⟨0, 0#32, 0⟩

/-- LREC of model slot `m` in bytes; 0 when the slot has no wax sets. -/
def State.lrec (s : State) (m : Nat) : Nat :=
  let n := (s.waxDir m).lrec
  if n = 0 then 0 else 2048 * 2 ^ n

/-- NMAX for a record of `lrec` bytes (R235). -/
def nmax (lrec : Nat) : Nat := (lrec - 32) / 132

/-- Tow slot `t` is a fit slot of model slot `m` (R245). -/
def State.fitSlot (s : State) (m t : Nat) : Bool := (s.waxDir m).fitSlots.getLsbD t

/-- Layers of the model in slot `m`. -/
def State.layersIn (s : State) (m : Nat) : Nat := match s.ldr.slots.get? m with | some x => x.layers | none => 0

/-- Pages of a wax pool: both hubs' shares, over which a set is striped (R239, R387). DEDUCED; log entry 31. -/
def State.waxTotal (s : State) (lodge : Bool) : Nat :=
  match s.bon.image with
  | some i => (i.pools.map fun p => if lodge then p.waxLodge else p.waxHbm).sum
  | none => 0

/-- Copies of the set in a pool: its own, the target of a move, that of a load. -/
def Wax.copies (x : Wax) (lodge : Bool) : List Nat :=
  (if x.state ≠ .absent ∧ x.state ≠ .loading ∧ x.inLodge = lodge then [x.pages] else [])
  ++ (if x.move.isSome ∧ x.inLodge ≠ lodge then [x.pages] else [])
  ++ (match x.load with | some l => if l.lodge = lodge then [l.pages] else [] | none => [])

/-- The copies of every set in a pool. -/
def State.waxCopies (s : State) (lodge : Bool) : List Nat := s.wax.values.flatMap fun x => x.copies lodge

/-- Sets that a pool can hold (WAX_CFG). -/
def State.waxPlaces (s : State) (lodge : Bool) : Nat :=
  if lodge then s.get Fld.WAX_CFG_LODGE_MAX else s.get Fld.WAX_CFG_HBM_MAX

/-- Free pages of a wax pool. -/
def State.waxFree (s : State) (lodge : Bool) : Nat := s.waxTotal lodge - (s.waxCopies lodge).sum

/-- A pool has a place and `n` free pages. -/
def State.waxRoom (s : State) (lodge : Bool) (n : Nat) : Bool :=
  decide ((s.waxCopies lodge).length < s.waxPlaces lodge) && decide (n ≤ s.waxFree lodge)

/-- Pages of a set of model slot `m` (R239). -/
def State.waxSize (s : State) (m : Nat) : Nat := ceilDiv (s.layersIn m * s.lrec m) 65536

/-! ### Layer records (R235-R237) -/

/-- Block entry `k` of a layer record. -/
def waxEntry (rec : List Byte) (k : Nat) : WaxEntry :=
  let o := 32 + 132 * k
  let tag := bytesAt rec o 4
  { vec := bits tag 29 3, block := bits tag 8 16, e := BitVec.ofNat 8 tag
    codes := ((rec.drop (o + 4)).take 128).map fun b => b.toInt }

/-- Block entries of a record, in order. -/
def waxEntries (rec : List Byte) : List WaxEntry := (List.range (bytesAt rec 6 2)).map (waxEntry rec)

/-- Reserved bits of the tags are 0. -/
def tagsOk (rec : List Byte) : Bool :=
  (List.range (bytesAt rec 6 2)).all fun k => bits (bytesAt rec (32 + 132 * k) 4) 24 5 == 0

/-- Entries strictly ascend in (VEC, BLOCK). -/
def entriesRise : List WaxEntry → Bool
  | a :: b :: r => decide (a.vec * 65536 + a.block < b.vec * 65536 + b.block) && entriesRise (b :: r)
  | _ => true

/-- The stage of layer `l` whose join list binds wax vector `v` (R237). -/
def State.boundStage (s : State) (m l v : Nat) : Option Nat :=
  (List.range 8).find? fun st => (s.joinsOf m l st).any fun j => j.2 == v + 2

/-- Column blocks of a stage of a layer. -/
def State.colBlocks (s : State) (m l st : Nat) : Nat :=
  match (s.layerOf m l).bind (·.stage st) with
  | some x => x.colBlocks
  | none => 0

/-- A layer record is valid (R235-R237). -/
def State.recordOk (s : State) (m l : Nat) (rec : List Byte) : Bool :=
  let n := bytesAt rec 6 2
  let es := waxEntries rec
  bytesAt rec 0 4 == 0x31584157 && bytesAt rec 4 2 == l && decide (n ≤ nmax rec.length)
  && (crc32c ((rec.drop 32).take (132 * n))).toNat == bytesAt rec 8 4
  && bytesAt rec 12 20 == 0 && (rec.drop (32 + 132 * n)).all (· == 0#8) && tagsOk rec && entriesRise es
  && es.all fun e =>
    e.e != 0xFF#8 && match s.boundStage m l e.vec with
      | some st => decide (e.block < s.colBlocks m l st)
      | none => false

/-- The layer records of a set as loaded. -/
def State.records (s : State) (m : Nat) (data : List Byte) : List (List Byte) :=
  let n := s.lrec m
  (List.range (s.layersIn m)).map fun l => (data.drop (n * l)).take n

/-- The first layer whose record is bad. -/
def State.badLayer (s : State) (m : Nat) (data : List Byte) : Option Nat :=
  let rs := s.records m data
  ((List.range rs.length).zip rs).findSome? fun r => if s.recordOk m r.1 r.2 then none else some r.1

/-! ### WAX_LOAD (R244) -/

/-- What an unwritten byte of the staging buffer reads as: 0. DESIGN CHOICE, unsafe; log entry 32. -/
def stagingByte : Byte := 0#8

/-- The bytes that a WAX_LOAD reads: the host's, or those of the staging buffer (R244, R428). -/
def State.loadData (s : State) (d : Desc) (data : Option (List Byte)) : Option (List Byte) :=
  if bits (dFlags d) 0 1 = 1 then some (Memory.readAll stagingByte s.ldr.staging (dfield d 0x08 8) (dfield d 0x10 4))
  else data.map fun l => l.take (dfield d 0x10 4)

/-- Steps 2 and 6 to 13 of R185 for WAX_LOAD. A LEN that is neither 0 nor that of the slot is BAD_PARAM. DEDUCED; log entry
33. -/
def State.waxLoadCheck (s : State) (q : Nat) (d : Desc) (data : Option (List Byte)) : Option Nack :=
  let m := dSlot d
  let len := dfield d 0x10 4
  let x := s.waxAt (dWaxIndex d)
  let ready := x.state == .hbm || x.state == .lodge || x.state == .moving
  if !descBytesOk d then nack stBadParam (some 0x0D)
  else if !s.slotHolds m then nack stNoModel none
  else if len ≠ 0 ∧ len ≠ s.layersIn m * s.lrec m then nack stBadParam (some 0x0D)
  else if x.state ≠ .absent ∧ (x.tenant ≠ s.get (Fld.QP_CFG_TENANT.sel q) ∨ x.modelSlot ≠ m) then
    nack stWaxDenied (some 0x13)
  else if x.state = .loading ∨ x.load.isSome then nack stWaxBusy none
  else if len ≠ 0 ∧ (x.state = .moving ∨ x.state = .draining ∨ (ready ∧ x.fit.isSome)) then nack stWaxBusy none
  else if s.longsFull q then nack stBusy none
  else if len ≠ 0 ∧ !s.waxRoom (bits (dFlags d) 1 1 == 1) (s.waxSize m) then nack stWaxFull none
  else if len ≠ 0 ∧ (s.loadData d data).isNone then nack stDmaError (some 0x0B)
  else none

/-- LEN 0 (R244): a READY set enters DRAINING; the command ends at once. -/
def State.dropSet (s : State) (q w : Nat) (d : Desc) : State :=
  let x := s.waxAt w
  let s1 := if x.state = .hbm ∨ x.state = .lodge ∨ x.state = .moving then
      (s.putWax w { x with state := .draining }).waxSettle w
    else s
  s1.workRecord q (dCid d) stOk 0 0

/-- An accepted WAX_LOAD (R244). -/
def State.waxLoadAccept (s : State) (q : Nat) (d : Desc) (data : Option (List Byte)) : State :=
  let w := dWaxIndex d
  let m := dSlot d
  let x := s.waxAt w
  let s1 := (s.modQp q fun y => { y with longs := y.longs ++ [dCid d] }).emit q (plainRecord 0#32 (dCid d) .cmd stOk 0 0 0)
  if dfield d 0x10 4 = 0 then s1.dropSet q w d
  else
    let l : WaxLoad :=
      { lodge := bits (dFlags d) 1 1 == 1, data := (s.loadData d data).getD [], pages := s.waxSize m, qp := q
        cid := dCid d, first := x.state == .absent, ready := false }
    if x.state = .absent then
      s1.putWax w { Wax.absent with state := .loading, tenant := s.get (Fld.QP_CFG_TENANT.sel q), modelSlot := m
                                    inLodge := l.lodge, load := some l }
    else s1.putWax w { x with load := some l }

/-- WAX_LOAD (R244). -/
def execWaxLoad (q : Fin 16384) (d : Desc) (data : Option (List Byte)) (s : State) : Host.Outcome State Fault Refusal :=
  .next (s.command q 0x20 d 0#32 (s.waxLoadCheck q d data) fun s => s.waxLoadAccept q d data)

/-- The set that a load leaves in force: a version of the lap in progress, no fit steps (R253). -/
def State.loadedSet (s : State) (x : Wax) (l : WaxLoad) : Wax :=
  { x with
    state := if l.lodge then .lodge else .hbm
    inLodge := l.lodge
    pages := l.pages
    versionLap := s.lap
    steps := 0
    loss := 0#32
    layers := (s.records x.modelSlot l.data).map waxEntries
    load := none }

/-- WAX_LOAD_DONE (R244): copied and checked. A first load is READY; a replacement waits for the boundary. -/
def State.loadDone (s : State) (w : Nat) : State :=
  let x := s.waxAt w
  match x.load with
  | none => s
  | some l =>
    if l.ready then s
    else
      match s.badLayer x.modelSlot l.data with
      | some n => (s.putWax w (if l.first then Wax.absent else { x with load := none })).workRecord l.qp l.cid stWaxBadImage n 0
      | none =>
        let y := if l.first then s.loadedSet x l
          else if x.state = .draining then { x with load := none }
          else { x with load := some { l with ready := true } }
        ((s.putWax w y).waxSettle w).workRecord l.qp l.cid stOk 0 0

/-- WAX_LOAD_DONE (R244). -/
def execWaxLoadDone (index : Fin 131072) (s : State) : Host.Outcome State Fault Refusal := .next (s.loadDone index)

/-! ### Promotion and demotion (R242) -/

/-- A move of the set to the other pool begins. -/
def State.beginMove (s : State) (w : Nat) : State :=
  s.putWax w { (s.waxAt w) with state := .moving, move := some false }

/-- Pages of the HBM pool that demotions in progress will free. -/
def State.waxComing (s : State) : Nat :=
  (s.wax.values.map fun x => if x.move.isSome ∧ !x.inLodge then x.pages else 0).sum

/-- The set that a promotion demotes: in HBM, fitting nothing, without a load, none of `busy`; lowest last-use lap, then index. -/
def State.demotable (s : State) (busy : List Nat) : Option Nat :=
  let l := s.wax.entries.filter fun e =>
    e.2.state == .hbm && e.2.fit.isNone && e.2.load.isNone && !decide (e.1 ∈ busy)
  (sortBy (fun x y => decide (x.2.lastUse ≤ y.2.lastUse)) l).head?.map Prod.fst

/-- The promotion waits for the next cutoff. -/
def State.promoWait (s : State) : State := s.raise Fld.WAX_EVT_PROMO_WAIT

/-- The promotion of a set in LODGE (R242); `busy` are the sets of slot holders and candidates. It starts no second demotion while
demotions in progress free enough pages. DESIGN CHOICE; log entry 34. -/
def State.promote (s : State) (busy : List Nat) (w : Nat) : State :=
  let x := s.waxAt w
  if x.state ≠ .lodge ∨ x.load.isSome then s
  else if s.waxRoom false x.pages then s.beginMove w
  else if 0 < s.waxComing ∧ x.pages ≤ s.waxFree false + s.waxComing then s
  else
    match s.demotable busy with
    | some v => if s.waxRoom true (s.waxAt v).pages then s.beginMove v else s.promoWait
    | none => s.promoWait

/-- WAX_MOVE_DONE (R242): the copy is complete; the set of a drop is freed with its pages. -/
def execWaxMoveDone (index : Fin 131072) (s : State) : Host.Outcome State Fault Refusal :=
  let w := index.val
  let x := s.waxAt w
  if x.move = some false then
    let s1 := s.count (if x.inLodge then Reg.WAX_PROMOTE else Reg.WAX_DEMOTE) 1
    if x.state = .draining then .next ((s1.putWax w { x with move := none }).waxSettle w)
    else .next (s1.putWax w { x with move := some true })
  else .next s

/-- What a boundary does to a set (R242, R244): a completed move and a checked replacement take effect, in the lap that begins. -/
def State.waxBoundary (s : State) (w : Nat) : State :=
  let x := s.waxAt w
  let s1 := if x.move = some true ∧ x.state = .moving then
      s.putWax w { x with state := if x.inLodge then .hbm else .lodge, inLodge := !x.inLodge, move := none }
    else s
  let y := s1.waxAt w
  match y.load with
  | some l =>
    if !l.ready then s1
    else if y.state = .draining then (s1.putWax w { y with load := none }).waxSettle w
    else s1.putWax w (s1.loadedSet y l)
  | none => s1

/-! ### Fits (R245-R250) -/

/-- FP32 greater than 0 and finite. -/
def fpPositive (w : Nat) : Bool := decide (0 < w) && decide (w < 0x7F800000)

/-- FP32 from 0.0 to below 1.0. -/
def fpFraction (w : Nat) : Bool := decide (w < 0x3F800000) || w == 0x80000000

/-- Entry `k` of the sequence table: offset and length. -/
def fitSeq (p : List Byte) (k : Nat) : Nat × Nat := (bytesAt p (0x40 + 8 * k) 4, bytesAt p (0x44 + 8 * k) 2)

/-- The tokens of sequence `k`. -/
def fitTokens (p : List Byte) (k : Nat) : List Nat :=
  (List.range (fitSeq p k).2).map fun j => bytesAt p ((fitSeq p k).1 + 4 * j) 4

/-- The parameter block is within R246, its tokens below the vocabulary. -/
def paramOk (p : List Byte) (vocab : Nat) : Bool :=
  let n := bytesAt p 4 4
  bytesAt p 0 4 != 0 && decide (1 ≤ n) && fpPositive (bytesAt p 8 4) && fpFraction (bytesAt p 0x0C 4)
  && bytesAt p 0x10 1 != 0 && decide (bytesAt p 0x12 1 < 8) && bytesAt p 0x13 1 == 0
  && decide (bytesAt p 0x14 2 ≤ bytesAt p 0x16 2) && bytesAt p 0x18 40 == 0 && decide (0x40 + 8 * n ≤ p.length)
  && (List.range n).all fun k =>
    decide (2 ≤ (fitSeq p k).2) && decide ((fitSeq p k).2 ≤ 129) && bytesAt p (0x46 + 8 * k) 2 == 0
    && decide ((fitSeq p k).1 + 4 * (fitSeq p k).2 ≤ p.length) && (fitTokens p k).all fun t => decide (t < vocab)

/-- Hub `h` has a fit slot bound to model slot `m`. -/
def State.fitOn (s : State) (h : Hub) (m : Nat) : Bool :=
  (List.range' (16 * hubNum h) 16).any fun t => s.fitSlot m t && s.towBound t m

/-- Steps 2 and 6 to 13 of R185 for WAX_FIT, in the order of R251. -/
def State.waxFitCheck (s : State) (q : Nat) (d : Desc) (data : Option (List Byte)) : Option Nack :=
  let m := dSlot d
  let x := s.waxAt (dWaxIndex d)
  if !descBytesOk d then nack stBadParam (some 0x0D)
  else if !s.slotHolds m then nack stNoModel none
  else if !s.waxReady (dWaxIndex d) (s.get (Fld.QP_CFG_TENANT.sel q)) m then nack stWaxDenied (some 0x13)
  else if x.fit.isSome ∨ x.state = .moving ∨ x.load.isSome then nack stWaxBusy none
  else if !s.fitOn .he m ∧ !s.fitOn .hw m then nack stWaxNofit none
  else if s.longsFull q then nack stBusy none
  else if (s.freeBibs.head 65536).isNone then nack stTableFull none
  else
    match data with
    | none => nack stDmaError (some 0x0B)
    | some p => if paramOk (p.take (dfield d 0x10 4)) (s.vocab m) then none else nack stBadParam (some 0x0D)

/-- The home hub of a fit: one with a fit slot of the model slot, by R208 where both have one. DEDUCED; log entry 35. -/
def State.fitHub (s : State) (m : Nat) : Hub :=
  match s.fitOn .he m, s.fitOn .hw m with
  | true, false => .he
  | false, true => .hw
  | _, _ => s.roomierHub m

/-- The value of an element of a block in FP32 (R236). -/
def WaxEntry.value (e : WaxEntry) (c : Int) : Word := (Fp.scale (Fp.ofInt c) ((e.e.toNat : Int) - 127)).1

/-- The layer takes part in the fit, and the vector is trained. -/
def Fit.trains (f : Fit) (l vec : Nat) : Bool :=
  decide (f.layerFirst ≤ l) && decide (l ≤ f.layerLast) && f.mask.getLsbD vec

/-- The trained blocks of a set, layer by layer in entry order: layer and place. -/
def Wax.trained (x : Wax) (f : Fit) : List (Nat × Nat) :=
  ((List.range x.layers.length).zip x.layers).flatMap fun r =>
    ((List.range r.2.length).zip r.2).filterMap fun e => if f.trains r.1 e.2.vec then some (r.1, e.1) else none

/-- The fit that a parameter block asks for. -/
def newFit (p : List Byte) (prio i q : Nat) (cid : BitVec 16) : Fit :=
  { steps := bytesAt p 0 4, lr := BitVec.ofNat 32 (bytesAt p 8 4), momentum := BitVec.ofNat 32 (bytesAt p 0x0C 4)
    kappa := BitVec.ofNat 8 (bytesAt p 0x10 1), mask := BitVec.ofNat 8 (bytesAt p 0x11 1), priority := prio
    layerFirst := bytesAt p 0x14 2, layerLast := bytesAt p 0x16 2
    seqs := (List.range (bytesAt p 4 4)).map (fitTokens p), done := 0, loss := 0#32, bib := i, qp := q, cid := cid
    master := [], mom := [], pages := [], ran := false, dropped := false }

/-- The fit with its FP32 masters at the loaded values and its momenta 0 (R249). -/
def Wax.startFit (x : Wax) (f : Fit) : Fit :=
  let bs := (x.trained f).map fun t => (x.layers.getD t.1 []).getD t.2 ⟨0, 0, 0#8, []⟩
  { f with master := bs.map fun e => e.codes.map e.value, mom := bs.map fun e => e.codes.map fun _ => 0#32 }

/-- The internal bib of a fit, in ADMITTED (R247). -/
def State.fitBib (s : State) (q i w m prio : Nat) : Bib :=
  { (Bib.free (s.bib i).gen) with
    state := .admitted
    cause := .open
    home := s.fitHub m
    kind := .fit w
    priority := prio
    tenant := s.get (Fld.QP_CFG_TENANT.sel q)
    modelSlot := m
    qp := q
    admitLap := s.lap
    kvBase := kvBaseOf i
    pageList := pageListOf i
    wax := some w
    silent := true }

/-- An accepted WAX_FIT (R247). -/
def State.waxFitAccept (s : State) (q : Nat) (d : Desc) (p : List Byte) : State :=
  match s.freeBibs.head 65536 with
  | none => s
  | some i =>
    let w := dWaxIndex d
    let prio := s.floorPrio q (bytesAt p 0x12 1)
    let b := s.fitBib q i w (dSlot d) prio.1
    let s1 := (s.modFree fun f => f.pop 65536).putBib i b
    let x := s1.waxAt w
    let s2 := (s1.putWax w { x with fit := some (x.startFit (newFit p prio.1 i q (dCid d))) }).takeWax (some w)
    let s3 := (s2.tally 17 0x12 1 (some b.home)).modQp q fun y => { y with longs := y.longs ++ [dCid d] }
    s3.emit q { plainRecord 0#32 (dCid d) .cmd stOk 0 0 0 with adj := prio.2 }

/-- WAX_FIT (R247, R251). -/
def execWaxFit (q : Fin 16384) (d : Desc) (data : Option (List Byte)) (s : State) : Host.Outcome State Fault Refusal :=
  .next (s.command q 0x21 d 0#32 (s.waxFitCheck q d data) fun s =>
    s.waxFitAccept q d ((data.getD []).take (dfield d 0x10 4)))

/-- One element's update: momentum, then value (R249). -/
def fitElement (f : Fit) (v m g : Word) : Word × Word :=
  let m' := (Fp.add (Fp.mul f.momentum m).1 g).1
  ((Fp.add v (Fp.negate (Fp.mul f.lr m').1)).1, m')

/-- One block's update. -/
def fitBlock (f : Fit) (v m g : List Word) : List Word × List Word :=
  let r := (List.range v.length).map fun j => fitElement f (v.getD j 0#32) (m.getD j 0#32) (g.getD j 0#32)
  (r.map Prod.fst, r.map Prod.snd)

/-- A block requantised from its masters: Q = 127, HR = 0, E_MIN = −127 (R190, R249). -/
def WaxEntry.requant (n : WaxEntry) (v : List Word) : WaxEntry :=
  let a := fmaxOf (v.map Fp.abs)
  let e0 := if (Fp.mag a).1 = 0 then -127 else ceilLog2 (Fp.div a (Fp.ofInt 127)).1
  let e := max (-127) (min 127 e0)
  { n with e := BitVec.ofNat 8 (e + 127).toNat, codes := v.map fun x => (streamCode 127 e x).1 }

/-- WAX_FIT_UPDATE (R249): a step has run in the lap that ended. -/
def State.fitUpdate (s : State) (w : Nat) (grads : List (List Word)) (loss : Word) (sat : Nat) : State :=
  let x := s.waxAt w
  match x.fit with
  | none => s
  | some f =>
    if !f.ran then s
    else
      let ts := x.trained f
      let new := (List.range ts.length).map fun k => fitBlock f (f.master.getD k []) (f.mom.getD k []) (grads.getD k [])
      let layers := ((List.range ts.length).zip ts).foldl (fun ls t =>
        modifyAt ls t.2.1 fun l => modifyAt l t.2.2 fun n => n.requant (new.getD t.1 ([], [])).1) x.layers
      let f' := { f with master := new.map Prod.fst, mom := new.map Prod.snd, done := f.done + 1, loss := loss, ran := false }
      let s1 := s.putWax w { x with layers := layers, steps := x.steps + 1, loss := loss, versionLap := s.lap, fit := some f' }
      ((s1.count Reg.WAX_FIT_STEP 1).count Reg.WAX_FIT_SAT sat).tally 21 0x11 1 (some (s.bib f.bib).home)

/-- WAX_FIT_UPDATE (R249). -/
def execWaxFitUpdate (index : Fin 131072) (grads : List (List Word)) (loss : Word) (sat : Nat) (s : State) :
    Host.Outcome State Fault Refusal :=
  .next (s.fitUpdate index grads loss sat)

/-- A fit ends, and its internal bib with it (R250). -/
def State.finishFit (s : State) (w : Nat) (f : Fit) (status : Byte) : State := (s.endFit w status).endInternal f.bib

/-- WAX_FIT_END (R250): every step is done, or the cutoff after a drop has passed. -/
def execWaxFitEnd (index : Fin 131072) (s : State) : Host.Outcome State Fault Refusal :=
  match (s.waxAt index).fit with
  | some f =>
    if f.steps ≤ f.done then .next (s.finishFit index f stOk)
    else if f.dropped then .next (s.finishFit index f stWaxDropped)
    else .next s
  | none => .next s

/-- The cutoff reaches the fits of sets that drain (R250). -/
def State.dropFits (s : State) : State :=
  s.setWax (s.wax.map fun _ x =>
    match x.fit with
    | some f => if x.state = .draining then { x with fit := some { f with dropped := true } } else x
    | none => x)

/-! ### Poison and the registers (R243, R254) -/

/-- WAX_RECORD_POISON (R243): the wave's bibs that select the set end, and the set drains. -/
def State.poisonWax (s : State) (w wave : Nat) : State :=
  let x := s.waxAt w
  if x.state = .absent ∨ x.state = .loading then s
  else
    let s1 := s.putWax w { x with state := .draining }
    let s2 := (List.range 128).foldl (fun s k =>
      match s.holder wave k with
      | some i => if (s.bib i).wax = some w ∧ (s.bib i).mayFault then s.endPoisoned i else s
      | none => s) s1
    (s2.raise Fld.WAX_EVT_POISON).waxSettle w

/-- WAX_RECORD_POISON (R243). -/
def execWaxRecordPoison (index : Fin 131072) (wave : Fin 96) (s : State) : Host.Outcome State Fault Refusal :=
  .next (s.poisonWax index wave)

/-- A write of `v` to WAX_SEL: the selected index's values are latched (R254). -/
def State.selectWax (s : State) (v : Word) : State :=
  let w := wordBits v 0 17
  let x := s.waxAt w
  let s1 := (s.put Fld.WAX_SEL_INDEX w).put Fld.WAX_STS_STATE (waxCode x.state)
  let s2 := ((s1.put Fld.WAX_STS_MODEL_SLOT x.modelSlot).putB Fld.WAX_STS_FITTING x.fitting).put Fld.WAX_STS_TENANT x.tenant
  let s3 := (s2.put Fld.WAX_REFS_REFS x.refs).wr64 Reg.WAX_VER_LAP x.versionLap
  (s3.put Fld.WAX_FIT_STEPS_STEPS x.steps).put Fld.WAX_FIT_LOSS_LOSS x.loss.toNat

/-- WAX_SEL (R254). -/
def execWaxSel (v : Word) (s : State) : Host.Outcome State Fault Refusal :=
  .next (if s.hidden Reg.WAX_SEL then s.undecoded Reg.WAX_SEL else s.selectWax v)

end Sys2Proof.Machine
end

