-- ==== Sys2Proof/Machine/Planner.lean ====
section
/-!
DEFINITION. The planning pass (R126, R134-R145, R198, R225, R242, R299): the snapshot, sizing of chunks, withholding, credits, the
grant loop, the KV test, lodging.
-/

namespace Sys2Proof.Machine

/-! ### Values per hub -/

/-- The hub's part of a pair HE, HW. -/
def onSide {α : Type} (h : Hub) (p : α × α) : α :=
  match h with
  | .he => p.1
  | .hw => p.2

/-- That part changed by `f`. -/
def modSide {α : Type} (h : Hub) (f : α → α) (p : α × α) : α × α :=
  match h with
  | .he => (f p.1, p.2)
  | .hw => (p.1, f p.2)

/-- The pair of a function of the hub. -/
def sides {α : Type} (f : Hub → α) : α × α := (f .he, f .hw)

/-! ### The snapshot (R126, R155, R209, R250, R311) -/

/-- The running lap still owes the bib of entry `i` a sampled token (R155). -/
def State.tokenOwed (s : State) (i : Nat) : Bool :=
  let b := s.bib i
  b.kind == .normal && !b.replay && match b.state, b.decSlot with
    | .decoding, some d => !decide (d ∈ s.plan.sampled)
    | .towing, _ => decide (0 < b.chunk) && b.chunk == b.inputs.length && !b.prefillDone
    | _, _ => false

/-- The pending transition of entry `i` at a cutoff: at once, or behind the token of the lap. DEDUCED; log entry 36. -/
def State.pendAtCutoff (s : State) (i : Nat) : State :=
  if (s.bib i).pend = .none then s
  else if s.tokenOwed i then s.modPlan fun p => { p with parting := p.parting ++ [s.bibId i] }
  else s.applyPend i

/-- Abandoned builds end (R209). -/
def State.dropBuilds (s : State) : State :=
  (s.kvm.prefixes.entries.filter fun e => e.2.state == .building && e.2.dropped).foldl (fun s e =>
    (s.endInternal e.2.bib).failBuild e.1 stPrefixDropped) s

/-- The verdicts of fingerprints reach the slots (R311). -/
def State.applyVerdicts (s : State) : State :=
  s.modLdr fun l => { l with slots := l.slots.map fun _ x =>
    match x.verdictNext with
    | some v => { x with expelled := v, verdictNext := none }
    | none => x }

/-- Reserve units are claimed for planned fences (R299). -/
def State.claimPlanned (s : State) : State :=
  (s.fab.tiles.entries.filter fun e => e.2.plannedFence && !e.2.fenceClaimed).foldl (fun s e =>
    let d := e.1 / 8448
    let t := e.1 % 8448
    (s.claimBoth d t).modTile d t fun x => { x with fenceClaimed := true }) s

/-- What precedes the pass in the SYS cycle of the cutoff. -/
def State.takeSnapshot (s : State) : State :=
  let s1 := s.liveBibs.foldl (fun s i => s.pendAtCutoff i) s
  ((s1.dropBuilds.dropFits).applyVerdicts).claimPlanned

/-! ### Tow chunks (R222, R225) -/

/-- Cycles of one wave of a chunk at one layer and KV head: `l` what it attends to in order, `n0` the positions before the chunk, its
tokens `lo` to `hi` - 1 of the chunk (R221, R222). -/
def towWaveCycles (x : Model) (l : List (Nat × Nat)) (n0 lo hi : Nat) : Nat :=
  if hi ≤ lo then 0
  else
    let l' := l.take (n0 + hi)
    ((List.range (ceilDiv l'.length 4096)).map fun g =>
      24 + ((stepsOf l' g).map fun st =>
        ((List.range' lo (hi - lo)).filter fun k => st.2.any fun p => decide (p.1 < n0 + k + 1)).length
          * x.sharing * x.dh / 128).sum).sum

/-- Lane cycles of the two waves of a chunk of `c` positions after the positions `before`, the first of the chunk at sequence position
`p` (R225). -/
def chunkCycles (x : Model) (before : List (Nat × Nat)) (p c : Nat) : Nat :=
  let l := before ++ (List.range c).map fun j => ((p + j) / 64, p + j)
  x.layers * x.kvheads
    * (towWaveCycles x l before.length 0 (min c 128) + towWaveCycles x l before.length 128 c)

/-- The positions that entry `i` has resident when the planned lap begins, each with the number of its block. -/
def State.positionsBefore (s : State) (i : Nat) : List (Nat × Nat) :=
  let b := s.bib i
  let stored := if b.granted ∨ !b.blocks.isEmpty then
      ((b.blocks.filter fun k => !k.leaving).flatMap fun k => (List.range k.fill).map fun j => k.pos0 + j)
    else List.range (s.pfxLen b)
  (stored ++ List.range' (s.nextPos b) (s.inflight i)).map fun p => (p / 64, p)

/-- Lane cycles of a chunk of `c` positions of entry `i` in the planned lap. -/
def State.laneCycles (s : State) (i c : Nat) : Nat :=
  match s.ldr.slots.get? (s.bib i).modelSlot with
  | some x => chunkCycles x (s.positionsBefore i) (s.plannedPos i) c
  | none => 0

/-- ATT_TOWLANE of hub `h` in cycles (R234). -/
def State.towLane (s : State) (h : Hub) : Nat :=
  65536 * s.get (match h with | .he => Fld.ATT_TOWLANE_HE | .hw => Fld.ATT_TOWLANE_HW)

/-- The largest chunk of entry `i`, of at most `m` positions, that fits beside `used` cycles on its hub; 0 when none does (R225). -/
def State.chunkSize (s : State) (i m used : Nat) : Nat :=
  let room := s.towLane (s.bib i).home - used
  ((List.range' 1 m).reverse.find? fun c => decide (s.laneCycles i c ≤ room)).getD 0

/-! ### The state of a pass -/

/-- What a pass keeps beside the plan, HE and HW: lane cycles of sized chunks, NEW_LIMIT, KV reads and headroom (R142); the candidates
that did not fit, and those of them that the KV test alone refused. -/
structure Pass where
  lane : Nat × Nat
  limit : Option Nat × Option Nat
  proj : Nat × Nat
  head : Nat × Nat
  failed : List Nat
  refused : List Nat

/-- An empty pass. -/
def Pass.start : Pass :=
  { lane := (0, 0), limit := (none, none), proj := (0, 0), head := (0, 0), failed := [], refused := [] }

/-- Cycles sized on hub `h` grow by `n`. -/
def Pass.addLane (p : Pass) (h : Hub) (n : Nat) : Pass := { p with lane := modSide h (· + n) p.lane }

/-- Reads and headroom on hub `h` grow. -/
def Pass.addReads (p : Pass) (h : Hub) (reads room : Nat) : Pass :=
  { p with proj := modSide h (· + reads) p.proj, head := modSide h (· + room) p.head }

/-! ### Held slots (R134, R136, R225) -/

/-- TOWING bibs that hold a tow slot and have positions left after the running lap, in ascending tow slot order (R134). -/
def State.heldTow (s : State) : List (Nat × Nat) :=
  let l := s.bibs.entries.filterMap fun e =>
    match e.2.towSlot with
    | some t =>
      if e.2.state = .towing ∧ !e.2.prefillDone ∧ 0 < s.inputsLeft e.1 ∧ !decide (s.bibId e.1 ∈ s.plan.parting)
          ∧ !e.2.isFit then some (t, e.1) else none
    | none => none
  sortBy (fun x y => decide (x.1 ≤ y.1)) l

/-- A held chunk is sized and stands in the plan; one for which no size fits leaves its slot empty (R225). -/
def State.holdTow (a : Pass × State) (x : Nat × Nat) : Pass × State :=
  let s := a.2
  let i := x.2
  let h := (s.bib i).home
  let c := s.chunkSize i (min 256 (s.inputsLeft i)) (onSide h a.1.lane)
  let cyc := if c = 0 then 0 else s.laneCycles i c
  (a.1.addLane h cyc,
    s.modPlan fun p => { p with grants := p.grants ++ [⟨s.bibId i, .tow, x.1, c, false, true, (s.bib i).replay, false⟩] })

/-- Every held chunk sized. -/
def State.holdTows (s : State) : Pass × State := s.heldTow.foldl State.holdTow (Pass.start, s)

/-- The highest-numbered `n` tow slots of hub `h`. -/
def highestTow (h : Hub) (n : Nat) : List Nat := List.range' (16 * hubNum h + (16 - n)) n

/-- Tow slots withheld on hub `h` in the pass (R136): for energy, or all 16 under R104. -/
def State.withholdCount (s : State) (h : Hub) : Nat :=
  max (onHub s.ledger.withheld h) (if (match h with | .he => s.plan.fullHe | .hw => s.plan.fullHw) then 16 else 0)

/-- R136: the slots withheld; the bibs in them have no chunk in the plan and are candidates at once. -/
def State.withholdTows (a : Pass × State) : Pass × State :=
  let s := a.2
  let w := highestTow .he (s.withholdCount .he) ++ highestTow .hw (s.withholdCount .hw)
  let out := s.plan.grants.filter fun g => decide (g.slot ∈ w)
  (out.foldl (fun p g =>
    let i := idIndex g.bib
    if g.chunk = 0 then p else { p with lane := modSide (s.bib i).home (· - s.laneCycles i g.chunk) p.lane }) a.1,
   s.modPlan fun p => { p with withheld := w, grants := p.grants.filter fun g => !decide (g.slot ∈ w) })

/-- The ledger's withholding and NEW_LIMIT (R332). -/
def State.ledgerPass (a : Pass × State) : Pass × State :=
  let ((eP, short), s) := a.2.ledgerWithhold
  let lim := if short then sides fun h => s.newLimit h eP else (none, none)
  ({ a.1 with limit := lim }, (s.put Fld.LAP_ENEW_HE (limitCode lim.1)).put Fld.LAP_ENEW_HW (limitCode lim.2))

/-! ### Credits (R137) -/

/-- C of a tenant. -/
def State.tenantCredit (s : State) (t : Nat) : Int := (s.rd (keyAt t Reg.LAP_TCREDIT)).toInt

/-- C of a tenant set. -/
def State.setTenantCredit (s : State) (t : Nat) (c : Int) : State := s.wr (keyAt t Reg.LAP_TCREDIT) (BitVec.ofInt 32 c)

/-- W of a tenant. -/
def State.weight (s : State) (t : Nat) : Nat := s.get (Fld.LAP_TWEIGHT_WEIGHT.sel t)

/-- CHG of a tenant. -/
def State.chargeRate (s : State) (t : Nat) : Nat := 65536 / max (s.weight t) 1

/-- A tenant is charged `cost` token vectors. -/
def State.charge (s : State) (t cost : Nat) : State := s.setTenantCredit t (s.tenantCredit t - (cost * s.chargeRate t : Nat))

/-- The bib makes its tenant active. -/
def Bib.active (b : Bib) : Bool :=
  b.state == .admitted || b.state == .towing || b.state == .decoding || b.state == .lodged

/-- Tenants active now, ascending. -/
def State.activeTenants (s : State) : List Nat :=
  s.bibs.values.foldl (fun l b => if b.active then insertNat b.tenant l else l) []

/-- Tenants with a written credit. -/
def State.creditTenants (s : State) : List Nat :=
  s.rf.regs.keys.filterMap fun k => if k % selStride = Reg.LAP_TCREDIT then some (k / selStride) else none

/-- Step 2 of R137: what entry `i` is charged for the slot that it holds into the planned lap. -/
def State.chargeHeld (s : State) (i : Nat) : State :=
  match s.plannedPositions i with
  | some n => s.charge (s.bib i).tenant n
  | none => s

/-- R137. -/
def State.credits (s : State) : State :=
  let now := s.activeTenants
  let old := s.plan.active
  let s1 := (s.creditTenants.filter fun t => !decide (t ∈ now)).foldl (fun s t => s.setTenantCredit t 0) s
  let s2 := s1.liveBibs.foldl (fun s i => s.chargeHeld i) s1
  let s3 := match old with
    | [] => s2
    | t :: r =>
      let top := r.foldl (fun m u => max m (s2.tenantCredit u)) (s2.tenantCredit t)
      old.foldl (fun s u => s.setTenantCredit u (max (s.tenantCredit u - top) (-(2 ^ 30)))) s2
  let new := now.filter fun t => !decide (t ∈ old)
  let s4 := new.foldl (fun s t => s.setTenantCredit t 0) s3
  let gone := old.filter fun t => !decide (t ∈ now)
  let s5 := gone.foldl (fun s t => s.put (Fld.LAP_TWEIGHT_ACTIVE.sel t) 0) s4
  (now.foldl (fun s t => s.put (Fld.LAP_TWEIGHT_ACTIVE.sel t) 1) s5).modPlan fun p => { p with active := now }

/-! ### KV reads (R142) -/

/-- Reads of a decode slot. -/
def State.decodeReads (s : State) (i : Nat) : Nat := (s.plannedResident i + 1) * s.bytesPer (s.bib i)

/-- Headroom of a decode slot. -/
def State.headroom (s : State) (i : Nat) : Nat := 64 * s.bytesPer (s.bib i)

/-- Reads of a tow chunk of `c` positions after `p`. -/
def towReads (b p c : Nat) : Nat := if c = 0 then 0 else (p + min c 128) * b + (if 128 < c then (p + c) * b else 0)

/-- Reads of a chunk of entry `i`. -/
def State.chunkReads (s : State) (i c : Nat) : Nat := towReads (s.bytesPer (s.bib i)) (s.plannedResident i) c

/-- KV_BUDGET of a hub. -/
def State.kvBudget (s : State) (h : Hub) : Nat :=
  s.rd64 (match h with | .he => Reg.LAP_KV_BUDGET_HE | .hw => Reg.LAP_KV_BUDGET_HW)

/-- The bib of entry `i` decodes in the planned lap without a grant. -/
def State.holdsDec (s : State) (i : Nat) : Bool := (s.bib i).state == .decoding && (s.plannedPositions i).isSome

/-- Reads and headroom of the slots held into the planned lap (R142). -/
def State.heldReads (s : State) (p : Pass) : Pass :=
  let p1 := (s.liveBibs.filter fun i => s.holdsDec i).foldl (fun p i =>
    p.addReads (s.bib i).home (s.decodeReads i) (s.headroom i)) p
  s.plan.grants.foldl (fun p g =>
    p.addReads (s.bib (idIndex g.bib)).home (s.chunkReads (idIndex g.bib) g.chunk) 0) p1

/-! ### Candidates and their order (R134, R138, R247) -/

/-- A fit has a step left to grant. -/
def State.fitWants (s : State) (b : Bib) (w : Nat) : Bool :=
  match (s.waxAt w).fit with
  | some f =>
    !f.dropped && (s.waxAt w).state == .hbm
    && decide (f.done + f.ran.toNat + (b.towSlot.isSome && !b.replay).toNat < f.steps)
  | none => false

/-- The kind of candidate that entry `i` is, if any. A guest is none (R229); a spread bib decodes after its handoff. -/
def State.candidate (s : State) (i : Nat) : Option SlotKind :=
  let b := s.bib i
  let tows := (b.state == .admitted || b.state == .towing) && !b.prefillDone
    && !(s.plan.grants.any fun g => g.bib == s.bibId i) && decide (0 < s.inputsLeft i)
  let decodes := b.prefillDone && (b.state == .towing || (b.state == .lodged && b.restored)) && (!b.spread || b.handedOff)
  if s.bibId i ∈ s.plan.parting then none
  else
    match b.kind with
    | .guest _ _ => none
    | .fit w => if (b.state = .admitted ∨ b.state = .towing) ∧ s.fitWants b w then some .fit else none
    | _ => if decodes then some .decode else if tows then some .tow else none

/-- The candidates, ascending. -/
def State.candidates (s : State) : List (Nat × SlotKind) :=
  s.liveBibs.filterMap fun i => (s.candidate i).map fun k => (i, k)

/-- key(b) (R138). -/
def State.key (s : State) (i : Nat) : List Nat :=
  let b := s.bib i
  [b.priority, b.deadline.getD (2 ^ 64), (2 ^ 31 - s.tenantCredit b.tenant).toNat, b.admitLap, i]

/-- A candidate has been granted in the pass. -/
def State.grantedNow (s : State) (i : Nat) : Bool := s.plan.grants.any fun g => g.bib == s.bibId i

/-- A blocking candidate that is not yet granted stands before candidate `i` on its hub (R139). -/
def State.blocked (s : State) (all : List (Nat × SlotKind)) (i : Nat) (k : SlotKind) : Bool :=
  k != .fit && all.any fun c =>
    (s.bib c.1).blocking && c.1 != i && (s.bib c.1).home == (s.bib i).home && !s.grantedNow c.1
    && lexLe (s.key c.1) (s.key i)

/-! ### fits() (R138) -/

/-- Decode slot `d` is free in the planned lap: no bib holds it into the lap and none is granted it. -/
def State.decFree (s : State) (d : Nat) : Bool :=
  !(s.liveBibs.any fun i => (s.bib i).decSlot == some d && s.holdsDec i)
  && !(s.plan.grants.any fun g => g.kind == .decode && g.slot == d)

/-- Slot `k` of wave `w` lies in the part of another member (R230). -/
def State.othersPart (s : State) (w k : Nat) : Bool :=
  decide (0 < s.groupSize) && decide (k < s.groupSize * (s.spreadOf w / s.groupSize)) && !decide (k ∈ s.ownPart w)

/-- The lowest decode slot that fits bib `b` (conditions 1 and 2). -/
def State.decodeSlot (s : State) (b : Bib) : Option Nat :=
  (List.range' (2048 * hubNum b.home) 2048).find? fun d =>
    s.decBound d b.modelSlot && !s.othersPart (d / 128) (d % 128)
    && (!b.spread || decide (d % 128 ∈ s.ownPart (d / 128))) && s.decFree d

/-- The lowest tow slot, or fit slot, that fits bib `b` (condition 1, R245). -/
def State.towSlot (s : State) (b : Bib) (fit : Bool) : Option Nat :=
  (List.range' (16 * hubNum b.home) 16).find? fun t =>
    s.towBound t b.modelSlot && s.fitSlot b.modelSlot t == fit && !decide (t ∈ s.plan.withheld)
    && !decide (t ∈ s.plan.lateWithheld) && !(s.plan.grants.any fun g => g.kind != .decode && g.slot == t)

/-- The slot of a candidate's kind. -/
def State.slotFor (s : State) (b : Bib) (k : SlotKind) : Option Nat :=
  match k with
  | .decode => s.decodeSlot b
  | .tow => s.towSlot b false
  | .fit => s.towSlot b true

/-- The chunk of a candidate: 1 for a decode slot, 128 positions for a fit step where lane time allows, else as R225 sizes it. -/
def State.candidateChunk (s : State) (p : Pass) (i : Nat) (k : SlotKind) : Nat :=
  let b := s.bib i
  let used := onSide b.home p.lane
  match k with
  | .decode => 1
  | .fit => if s.laneCycles i 128 + used ≤ s.towLane b.home then 128 else 0
  | .tow => s.chunkSize i (min 256 (s.inputsLeft i)) used

/-- Reads of a candidate. -/
def State.candidateReads (s : State) (i c : Nat) (k : SlotKind) : Nat :=
  match k with
  | .decode => s.decodeReads i
  | _ => s.chunkReads i c

/-- The KV test of R142. -/
def State.kvTest (s : State) (p : Pass) (i c : Nat) (k : SlotKind) : Bool :=
  let h := (s.bib i).home
  decide (onSide h p.proj + s.candidateReads i c k + onSide h p.head + (if k = .decode then s.headroom i else 0) ≤ s.kvBudget h)

/-- A first tow grant, or a decode grant, of a hub whose NEW_LIMIT is exhausted (condition 3). -/
def Pass.limited (p : Pass) (b : Bib) (k : SlotKind) : Bool :=
  (k == .decode || (k == .tow && !b.granted)) && onSide b.home p.limit == some 0

/-- The set that the bib selects is in HBM (R242), and an expelled slot makes no first tow grant (R311). -/
def State.servable (s : State) (b : Bib) (k : SlotKind) : Bool :=
  (match b.wax with | some w => (s.waxAt w).state == .hbm | none => true)
  && !(k == .tow && !b.granted && (match s.ldr.slots.get? b.modelSlot with | some x => x.expelled | none => false))

/-! ### The page condition (R138, R197, R208, R247) -/

/-- The shared blocks of a prefix as a bib maps them. -/
def sharedBlocks (x : Prefix) : List Block := (x.blocks.take (x.length / 64)).map fun k => { k with shared := true }

/-- The partial last block of a prefix copied into the bib's first own block (R197). -/
def State.copyPartial (s : State) (i : Nat) (x : Prefix) : State :=
  match x.blocks[x.length / 64]? with
  | none => s
  | some k =>
    let fill := fun (y : Block) =>
      if y.pos0 = k.pos0 ∧ !y.shared then
        { y with fill := k.fill, score := k.score, scales := k.scales
                 poison := ((k.pages.zip y.pages).filter fun z => decide (z.1 ∈ k.poison)).map Prod.snd }
      else y
    let s1 := s.modBib i fun b => { b with blocks := b.blocks.map fill }
    let mine := s.kvm.vectors.entries.filter fun e =>
      e.1 / 2 ^ 64 == k.owner && decide (k.pos0 ≤ e.1 % 2 ^ 64 / 131072) && decide (e.1 % 2 ^ 64 / 131072 < k.pos0 + 64)
    s1.modKvm fun m => { m with vectors := mine.foldl (fun t e => t.put (i * 2 ^ 64 + e.1 % 2 ^ 64) e.2) m.vectors }

/-- The first tow reservation (R197): prefix length + PROMPT_LEN + 64 positions; the prefix's full blocks are shared. -/
def State.reserve (s : State) (i : Nat) : PageAnswer × State :=
  let b := s.bib i
  let x := if b.pfxHandle = 0 then Prefix.free 1 else s.pfx (b.pfxHandle % 65536)
  let full := if b.pfxHandle = 0 then [] else sharedBlocks x
  let s0 := s.modBib i fun b => { b with blocks := full }
  match s0.growTo i (s.pfxLen b + b.promptLen + 64) with
  | (.granted ps ls, s1) =>
    let s2 := s1.modBib i fun b => { b with granted := true }
    (.granted ps ls, if b.pfxHandle = 0 then s2 else s2.copyPartial i x)
  | (a, s1) => (a, s1.modBib i fun y => { y with blocks := b.blocks })

/-- Positions of step `n` of a fit: its sequence less the last token (R248). -/
def Fit.stepTokens (f : Fit) (n : Nat) : List Nat := (f.seqs.getD (n % f.seqs.length) []).dropLast

/-- The step that a fit runs next: after those done, one whose update waits, and the one in the running lap. -/
def Fit.nextStep (f : Fit) (b : Bib) : Nat := f.done + f.ran.toNat + (b.towSlot.isSome && !b.replay).toNat

/-- The pages of a fit's grant (R247): with the first the FIT_STORE pages, and pages for the step's positions plus 64, in one
request. -/
def State.fitPages (s : State) (i w : Nat) : PageAnswer × State :=
  let b := s.bib i
  match (s.waxAt w).fit with
  | none => (.quotaFull, s)
  | some f =>
    if b.granted then s.growTo i ((f.stepTokens (f.nextStep b)).length + 64)
    else
      let store := (s.waxDir b.modelSlot).fitStore
      let k := ceilDiv ((f.stepTokens 0).length + 64) 64
      let pb := s.pbOf b
      match s.requestHbm b.home b.tenant (store + k * pb) (listPagesFor (k * pb)) with
      | (.granted ps ls, s1) =>
        let s2 := s1.modBib i fun b =>
          { b with granted := true, blocks := cutBlocks i 0 pb (ps.drop store) k, listPages := ls }
        (.granted ps ls, s2.putWax w { (s2.waxAt w) with fit := some { f with pages := ps.take store } })
      | (a, s1) => (a, s1)

/-- The page condition of a candidate (condition 5). -/
def State.pageCondition (s : State) (i c : Nat) (k : SlotKind) : PageAnswer × State :=
  let b := s.bib i
  match k, b.kind with
  | .fit, .fit w => s.fitPages i w
  | .tow, _ => if b.granted then s.growTo i (s.plannedPos i + c + 64) else s.reserve i
  | _, _ => s.growTo i (s.plannedPos i + c + 64)

/-- A refused reservation of a prefix build ends it (R196 requester 2, R208). -/
def State.refusePages (s : State) (i : Nat) (a : PageAnswer) : State :=
  match (s.bib i).kind with
  | .build p =>
    if (s.bib i).granted then s
    else (s.endInternal i).failBuild p (if a = .quotaFull then stQuotaFull else stPoolEmpty)
  | _ => s

/-! ### The grant loop (R138) -/

/-- A grant made: the plan, NEW_LIMIT, the reads, the charge. -/
def State.makeGrant (s : State) (p : Pass) (i slot c : Nat) (k : SlotKind) (first : Bool) : Pass × State :=
  let b := s.bib i
  let h := b.home
  let p1 := p.addReads h (s.candidateReads i c k) (if k = .decode then s.headroom i else 0)
  let p2 := if k = .decode then p1 else p1.addLane h (s.laneCycles i c)
  let p3 := if k = .decode ∨ (k = .tow ∧ first) then { p2 with limit := modSide h (Option.map (· - 1)) p2.limit } else p2
  let s1 := s.modPlan fun q => { q with grants := q.grants ++ [⟨s.bibId i, k, slot, c, first, false, false, false⟩], made := modSide h (· + 1) q.made }
  (p3, (s1.charge b.tenant (if k = .fit then 256 else c)).tally 16 0x10 1 (some h))

/-- A candidate is tested, its conditions in order, and granted when it fits. -/
def State.tryGrant (s : State) (p : Pass) (i : Nat) (k : SlotKind) : Pass × State :=
  let b := s.bib i
  let fail : Pass := { p with failed := i :: p.failed }
  match s.slotFor b k with
  | none => (fail, s)
  | some slot =>
    let c := s.candidateChunk p i k
    if p.limited b k ∨ c = 0 ∨ !s.servable b k then (fail, s)
    else if !s.kvTest p i c k then ({ fail with refused := i :: p.refused }, s.tally 16 0x11 1 (some b.home))
    else
      match s.pageCondition i c k with
      | (.granted _ _, s1) => s1.makeGrant p i slot c k (!b.granted)
      | (a, s1) => (fail, s1.refusePages i a)

/-- The candidate that the loop takes next: the first in key order, of a tenant with weight, not yet tested or granted, and not
blocked. -/
def State.nextCandidate (s : State) (p : Pass) (all : List (Nat × SlotKind)) : Option (Nat × SlotKind) :=
  let l := all.filter fun c =>
    !decide (c.1 ∈ p.failed) && !s.grantedNow c.1 && decide (s.weight (s.bib c.1).tenant ≠ 0) && !s.blocked all c.1 c.2
  l.foldl (fun best c =>
    match best with
    | none => some c
    | some x => if lexLe (s.key x.1) (s.key c.1) then some x else some c) none

/-- The grant loop, at most once for each candidate. DEDUCED, unsafe; log entry 37. -/
def State.grantLoop (all : List (Nat × SlotKind)) : Nat → Pass → State → Pass × State
  | 0, p, s => (p, s)
  | n + 1, p, s =>
    match s.nextCandidate p all with
    | none => (p, s)
    | some c => let r := s.tryGrant p c.1 c.2; State.grantLoop all n r.1 r.2

/-! ### Starvation and deadlines (R139, R140) -/

/-- A candidate after the loop: one refused by the KV test alone counts, and becomes blocking after KV_STARVE cutoffs in a row. -/
def State.starve (s : State) (p : Pass) (i : Nat) : State :=
  let b := s.bib i
  if b.state = .free then s
  else if s.grantedNow i then s.modBib i fun b => { b with starve := 0, blocking := false }
  else if i ∈ p.refused then
    let n := b.starve + 1
    let s1 := s.modBib i fun b => { b with starve := n }
    if s.get Fld.LAP_CFG_KV_STARVE ≤ n ∧ !b.blocking then
      (s1.modBib i fun b => { b with blocking := true }).raise Fld.LAP_EVT_KV_BLOCK
    else s1
  else if b.blocking then s
  else s.modBib i fun b => { b with starve := 0 }

/-- A candidate without its first grant whose deadline lap is before the planned lap, once (R140). -/
def State.deadlineMiss (s : State) (i : Nat) : State :=
  let b := s.bib i
  let late : Bool := match b.deadline with | some d => decide (d < s.lap + 1) | none => false
  if late ∧ !b.granted ∧ !b.dlMissed then
    ((s.modBib i fun b => { b with dlMissed := true }).count Reg.LAP_DL_MISS 1).raise Fld.LAP_EVT_DL_MISS
  else s

/-! ### After the loop (R142, R145) -/

/-- PROJ exceeds the budget of hub `h` by this. -/
def State.overBudget (s : State) (p : Pass) (h : Hub) : Nat := onSide h p.proj - s.kvBudget h

/-- Step 1 of R142 over held tow slots, highest first. -/
def State.withholdHeld (h : Hub) : List Grant → Pass → State → Pass × State
  | [], p, s => (p, s)
  | g :: r, p, s =>
    if s.overBudget p h = 0 then (p, s)
    else
      let p1 := { p with proj := modSide h (· - s.chunkReads (idIndex g.bib) g.chunk) p.proj }
      State.withholdHeld h r p1 (s.modPlan fun q =>
        { q with withheld := insertNat g.slot q.withheld, grants := q.grants.filter fun x => x != g })

/-- The held tow slots of hub `h` in the plan, highest-numbered first. -/
def State.heldGrants (s : State) (h : Hub) : List Grant :=
  let l := s.plan.grants.filter fun g =>
    g.kind == .tow && towHub g.slot == h && (s.bib (idIndex g.bib)).towSlot == some g.slot
  sortBy (fun x y => decide (y.slot ≤ x.slot)) l

/-- Step 3 of R142: decoding bibs are lodged, in reverse key order, until PROJ is within the budget and `allow` bytes. -/
def State.lodgeDecoding (h : Hub) (allow : Nat) : List Nat → Pass → State → Pass × State
  | [], p, s => (p, s)
  | i :: r, p, s =>
    if onSide h p.proj ≤ s.kvBudget h + allow then (p, s)
    else
      let p1 := { p with proj := modSide h (· - s.decodeReads i) p.proj, head := modSide h (· - s.headroom i) p.head }
      State.lodgeDecoding h allow r p1 ((s.planLodge i).count Reg.LAP_LODGE_CNT 1)

/-- Decoding bibs of hub `h` that may be lodged, in reverse key order. Guests follow their origin (R229). -/
def State.lodgeOrder (s : State) (h : Hub) : List Nat :=
  let l := s.liveBibs.filter fun i => (s.bib i).home == h && (s.bib i).kind == .normal && s.holdsDec i
  sortBy (fun x y => lexLe (s.key y) (s.key x)) l

/-- S of step 2 of R142, in µs. -/
def State.stretchWanted (s : State) (p : Pass) : Nat :=
  max (ceilDiv (s.overBudget p .he) 20000000) (ceilDiv (s.overBudget p .hw) 20000000)

/-- The stretch that the operations held for domain lap `t` give it: the largest, none beside a RESET (R288). -/
def State.gopStretch (s : State) (t : Nat) : Nat :=
  let due := s.lnk.held.filter fun x => x.gop.target.toNat == t && !x.late
  if due.any fun x => x.gop.op == 5#8 then 0
  else due.foldl (fun n x => if x.gop.op = 1#8 then max n (bits x.gop.arg.toNat 0 16) else n) 0

/-- Held slots withheld on both hubs while the plan is over budget (R142 steps 1 and 2). -/
def State.withholdReads (p : Pass) (s : State) : Pass × State :=
  let a := State.withholdHeld .he (s.heldGrants .he) p s
  State.withholdHeld .hw (a.2.heldGrants .hw) a.1 a.2

/-- The stretch that the plan may take (R143, R145). -/
def State.stretchMost (s : State) : Nat :=
  if s.inDomain then s.gopStretch (s.dlap s.lap + 1) else s.get Fld.LAP_CFG_STRETCH_MAX

/-- The planned stretch; in a domain, one that is not in force yet is proposed (R143, R145). -/
def State.takeStretch (s : State) (want : Nat) : State :=
  let w := min want (s.get Fld.LAP_CFG_STRETCH_MAX)
  let s1 := if s.inDomain ∧ s.stretchMost < w ∧ s.plan.proposed = none then
      s.modPlan fun q => { q with proposed := some (s.dlap s.lap + 2, w) }
    else s
  s1.modPlan fun q => { q with stretchNext := if s.inDomain then s.stretchMost else w }

/-- Decoding bibs lodged on both hubs while the plan is over budget with its stretch (R142). -/
def State.lodgeReads (most : Nat) (p : Pass) (s : State) : Pass × State :=
  let b := State.lodgeDecoding .he (20000000 * most) (s.lodgeOrder .he) p s
  State.lodgeDecoding .hw (20000000 * most) (b.2.lodgeOrder .hw) b.1 b.2

/-- Steps 1 to 3 of R142. A domain member takes the stretch that the operations give the lap, lodges with that alone, and proposes
what it wants for a lap two ahead (R145). -/
def State.afterLoop (p : Pass) (s : State) : Pass × State :=
  let a := State.withholdReads p s
  let want := a.2.stretchWanted a.1
  if want ≤ a.2.stretchMost then (a.1, a.2.takeStretch want)
  else State.lodgeReads a.2.stretchMost a.1 (a.2.takeStretch want)

/-! ### The pass -/

/-- Promotions requested for the candidates' sets that are in LODGE, and for a fit's own (R242, R251). -/
def State.promotions (s : State) : State :=
  let fits := s.wax.entries.filterMap fun e => if e.2.fit.isSome then some e.1 else none
  let cands := s.candidates.filterMap fun c => (s.bib c.1).wax
  let busy := cands ++ s.liveBibs.filterMap fun i =>
    if (s.bib i).decSlot.isSome ∨ (s.bib i).towSlot.isSome then (s.bib i).wax else none
  (((cands ++ fits).foldl (fun l w => insertNat w l) []).foldl (fun s w => s.promote busy w) s)

/-- Planned energy charges of the lap, in 256ths of a µJ (R326). -/
def State.plannedCharges (s : State) : Nat :=
  (s.decodeEnergy - 256 * (s.idleW * s.lapMs * 1000)) + (s.towCharges.map Prod.snd).sum

/-- The steps before the loop: held chunks, the ledger, credits, KV steps, promotions (R138, R332). -/
def State.planStart (s : State) : Pass × State :=
  let s0 := s.modPlan fun p => { p with grants := [], lodges := [], made := (0, 0), stretchNext := 0 }
  let a := State.withholdTows (State.ledgerPass s0.holdTows)
  let s2 := (a.2.credits).kvSteps
  (s2.heldReads a.1, s2.promotions)

/-- The loop over the candidates, with deadlines before it and starvation after it (R138-R140). -/
def State.planLoop (a : Pass × State) : Pass × State :=
  let all := a.2.candidates
  let r := State.grantLoop all all.length a.1 (all.foldl (fun s c => s.deadlineMiss c.1) a.2)
  (r.1, all.foldl (fun s c => s.starve r.1 c.1) r.2)

/-- One planning pass: R136 and R137, the KV steps, the grant loop, R139, R140, R142. -/
def State.planPass (s : State) : State :=
  let a := State.planLoop s.planStart
  let b := State.afterLoop a.1 a.2
  let s1 := b.2.modPlan fun q => { q with proj := b.1.proj, head := b.1.head, cutoffDone := true }
  s1.modLedger fun l => { l with plannedNext := s1.plannedCharges }

/-- Every section that the next layer of a REPLACE needs is staged: the layer's own, or with STAGE_LODGE all (R267, R269). -/
def LdrOp.staged (o : LdrOp) : Bool :=
  o.headerDone && (if o.stageLodge then o.dir.length == o.next
    else (o.dir.drop o.next).all fun e => decide (o.programmed < e.layer) && e.layer != 0xFFFF)

/-- At a cutoff a REPLACE requests the gate of its next layer, with GAP ungated laps since the last one opened (R267). -/
def State.askGate (s : State) : State :=
  match s.ldr.op with
  | some o =>
    let ungated := match s.ldr.slots.get? o.slot with | some x => x.ungated + 1 | none => 0
    let ready : Bool := match o.gate with
      | none => o.staged && decide (o.gap ≤ ungated)
      | some _ => o.verified && !o.late && o.gap == 0 && LdrOp.staged { o with programmed := o.programmed + 1 }
    if o.mode = .replace ∧ ready ∧ !o.aborting ∧ o.err = 0 then
      s.modLdr fun l => { l with op := some { o with gateAsked := true } }
    else s
  | none => s

/-- PLAN_CUTOFF (R126): once in a lap, while laps run. -/
def execPlanCutoff (s : State) : Host.Outcome State Fault Refusal :=
  if s.running ∧ !s.halted ∧ !s.plan.cutoffDone then .next (s.takeSnapshot).planPass.askGate else .next s

/-- LAP_TWEIGHT (R141): a later cutoff reads the weight. -/
def execLapTweight (v : Word) (s : State) : Host.Outcome State Fault Refusal :=
  .next (if s.hidden Reg.LAP_TWEIGHT then s.undecoded Reg.LAP_TWEIGHT else s.put (Fld.LAP_TWEIGHT_WEIGHT.sel (s.get Fld.LAP_TSEL_TENANT)) (wordBits v 0 8))

end Sys2Proof.Machine
end

