-- ==== Sys2Proof/Machine/Mirror.lean ====
section
/-!
DEFINITION. Checkpoints (R163, R301-R303), their mirrors and the rebuilds (R304-R306), and faults of the module (R293).
-/

namespace Sys2Proof.Machine

/-! ### Bytes of blocks (R189, R304) -/

/-- Codes two to a byte, the lower element in bits [3:0]. -/
def nibbleBytes : List Int → List Byte
  | a :: b :: r => (BitVec.ofInt 4 b ++ BitVec.ofInt 4 a : Byte) :: nibbleBytes r
  | [a] => [BitVec.ofNat 8 (BitVec.ofInt 4 a).toNat]
  | [] => []

/-- The codes of such bytes. -/
def bytesNibbles (l : List Byte) : List Int := l.flatMap fun b => [(b.extractLsb' 0 4).toInt, (b.extractLsb' 4 4).toInt]

/-- The streams of a block over some heads: layer, kind and head, in order (R189). -/
def Model.streams (x : Model) (heads : List Nat) : List (Nat × Nat × Nat) :=
  (List.range x.layers).flatMap fun l => [0, 1].flatMap fun kind => heads.map fun h => (l, kind, h)

/-- Bytes of one position of a stream of the kind. -/
def Model.posBytes (x : Model) (kind : Nat) : Nat := if x.key4 && kind == 0 then x.dh / 2 else x.dh

/-- A whole block in the layout of R189, from the streams held under `owner`, then one E8M0 code per stream. -/
def State.blockBytes (s : State) (x : Model) (heads : List Nat) (owner : Nat) (k : Block) : List Byte :=
  let enc := fun (kind : Nat) (l : List Int) =>
    if x.key4 && kind == 0 then nibbleBytes l else l.map fun c => BitVec.ofInt 8 c
  let st := x.streams heads
  (st.flatMap fun y => (List.range 64).flatMap fun j =>
    enc y.2.1 (s.kvm.vectors.getD (kvKey owner (k.pos0 + j) y.1 y.2.1 y.2.2) (List.replicate x.dh 0)))
  ++ st.map fun y => k.scales.getD (streamIndex x y.1 y.2.1 y.2.2) 0#8

/-- The vector of place `j` of a stream in such bytes, which begins at byte `o`. -/
def Model.decodeAt (x : Model) (kind : Nat) (bytes : List Byte) (o j : Nat) : List Int :=
  let n := x.posBytes kind
  let l := (bytes.drop (o + n * j)).take n
  if x.key4 && kind == 0 then bytesNibbles l else l.map fun b => b.toInt

/-- First byte of each stream in a block. -/
def Model.streamStarts (x : Model) (st : List (Nat × Nat × Nat)) : List Nat :=
  (st.foldl (fun (a : List Nat × Nat) y => (a.1 ++ [a.2], a.2 + 64 * x.posBytes y.2.1)) ([], 0)).1

/-- The stored vectors of positions `lo` to `hi - 1` that a block's bytes carry, under `owner`; the block begins at `pos0`. -/
def Model.decodeBlock (x : Model) (owner pos0 lo hi : Nat) (bytes : List Byte) : List (Nat × List Int) :=
  let st := x.streams (List.range x.kvheads)
  (st.zip (x.streamStarts st)).flatMap fun y =>
    (List.range' lo (hi - lo)).map fun p =>
      (kvKey owner p y.1.1 y.1.2.1 y.1.2.2, x.decodeAt y.1.2.1 bytes y.2 (p - pos0))

/-- The scales that follow a block's streams. -/
def Model.blockScales (x : Model) (bytes : List Byte) : List Byte :=
  let st := x.streams (List.range x.kvheads)
  (bytes.drop ((st.map fun y => 64 * x.posBytes y.2.1).sum)).take st.length

/-! ### Checkpoints (R301, R302) -/

/-- The bib is checkpointed: it is a queue pair's, in TOWING, DECODING or LODGED. DEDUCED; log entry 38. -/
def Bib.checkpointable (b : Bib) : Bool :=
  b.kind == .normal && (b.state == .towing || b.state == .decoding || b.state == .lodged)

/-- Bytes of a checkpoint's KV up to `n` positions, in lodge pages of the hub opposite; entry and tail take two pages on each hub.
DESIGN CHOICE; log entry 39. -/
def State.ckptPages (s : State) (b : Bib) (n : Nat) : Nat × Nat := (ceilDiv (n * s.bytesPer b) 65536 + 2, 2)

/-- A checkpoint area that holds nothing. -/
def Ckpt.new : Ckpt :=
  { pages := [], homePages := [], pos := 0, lap := 0, entry := none, tail := [], poisoned := false, due := false,
    started := false, dueLap := 0, next := none, tailNext := [] }

/-- At the boundary that begins lap `n` the checkpoint of entry `i` becomes due (R301); `b` is the entry as the boundary leaves it. -/
def State.dueCkpt (s : State) (i n : Nat) : State :=
  let c := s.pat.ckpts.getD i Ckpt.new
  let c' := { c with due := true, started := false, dueLap := n, next := some (s.bib i), tailNext := [] }
  s.modPat fun t => { t with ckpts := t.ckpts.put i c' }

/-- The checkpoints of lap `n`: those whose index has the lap's phase, or all of them for a SNAPSHOT (R301). -/
def State.dueCkpts (s : State) (n : Nat) (every : Bool) : State :=
  let period := s.get Fld.PAT_CFG_CKPT_PERIOD
  let due := s.bibs.entries.filter fun e =>
    e.2.checkpointable && (every || (decide (0 < period) && n % period == e.1 % period))
  due.foldl (fun s e => s.dueCkpt e.1 n) s

/-- The pages that the checkpoint of entry `i` still needs are requested; it runs once both hubs have granted theirs (R196). -/
def State.openCkpt (s : State) (i : Nat) : State :=
  match s.pat.ckpts.get? i with
  | some c =>
    match c.next with
    | some e =>
      let b := s.bib i
      let need := s.ckptPages b e.promptDone
      let (a1, s1) := s.requestLodge (otherHub b.home) (need.1 - c.pages.length)
      let (a2, s2) := s1.requestLodge b.home (need.2 - c.homePages.length)
      let got := fun (a : PageAnswer) => match a with | .granted p _ => some p | _ => none
      let c' := { c with pages := c.pages ++ (got a1).getD [], homePages := c.homePages ++ (got a2).getD []
                         started := (got a1).isSome && (got a2).isSome }
      s2.modPat fun t => { t with ckpts := t.ckpts.put i c' }
    | none => s
  | none => s

/-- CHECKPOINT_WINDOW (R301): a window of hub `h` opens. -/
def execCheckpointWindow (h : Hub) (s : State) : Host.Outcome State Fault Refusal :=
  if s.halted ∨ !s.running then .next s
  else
    let w := (s.pat.ckpts.entries.filter fun e => e.2.due && !e.2.started && (s.bib e.1).home == h).map Prod.fst
    .next (w.foldl (fun s i => s.openCkpt i) s)

/-- KV of positions from `lo` up of a snapshot `e`, block by block: first own position, number, bytes. -/
def State.kvParts (s : State) (e : Bib) (owner lo : Nat) : List (Nat × Nat × List Byte) :=
  match s.ldr.slots.get? e.modelSlot with
  | none => []
  | some x =>
    let base := s.pfxLen e
    let top := base + e.promptDone
    (e.blocks.filter fun k => !k.shared && decide (base + lo < k.pos0 + 64) && decide (k.pos0 < top)).map fun k =>
      let a := max (base + lo) k.pos0
      let z := min top (k.pos0 + 64)
      (a - base, z - a, s.blockBytes x (s.shareOf e x) owner k)

/-- The messages that carry a bib of entry bytes `entry` to a peer: its KV parts, then its entry with a tail (R304). -/
def bibMessages (origin : Nat) (id : Word) (lap : Nat) (entry : List Byte) (tail : List Nat)
    (parts : List (Nat × Nat × List Byte)) : List (List Byte) :=
  (parts.map fun p => mirrorHeader 2 origin id lap p.1 p.2.1 0 ++ p.2.2)
  ++ [mirrorHeader 1 origin id lap 0 0 tail.length ++ entry ++ tokenBytes tail]

/-- This module's ID. -/
def State.moduleId (s : State) : Nat := s.get Fld.LNK_ID_MODULE_ID

/-- The replica list of model slot `m` (R387). -/
def State.replicas (s : State) (m : Nat) : List Nat :=
  match s.bon.image.bind fun x => x.slotMap[m]? with
  | some r => r.replicas
  | none => []

/-- The mirror peer of a bib of slot `m` (R303): the first other replica whose trunk admits MIRROR on an open port. -/
def State.mirrorPeerOf (s : State) (m : Nat) : Option Nat :=
  (s.replicas m).find? fun p => p != s.moduleId && (s.trunkPort p 3).isSome

/-- A completed checkpoint of a guarded bib goes to its mirror peer, from position 0 to a new peer (R303). -/
def State.mirrorCkpt (s : State) (i from' : Nat) (e : Bib) (lap : Nat) (tail : List Nat) : State :=
  let b := s.bib i
  if !b.guarded then s
  else
    match b.mirrorPeer.or (s.mirrorPeerOf b.modelSlot) with
    | some peer =>
      let lo := if b.mirrorPeer.isSome then from' else 0
      let ms := bibMessages s.moduleId (s.bibId i) (s.dlap lap) (e.bytes i) tail (s.kvParts e (ckptOwner i) lo)
      (ms.foldl (fun s m => s.sendMessage 0x0301 peer m) s).modBib i fun b => { b with mirrorPeer := some peer }
    | none => s

/-- Keys and values of owner `o`, of own positions from sequence position `lo` to `hi - 1`, copied to owner `o'`. -/
def State.copyVectors (s : State) (o o' lo hi : Nat) : State :=
  let pos := fun (key : Nat) => key % 2 ^ 64 / 131072
  let mine := s.kvm.vectors.entries.filter fun e => e.1 / 2 ^ 64 == o && decide (lo ≤ pos e.1) && decide (pos e.1 < hi)
  s.modKvm fun k => { k with vectors := mine.foldl (fun t e => t.put (o' * 2 ^ 64 + e.1 % 2 ^ 64) e.2) k.vectors }

/-- A checkpoint write is discarded (R162). -/
def State.staleCkpt (s : State) : State := (s.count Reg.BIB_STALE_CKPT 1).tally 17 0x11 1 none

/-- The entry's checkpoint as it stands when its writes complete: CKPT_POS and CKPT_LAP rise together (R163, R301). -/
def State.finishCkpt (s : State) (i : Nat) (c : Ckpt) (e : Bib) : State :=
  let base := s.pfxLen e
  let s1 := s.copyVectors i (ckptOwner i) (if c.pos = 0 then 0 else base + c.pos) (base + e.promptDone)
  let c' := { c with pos := e.promptDone, lap := c.dueLap, entry := some e, tail := c.tailNext, tailNext := [], due := false,
                     started := false, next := none, poisoned := false }
  let s2 := s1.modPat fun t => { t with ckpts := t.ckpts.put i c' }
  let s3 := s2.modBib i fun b => { b with ckptPos := e.promptDone, ckptLap := c.dueLap % 2 ^ 32 }
  (s3.count Reg.PAT_CKPT 1).mirrorCkpt i c.pos e c.dueLap c.tailNext

/-- CHECKPOINT_COMPLETE (R163): discarded for an identifier or an entry that it no longer fits (R162). -/
def execCheckpointComplete (bib : Word) (s : State) : Host.Outcome State Fault Refusal :=
  let i := idIndex bib
  if !s.names bib ∨ (s.bib i).state = .closing ∨ (s.bib i).state = .faulted then .next s.staleCkpt
  else
    match s.pat.ckpts.get? i with
    | some c =>
      match c.next with
      | some e => .next (if c.due ∧ c.started then s.finishCkpt i c e else s)
      | none => .next s
    | none => .next s

/-- A checkpoint that is not complete is abandoned (R301). -/
def State.abandonCkpt (s : State) (i : Nat) : State :=
  match s.pat.ckpts.get? i with
  | some c =>
    let c' := { c with due := false, started := false, next := none, tailNext := [] }
    if c.due then (s.modPat fun t => { t with ckpts := t.ckpts.put i c' }).count Reg.PAT_CKPT_DEFER 1 else s
  | none => s

/-- CHECKPOINT_ABANDON (R301). -/
def execCheckpointAbandon (bib : Word) (s : State) : Host.Outcome State Fault Refusal :=
  .next (if s.names bib then s.abandonCkpt (idIndex bib) else s.staleCkpt)

/-! ### Rebuilds (R305, R306) -/

/-- Unprocessed positions of a rebuilt bib: LAST_TOKEN and then the tail, and what the entry had still to process (R306). -/
def rebuiltInputs (e : Bib) (tail : List Nat) : List Nat :=
  if e.prefillDone then e.inputs.take 1 ++ tail ++ e.inputs.drop 1 else e.inputs ++ tail

/-- The prefix that the rebuilt bib names still stands and holds its positions: none, or a READY entry of the handle. DESIGN
CHOICE; log entry 40. -/
def State.pfxStands (s : State) (handle m : Nat) : Bool :=
  handle == 0 ||
    let p := s.pfx (handle % 65536)
    p.gen == handle / 2 ^ 32 && p.state == .ready && p.modelSlot == m && !p.poisoned

/-- A rebuilt entry from checkpoint `e` with token tail `tail`, homed on `h`, in entry `j` of generation `g` (R305, R306). -/
def rebuiltBib (e : Bib) (tail : List Nat) (j g qp : Nat) (h : Hub) (lap : Nat) (blocks : List Block) : Bib :=
  { e.noSlots with
    gen := g
    state := .lodged
    cause := .ckptRestore
    home := h
    qp := qp
    prefillDone := false
    restored := false
    pend := .none
    appended := false
    admitLap := lap
    lodgeLap := lap
    kvBase := kvBaseOf j
    pageList := pageListOf j
    inputs := rebuiltInputs e tail
    genTokens := e.genTokens + tail.length
    draws := e.draws + tail.length
    lastToken := tail.getLastD e.lastToken
    batch := []
    granted := true
    starve := 0
    blocking := false
    blocks := blocks
    listPages := []
    restorePages := []
    xfer := .wait
    replay := false
    mirrorPeer := none }

/-- The rebuilt entry takes its index, its references and its records (R149, R153, R209, R240). -/
def State.putRebuilt (s : State) (j : Nat) (b : Bib) (result0 : Nat) : State :=
  let s1 := ((s.modFree fun f => f.pop 65536).putBib j b).tally 17 0x12 1 (some b.home)
  let s2 := if b.pfxHandle = 0 then s1 else
    s1.putPfx (b.pfxHandle % 65536) { (s1.pfx (b.pfxHandle % 65536)) with refs := (s1.pfx (b.pfxHandle % 65536)).refs + 1 }
  let s3 := ((s2.takeWax b.wax).count Reg.PAT_RESTART 1).raise Fld.PAT_EVT_ADOPT
  s3.eventRecord j 0xFFFF#16 stOk false result0

/-- The blocks of a local rebuild: those of the checkpoint entry that hold checkpointed positions, waiting in the lodge tier. -/
def rebuiltBlocks (e : Bib) (j : Nat) : List Block :=
  (e.blocks.filter fun k => k.shared || decide (k.fill ≠ 0)).map fun k =>
    if k.shared then k else { k with pages := [], lodge := true, poison := [], leaving := false, owner := j }

/-- The bib in FAULTED may be rebuilt from its checkpoint here (R305). -/
def State.mayRestart (s : State) (i : Nat) : Bool :=
  let b := s.bib i
  s.flag Fld.PAT_CTL_LOCAL_RESTART && b.state == .faulted && (b.cause == .poison || b.cause == .restoreFail)

/-- CKPT_RESTORE (R305): a new LODGED entry takes the checkpoint, its area and its tail. -/
def State.ckptRestore (s : State) (i : Nat) : State :=
  match s.pat.ckpts.get? i with
  | none => s
  | some c =>
    match c.entry, s.freeBibs.head 65536 with
    | some e, some j =>
      let waxOk := match e.wax with | some w => s.waxReady w e.tenant e.modelSlot | none => true
      let pfxHub := if e.pfxHandle = 0 then none else some (s.pfx (e.pfxHandle % 65536)).hub
      match s.homeHub e.modelSlot pfxHub with
      | none => s
      | some h =>
        if !s.mayRestart i ∨ c.poisoned ∨ !s.pfxStands e.pfxHandle e.modelSlot ∨ !waxOk then s
        else
          let old := s.bibId i
          let b := { (rebuiltBib e c.tail j (s.bib j).gen (s.bib i).qp h s.lap (rebuiltBlocks e j)) with
                     ckptPos := c.pos, ckptLap := c.lap % 2 ^ 32 }
          let swap := h != (s.bib i).home
          let c' := { c with due := false, started := false, next := none, tailNext := []
                             pages := if swap then c.homePages else c.pages
                             homePages := if swap then c.pages else c.homePages }
          let s1 := (s.dropMirror i).modPat fun t => { t with ckpts := (t.ckpts.erase i).put j c' }
          let top := s.pfxLen e + c.pos
          let s2 := (s1.copyVectors (ckptOwner i) j 0 top).copyVectors (ckptOwner i) (ckptOwner j) 0 top
          (s2.forgetVectors (ckptOwner i)).putRebuilt j b old.toNat
    | _, _ => s

/-- CKPT_RESTORE (R305). -/
def execCkptRestore (i : Fin 65536) (s : State) : Host.Outcome State Fault Refusal := .next (s.ckptRestore i)

/-- The fields of a bib from the 128 bytes of its entry (R151); LOGIT_N is not among them: a free value. Log entry 41. -/
def State.entryBib (s : State) (l : List Byte) : Bib :=
  let w := bytesAt l 0x50 4
  let stop := bytesAt l 0x64 4
  let fl := bytesAt l 5 1
  let dl := bytesAt l 0x10 8
  let last := bytesAt l 0x78 4 % 2 ^ 24
  { Bib.free 1 with
    prefillDone := true
    logits := bits fl 5 1 == 1
    spread := bits fl 4 1 == 1
    guarded := bits fl 3 1 == 1
    priority := bits fl 0 3
    tenant := bytesAt l 6 2 % 2 ^ 14
    modelSlot := bytesAt l 8 1 % 64
    deadline := if dl = 0xFFFFFFFFFFFFFFFF then none else some dl
    promptLen := bytesAt l 0x20 4
    promptDone := bytesAt l 0x24 4
    genTokens := bytesAt l 0x28 4
    maxLen := bytesAt l 0x2C 4
    pfxHandle := bytesAt l 0x40 8
    wax := if bits w 31 1 = 1 then some (bits w 0 17) else none
    ttl := bytesAt l 0x54 4
    temp := BitVec.ofNat 32 (bytesAt l 0x58 4)
    topP := BitVec.ofNat 32 (bytesAt l 0x5C 4)
    topK := bytesAt l 0x60 4
    stop := if bits stop 31 1 = 1 then some (bits stop 0 24) else none
    seed := BitVec.ofNat 64 (bytesAt l 0x68 8)
    draws := bytesAt l 0x70 8
    lastToken := last
    logitN := if bits fl 5 1 = 1 then (Config.measured s.drawn).toNat % 1024 + 1 else 0
    inputs := [last] }

/-- The ranges hold every one of positions 0 to n - 1. -/
def holdsAll (ranges : List (Nat × Nat × List Byte)) (n : Nat) : Bool :=
  (List.range n).all fun p => ranges.any fun r => decide (r.1 ≤ p) && decide (p < r.1 + r.2.1)

/-- Blocks from sequence position `base` to `top - 1`, waiting in the lodge tier, with the scales that came. -/
def State.carriedBlocks (x : Model) (j base top : Nat) (ranges : List (Nat × Nat × List Byte)) : List Block :=
  (List.range' (base / 64) (ceilDiv top 64 - base / 64)).map fun n =>
    let scales := match ranges.find? fun r => (base + r.1) / 64 == n with
      | some r => x.blockScales r.2.2
      | none => []
    { (emptyBlock j (64 * n) []) with lodge := true, fill := min 64 (top - 64 * n), scales := scales }

/-- A rebuild for a peer's bib is refused (R306). -/
def State.refuseAdopt (s : State) (origin : Nat) (id : Word) : State :=
  (s.count Reg.PAT_ADOPT_REF 1).report (dieAddr 31) 0xFFFF 0x1A sevDegraded (origin % 65536 * 2 ^ 32 + id.toNat) 0#32

/-- Bytes of a mirror: entry, tail, KV. -/
def mirrorSize (entry : List Byte) (tail : List Nat) (ranges : List (Nat × Nat × List Byte)) : Nat :=
  entry.length + 4 * tail.length + (ranges.map fun r => r.2.2.length).sum

/-- A peer's bib is rebuilt into entry `j` from entry `e` and what came with it; the pages that hold it become its checkpoint area. -/
def State.adoptInto (s : State) (j : Nat) (h : Hub) (x : Model) (e : Bib) (m : Mirror) : State :=
  let base := s.pfxLen e
  let top := base + e.promptDone
  let own := State.carriedBlocks x j base top m.ranges
  let pre := if e.pfxHandle = 0 then [] else sharedBlocks (s.pfx (e.pfxHandle % 65536))
  let b0 := rebuiltBib e m.tail j (s.bib j).gen (s.get Fld.PAT_CTL_ADOPT_QP) h s.lap (pre ++ own)
  let b := { b0 with ckptPos := e.promptDone, ckptLap := s.lap % 2 ^ 32 }
  let vs := m.ranges.flatMap fun r =>
    let lo := base + r.1
    x.decodeBlock j (lo / 64 * 64) lo (lo + r.2.1) r.2.2
  let c := { Ckpt.new with pages := if m.hub = h then [] else m.pages, homePages := if m.hub = h then m.pages else []
                           pos := e.promptDone, lap := s.lap, entry := some { e with blocks := own }, tail := m.tail }
  let s1 := s.modKvm fun k => { k with vectors := vs.foldl (fun t v => t.put v.1 v.2) k.vectors }
  let s2 := (s1.copyVectors j (ckptOwner j) 0 top).modPat fun t =>
    { t with ckpts := t.ckpts.put j c, adopted := t.adopted ++ [(m.origin, m.originBib)]
             mirrors := t.mirrors.filter fun y => !(y.origin == m.origin && y.originBib == m.originBib) }
  (s2.draw).putRebuilt j b (m.origin % 65536 * 2 ^ 32 + m.originBib.toNat)

/-- A rebuild for a peer (R306): a second one is discarded, one whose conditions fail is refused. -/
def State.adopt (s : State) (m : Mirror) (layout : DWord) : State :=
  let e := s.entryBib m.entry
  let waxOk := match e.wax with | some w => s.waxReady w e.tenant e.modelSlot | none => true
  if (m.origin, m.originBib) ∈ s.pat.adopted then s.count Reg.PAT_MIG_DUP 1
  else if !s.flag Fld.PAT_CTL_ADOPT_EN ∨ m.entry.length ≠ 128 ∨ !holdsAll m.ranges e.promptDone ∨ !waxOk
      ∨ s.get (Fld.LDR_SLOT_STS_STATE.sel e.modelSlot) ≠ 2 ∨ !s.pfxStands e.pfxHandle e.modelSlot then
    s.refuseAdopt m.origin m.originBib
  else
    let pfxHub := if e.pfxHandle = 0 then none else some (s.pfx (e.pfxHandle % 65536)).hub
    match s.ldr.slots.get? e.modelSlot, s.freeBibs.head 65536, s.homeHub e.modelSlot pfxHub with
    | some x, some j, some h =>
      if x.layout ≠ layout then s.refuseAdopt m.origin m.originBib else s.adoptInto j h x e m
    | _, _, _ => s.refuseAdopt m.origin m.originBib

/-! ### Mirrors held for peers (R303, R304) -/

/-- The hub whose lodge pool has more free pages, HE on a tie. DESIGN CHOICE; log entry 42. -/
def State.lodgeHub (s : State) : Hub := if s.poolFree .he true < s.poolFree .hw true then .hw else .he

/-- A mirror that holds nothing. -/
def Mirror.new (origin : Nat) (id : Word) (h : Hub) : Mirror :=
  { origin := origin, originBib := id, entry := [], ckptLap := 0, tail := [], ranges := [], hub := h, pages := [] }

/-- The mirror held for a peer's bib. -/
def State.mirrorOf (s : State) (origin : Nat) (id : Word) : Option Mirror :=
  s.pat.mirrors.find? fun m => m.origin == origin && m.originBib == id

/-- A mirror takes the place of the one held for the same bib. -/
def State.putMirror (s : State) (m : Mirror) : State :=
  s.modPat fun t =>
    { t with mirrors := if t.mirrors.any fun y => y.origin == m.origin && y.originBib == m.originBib then
        t.mirrors.map fun y => if y.origin = m.origin ∧ y.originBib = m.originBib then m else y
      else t.mirrors ++ [m] }

/-- What a message adds to a mirror is stored in this module's lodge pool and answered with ACK; without pages it is not (R303). -/
def State.storeMirror (s : State) (origin : Nat) (id : Word) (f : Mirror → Mirror) : State :=
  let m := f ((s.mirrorOf origin id).getD (Mirror.new origin id s.lodgeHub))
  let n := ceilDiv (mirrorSize m.entry m.tail m.ranges) 65536 - m.pages.length
  match s.requestLodge m.hub n with
  | (.granted p _, s1) =>
    (s1.putMirror { m with pages := m.pages ++ p }).sendMessage 0x0301 origin (mirrorHeader 4 origin id m.ckptLap 0 0 0)
  | (_, s1) => s1

/-- MIRROR_ENTRY (R303, R304): a new checkpoint empties the tail. -/
def execMirrorEntry (m : MirrorEntry) (s : State) : Host.Outcome State Fault Refusal :=
  .next (s.storeMirror m.origin.toNat m.originBib fun x =>
    { x with entry := m.entry, ckptLap := m.ckptLap, tail := m.tail.take 16383 })

/-- MIRROR_KV (R304): the receiver keeps only the positions that the message names. -/
def execMirrorKv (origin : BitVec 16) (originBib : Word) (first : Nat) (n : Nat) (body : List Byte) (s : State) :
    Host.Outcome State Fault Refusal :=
  .next (s.storeMirror origin.toNat originBib fun x =>
    { x with ranges := (x.ranges.filter fun r => !(r.1 == first && decide (r.2.1 ≤ n))) ++ [(first, n, body)] })

/-- MIRROR_TAIL (R303): tokens join the tail of a mirror that is held. -/
def execMirrorTail (origin : BitVec 16) (originBib : Word) (toks : List Nat) (s : State) :
    Host.Outcome State Fault Refusal :=
  .next (if (s.mirrorOf origin.toNat originBib).isSome then
      s.storeMirror origin.toNat originBib fun x => { x with tail := (x.tail ++ toks).take 16383 }
    else s)

/-- MIRROR_ACK (R162, R303). -/
def execMirrorAck (bib : Word) (s : State) : Host.Outcome State Fault Refusal :=
  .next (if s.names bib then s else (s.count Reg.BIB_STALE_PEER 1).tally 17 0x11 1 none)

/-- MIRROR_DROP (R303): the mirror is freed. -/
def execMirrorDrop (origin : BitVec 16) (originBib : Word) (s : State) : Host.Outcome State Fault Refusal :=
  match s.mirrorOf origin.toNat originBib with
  | some m =>
    .next ((s.releasePages m.hub true m.pages []).modPat fun t =>
      { t with mirrors := t.mirrors.filter fun y => !(y.origin == m.origin && y.originBib == m.originBib) })
  | none => .next s

/-- LAYOUT_ID that the model slot map gives slot `m` on every replica (R387). -/
def State.slotLayout (s : State) (m : Nat) : DWord :=
  match s.bon.image.bind fun x => x.slotMap[m]? with
  | some r => r.layout
  | none => 0#64

/-- Every mirror held for module `origin` is rebuilt (R306). -/
def State.adoptAll (s : State) (origin : Nat) : State :=
  (s.pat.mirrors.filter fun m => m.origin == origin).foldl
    (fun s m => s.adopt m (s.slotLayout (s.entryBib m.entry).modelSlot)) s

/-- ORPHAN (R306). -/
def execOrphan (origin : BitVec 16) (s : State) : Host.Outcome State Fault Refusal := .next (s.adoptAll origin.toNat)

/-- A write of `v` to PAT_ORPHAN. -/
def State.writeOrphan (s : State) (v : Word) : State :=
  let s1 := s.put Fld.PAT_ORPHAN_MODULE (wordBits v 0 16)
  if wordBits v 31 1 = 1 then s1.adoptAll (wordBits v 0 16) else s1

/-- PAT_ORPHAN (R306). -/
def execPatOrphan (v : Word) (s : State) : Host.Outcome State Fault Refusal :=
  .next (if s.hidden Reg.PAT_ORPHAN then s.undecoded Reg.PAT_ORPHAN else s.writeOrphan v)

/-- MIGRATION (R306): the bib that came is stored as a mirror is, and rebuilt. -/
def execMigration (m : MirrorEntry) (slotLayout : DWord) (kv : List (Nat × Nat × List Byte)) (s : State) :
    Host.Outcome State Fault Refusal :=
  let x := { (Mirror.new m.origin.toNat m.originBib s.lodgeHub) with
             entry := m.entry, ckptLap := m.ckptLap, tail := m.tail, ranges := kv }
  if (m.origin.toNat, m.originBib) ∈ s.pat.adopted then .next (s.count Reg.PAT_MIG_DUP 1)
  else
    match s.requestLodge x.hub (ceilDiv (mirrorSize x.entry x.tail x.ranges) 65536) with
    | (.granted p _, s1) =>
      let s2 := s1.adopt { x with pages := p } slotLayout
      .next (if (x.origin, x.originBib) ∈ s2.pat.adopted then s2 else s2.releasePages x.hub true p [])
    | (_, s1) => .next (s1.refuseAdopt x.origin x.originBib)

/-! ### Module faults (R293, R306) -/

/-- A message to a peer over the ports of hub `h` alone. -/
def State.sendOver (s : State) (h : Hub) (kind peer : Nat) (body : List Byte) : State :=
  let ports := (List.range' (16 * hubNum h) 16).filter fun p =>
    (s.portState p == 4 || s.portState p == 5) && match s.portRec p with
      | some r => r.peer == peer && r.admits (kindClass kind)
      | none => false
  match (sortBy (fun x y => decide (frameBytes (s.port x).wait ≤ frameBytes (s.port y).wait)) ports).head? with
  | none => s
  | some p =>
    let bytes := leBytes kind 2 ++ leBytes 0 2 ++ leBytes body.length 4 ++ leBytes (s.dlap s.lap) 8 ++ body
    (s.modPort p fun x => { x with wait := enqueue x.wait (messageFrames (kindClass kind) bytes) (kindClass kind) }).pump p

/-- Modules of slot `m`'s replica list that hub `h` reaches, in order. -/
def State.reachable (s : State) (h : Hub) (m : Nat) : List Nat :=
  (s.replicas m).filter fun p => p != s.moduleId && (List.range' (16 * hubNum h) 16).any fun q =>
    (s.portState q == 4 || s.portState q == 5) && match s.portRec q with
      | some r => r.peer == p && r.admits 4
      | none => false

/-- The messages that migrate entry `i` when hub `h` survives: from its live state when it is homed there, else from its checkpoint
(R306). -/
def State.migrationOf (s : State) (h : Hub) (i : Nat) : List (List Byte) :=
  let b := s.bib i
  if b.home = h then
    bibMessages s.moduleId (s.bibId i) (s.dlap s.lap) (b.bytes i) [] (s.kvParts b i 0)
  else
    match s.pat.ckpts.get? i with
    | some c =>
      match c.entry with
      | some e => if c.poisoned then [] else
          bibMessages s.moduleId (s.bibId i) (s.dlap c.lap) (e.bytes i) c.tail (s.kvParts e (ckptOwner i) 0)
      | none => []
    | none => []

/-- The steward firmware of the surviving hub migrates every bib that it can rebuild, then sends ORPHAN to every replica (R306). -/
def State.evacuate (s : State) (h : Hub) : State :=
  let live := (s.bibs.entries.filter fun e => e.2.kind == .normal && e.2.state != .free && e.2.state != .closing
    && e.2.state != .faulted).map Prod.fst
  let s1 := live.foldl (fun s i =>
    match (s.reachable h (s.bib i).modelSlot).head? with
    | some peer => (s.migrationOf h i).foldl (fun s m => s.sendOver h 0x0401 peer m) s
    | none => s) s
  let all := ((List.range 64).flatMap fun m => s.reachable h m).eraseDups
  all.foldl (fun s p => s.sendOver h 0x0401 p (mirrorHeader 6 s.moduleId 0#32 (s.dlap s.lap) 0 0 0)) s1

/-- A fault of R293 (the cases of R293 and R306). -/
def State.moduleFault (s : State) (c : ModuleFaultCase) : State :=
  match c with
  | .arkorDie d => (s.put (Fld.ARK_STS_SEQ_STATE.die d) 4).serviceFault (dieAddr d) 1
  | .hubDie h => (s.serviceFault (dieAddr (hubDie h)) 2).evacuate (otherHub h)
  | .supplyOrClock => s.serviceFault (dieAddr 31) 3
  | .uncovered => s.serviceFault (dieAddr 31) 4

/-- MODULE_FAULT (R293). -/
def execModuleFault (c : ModuleFaultCase) (s : State) : Host.Outcome State Fault Refusal := .next (s.moduleFault c)

end Sys2Proof.Machine
end

