-- ==== Sys2Proof/Machine/Prints.lean ====
section
/-!
DEFINITION. Fingerprints of the resident models, their verdicts and expulsion (R308-R311).
-/

namespace Sys2Proof.Machine

/-! ### Agreement (R309) -/

/-- Bytes of a layer of a fingerprint. -/
def fpLayer (l : List Int) (k : Nat) : List Int := (l.drop (512 * k)).take 512

/-- Bytes of a layer that differ by more than FP_TOL codes. -/
def differing (tol : Nat) (a b : List Int) : Nat :=
  ((List.range 512).filter fun i => decide (tol < (a.getD i 0 - b.getD i 0).natAbs)).length

/-- Layers of the fingerprint of a model: those of the model, then the head. -/
def Model.fpLayers (x : Model) : Nat := x.layers + 1

/-- The bytes that differ, layer by layer. -/
def State.fpDiffs (s : State) (x : Model) (a b : List Int) : List Nat :=
  (List.range x.fpLayers).map fun k => differing (s.get Fld.PAT_CFG_FP_TOL) (fpLayer a k) (fpLayer b k)

/-- The layers that disagree (R309). -/
def State.fpBad (s : State) (x : Model) (a b : List Int) : List Nat :=
  ((List.range x.fpLayers).zip (s.fpDiffs x a b)).filterMap fun y =>
    if s.get Fld.PAT_CFG2_FP_MAX < y.2 then some y.1 else none

/-- Two fingerprints agree at every layer. -/
def State.fpAgree (s : State) (x : Model) (a b : List Int) : Bool := (s.fpBad x a b).isEmpty

/-- The Expected fingerprint of a model's PROBE section (R308). -/
def Model.expectedPrint (x : Model) : List Int :=
  let nvec := bytesAt x.probe 4 2
  ((x.probe.drop (16 + 64 * nvec + 8 * 512 * x.fpLayers)).take (512 * x.fpLayers)).map fun b => b.toInt

/-! ### Messages (R310) -/

/-- A fingerprint arrives, this module's own or that of a member of the slot's replica list with the same LAYOUT_ID (log entry 43);
its own is sent to every other member. -/
def State.takePrint (s : State) (member slot dlap : Nat) (layout : DWord) (bytes : List Int) : State :=
  match s.ldr.slots.get? slot with
  | none => s
  | some x =>
    if x.layout ≠ layout ∨ (member ≠ s.moduleId ∧ member ∉ s.replicas slot) then s
    else
      let kept := s.pat.prints.filter fun p => !(p.1 == slot && p.2.1 == dlap && p.2.2.1 == member)
      let s1 := s.modPat fun t => { t with prints := kept ++ [(slot, dlap, member, bytes)] }
      if member = s.moduleId then
        let body := leBytes slot 1 ++ leBytes 0 7 ++ leBytes layout.toNat 8 ++ bytes.map fun c => BitVec.ofInt 8 c
        ((s.replicas slot).filter (· != s.moduleId)).foldl (fun s p => s.sendMessage 0x0201 p body) s1
      else s1

/-- FINGERPRINT (R310). -/
def execFingerprint (member : BitVec 16) (slot : Fin 64) (dlap : Nat) (layout : DWord) (bytes : List Int) (s : State) :
    Host.Outcome State Fault Refusal :=
  .next (s.takePrint member.toNat slot dlap layout bytes)

/-! ### Verdicts (R310, R311) -/

/-- Codes of PAT_FPSTS.VERDICT. -/
def fpAgreeCode : Nat := 1
/-- EXPELLED. -/
def fpExpelled : Nat := 2
/-- NOQUORUM. -/
def fpNoQuorum : Nat := 3

/-- The members with their fingerprints for a slot and lap, in replica-list order. -/
def State.printsOf (s : State) (slot dlap : Nat) : List (Nat × List Int) :=
  let l := (s.pat.prints.filter fun p => p.1 == slot && p.2.1 == dlap).map fun p => p.2.2
  (s.replicas slot).filterMap fun r => l.find? fun p => p.1 == r

/-- The majority: members that agree with more than half of the members (R310). -/
def State.majorityOf (s : State) (x : Model) (ps : List (Nat × List Int)) : List Nat :=
  if ps.length < 3 then []
  else (ps.filter fun p => decide (ps.length < 2 * (ps.filter fun q => s.fpAgree x p.2 q.2).length)).map Prod.fst

/-- PAT_FPSTS and PAT_FPLAP of a slot, where PAT_FPSEL finds them. -/
def State.putVerdict (s : State) (slot code m dlap : Nat) (diffs : List Nat) : State :=
  let worst := diffs.foldl max 0
  let k := fpHome slot
  let s1 := ((s.put (Fld.PAT_FPSTS_VERDICT.sel k) code).put (Fld.PAT_FPSTS_MEMBERS.sel k) m).put
    (Fld.PAT_FPSTS_WORST.sel k) worst
  (s1.put (Fld.PAT_FPSTS_WORST_LAYER.sel k) (diffs.findIdx fun d => d == worst)).wr64 (keyAt k Reg.PAT_FPLAP) dlap

/-- The tiles of layer `l` of slot `m` in service groom anew (R311). -/
def State.regroomLayer (s : State) (m l : Nat) : State :=
  ((s.runs.filter fun r => r.slot == m && r.layer == l).map fun r => (r.die, s.physical r.die r.tile)).eraseDups.foldl
    (fun s p => s.modTile p.1 p.2 fun x => { x with offOk := false, refOk := false, statOk := false }) s

/-- The member is expelled (R311): its slot from the next cutoff, its drain, its layers' tiles; a layer that was groomed already and
still disagrees with Expected is to be reprogrammed. -/
def State.expel (s : State) (slot : Nat) (x : Model) (own : List Int) (bad diffs : List Nat) (majority : List Nat) : State :=
  let still := x.suspect.filter fun l => decide (l ∈ s.fpBad x own x.expectedPrint)
  let fresh := bad.filter fun l => !decide (l ∈ still)
  let first := !(x.expelled || x.verdictNext == some true)
  let x' := { x with verdictNext := some true, majority := majority, suspect := fresh
                     reprogram := still.foldl (fun l y => insertNat y l) x.reprogram
                     drain := if first then some (s.lap + s.get Fld.PAT_CFG2_FP_DRAIN) else x.drain }
  let s1 := s.modLdr fun l => { l with slots := l.slots.put slot x' }
  let s2 := fresh.foldl (fun s l => s.regroomLayer slot l) s1
  let worst := bad.headD 0
  let s3 := s2.report (dieAddr 31) worst 0x0A sevDegraded (nth diffs worst) 0#32
  if first then
    ((s3.count Reg.PAT_EXPEL 1).raise Fld.PAT_EVT_EXPEL).put (Fld.PAT_FPSTS_DRAINING.sel (fpHome slot)) 1
  else s3

/-- The slot is found sound: it admits again from the next cutoff (R311). -/
def State.readmit (s : State) (slot : Nat) (x : Model) : State :=
  let x' := { x with verdictNext := some false, suspect := [], reprogram := [], drain := none }
  (s.modLdr fun l => { l with slots := l.slots.put slot x' }).put (Fld.PAT_FPSTS_DRAINING.sel (fpHome slot)) 0

/-- The verdict of domain lap n + 2 on a slot (R310). -/
def State.judge (s : State) (slot : Nat) : State :=
  match s.ldr.slots.get? slot with
  | none => s
  | some x =>
    let n := s.dlap s.lap - 2
    let ps := s.printsOf slot n
    match ps.find? fun p => p.1 == s.moduleId with
    | none => s
    | some own =>
      let maj := s.majorityOf x ps
      let s0 := s.modPat fun t => { t with prints := t.prints.filter fun p => !(p.1 == slot && decide (p.2.1 ≤ n)) }
      let ref := if maj = [] then x.expectedPrint else
        match ps.find? fun p => decide (p.1 ∈ maj) && p.1 != s.moduleId with
        | some p => p.2
        | none => own.2
      let diffs := s.fpDiffs x own.2 ref
      let out := if maj = [] then !s.fpAgree x own.2 ref else !decide (s.moduleId ∈ maj)
      let code := if maj = [] ∧ 3 ≤ ps.length then fpNoQuorum else if out then fpExpelled else fpAgreeCode
      let s1 := s0.putVerdict slot code ps.length n diffs
      if out then s1.expel slot x own.2 (s.fpBad x own.2 ref) diffs maj else s1.readmit slot x

/-- FINGERPRINT_VERDICT (R310). -/
def execFingerprintVerdict (slot : Fin 64) (s : State) : Host.Outcome State Fault Refusal := .next (s.judge slot)

/-- A bib that remains is migrated to majority module `dest` and ends here (R311). -/
def State.drainBib (s : State) (i : Nat) (dest : Option Nat) : State :=
  let b := s.bib i
  match dest with
  | some p =>
    let ms := if b.kind = .normal then
        bibMessages s.moduleId (s.bibId i) (s.dlap s.lap) (b.bytes i) [] (s.kvParts b i 0) else []
    (ms.foldl (fun s m => s.sendMessage 0x0401 p m) s).faultBib i .uncovered p
  | none => s.faultBib i .uncovered 0

/-- The drain of an expelled slot ends (R311): its bibs go to the first majority module of the replica list with a port open. -/
def State.endDrain (s : State) (slot : Nat) : State :=
  match s.ldr.slots.get? slot with
  | none => s
  | some x =>
    if x.drain.isNone then s
    else
      let dest := x.majority.find? fun p => p != s.moduleId && (s.trunkPort p 4).isSome
      let left := (s.bibs.entries.filter fun e => e.2.modelSlot == slot && e.2.mayFault && e.2.state != .closing).map Prod.fst
      let s1 := s.modLdr fun l => { l with slots := l.slots.put slot { x with drain := none } }
      (left.foldl (fun s i => s.drainBib i dest) s1).put (Fld.PAT_FPSTS_DRAINING.sel (fpHome slot)) 0

/-- FP_DRAIN_EXPIRED (R311). -/
def execFpDrainExpired (slot : Fin 64) (s : State) : Host.Outcome State Fault Refusal := .next (s.endDrain slot)

end Sys2Proof.Machine
end

