-- ==== Sys2Proof/Machine/Loader.lean ====
section
/-!
DEFINITION. Model images, loading and swap (R255-R270): the staging window, the checks of an image, program-and-verify, the slalom
gate, and the function level reset, which aborts the loader.
-/

namespace Sys2Proof.Machine

/-! ### Operations (R260-R262) -/

/-- Codes of R262. -/
def ldrBadHeader : Nat := 0x01
/-- STG_OVERRUN. -/
def ldrOverrun : Nat := 0x0B
/-- NO_SPARE. -/
def ldrNoSpare : Nat := 0x0C
/-- ABORTED. -/
def ldrAborted : Nat := 0x0E
/-- BAD_SLOT_STATE. -/
def ldrBadSlot : Nat := 0x0F
/-- VERIFY_FAIL. -/
def ldrVerifyFail : Nat := 0x10

/-- Slot states (R260): 0 EMPTY, 1 LOADING, 2 RESIDENT, 3 SWAPPING, 4 ATTACHING, 5 DRAINING. -/
def State.slotState (s : State) (m : Nat) : Nat := s.get (Fld.LDR_SLOT_STS_STATE.sel m)

/-- Slot `m` takes state `n`. -/
def State.setSlot (s : State) (m n : Nat) : State := s.put (Fld.LDR_SLOT_STS_STATE.sel m) n

/-- The running operation changed by `f`. -/
def State.modOp (s : State) (f : LdrOp → LdrOp) : State := s.modLdr fun l => { l with op := l.op.map f }

/-- The operation ends with code `code`, 0 for success (LDR_STS, LDR_EVT). -/
def State.endLoad (s : State) (code : Nat) : State :=
  let s1 := ((s.put Fld.LDR_STS_BUSY 0).put Fld.LDR_CTL_START 0).put Fld.LDR_STS_ERR code
  let s2 := (s1.put Fld.LDR_STS_PHASE (if code = 0 then 5 else 6)).modLdr fun l => { l with op := none, left := [] }
  s2.raise (if code = 0 then Fld.LDR_EVT_DONE else Fld.LDR_EVT_FAILED)

/-- Tiles in PROGRAMMING of the positions of slot `m` leave it for service, in the mode that the piste gives them; the units that
covered what they replace return (R102, R267). -/
def State.openTiles (s : State) (ps : List (Nat × Nat)) : State :=
  ps.foldl (fun s p =>
    let here := (s.standing p.1 p.2).filter fun x => x.2 == .programming
    here.foldl (fun s x =>
      let y := s.tile p.1 x.1
      let mode := (s.positionMode p.1 p.2).getD (y.merged, y.range)
      let s1 := s.modTile p.1 x.1 fun y => { y with state := .inService, merged := mode.1, range := mode.2 }
      match y.replaces with
      | some t => s1.returnUnits (tileAddr p.1 t)
      | none => s1) s) s

/-- Tile positions of a layer of slot `m`, ascending. -/
def State.layerPositions (s : State) (m l : Nat) : List (Nat × Nat) :=
  ((s.runs.filter fun r => r.slot == m && r.layer == l).map fun r => (r.die, r.tile)).eraseDups

/-- Tile positions of slot `m`. -/
def State.slotPositions (s : State) (m : Nat) : List (Nat × Nat) :=
  ((s.runs.filter fun r => r.slot == m).map fun r => (r.die, r.tile)).eraseDups

/-- A check of the running operation fails with `code` (R262): LOAD and ATTACH leave the slot EMPTY, a REPLACE before any gate leaves
it as it was, one after a gate ends with its gate, MIXED. -/
def State.failLoad (s : State) (code : Nat) : State :=
  match s.ldr.op with
  | none => s
  | some o =>
    match o.mode with
    | .release => s
    | .replace =>
      if o.gate.isSome then s.modOp fun o => { o with err := if o.err = 0 then code else o.err, aborting := true }
      else
        let s1 := if 0 < o.programmed then s.put (Fld.LDR_SLOT_STS_MIXED.sel o.slot) 1 else s
        (s1.setSlot o.slot 2).endLoad code
    | _ =>
      let s1 := (s.openTiles (s.slotPositions o.slot)).modLdr fun l => { l with slots := l.slots.erase o.slot }
      (s1.setSlot o.slot 0).endLoad code

/-- ABORT of the running operation (R268): a gated layer is completed first. RELEASE takes none. -/
def State.abortLoad (s : State) : State := s.failLoad ldrAborted

/-- A model of which nothing has been read. -/
def Model.new : Model :=
  { layout := 0#64, layers := 0, qheads := 0, kvheads := 1, headDim := 0, dModel := 0, ffWidth := 0, vocab := 0, key4 := false
    dh256 := false, shadowBytes := 0, content := .empty, embed := [], probe := [], poisonedGranules := [], expelled := false
    drain := none, verdictNext := none, majority := [], suspect := [], reprogram := [], ungated := 256 }

/-- An operation as START latches it (R261). -/
def LdrOp.new (mode : LdrMode) (slot gap : Nat) (lodge : Bool) : LdrOp :=
  { mode := mode, slot := slot, gap := gap, stageLodge := lodge, dir := [], next := 0, headerDone := false, digest := 0#384
    key := 0#256, iv := 0#96, encrypted := false, model := Model.new, programmed := 0, gate := none, gateAsked := false
    retried := false, verified := false, late := false, aborting := false, claimed := false, err := 0, matched := false }

/-- MODE codes (R261). -/
def ldrModeOf (n : Nat) : LdrMode :=
  match n with
  | 0 => .load | 1 => .replace | 2 => .attach | _ => .release

/-- Slot state that a mode requires, and the one it gives at START. -/
def LdrMode.states (m : LdrMode) : Nat × Nat :=
  match m with
  | .load => (0, 1) | .replace => (2, 3) | .attach => (4, 4) | .release => (2, 5)

/-- Every set of slot `m` that is READY enters DRAINING (R240, R264). -/
def State.drainSets (s : State) (m : Nat) : State :=
  (s.wax.entries.filter fun e => e.2.modelSlot == m).foldl (fun s e =>
    if e.2.state = .hbm ∨ e.2.state = .lodge ∨ e.2.state = .moving then
      (s.putWax e.1 { e.2 with state := .draining }).waxSettle e.1
    else s) s

/-- START with the loader not BUSY (R261). -/
def State.startLoad (s : State) : State :=
  let mode := ldrModeOf (s.get Fld.LDR_CTL_MODE)
  let m := s.get Fld.LDR_CTL_SLOT
  let s1 := ((s.put Fld.LDR_STS_ERR 0).put Fld.LDR_STS_LAYER 0).wr64 Reg.LDR_GET 0
  if s.slotState m ≠ mode.states.1 then
    ((s1.put Fld.LDR_STS_PHASE 6).put Fld.LDR_STS_ERR ldrBadSlot).raise Fld.LDR_EVT_FAILED
  else
    let o := LdrOp.new mode m (s.get Fld.LDR_CTL_GAP) (s.flag Fld.LDR_CTL_STAGE_LODGE)
    let s2 := ((s1.setSlot m mode.states.2).put Fld.LDR_STS_BUSY 1).put Fld.LDR_CTL_START 1
    let s3 := (s2.put Fld.LDR_STS_PHASE (if mode = .release then 2 else 1)).modLdr fun l =>
      { l with op := some o, slots := l.slots.modify m fun x => { x with ungated := 256 } }
    if mode = .release then s3.drainSets m else s3

/-- A write of LDR_CTL by `req` (R261, R268). -/
def State.writeLdrCtl (s : State) (req : Nat) (v : Word) : State :=
  let s1 := ((s.put Fld.LDR_CTL_MODE (wordBits v 28 2)).put Fld.LDR_CTL_SLOT (wordBits v 22 6)).put Fld.LDR_CTL_GAP
    (wordBits v 14 8)
  let s2 := s1.put Fld.LDR_CTL_STAGE_LODGE (wordBits v 13 1)
  if s.ldr.op.isSome then
    if wordBits v 30 1 = 1 then s2.abortLoad
    else if wordBits v 31 1 = 1 ∧ req = 5 then s2.violation 0x03 0 Reg.LDR_CTL 0#32
    else s2
  else if wordBits v 31 1 = 1 then s2.startLoad
  else s2

/-- LDR_LOAD (R261). -/
def execLdrLoad (v : Word) (s : State) : Host.Outcome State Fault Refusal :=
  .next (if s.hidden Reg.LDR_CTL then s.undecoded Reg.LDR_CTL else s.writeLdrCtl 5 v)

/-- LDR_REPLACE (R261, R267). -/
def execLdrReplace (v : Word) (s : State) : Host.Outcome State Fault Refusal :=
  .next (if s.hidden Reg.LDR_CTL then s.undecoded Reg.LDR_CTL else s.writeLdrCtl 5 v)

/-- LDR_ATTACH (R263). -/
def execLdrAttach (v : Word) (s : State) : Host.Outcome State Fault Refusal :=
  .next (if s.hidden Reg.LDR_CTL then s.undecoded Reg.LDR_CTL else s.writeLdrCtl 5 v)

/-- LDR_RELEASE (R264). -/
def execLdrRelease (v : Word) (s : State) : Host.Outcome State Fault Refusal :=
  .next (if s.hidden Reg.LDR_CTL then s.undecoded Reg.LDR_CTL else s.writeLdrCtl 5 v)

/-- LDR_ABORT (R268). -/
def execLdrAbort (v : Word) (s : State) : Host.Outcome State Fault Refusal :=
  .next (if s.hidden Reg.LDR_CTL then s.undecoded Reg.LDR_CTL else s.writeLdrCtl 5 v)

/-- A function level reset (R186), which aborts the loader (R268). -/
def State.flr (s : State) : State := s.resetFunction.abortLoad

/-- FUNCTION_LEVEL_RESET (R186). -/
def execFunctionLevelReset (s : State) : Host.Outcome State Fault Refusal := .next s.flr

/-! ### The staging window (R259) -/

/-- Bytes of the staging ring. -/
def State.stagingSize (s : State) : Nat := s.get Fld.LDR_STG_SIZE_MIB * 2 ^ 20

/-- Bytes of the image from offset `lo`, as the ring holds them. -/
def State.imageBytes (s : State) (lo n : Nat) : List Byte :=
  (List.range n).map fun i => Memory.read stagingByte s.ldr.staging ((lo + i) % s.stagingSize)

/-- The running operation reads an image. -/
def State.streams (s : State) : Bool := match s.ldr.op with | some o => o.mode != .release | none => false

/-- A write of LDR_PUT (R259): while an image streams it never falls and never exceeds IMAGE_LEN. -/
def State.writePut (s : State) (n : Nat) : State :=
  if s.streams ∧ (n < s.rd64 Reg.LDR_PUT ∨ s.rd64 Reg.LDR_IMG_LEN < n) then s.failLoad ldrOverrun
  else s.wr64 Reg.LDR_PUT n

/-- LDR_PUT (R259). -/
def execLdrPut (v : DWord) (s : State) : Host.Outcome State Fault Refusal :=
  .next (if s.hidden Reg.LDR_PUT then (s.undecoded Reg.LDR_PUT).undecoded (Reg.LDR_PUT + 4) else s.writePut v.toNat)

/-- The image byte that a write at BAR4 offset `off` carries: the first from LDR_PUT on that the offset stands for. -/
def State.imageByte (s : State) (off : Nat) : Nat :=
  let put := s.rd64 Reg.LDR_PUT
  put + (off + 2 ^ 36 - put % 2 ^ 36) % 2 ^ 36

/-- A write into the staging window (R259, R428): bytes outside the free part of the ring are discarded and fail a load. -/
def State.writeStaging (s : State) (off : Nat) (bytes : List Byte) : State :=
  let n := s.stagingSize
  let fits := decide (s.imageByte off + bytes.length ≤ s.rd64 Reg.LDR_GET + n)
  if s.streams && !fits then s.failLoad ldrOverrun
  else
    let put := fun m => ((List.range bytes.length).zip bytes).foldl
      (fun m b => Memory.write stagingByte m ((off + b.1) % n) b.2) m
    s.modLdr fun l => { l with staging := put l.staging }

/-- BAR4_WRITE (R428). -/
def execBar4Write (off : BitVec 36) (bytes : List Byte) (s : State) : Host.Outcome State Fault Refusal :=
  .next (if s.flag Fld.BON_STS_RECOVERY then s else s.writeStaging off.toNat bytes)

/-! ### The header (R255, R256, R262) -/

/-- Bytes rounded up to a multiple of `a`. -/
def roundTo (a n : Nat) : Nat := ceilDiv n a * a

/-- HDR_LEN of an image with `n` directory entries (R255). -/
def headerLen (n : Nat) : Nat := roundTo 64 (0x100 + 96 * n + 96)

/-- Every byte is 0. -/
def zeroBytes (l : List Byte) : Bool := l.all (· == 0#8)

/-- Directory entry `i` of the header bytes (R256). -/
def dirEntry (h : List Byte) (i : Nat) : DirEntry :=
  let e := h.drop (0x100 + 96 * i)
  { type := bytesAt e 0 2, layer := bytesAt e 2 2, offset := bytesAt e 8 8, len := bytesAt e 0x10 8
    tag := BitVec.ofNat 128 (bytesAt e 0x18 16), hash := BitVec.ofNat 384 (bytesAt e 0x28 48) }

/-- The place of a section in the order of R256; none for a type or layer that no section has. -/
def DirEntry.place (e : DirEntry) (layers : Nat) : Option Nat :=
  if e.layer = 0xFFFF then (if e.type = 1 then some 0 else if e.type = 2 then some 1 else none)
  else if e.layer ≤ layers ∧ 3 ≤ e.type ∧ e.type ≤ 6 then some (2 + 4 * e.layer + (e.type - 3))
  else none

/-- The sections stand in order, each at the next multiple of 4 KiB, and none is missing but OUTLIER (R256). -/
def directoryOk (layers : Nat) (start : Nat) (dir : List DirEntry) : Bool :=
  let places := dir.map fun e => e.place layers
  let wanted := (List.range (2 + 4 * (layers + 1))).filter fun p => p < 2 || p % 4 != 0
  let r := dir.foldl (fun (a : Nat × Bool) e => (roundTo 4096 (e.offset + e.len), a.2 && e.offset == a.1)) (roundTo 4096 start, true)
  r.2 && places.all Option.isSome && (wanted.all fun p => places.contains (some p))
  && ((places.zip (places.drop 1)).all fun x => decide (x.1.getD 0 < x.2.getD 0))

/-- BAD_HEADER (R262): MAGIC, VERSION, a reserved field, HDR_LEN, the padding, section order or alignment. -/
def headerOk (h : List Byte) : Bool :=
  let n := bytesAt h 0x0C 4
  let sig := 0x100 + 96 * n + 96
  bytesAt h 0 4 == 0x4C444F4D && bytesAt h 4 2 == 1 && decide (bytesAt h 6 2 < 8) && bytesAt h 8 4 == headerLen n
  && zeroBytes ((h.drop 0x36).take 2) && zeroBytes ((h.drop 0x6C).take 36) && zeroBytes ((h.drop 0xF8).take 8)
  && zeroBytes ((h.drop sig).take (headerLen n - sig))
  && ((List.range n).all fun i => let e := h.drop (0x100 + 96 * i)
      zeroBytes ((e.drop 4).take 4) && zeroBytes ((e.drop 0x58).take 8))
  && directoryOk (bytesAt h 0x20 2) (headerLen n) ((List.range n).map (dirEntry h))

/-- The model that a header describes. -/
def headerModel (h : List Byte) : Model :=
  { Model.new with
    layout := BitVec.ofNat 64 (bytesAt h 0x18 8), layers := bytesAt h 0x20 2, qheads := bytesAt h 0x22 2
    kvheads := bytesAt h 0x24 2, headDim := bytesAt h 0x26 2, dModel := bytesAt h 0x28 4, ffWidth := bytesAt h 0x2C 4
    vocab := bytesAt h 0x30 4, key4 := bits (bytesAt h 6 2) 1 1 == 1, dh256 := bits (bytesAt h 6 2) 2 1 == 1
    shadowBytes := bytesAt h 0xF0 8 }

/-- The shape is within its ranges (R216, R255). -/
def Model.shapeOk (x : Model) : Bool :=
  decide (1 ≤ x.layers ∧ x.layers ≤ 255) && decide (1 ≤ x.kvheads) && x.qheads % x.kvheads == 0
  && decide (1 ≤ x.qheads / x.kvheads ∧ x.qheads / x.kvheads ≤ 32) && decide (1 ≤ x.headDim ∧ x.headDim ≤ 256)
  && x.dModel % 128 == 0 && x.ffWidth % 128 == 0 && decide (1 ≤ x.vocab ∧ x.vocab ≤ 2 ^ 24)

/-- Two models have one shape and one key format (R262 BAD_LAYOUT). -/
def Model.sameShape (x y : Model) : Bool :=
  x.layers == y.layers && x.qheads == y.qheads && x.kvheads == y.kvheads && x.headDim == y.headDim && x.dModel == y.dModel
  && x.ffWidth == y.ffWidth && x.vocab == y.vocab && x.key4 == y.key4 && x.dh256 == y.dh256

/-- The slot's LAYOUT_ID in the model slot map (R387). -/
def State.mapLayout (s : State) (m : Nat) : Option SlotRec := s.bon.image.bind fun i => i.slotMap[m]?

/-- The largest layer's sections, in bytes. -/
def largestLayer (dir : List DirEntry) : Nat :=
  (dir.map fun e => ((dir.filter fun f => f.layer == e.layer && e.layer != 0xFFFF).map (·.len)).sum).foldl max 0

/-- The shadow images with the new one fit 288 GiB and the slot's own area (R89, R266); with STAGE_LODGE the image store holds it
(R269). -/
def State.shadowFits (s : State) (o : LdrOp) (x : Model) (dir : List DirEntry) : Bool :=
  let others := (s.ldr.slots.filter fun k _ => k != o.slot).values.map (·.shadowBytes)
  let extra := if o.mode = .replace then largestLayer dir else 0
  let store := match s.bon.image with | some i => (i.pools.map (·.store)).sum * 65536 | none => 0
  let area := match s.mapLayout o.slot with | some r => r.shadowMax | none => 0
  decide (others.sum + x.shadowBytes + extra ≤ 288 * 2 ^ 30) && decide (x.shadowBytes ≤ area)
  && !(o.mode == .replace && o.stageLodge && decide (store < x.shadowBytes))

/-- The code with which a header fails, in the order of R262; 0 when it passes. -/
def State.headerCode (s : State) (o : LdrOp) (h : List Byte) : Nat :=
  let n := bytesAt h 0x0C 4
  let signed := 0x100 + 96 * n
  let x := headerModel h
  let keyId := bytesAt h 0x35 1
  let enc := bits (bytesAt h 6 2) 0 1 == 1
  let pub := (h.drop 0x90).take 96
  if !headerOk h then ldrBadHeader
  else if s.bon.digests.get? (bytesAt h 0x34 1) ≠ some (Config.sha384 pub) then 0x02
  else if !Config.ecdsaValid pub (Config.sha384 (h.take signed)) ((h.drop signed).take 96) then 0x03
  else if enc && !(match s.bon.wrapKeys.get? keyId with
      | some k => (Config.unwrapKey k ((h.drop 0x44).take 40)).isSome
      | none => false) then 0x04
  else if !x.shapeOk || bytesAt h 0x10 8 != s.rd64 Reg.LDR_IMG_LEN
      || s.runs.any (fun r => r.slot == o.slot && decide (x.layers < r.layer)) then 0x07
  else if (s.mapLayout o.slot).map (·.layout) ≠ some x.layout
      ∨ (o.mode = .replace ∧ (s.ldr.slots.get? o.slot).map (·.sameShape x) ≠ some true) then 0x08
  else if !s.shadowFits o x ((List.range n).map (dirEntry h)) then 0x0A
  else 0

/-- The header passes: the directory, the digest and the key are taken; an ATTACH whose digest is not the recorded one goes on as a
LOAD (R258, R263). -/
def State.takeHeader (s : State) (o : LdrOp) (h : List Byte) : State :=
  let n := bytesAt h 0x0C 4
  let digest := Config.sha384 (h.take (0x100 + 96 * n))
  let key := match s.bon.wrapKeys.get? (bytesAt h 0x35 1) with
    | some k => (Config.unwrapKey k ((h.drop 0x44).take 40)).getD 0#256
    | none => 0#256
  let same := decide (s.ldr.digests.get? o.slot = some digest)
  let o' := { o with
    dir := (List.range n).map (dirEntry h), headerDone := true, digest := digest, key := key
    iv := BitVec.ofNat 96 (bytesAt h 0x38 12), encrypted := bits (bytesAt h 6 2) 0 1 == 1, model := headerModel h
    matched := o.mode == .attach && same, mode := if o.mode = .attach ∧ !same then .load else o.mode }
  let s1 := (s.modLdr fun l => { l with op := some o' }).put Fld.LDR_STS_PHASE 2
  if o.mode = .attach ∧ !same then s1.setSlot o.slot 1 else s1

/-! ### Sections (R256, R257) -/

/-- The data of a section in the clear: none when its hash or tag fails; the code says which (R258). -/
def openSection (o : LdrOp) (i : Nat) (e : DirEntry) (stored : List Byte) : Nat × List Byte :=
  if Config.sha384 stored ≠ e.hash then (0x05, [])
  else if o.encrypted then
    match Config.gcmOpen o.key (o.iv ^^^ BitVec.ofNat 96 (i * 2 ^ 64)) [] stored e.tag with
    | some d => (0, d)
    | none => (0x06, [])
  else (0, stored)

/-- Words of a byte list from offset `o`. -/
def wordsAt (l : List Byte) (o n : Nat) : List Word := (List.range n).map fun i => BitVec.ofNat 32 (bytesAt l (o + 4 * i) 4)

/-- Stage descriptor `i` of a LAYER_HDR, with its rows of the width map and its scales (R257). -/
def stageAt (d : List Byte) (i : Nat) (rowsBefore colsBefore rows cols : Nat) (nstage allRows : Nat) : Stage :=
  let e := d.drop (64 + 16 * i)
  let widths := ((d.drop (64 + 16 * nstage + rowsBefore)).take rows).map fun b => (b.toNat % 16, b.getLsbD 4)
  { stage := bytesAt e 0 1, point := bytesAt e 1 1, elem := bytesAt e 2 1, u := bytesAt e 3 1, rowChunks := rows
    colBlocks := cols, resident := bytesAt e 8 1, widths := widths
    scales := wordsAt d (64 + 16 * nstage + allRows + 4 * 128 * colsBefore) (128 * cols) }

/-- The layer of a LAYER_HDR section (R257). -/
def layerOfHeader (d : List Byte) : Layer :=
  let n := bytesAt d 2 1
  let nout := bytesAt d 3 1
  let rows := fun i => bytesAt (d.drop (64 + 16 * i)) 4 2
  let cols := fun i => bytesAt (d.drop (64 + 16 * i)) 6 2
  let before := fun (f : Nat → Nat) i => ((List.range i).map f).sum
  let outBase := 64 + 16 * n + before rows n + 512 * before cols n
  { seed := BitVec.ofNat 32 (bytesAt d 4 4), kappa := (d.drop 8).take 5, eMin := (d.getD 13 0#8).toInt
    hr := bytesAt d 14 1, sigma := BitVec.ofNat 32 (bytesAt d 0x10 4)
    stages := (List.range n).map fun i => stageAt d i (before rows i) (before cols i) (rows i) (cols i) n (before rows n)
    outliers := (List.range nout).map fun i => let w := bytesAt d (outBase + 4 * i) 4; (bits w 24 3, bits w 0 24)
    weights := [], outlierCols := [], rcell := [] }

/-- Bytes of a LAYER_HDR section (R257). -/
def layerHeaderLen (d : List Byte) : Nat :=
  let y := layerOfHeader d
  roundTo 64 (64 + ((y.stages.map fun x => 16 + x.rowChunks + 512 * x.colBlocks).sum) + 4 * y.outliers.length)

/-- The rows and columns that the slice map gives a stage, which a resident stage has none of (R105, R262). -/
def State.sliceMatches (s : State) (m l : Nat) (x : Stage) : Bool :=
  let rs := s.runs.filter fun r => r.slot == m && r.layer == l && r.stage == x.stage
  if x.resident = 1 then rs.isEmpty
  else ((List.range x.rowChunks).all fun c => rs.any fun r => r.rows.contains c)
    && ((List.range x.colBlocks).all fun b => rs.any fun r => r.col == b)
    && rs.all fun r => decide (r.col < x.colBlocks) && r.rows.all fun c => decide (c < x.rowChunks)

/-- The PROBE items of layer `l` name stages, row chunks and column blocks that it has (R308). -/
def Model.itemsOk (x : Model) (l : Nat) (y : Layer) : Bool :=
  let base := 16 + 64 * bytesAt x.probe 4 2 + 8 * 512 * l
  (List.range 512).all fun i =>
    let e := x.probe.drop (base + 8 * i)
    match y.stages.find? fun z => z.stage == bytesAt e 0 1 with
    | some z => decide (bytesAt e 2 2 < z.rowChunks) && decide (bytesAt e 4 2 < z.colBlocks)
    | none => false

/-- The values of a layer header are within their ranges (R51, R53, R58, R79, R92, R190, R257). -/
def Layer.headerValuesOk (y : Layer) : Bool :=
  y.seed != 0#32 && decide (1 ≤ y.stages.length ∧ y.stages.length ≤ 8) && decide (y.outliers.length ≤ 32) && decide (y.hr ≤ 3)
  && (y.stages.all fun x => decide (x.stage ≤ 7) && decide (x.point ≤ 4) && decide (x.elem ≤ 3) && decide (x.u ≤ 7)
        && decide (x.resident ≤ 1) && y.kappa.getD x.point 0#8 != 0#8
        && x.widths.all fun w => decide (1 ≤ w.1 ∧ w.1 ≤ 8) && (!w.2 || decide (w.1 ≤ 4)))

/-- A weight is in the value set of its width (R46, R48). -/
def weightOk (b : Nat) (w : Int) : Bool :=
  let a := w.natAbs
  match b with
  | 1 => a == 1
  | 2 => decide (a ≤ 1)
  | 3 => decide (a ≤ 3)
  | 4 => decide (a ≤ 7)
  | _ => a % 16 != 8 && decide ((a + 7) / 16 ≤ (if b = 5 then 1 else if b = 6 then 2 else if b = 7 then 4 else 7))

/-- The weight integers of one byte (R48, R89). -/
def byteWeights (b : Nat) (x : Byte) : List Int :=
  if b ≤ 4 then [Config.nibbleWeight (x.extractLsb' 0 4), Config.nibbleWeight (x.extractLsb' 4 4)] else [x.toInt]

/-- Every weight of the section is in its set. -/
def Layer.weightsOk (y : Layer) (d : List Byte) : Bool :=
  y.stages.all fun x => (List.range x.rowChunks).all fun c =>
    let n := chunkBytes (x.width c) * x.colBlocks
    ((d.drop (y.stageBase x.stage + x.bytesTo c)).take n).all fun b => (byteWeights (x.width c) b).all (weightOk (x.width c))

/-- Bytes of the WEIGHTS and OUTLIER sections of a layer. -/
def Layer.weightBytes (y : Layer) : Nat := (y.stages.map fun x => x.bytesTo x.widths.length).sum
/-- The same of OUTLIER: a column per listed channel over the stages at its point (R92, R256). -/
def Layer.outlierBytes (y : Layer) : Nat := (y.outliers.map fun o => y.columnsOf o.1).sum

/-- A residual cell list of 128 bytes keeps the rules of R96. -/
def rcellOk (d : List Byte) : Bool :=
  let es := (List.range 32).map fun i => bytesAt d (4 * i) 4
  let valid := es.filter fun e => bits e 31 1 == 1
  es.take valid.length == valid && (valid.map fun e => bits e 0 14).eraseDups.length == valid.length
  && valid.all fun e => !([0, 15, 16, 17].contains (bits e 14 5))

/-- Arrays of a layer in the slice map. -/
def State.layerArrays (s : State) (m l : Nat) : Nat := ((s.runs.filter fun r => r.slot == m && r.layer == l).map (·.count)).sum

/-- A verified section is checked and written into the shadow image of the operation: the code, and the model (R256, R262). -/
def State.takeSection (s : State) (o : LdrOp) (e : DirEntry) (d : List Byte) : Nat × Model :=
  let x := o.model
  let old := (s.ldr.slots.get? o.slot).bind fun y => y.content.get? e.layer
  let y := x.content.getD e.layer (layerOfHeader [])
  let put := fun (z : Layer) => { x with content := x.content.put e.layer z }
  match e.type with
  | 1 => (if d.length = 2 * x.vocab * x.dModel then 0 else 0x07, { x with embed := d })
  | 2 =>
    let n := bytesAt d 4 2
    let ok := bytesAt d 0 4 == 0x424F5250 && decide (1 ≤ n ∧ n ≤ 64) && bytesAt d 6 2 == 512
      && d.length == 16 + 64 * n + 8 * 512 * (x.layers + 1) + 512 * (x.layers + 1)
    (if ok then 0 else 0x07, { x with probe := d })
  | 3 =>
    let z := layerOfHeader d
    let shape := bytesAt d 0 2 == e.layer && d.length == layerHeaderLen d && (z.stages.all (s.sliceMatches o.slot e.layer))
      && x.itemsOk e.layer z
    let reseeded := o.mode == .replace && x.key4 && (old.map (·.seed) != some z.seed)
    (if !shape then 0x07 else if reseeded then 0x08 else if !z.headerValuesOk then 0x09 else 0, put z)
  | 4 => (if d.length ≠ y.weightBytes then 0x07 else if !y.weightsOk d then 0x09 else 0, put { y with weights := d })
  | 5 => (if d.length ≠ y.outlierBytes then 0x07 else if d.any (· == 0x80#8) then 0x09 else 0, put { y with outlierCols := d })
  | _ =>
    let n := s.layerArrays o.slot e.layer
    (if d.length ≠ 128 * n then 0x07
      else if !((List.range n).all fun i => rcellOk ((d.drop (128 * i)).take 128)) then 0x09 else 0,
     put { y with rcell := d })

/-- LDR_GET advances to `x`. -/
def State.consume (s : State) (x : Nat) : State :=
  let n := x - s.rd64 Reg.LDR_GET
  (s.wr64 Reg.LDR_GET x).count Reg.LDR_BYTES n

/-- The loader takes the next staged part of the image (R258, R259): the header, then section by section. -/
def State.takeStaged (s : State) (o : LdrOp) : State :=
  let put := s.rd64 Reg.LDR_PUT
  if !o.headerDone then
    let n := headerLen (bytesAt (s.imageBytes 0x0C 4) 0 4)
    if put < 0x100 ∨ (put < n ∧ bytesAt (s.imageBytes 8 4) 0 4 = n) then s
    else
      let h := s.imageBytes 0 n
      let c := s.headerCode o h
      if c ≠ 0 then s.failLoad c else (s.takeHeader o h).consume n
  else
    match o.dir[o.next]? with
    | none => s
    | some e =>
      if put < e.offset + e.len then s
      else
        let r := openSection o o.next e (s.imageBytes e.offset e.len)
        let s0 := if e.layer = 0xFFFF then s else s.put Fld.LDR_STS_LAYER e.layer
        if r.1 ≠ 0 then s0.failLoad r.1
        else
          let t := s0.takeSection o e r.2
          if t.1 ≠ 0 then s0.failLoad t.1
          else (s0.modOp fun o => { o with model := t.2, next := o.next + 1 }).consume (e.offset + e.len)

/-- LDR_SECTION_VERIFIED (R258). -/
def execLdrSectionVerified (s : State) : Host.Outcome State Fault Refusal :=
  match s.ldr.op with
  | some o => .next (if o.mode = .release ∨ o.aborting ∨ s.halted then s else s.takeStaged o)
  | none => .next s

/-! ### Program-and-verify (R265, R266) -/

/-- The tile that the loader programs for a position: the one that holds it; of one FENCED or RETIRED, a new spare of the die. -/
def State.claimPosition (s : State) (d t : Nat) : State × Option Nat :=
  let x := s.physical d t
  match (s.tile d x).state with
  | .fenced | .retired =>
    match s.chooseSpare d x with
    | some y =>
      let s1 := s.modTile d x fun z => { z with state := .retired, spare := none }
      ((s1.modTile d y fun z => { z with replaces := some x }).claimTile d y .programming, some y)
    | none => (s, none)
  | _ => (s.claimTile d x .programming, some x)

/-- Arrays of a tile, by key. -/
def tileArrays (d t : Nat) : List Nat := List.range' (tileKey d t * 256) 256

/-- The positions enter PROGRAMMING, and their arrays are to be programmed; false: a die has no spare. -/
def State.claimPositions (s : State) (ps : List (Nat × Nat)) : State × Bool :=
  ps.foldl (fun (a : State × Bool) p =>
    let r := a.1.claimPosition p.1 p.2
    match r.2 with
    | some x => (r.1.modLdr fun l => { l with left := l.left ++ tileArrays p.1 x }, a.2)
    | none => (r.1, false)) (s, true)

/-- Arrays that a round programs at once (R266): floor(LDR_PROG_W / 0.5 mW). -/
def State.roundSize (s : State) : Nat := 2000 * s.get Fld.LDR_PROG_W_WATTS

/-- Misses of a column. -/
def columnMisses (ms : List (Nat × Nat × Int)) (c : Nat) : Nat := (ms.filter fun m => m.2.1 == c).length

/-- The column with the most misses, the lower on ties. -/
def worstColumn (ms : List (Nat × Nat × Int)) : Nat :=
  (List.range 128).foldl (fun b c => if columnMisses ms b < columnMisses ms c then c else b) 0

/-- Columns that move to the `n` spare columns while more than 32 misses remain, with the misses that do (R265 step 3). -/
def moveColumns (spare : List (Nat × Nat × Int)) : Nat → List Nat → List (Nat × Nat × Int) → List Nat × List (Nat × Nat × Int)
  | 0, cs, ms => (cs, ms)
  | n + 1, cs, ms =>
    if ms.length ≤ 32 then (cs, ms)
    else
      let c := worstColumn (ms.filter fun m => !cs.contains m.2.1)
      let rest := (ms.filter fun m => m.2.1 != c) ++ spare.filter fun m => m.2.1 == c
      moveColumns spare n (cs ++ [c]) rest

/-- Misses in ascending (row, column) order as residual cells (R265 step 5). -/
def cellsOf (ms : List (Nat × Nat × Int)) : List RCell :=
  (sortBy (fun x y => decide (x.1 * 128 + x.2.1 ≤ y.1 * 128 + y.2.1)) ms).map fun m => ⟨m.2.2, m.2.1, m.1⟩

/-- The misses of an operand in Nat. -/
def natMisses (l : List (Fin 128 × Fin 128 × Int)) : List (Nat × Nat × Int) := l.map fun m => (m.1.val, m.2.1.val, m.2.2)

/-- The array takes its list, its map and its gain: at once, or for the bank of a gated layer (R265 steps 5 and 6, R267). -/
def State.setArray (s : State) (d t a : Nat) (banked : Bool) (cols : List Nat) (cells : List RCell) (refs : List Int) : State :=
  let map := (List.range 4).map fun i => cols[i]?
  let gain := driftGain (refs.foldl (· + ·) 0) (idealDiff (s.tile d t).range)
  let x := s.arr d t a
  let y : Arr :=
    if banked then { x with newGain := gain, newMap := some map, newCells := some cells, oor := gain.isNone }
    else { Arr.new with gain := gain.getD x.gain, age := 0, oor := gain.isNone, map := map, rcells := cells }
  let s1 := s.modArr d t a fun _ => y
  if gain.isSome then s1
  else (s1.count Reg.LAP_MOG_DRIFT_OOR 1).raise Fld.LAP_MOG_EVT_DRIFT_RANGE

/-- A tile that cannot be programmed (R265 step 4): reported with a kind that no rule names (log entry 50), RETIRED, a spare in its
position from step 1. With no spare the operation ends, or the gated layer goes on with units claimed for the tile. -/
def State.replaceTile (s : State) (d x : Nat) : State :=
  let drop := fun (s : State) => s.modLdr fun l => { l with left := l.left.filter fun k => k / 256 != tileKey d x }
  let s1 := drop ((s.report (tileAddr d x) 0xFFFF ((Config.measured s.drawn).toNat % 256) sevDegraded 0 0#32))
  match s1.chooseSpare d x with
  | some y =>
    let s2 := s1.modTile d x fun z => { z with state := .retired }
    let s3 := (s2.modTile d y fun z => { z with replaces := some x }).claimTile d y .programming
    s3.modLdr fun l => { l with left := tileArrays d y ++ l.left }
  | none =>
    let gated := match s.ldr.op with | some o => o.gate.isSome | none => true
    if gated then (((s1.claimBoth d x).spareOut d x).modOp fun o => { o with err := ldrNoSpare })
    else (s1.modTile d x fun z => { z with state := .retired }).failLoad ldrNoSpare

/-- One array of a round (R265). -/
def State.programArray (s : State) (p : ArrayProgram) : State :=
  let d := p.die.val
  let t := p.tile.val
  let k := arrKey d t p.array
  let op := decide (k ∈ s.ldr.left)
  if (s.tile d t).state ≠ .programming ∨ (!op ∧ (s.replacedBy d t).isNone) then s
  else
    let r := moveColumns (natMisses p.spareMisses) 4 [] (natMisses p.misses)
    if 32 < r.2.length ∨ !p.passOk then if op then s.replaceTile d t else s.retireSpare d t
    else
      let banked := op && (match s.ldr.op with | some o => o.gate.isSome | none => false)
      let s0 := (s.setArray d t p.array banked r.1 (cellsOf r.2) p.refs).tally 22 0x10 1 none
      let s1 := s0.count Reg.LDR_PV_MISS r.2.length
      let s2 := (s1.count Reg.LDR_PV_SPARECOL r.1.length).modLdr fun l => { l with left := l.left.filter (· != k) }
      s2.modTile d t fun x => { x with holdsWeights := true }

/-- The layer was programmed back after a second failure: nothing is left to verify (R267 step 4). -/
def State.afterRound (s : State) : State :=
  match s.ldr.op with
  | some o =>
    if s.ldr.left = [] ∧ o.gate.isSome ∧ o.err = ldrVerifyFail then
      s.modOp fun o => { o with verified := true, late := s.plan.composed }
    else if s.ldr.left = [] ∧ o.matched ∧ o.retried then
      (s.openTiles (s.layerPositions o.slot o.programmed)).modOp fun o =>
        { o with programmed := o.programmed + 1, retried := false }
    else s
  | none => s

/-- PROGRAM_ROUND_DONE (R265, R266): at most a round's arrays, in order, while VPP is up; replacement spares run ahead of it. The lap
is charged the limit for 10 ms, the nominal round (log entry 49). -/
def execProgramRoundDone (arrays : List ArrayProgram) (s : State) : Host.Outcome State Fault Refusal :=
  if !s.flag Fld.PWR_STS_VPP_OK ∨ s.halted then .next s
  else
    let due := s.ldr.left.take s.roundSize
    let mine := arrays.filter fun p => decide (arrKey p.die p.tile p.array ∈ due) || (s.replacedBy p.die p.tile).isSome
    let s1 := (mine.foldl (fun s p => s.programArray p) s).afterRound
    .next (s1.modLedger fun l => { l with planned := l.planned + 256 * s.get Fld.LDR_PROG_W_WATTS * 10000 })

/-! ### Verification and the gate (R263, R267, R268) -/

/-- The tiles of the items of layer `l` whose bytes differ beyond FP_TOL (R308). -/
def State.failingPositions (s : State) (o : LdrOp) (l : Nat) (fp : List Int) : List (Nat × Nat) :=
  let want := fpLayer o.model.expectedPrint l
  let base := 16 + 64 * bytesAt o.model.probe 4 2 + 8 * 512 * l
  let items := (List.range 512).filter fun i => decide (s.get Fld.PAT_CFG_FP_TOL < (fp.getD i 0 - want.getD i 0).natAbs)
  (items.flatMap fun i =>
    let e := o.model.probe.drop (base + 8 * i)
    (s.runs.filter fun r => r.slot == o.slot && r.layer == l && r.stage == bytesAt e 0 1 && r.col == bytesAt e 4 2
      && r.rows.contains (bytesAt e 2 2)).map fun r => (r.die, r.tile)).eraseDups

/-- Tiles of positions that are in service or being programmed are to be programmed again. -/
def State.again (s : State) (ps : List (Nat × Nat)) : State :=
  ps.foldl (fun s p =>
    let x := match (s.standing p.1 p.2).find? fun x => x.2 == .programming with | some x => x.1 | none => s.physical p.1 p.2
    (s.claimTile p.1 x .programming).modLdr fun l => { l with left := l.left ++ tileArrays p.1 x }) s

/-- A layer of a slot in force. -/
def State.oldLayer (s : State) (o : LdrOp) (l : Nat) : Layer :=
  match (s.ldr.slots.get? o.slot).bind fun x => x.content.get? l with
  | some y => y
  | none => o.model.content.getD l (layerOfHeader [])

/-- The fingerprint of the layer in hand is compared (R263, R267 step 4). -/
def State.verifyLayer (s : State) (o : LdrOp) (fp : List Int) : State :=
  let l := o.programmed
  let good := decide (differing (s.get Fld.PAT_CFG_FP_TOL) fp (fpLayer o.model.expectedPrint l) ≤ s.get Fld.PAT_CFG2_FP_MAX)
  if o.matched then
    if good then s.modOp fun o => { o with programmed := o.programmed + 1 }
    else (s.again (s.layerPositions o.slot l)).modOp fun o => { o with retried := true }
  else if good then s.modOp fun o => { o with verified := true, late := s.plan.composed }
  else if !o.retried then (s.again (s.failingPositions o l fp)).modOp fun o => { o with retried := true }
  else
    (s.again (s.layerPositions o.slot l)).modOp fun o =>
      { o with err := ldrVerifyFail, model := { o.model with content := o.model.content.put l (s.oldLayer o l) } }

/-- LDR_LAYER_VERIFIED (R267): of a gated layer, or of a layer of an ATTACH that programs nothing, once its arrays are done. -/
def execLdrLayerVerified (fp : List Int) (s : State) : Host.Outcome State Fault Refusal :=
  match s.ldr.op with
  | some o =>
    let gated := o.gate.isSome && !o.verified && o.err != ldrVerifyFail
    let attach := o.matched && o.next == o.dir.length && decide (o.programmed ≤ o.model.layers)
    if s.ldr.left = [] ∧ (gated ∨ attach) then .next (s.verifyLayer o fp) else .next s
  | none => .next s

/-- The gate closes at the boundary: the layer's tiles enter PROGRAMMING (R267 step 3). -/
def State.closeGate267 (s : State) (o : LdrOp) : State :=
  let s1 := (s.modOp fun o =>
    { o with gate := some o.programmed, gateAsked := false, retried := false, verified := false, late := false }).put
    Fld.LDR_STS_PHASE 4
  let r := (s1.put Fld.LDR_STS_LAYER o.programmed).claimPositions (s.layerPositions o.slot o.programmed)
  if r.2 then r.1 else r.1.modOp fun o => { o with err := ldrNoSpare }

/-- The gate opens at the boundary: the shadow pointer moves, the tiles enter service; an operation that failed or was aborted ends
(R267 step 5, R268). -/
def State.openGate267 (s : State) (o : LdrOp) (l : Nat) : State :=
  let s1 := s.modLdr fun r => { r with slots := r.slots.modify o.slot fun x =>
    { x with content := x.content.put l (o.model.content.getD l (layerOfHeader [])), ungated := 0
             embed := if l = 0 then o.model.embed else x.embed } }
  let done : Bool := o.err != ldrVerifyFail
  let s2 := (s1.openTiles (s.layerPositions o.slot l)).modOp fun o =>
    { o with gate := none, verified := false, programmed := o.programmed + done.toNat }
  let s3 := s2.put Fld.LDR_STS_PHASE 2
  if o.err ≠ 0 ∨ o.aborting then
    s3.failLoad (if o.err ≠ 0 then o.err else ldrAborted)
  else s3

/-- What a boundary does for a REPLACE: the open gate's lap is counted, a verified layer's gate opens, a gate asked for closes. -/
def State.gateBoundary (s : State) : State :=
  match s.ldr.op with
  | none => s
  | some o =>
    if o.mode ≠ .replace then s
    else
      let s1 := match o.gate with
        | some l => if o.verified && !o.late then s.openGate267 o l else s.modOp fun o => { o with late := false }
        | none => s.modLdr fun r => { r with slots := r.slots.modify o.slot fun x => { x with ungated := x.ungated + 1 } }
      match s1.ldr.op with
      | some o1 => if o1.gateAsked && o1.gate.isNone then s1.closeGate267 o1 else s1
      | none => s1

/-! ### The end of an operation (R263, R264) -/

/-- KVM_MFMT of a slot from its model (R188, R189, R214). -/
def State.putFormat (s : State) (m : Nat) (x : Model) : State :=
  let b := x.layers * x.kvheads * (if x.key4 then 3 * x.dh / 2 else 2 * x.dh)
  (((s.putB (Fld.KVM_MFMT_KEY4.sel m) x.key4).putB (Fld.KVM_MFMT_DH.sel m) x.dh256).put (Fld.KVM_MFMT_PB.sel m)
    (ceilDiv (64 * b) 65536)).put (Fld.KVM_MFMT_B.sel m) b

/-- The slot record of the grooming tables (R263, R390). -/
def State.putRecord (s : State) (m : Nat) (digest : BitVec 384) (layout : DWord) (state : Nat) : State :=
  s.writeFlash (slotRecAddr m) (leBytes digest.toNat 48 ++ leBytes layout.toNat 8 ++ leBytes state 1 ++ leBytes 0 7)

/-- A load is complete: the slot is RESIDENT with the new model (R261, R263). -/
def State.completeLoad (s : State) (o : LdrOp) : State :=
  let m := o.slot
  let s1 := (s.openTiles (s.slotPositions m)).modLdr fun l =>
    { l with slots := l.slots.put m o.model, digests := l.digests.put m o.digest }
  let s2 := ((s1.putRecord m o.digest o.model.layout 2).putFormat m o.model).setSlot m 2
  let s3 := (s2.put (Fld.LDR_SLOT_STS_LAYERS.sel m) o.model.layers).put (Fld.LDR_SLOT_STS_MIXED.sel m) 0
  (s3.put (Fld.LDR_SLOT_STS_POISON.sel m) 0).endLoad 0

/-- No bib, guest or prefix of the slot is outside FREE (R264). -/
def State.slotIdle (s : State) (m : Nat) : Bool :=
  (s.bibs.values.all fun b => b.state == .free || b.modelSlot != m)
  && (s.kvm.prefixes.values.all fun p => p.state == .free || p.modelSlot != m)

/-- The slot is freed (R264): shadow image and record gone. -/
def State.freeSlot (s : State) (m : Nat) : State :=
  let s1 := (s.modLdr fun l => { l with slots := l.slots.erase m, digests := l.digests.erase m }).setSlot m 0
  let s2 := s1.writeFlash (slotRecAddr m) (List.replicate 64 erased)
  ((((s2.put (Fld.KVM_MFMT_PB.sel m) 0).put (Fld.LDR_SLOT_STS_LAYERS.sel m) 0).put (Fld.LDR_SLOT_STS_MIXED.sel m) 0).put
    (Fld.LDR_SLOT_STS_POISON.sel m) 0).endLoad 0

/-- The running operation takes its last step when it can: a LOAD whose image is in claims its tiles, then completes when they are
programmed; an ATTACH when every layer has passed; a REPLACE when every layer has been gated; a RELEASE when the slot is idle. -/
def State.advanceLoad (s : State) (o : LdrOp) : State :=
  let all := o.headerDone && o.next == o.dir.length
  match o.mode with
  | .release => if s.slotIdle o.slot then s.freeSlot o.slot else s
  | .replace => if all && decide (o.model.layers < o.programmed) && o.gate.isNone then s.completeLoad o else s
  | _ =>
    if !all then s
    else if o.matched then (if o.model.layers < o.programmed ∧ s.ldr.left = [] then s.completeLoad o else s)
    else if !o.claimed then
      let r := ((s.modOp fun o => { o with claimed := true }).put Fld.LDR_STS_PHASE 3).claimPositions (s.slotPositions o.slot)
      if r.2 then r.1 else r.1.failLoad ldrNoSpare
    else if s.ldr.left = [] then s.completeLoad o
    else s

/-- LDR_OPERATION_DONE (R261). -/
def execLdrOperationDone (s : State) : Host.Outcome State Fault Refusal :=
  match s.ldr.op with
  | some o => .next (if s.halted then s else s.advanceLoad o)
  | none => .next s

/-! ### Layers reprogrammed after an expulsion (R311) -/

/-- At a boundary, with the loader free, a layer that still disagreed is claimed for programming once no bib of its slot is left;
one that is programmed returns to service. -/
def State.fixBoundary (s : State) : State :=
  match s.ldr.fix with
  | some (m, l) =>
    if s.ldr.left = [] then
      (s.openTiles (s.layerPositions m l)).modLdr fun r =>
        { r with fix := none, slots := r.slots.modify m fun x => { x with reprogram := x.reprogram.filter (· != l) } }
    else s
  | none =>
    if s.ldr.op.isSome then s
    else
      match s.ldr.slots.entries.find? fun e => e.2.reprogram != [] && s.slotIdle e.1 with
      | some e =>
        let l := e.2.reprogram.headD 0
        ((s.modLdr fun r => { r with fix := some (e.1, l) }).claimPositions (s.layerPositions e.1 l)).1
      | none => s

end Sys2Proof.Machine
end

