-- ==== Sys2Proof/Machine/Image.lean ====
section
/-!
DEFINITION. The configuration image (R385-R389): its header and section table, its sections as records, the checks of R386, and the
values that it gives registers.
-/

namespace Sys2Proof.Machine

/-! ### Header and section table (R385, R386) -/

/-- A section table entry (R385). -/
structure ImageSection where
  type : Nat
  off : Nat
  len : Nat
  crc : Nat
deriving DecidableEq, Repr

/-- The section table of an image. -/
def sectionTable (img : List Byte) : List ImageSection :=
  (List.range (bytesAt img 6 2)).map fun i =>
    let e := img.drop (64 + 16 * i)
    ⟨bytesAt e 0 2, bytesAt e 4 4, bytesAt e 8 4, bytesAt e 12 4⟩

/-- The bytes of an entry's section. -/
def ImageSection.bytes (x : ImageSection) (img : List Byte) : List Byte := (img.drop x.off).take x.len

/-- The section of a type; none when the image has none. -/
def sectionOf (img : List Byte) (t : Nat) : Option (List Byte) :=
  ((sectionTable img).find? fun x => x.type == t).map fun x => x.bytes img

/-- The section of a type, empty when the image has none. -/
def sectionBytes (img : List Byte) (t : Nat) : List Byte := (sectionOf img t).getD []

/-- The largest image: 20 MiB. -/
def imageMax : Nat := 20 * 2 ^ 20

/-- Every header field is within its range (R385, R386). -/
def imageHeaderOk (img : List Byte) : Bool :=
  bytesAt img 0 4 == 0x47464E43 && bytesAt img 4 2 == 1 && (bytesAt img 6 2 == 8 || bytesAt img 6 2 == 9)
  && bytesAt img 8 4 == img.length && decide (img.length ≤ imageMax) && decide (bytesAt img 0x0C 1 < 8)
  && bytesAt img 0x0D 3 == 0 && zeroBytes ((img.drop 0x1C).take 36)

/-- The image's CRC, its own field taken as 0. -/
def imageCrcOk (img : List Byte) : Bool :=
  (crc32c (img.take 0x18 ++ [0#8, 0#8, 0#8, 0#8] ++ img.drop 0x1C)).toNat == bytesAt img 0x18 4

/-- An entry's section has its CRC. -/
def ImageSection.crcOk (x : ImageSection) (img : List Byte) : Bool := (crc32c (x.bytes img)).toNat == x.crc

/-- The entries are in type order, none repeated, unknown or missing but LINK; their places do not overlap (R386). -/
def sectionsOk (img : List Byte) : Bool :=
  let l := sectionTable img
  let types := l.map (·.type)
  let starts := l.map (·.off)
  let ends := (64 + 16 * l.length) :: l.map fun x => x.off + x.len
  ((types.zip (types.drop 1)).all fun x => decide (x.1 < x.2)) && (types.all fun t => decide (1 ≤ t ∧ t ≤ 9))
  && ([1, 2, 3, 4, 5, 6, 7, 9].all fun t => types.contains t) && (starts.all fun o => o % 64 == 0)
  && ((ends.zip (starts ++ [img.length - 96])).all fun x => decide (x.1 ≤ x.2))

/-- Verification digest `i` is that of the public key in the STEWARD section, and the signature verifies (R386). -/
def State.imageSigned (s : State) (img : List Byte) : Bool :=
  let pub := (sectionBytes img 9).take 96
  decide (s.bon.digests.get? (bytesAt img 0x0C 1) = some (Config.sha384 pub))
  && Config.ecdsaValid pub (Config.sha384 (img.take (img.length - 96))) (img.drop (img.length - 96))

/-- The checks of R386. -/
def State.imageOk (s : State) (img : List Byte) : Bool :=
  imageHeaderOk img && imageCrcOk img && sectionsOk img && ((sectionTable img).all fun x => x.crcOk img) && s.imageSigned img

/-! ### Copies (R382, R383) -/

/-- Flash address of the record of copy `c` (0 A, 1 B). -/
def copyRecAddr (c : Nat) : Nat := 0x1000 * c

/-- Flash address of copy `c`. -/
def copyBase (c : Nat) : Nat := 0x10000 + 0x1400000 * c

/-- The image in copy `c`, as long as its header says and no longer than the region. -/
def State.copyImage (s : State) (c : Nat) : List Byte :=
  s.readFlash (copyBase c) (min (bytesAt (s.readFlash (copyBase c + 8) 4) 0 4) imageMax)

/-! ### CLOCK (R338, R387) -/

/-- Divider and band of each domain. -/
def clockRecords (b : List Byte) : List (Nat × Nat) := (List.range 60).map fun d => (bytesAt b (4 * d) 2, bytesAt b (4 * d + 2) 2)

/-- The divider range of a domain (R338). -/
def dividerRange (d : Nat) : Nat × Nat :=
  if d < 48 then [(16, 32), (32, 64), (8, 16)].getD (d % 3) (0, 0)
  else if d < 50 then (4, 8)
  else if d < 52 then (8, 16)
  else if d < 58 then (32, 32)
  else if d = 58 then (1, 1)
  else (128, 128)

/-- The planned source of a domain (R338): XTAL for AON, else ROOT. -/
def plannedSource (d : Nat) : Nat := if d = 58 then 2 else 0

/-- The nominal divider of a domain (R338): the lowest of its range. -/
def nominalDiv (d : Nat) : Nat := (dividerRange d).1

/-- The CLOCK section is in range. -/
def clockOk (b : List Byte) : Bool :=
  b.length == 240 && (List.range 60).all fun d =>
    let r := (clockRecords b).getD d (0, 0)
    decide ((dividerRange d).1 ≤ r.1 ∧ r.1 ≤ (dividerRange d).2) && decide (500 ≤ r.2 ∧ r.2 ≤ 5000)

/-! ### POOL, SLOTMAP, WAXDIR, LINK, ROUTING (R277, R387) -/

/-- A POOL record. -/
def poolRecord (b : List Byte) : PoolRec :=
  { hbm := bytesAt b 0 4, lodge := bytesAt b 4 4, waxHbm := bytesAt b 8 4, waxLodge := bytesAt b 12 4, store := bytesAt b 16 4
    staging := bytesAt b 20 4 }

/-- The two POOL records, HE then HW. -/
def poolRecords (b : List Byte) : List PoolRec := [poolRecord b, poolRecord (b.drop 32)]

/-- A SLOTMAP record. -/
def slotRecord (b : List Byte) : SlotRec :=
  let n := bytesAt b 1 1
  { inUse := bits (bytesAt b 0 1) 0 1 == 1, replicas := (List.range n).map fun i => bytesAt b (24 + 2 * i) 2
    layout := BitVec.ofNat 64 (bytesAt b 8 8), shadowMax := bytesAt b 16 8 }

/-- The 64 SLOTMAP records. -/
def slotRecords (b : List Byte) : List SlotRec := (List.range 64).map fun i => slotRecord (b.drop (64 * i))

/-- The SLOTMAP section is in range: REPL_N is 0 or 3 to 8, and the module IDs are there. -/
def slotMapOk (b : List Byte) : Bool :=
  b.length == 4096 && (List.range 64).all fun i =>
    let e := b.drop (64 * i)
    let n := bytesAt e 1 1
    (n == 0 || decide (3 ≤ n ∧ n ≤ 8)) && ((List.range 8).all fun j =>
      if j < n then decide (bytesAt e (24 + 2 * j) 2 ≤ 4095) else bytesAt e (24 + 2 * j) 2 == 0xFFFF)

/-- A WAXDIR record. -/
def waxRecord (b : List Byte) : WaxDir := ⟨bytesAt b 0 1, BitVec.ofNat 32 (bytesAt b 4 4), bytesAt b 8 4⟩

/-- The 64 WAXDIR records. -/
def waxRecords (b : List Byte) : List WaxDir := (List.range 64).map fun i => waxRecord (b.drop (16 * i))

/-- The WAXDIR section is in range. -/
def waxDirOk (b : List Byte) : Bool := b.length == 1024 && (waxRecords b).all fun r => decide (r.lrec ≤ 3)

/-- A PORTS entry. -/
def portRecord (b : List Byte) : PortRec :=
  { peer := bytesAt b 0 2, peerPort := bytesAt b 2 1, classes := b.getD 3 0#8, spare := (b.getD 4 0#8).getLsbD 0 }

/-- The link section (R277). -/
def linkRecord (b : List Byte) : LinkSec :=
  { moduleId := bytesAt b 6 2, domainId := BitVec.ofNat 32 (bytesAt b 8 4), maxHops := bytesAt b 0x0C 1, size := bytesAt b 0x0D 1
    member := bytesAt b 0x0E 1, ids := (List.range 8).map fun i => bytesAt b (0x10 + 2 * i) 2, spreadCap := bytesAt b 0x20 2
    wFp := bytesAt b 0x22 1, wMirror := bytesAt b 0x23 1, wMigrate := bytesAt b 0x24 1
    ports := (List.range 32).map fun p => portRecord (b.drop (0x30 + 8 * p)) }

/-- An enabled port. -/
def PortRec.enabled (r : PortRec) : Bool := r.classes.getLsbD 0

/-- The link section passes R277. -/
def linkOk (b : List Byte) : Bool :=
  let l := linkRecord b
  let on := l.ports.filter PortRec.enabled
  b.length == 0x130 && bytesAt b 0 4 == 0x4B4E494C && bytesAt b 4 2 == 1 && (decide (l.moduleId ≤ 4095) || l.moduleId == 0xFFFF)
  && decide (1 ≤ l.maxHops ∧ l.maxHops ≤ 64) && [0, 2, 4, 8].contains l.size && (decide (l.member < l.size) || l.member == 0)
  && decide (l.spreadCap ≤ 1000) && decide (1 ≤ l.wFp ∧ 1 ≤ l.wMirror ∧ 1 ≤ l.wMigrate)
  && zeroBytes ((b.drop 0x25).take 11) && bytesAt b 0x0F 1 == 0
  && (on.all fun r => decide (r.peer ≤ 4095) && decide (r.peerPort < 32))
  && (on.map fun r => (r.peer, r.peerPort)).eraseDups.length == on.length
  && ((List.range l.size).all fun k => k == l.member || on.any fun r => r.peer == l.ids.getD k 0xFFFF && r.classes.getLsbD 2)

/-- The ROUTING section is in range: a reserved bit 7. -/
def routingOk (b : List Byte) : Bool := b.length == 1536 && b.all fun x => !x.getLsbD 7

/-! ### PISTE (R129-R132, R388) -/

/-- The directory entry of a record type: record size, count, offset. -/
def pisteEntry (b : List Byte) (t : Nat) : Option (Nat × Nat × Nat) :=
  (((List.range (bytesAt b 0x24 2)).map fun i => b.drop (0x28 + 16 * i)).find? fun e => bytesAt e 0 2 == t).map fun e =>
    (bytesAt e 2 2, bytesAt e 4 4, bytesAt e 8 4)

/-- The records of a type. -/
def pisteRecords (b : List Byte) (t : Nat) : List (List Byte) :=
  match pisteEntry b t with
  | some e => (List.range e.2.1).map fun i => (b.drop (e.2.2 + e.1 * i)).take e.1
  | none => []

/-- Record sizes of types 1 to 9 (R129). -/
def recordSizes : List Nat := [16, 24, 8, 8, 16, 16, 16, 8, 8]

/-- A WAVE record (R130). -/
def waveRecord (r : List Byte) : WaveRec :=
  let m := bytesAt r 1 1
  { modelSlot := if m = 0xFF then none else some m, spread := bytesAt r 2 2, start := bytesAt r 4 4, stop := bytesAt r 8 4 }

/-- A TILEMAP record (R131). -/
def tileMapRecord (r : List Byte) : TileMap :=
  let mode := bytesAt r 1 1
  { die := bytesAt r 0 1, tile := bytesAt r 2 2, merged := bits mode 7 1 == 1, range := bits mode 4 3, template := bytesAt r 4 4
    offset := bytesAt r 8 4, mask := BitVec.ofNat 96 (bytesAt r 12 12) }

/-- A MOGUL_JOBS record (R388). -/
def mogulRecord (r : List Byte) : MogulRec :=
  { unit := bytesAt r 0 1, kind := bytesAt r 1 1, wave := bytesAt r 2 1, layer := bytesAt r 3 1, stage := bytesAt r 4 1
    point := bytesAt r 5 1, pool := bytesAt r 6 2, start := bytesAt r 8 4, stop := bytesAt r 12 4 }

/-- A WINDOWS record (R388). -/
def windowRecord (r : List Byte) : Window :=
  { kind := bytesAt r 0 1, die := bytesAt r 1 1, tile := bytesAt r 2 2, period := bytesAt r 4 2, phase := bytesAt r 6 2
    start := bytesAt r 8 4, len := bytesAt r 12 4 }

/-- A KV_READ record (R388). -/
def kvReadRecord (r : List Byte) : Nat × Nat × Nat × Nat × Nat :=
  (bytesAt r 0 1, bytesAt r 1 1, bytesAt r 4 4, bytesAt r 8 4, bytesAt r 12 4)

/-- An ENERGY record (R388). -/
def energyRecord (r : List Byte) : Nat × Nat × Nat := (bytesAt r 0 1, bytesAt r 1 1, bytesAt r 4 4)

/-- The runs of a SLICE_MAP, each with the tile head before it (R388). -/
def sliceRuns (l : List Nat) : List SliceRun :=
  (l.foldl (fun (a : Nat × List SliceRun) w =>
    if bits w 62 2 = 0 then (w, a.2)
    else
      let h := a.1
      let r : SliceRun :=
        { die := bits h 58 4, tile := bits h 44 14, slot := bits h 38 6, layer := bits h 30 8, stage := bits h 27 3
          first := bits w 54 8, count := bits w 46 8 + 1, merged := bits w 45 1 == 1, roleset := bits w 43 2, row := bits w 31 12
          col := bits w 19 12 }
      (h, r :: a.2)) (0, [])).2.reverse

/-- The image's sections as records. -/
def parseImage (img : List Byte) : Image :=
  let p := sectionBytes img 3
  { build := bytesAt img 0x10 8
    clock := clockRecords (sectionBytes img 1)
    pools := poolRecords (sectionBytes img 2)
    lapMs := bytesAt p 6 1
    fbRes := bytesAt p 7 1
    planLead := bytesAt p 8 2
    stretchMax := bytesAt p 0x0A 2
    kvStarve := bytesAt p 0x0C 1
    kvBudgetHe := bytesAt p 0x10 8
    kvBudgetHw := bytesAt p 0x18 8
    energyPlan := bytesAt p 0x20 4
    waves := (pisteRecords p 1).map waveRecord
    tileMaps := (pisteRecords p 2).map tileMapRecord
    tmplIndex := (pisteRecords p 3).map fun r => (bytesAt r 0 4, bytesAt r 4 4)
    tmplRecs := (pisteRecords p 4).map fun r => BitVec.ofNat 64 (bytesAt r 0 8)
    mogulJobs := (pisteRecords p 5).map mogulRecord
    windows := (pisteRecords p 6).map windowRecord
    kvRead := (pisteRecords p 7).map kvReadRecord
    slices := sliceRuns ((pisteRecords p 8).map fun r => bytesAt r 0 8)
    energy := (pisteRecords p 9).map energyRecord
    slotMap := slotRecords (sectionBytes img 4)
    routing := sectionBytes img 6
    waxDir := waxRecords (sectionBytes img 7)
    link := (sectionOf img 8).map linkRecord
    stewardEntry := BitVec.ofNat 64 (bytesAt (sectionBytes img 9) 96 8) }

/-! ### THRESH (R389) -/

/-- A THRESH entry. -/
structure Thresh where
  off : Nat
  select : Nat
  value : Nat
deriving DecidableEq, Repr

/-- The THRESH entries. -/
def threshEntries (b : List Byte) : List Thresh :=
  (List.range (b.length / 12)).map fun i => ⟨bytesAt b (12 * i) 4, bytesAt b (12 * i + 4) 4, bytesAt b (12 * i + 8) 4⟩

/-- A register that THRESH gives: offset, and of each of its fields the lowest bit, the width, the least and the largest value. -/
structure ThreshReg where
  off : Nat
  fields : List (Nat × Nat × Nat × Nat)
deriving DecidableEq, Repr

/-- A field of any value. -/
def anyValue (lo width : Nat) : Nat × Nat × Nat × Nat := (lo, width, 0, 2 ^ width - 1)

/-- The Image fields that THRESH gives (R389), with the ranges that the register tables state. LAP_ESTS.P_EFF follows from P_B
(R325) and has no entry. DEDUCED; log entry 52. -/
def threshRegs : List ThreshReg :=
  [⟨Reg.PWR_CFG, [(31, 1, 0, 1), (8, 8, 1, 255)]⟩, ⟨Reg.PWR_HALT_CFG, [(0, 24, 2500, 250000)]⟩,
   ⟨Reg.PWR_GCFG, [(16, 4, 1, 8), anyValue 0 16]⟩, ⟨Reg.EVT_CTL, [anyValue 8 8]⟩]
  ++ ((List.range 6).map fun i => ⟨Reg.EVT_TCFG + 4 * i, [(16, 16, 1, 65535), (0, 8, 1, 255)]⟩)
  ++ [⟨Reg.HKC_WIN, [anyValue 16 12, anyValue 0 12]⟩, ⟨Reg.HKC_DCFG, [anyValue 0 6]⟩]
  ++ ((List.range 4).map fun i => ⟨Reg.THM_TH + 4 * i, [anyValue 16 8, anyValue 8 8, anyValue 0 8]⟩)
  ++ [⟨Reg.LAP_QNT_TH, [(24, 8, 0, 128), (16, 8, 0, 128)]⟩, ⟨Reg.LAP_QNT_TH_LAP, [anyValue 16 15, anyValue 0 15]⟩,
   ⟨Reg.LAP_MOG_POOL_TH, [anyValue 0 32]⟩, ⟨Reg.LAP_EBUDGET, [anyValue 16 16, (0, 16, 0, 1600)]⟩,
   ⟨Reg.LAP_ECFG, [(24, 8, 50, 100), (12, 12, 2, 4095)]⟩, ⟨Reg.LAP_ECFG2, [anyValue 16 16, anyValue 0 16]⟩,
   ⟨Reg.BIB_CFG, [(0, 16, 1, 65535)]⟩, ⟨Reg.KVM_EVICT_LOW, [anyValue 0 32]⟩, ⟨Reg.KVM_EVICT_HIGH, [anyValue 0 32]⟩,
   ⟨Reg.ATT_CFG, [(0, 3, 1, 7)]⟩, ⟨Reg.ATT_TOWLANE, [anyValue 16 16, anyValue 0 16]⟩, ⟨Reg.ATT_REPLAY_TH, [anyValue 0 16]⟩,
   ⟨Reg.LDR_PROG_W, [(16, 16, 0, 150), (0, 16, 1, 150)]⟩,
   ⟨Reg.PAT_CFG, [(24, 8, 1, 255), anyValue 16 8, (0, 16, 16, 4096)]⟩, ⟨Reg.PAT_CFG2, [(22, 10, 0, 512), anyValue 0 16]⟩,
   ⟨Reg.PAT_LOG_CFG, [(16, 16, 1, 65535)]⟩, ⟨Reg.GRM_TOL, [(28, 4, 1, 15), anyValue 16 8, anyValue 8 8, anyValue 0 8]⟩,
   ⟨Reg.GRM_PLAN, [(16, 11, 1, 1024), (8, 8, 1, 255), anyValue 0 8]⟩]
  ++ ((List.range 16).map fun d => ⟨Reg.ARK_OTQ_TH + 0x100000 * d, [(24, 8, 0, 128), (16, 8, 0, 128), anyValue 0 16]⟩)

/-- The register of THRESH at an offset. -/
def threshReg (off : Nat) : Option ThreshReg := threshRegs.find? fun r => r.off == off

/-- The registers whose Image fields all come from other sections (R389). -/
def tableRegs : List Nat :=
  [Reg.CLK_DCFG, Reg.LAP_STS, Reg.LAP_CFG, Reg.LAP_KV_BUDGET_HE, Reg.LAP_KV_BUDGET_HE + 4, Reg.LAP_KV_BUDGET_HW,
   Reg.LAP_KV_BUDGET_HW + 4, Reg.LAP_MOG_CFG, Reg.KVM_POOL_TOTAL, Reg.WAX_HPAGES_FREE, Reg.WAX_LPAGES_FREE, Reg.LDR_STG_SIZE,
   Reg.LNK_ID, Reg.ATT_GROUP, Reg.KVM_MFMT]

/-- The bits of a THRESH register that THRESH gives. -/
def ThreshReg.mask (r : ThreshReg) : Nat := r.fields.foldl (fun m f => m ||| (2 ^ f.2.1 - 1) * 2 ^ f.1) 0

/-- A value is in range: each field, and 0 in the other bits. -/
def ThreshReg.valueOk (r : ThreshReg) (v : Nat) : Bool :=
  (r.fields.all fun f => decide (f.2.2.1 ≤ bits v f.1 f.2.1 ∧ bits v f.1 f.2.1 ≤ f.2.2.2)) && v &&& r.mask == v
  && (r.off != Reg.LDR_PROG_W || decide (bits v 0 16 ≤ bits v 16 16))
  && (r.off != Reg.LAP_EBUDGET || decide (bits v 16 16 ≤ bits v 0 16))

/-- The model's number of a selection from the value of its selector register. -/
def selOfRaw (k : Selector) (v : Nat) : Nat :=
  let f := fun (x : Fld) => bits v x.lo x.width
  match k with
  | .pool => f Fld.KVM_PSEL_TIER * 2 + f Fld.KVM_PSEL_HUB
  | .qnt => f Fld.LAP_QNT_SEL_SLOT * 2048 + f Fld.LAP_QNT_SEL_LAYER * 8 + f Fld.LAP_QNT_SEL_POINT
  | .hkcInput => f Fld.HKC_SEL_DIE * 64 + f Fld.HKC_SEL_INPUT
  | .hkcDie => f Fld.HKC_SEL_DIE
  | _ => 0

/-- Every selection of a selector whose registers THRESH gives. -/
def selections (k : Selector) : List Nat :=
  match k with
  | .pool => [0, 1]
  | .qnt => (List.range 64).flatMap fun m => (List.range 256).flatMap fun l => (List.range 5).map fun p => m * 2048 + l * 8 + p
  | .hkcInput => (List.range 18).flatMap fun d => (List.range (if d < 16 then 17 else 40)).map fun i => d * 64 + i
  | .hkcDie => List.range 18
  | _ => [0]

/-- The selector of the register at an offset. -/
def selectorAt (off : Nat) : Selector := match findRow off with | some r => r.sel | none => .none

/-- The model's selection that an entry names; none for every selection. -/
def Thresh.sel (e : Thresh) : Option Nat :=
  if selectorAt e.off = .none then some 0 else if e.select = allSel then none else some (selOfRaw (selectorAt e.off) e.select)

/-- A parameter without a register is in range (R389). -/
def threshParamOk (e : Thresh) : Bool :=
  match e.off - 0x80000000 with
  | 0 => e.value != 0
  | 2 => decide (1 ≤ e.value ∧ e.value ≤ 65535)
  | 5 => decide (e.value < (if e.select / 64 < 16 then 17 else 32))
  | _ => true

/-- An entry is acceptable (R389): not of a table's register, its value in range. An offset that names neither an Image field nor a
parameter has no effect. DEDUCED; log entry 52. -/
def Thresh.ok (e : Thresh) : Bool :=
  if 0x80000000 ≤ e.off then threshParamOk e
  else if e.off ∈ tableRegs then false
  else match threshReg e.off with
    | some r => r.valueOk e.value
    | none => true

/-- The value that the entries give a register for a selection: a later entry before an earlier one, one for the selection before
one for all. -/
def threshValue (es : List Thresh) (off n : Nat) : Option Nat :=
  let l := es.reverse.filter fun e => e.off == off
  ((l.find? fun e => e.sel == some n).or (l.find? fun e => e.sel == none)).map (·.value)

/-- The value of a parameter. -/
def paramValue (es : List Thresh) (n sel : Nat) : Option Nat :=
  (es.reverse.find? fun e => e.off == 0x80000000 + n && e.select == sel).map (·.value)

/-- Sequence entries of a die: SEQ_LEN, 0 for 64. -/
def seqLen (es : List Thresh) (d : Nat) : Nat :=
  match (threshValue es Reg.HKC_DCFG d).getD 0 % 64 with | 0 => 64 | n => n

/-- Every Image field and every parameter has a value; DISC has a default (R365). -/
def threshComplete (es : List Thresh) : Bool :=
  (threshRegs.all fun r => r.off == Reg.PWR_HALT_CFG || (selections (selectorAt r.off)).all fun n => (threshValue es r.off n).isSome)
  && ([0, 1, 2, 4].all fun n => (paramValue es n 0).isSome) && ((List.range 18).all fun d => (paramValue es 3 d).isSome)
  && (List.range 18).all fun d => (List.range (seqLen es d)).all fun i => (paramValue es 5 (64 * d + i)).isSome

/-- The THRESH section passes R389. -/
def threshOk (b : List Byte) : Bool :=
  let es := threshEntries b
  b.length % 12 == 0 && (es.all Thresh.ok) && threshComplete es

/-! ### Values that the image gives registers (R389) -/

/-- The word with the bits of `mask` taken from `v`. -/
def mergeWord (old : Word) (mask v : Nat) : Word :=
  let m := BitVec.ofNat 32 mask
  (old &&& ~~~ m) ||| (BitVec.ofNat 32 v &&& m)

/-- The bits of `mask` of the register at `off` take `v` from the image: for one selection, or, with none, for every one that has no
value of its own. Other bits keep what they hold. -/
def State.imagePut (s : State) (sel : Option Nat) (off mask v : Nat) : State :=
  match sel with
  | some n =>
    let k := keyAt n off
    s.modRf fun r =>
      { r with image := r.image.put k (mergeWord (regDefault r.image k) mask v)
               regs := r.regs.modify k fun w => mergeWord w mask v }
  | none =>
    s.modRf fun r =>
      { r with image := r.image.put (keyAt allSel off) (mergeWord (regReset 0 off) mask v)
               regs := r.regs.map fun k w =>
                 if k % selStride = off ∧ (r.image.get? k).isNone then mergeWord w mask v else w }

/-- A field takes a value from the image. -/
def State.imageField (s : State) (f : Fld) (n : Nat) : State :=
  s.imagePut (some (f.reg / selStride)) (f.reg % selStride) ((2 ^ f.width - 1) * 2 ^ f.lo) (n * 2 ^ f.lo)

/-- A parameter takes its value. -/
def State.putParam (s : State) (n sel v : Nat) : State :=
  s.modRf fun r => { r with image := r.image.put (sel * 0x100000000 + 0x80000000 + n) (BitVec.ofNat 32 v) }

/-- An entry takes effect. -/
def State.applyThresh (s : State) (e : Thresh) : State :=
  if 0x80000000 ≤ e.off then s.putParam (e.off - 0x80000000) e.select e.value
  else
    match threshReg e.off with
    | some r => s.imagePut e.sel e.off r.mask e.value
    | none => s

/-- Entries take effect: those for every selection first. -/
def State.applyThreshes (s : State) (es : List Thresh) : State :=
  let all := es.filter fun e => e.sel == none
  let one := es.filter fun e => e.sel != none
  (all ++ one).foldl (fun s e => s.applyThresh e) s

/-- The clock plan takes effect (R342, R389). -/
def State.applyClock (s : State) (l : List (Nat × Nat)) : State :=
  let s1 := (List.range 60).foldl (fun s d =>
    let r := l.getD d (0, 0)
    ((s.imageField (Fld.CLK_DCFG_SRC.sel d) (plannedSource d)).imageField (Fld.CLK_DCFG_DIV.sel d) r.1).imageField
      (Fld.CLK_DCFG_BAND.sel d) r.2) s
  s1.modClk fun c => { c with planned := true }

end Sys2Proof.Machine
end

