-- ==== Sys2Proof/Machine/Piste.lean ====
section
/-!
DEFINITION. The checks that Bonos makes of a piste and of the sections that go with it (R21, R35, R68, R71, R88, R100, R114, R133,
R245, R297, R325, R387-R389, R416).

The sums of R21 over bridges, fabric, hub bridge, HBM, lodge tier, ports and energy, those of R88, and the rule of R228 rest on the
models' shapes and on traffic that the image does not state: one free predicate of the image stands for them. Log entry 53.
-/

namespace Sys2Proof.Machine

/-! ### Header and records (R129-R132, R388) -/

/-- The PISTE header and its directory (R129). -/
def pisteHeaderOk (b : List Byte) : Bool :=
  let ms := bytesAt b 6 1
  let types := (List.range 9).map fun i => bytesAt b (0x28 + 16 * i) 2
  bytesAt b 0 4 == 0x54534950 && bytesAt b 4 2 == 1 && decide (5 ≤ ms ∧ ms ≤ 50) && decide (1 ≤ bytesAt b 7 1 ∧ bytesAt b 7 1 ≤ 4)
  && decide (41 ≤ bytesAt b 8 2 ∧ bytesAt b 8 2 ≤ 200) && decide (bytesAt b 0x0A 2 ≤ 1000 * ms) && decide (1 ≤ bytesAt b 0x0C 1)
  && bytesAt b 0x0D 3 == 0 && bytesAt b 0x26 2 == 0 && bytesAt b 0x24 2 == 9
  && decide (bytesAt b 0x10 8 ≤ 20000000000 * ms) && decide (bytesAt b 0x18 8 ≤ 20000000000 * ms)
  && ((List.range' 1 9).all fun t => types.contains t)
  && (List.range' 1 9).all fun t => (pisteEntry b t).map Prod.fst == recordSizes[t - 1]?

/-- The WAVE records (R128, R130), and that of each its position. -/
def wavesOk (b : List Byte) (m : Image) : Bool :=
  let w := fun i => m.waves.getD i ⟨none, 0, 0, 0⟩
  m.waves.length == 96 && ((pisteRecords b 1).zip (List.range 96)).all fun x =>
    let i := x.2
    let r := w i
    bytesAt x.1 0 1 == i && bytesAt x.1 0x0C 4 == 0 && (match r.modelSlot with | some s => decide (s < 64) | none => true)
    && decide (r.spread ≤ (if i < 32 then 128 else 0)) && decide (r.start < r.stop)
    && decide (r.stop ≤ m.lapMs * 200000 - 4000)
    && (decide (i < 32) || (w (i / 2 * 2)).modelSlot == (w (i / 2 * 2 + 1)).modelSlot
      && decide ((w (i / 2 * 2)).start < (w (i / 2 * 2 + 1)).start))

/-- The program of a TILEMAP entry. -/
def Image.template (m : Image) (e : TileMap) : List DWord :=
  let x := m.tmplIndex.getD e.template (0, 0)
  (m.tmplRecs.drop x.1).take x.2

/-- The waves of an entry. -/
def TileMap.waves (e : TileMap) : List Nat := (List.range 96).filter fun w => e.mask.getLsbD w

/-- The tiles that the piste uses, by key. -/
def Image.tiles (m : Image) : List Nat := (m.tileMaps.map fun e => tileKey e.die e.tile).eraseDups

/-- The entries of a tile. -/
def Image.entriesOf (m : Image) (k : Nat) : List TileMap := m.tileMaps.filter fun e => tileKey e.die e.tile == k

/-- The TILEMAP entries, the template index and the records are in range (R131, R132); no two entries of a tile share a wave. -/
def tileMapsOk (m : Image) : Bool :=
  (m.tileMaps.all fun e => decide (e.die < 16) && decide (e.tile < 8448) && decide (e.range ≤ 6)
    && decide (e.template < m.tmplIndex.length))
  && (m.tmplIndex.all fun x => decide (1 ≤ x.2 ∧ x.2 ≤ 32768) && decide (x.1 + x.2 ≤ m.tmplRecs.length))
  && (m.tmplRecs.all fun r =>
    let lead := bits r.toNat 32 8
    recKind r != 3 && decide (lead ≤ 207) && decide ((if recKind r = 2 then 9 else 8) ≤ lead)
    && (recKind r != 1 || recArray r % 2 == 0))
  && m.tiles.all fun k => ((m.entriesOf k).flatMap TileMap.waves).eraseDups.length == ((m.entriesOf k).flatMap TileMap.waves).length

/-- The planned operations of an entry: wave, record and its conversion slot from the boundary. -/
def Image.planOf (m : Image) (e : TileMap) : List (Nat × DWord × Nat) :=
  e.waves.flatMap fun w =>
    (m.template e).map fun r => (w, r, (m.waves.getD w ⟨none, 0, 0, 0⟩).start + e.offset + bits r.toNat 0 32)

/-- The planned operations of a tile. -/
def Image.planOn (m : Image) (k : Nat) : List (Nat × DWord × Nat) := (m.entriesOf k).flatMap m.planOf

/-- The conversion slots of a tile's operations. -/
def Image.slotsOn (m : Image) (k : Nat) : List Nat :=
  (m.planOn k).flatMap fun x => if recKind x.2.1 = 1 then [x.2.2, x.2.2 + 1] else [x.2.2]

/-- A window runs in lap `n` (R388). -/
def Window.runs (x : Window) (n : Nat) : Bool := n % x.period == x.phase

/-- The laps after which the windows repeat. -/
def Image.cycle (m : Image) : Nat := m.windows.foldl (fun n x => Nat.lcm n x.period) 1

/-- Windows of a kind on a tile. -/
def Image.windowsOn (m : Image) (kind k : Nat) : List Window :=
  m.windows.filter fun x => x.kind == kind && tileKey x.die x.tile == k

/-- Slots of windows that lap `n` gives. -/
def windowSlots (l : List Window) (n : Nat) : Nat := ((l.filter fun x => x.runs n).map (·.len)).sum

/-- No two records take one conversion slot of a tile (R133), and those and its windows are within the lap (R21). -/
def slotsOk (m : Image) : Bool :=
  m.tiles.all fun k =>
    let l := m.slotsOn k
    let w := m.windowsOn 0 k ++ m.windowsOn 1 k
    l.eraseDups.length == l.length
    && (List.range m.cycle).all fun n => decide (l.length + windowSlots w n ≤ m.lapMs * 200000)

/-! ### Accumulator pairs (R68, R71, R297) -/

/-- A pair of a token vector and a column block as a tile's plan opens it: wave, token, run, PAIR number, first and last slot. -/
structure PlannedPair where
  wave : Nat
  token : Nat
  num : Nat
  first : Nat
  last : Nat
deriving DecidableEq, Repr

/-- Runs of a tile in the slice map, one for each column block. -/
def Image.blocksOn (m : Image) (k : Nat) : List SliceRun :=
  (m.slices.filter fun r => tileKey r.die r.tile == k).foldl (fun l r =>
    if l.any fun x => x.slot == r.slot && x.layer == r.layer && x.stage == r.stage && x.col == r.col then l else l ++ [r]) []

/-- The records of wave `w` and token `t` that add to the column block of `r`, in slot order. -/
def Image.addsTo (m : Image) (k w t : Nat) (r : SliceRun) : List (DWord × Nat) :=
  let mine := fun a => m.slices.any fun x => tileKey x.die x.tile == k && x.slot == r.slot && x.layer == r.layer && x.stage == r.stage
    && x.col == r.col && decide (x.first ≤ a ∧ a < x.first + x.count)
  let l := (m.planOn k).filterMap fun x =>
    if x.1 = w ∧ recKind x.2.1 ≠ 2 ∧ recToken x.2.1 = t ∧ mine (recArray x.2.1) then some x.2 else none
  sortBy (fun x y => decide (x.2 ≤ y.2)) l

/-- The tokens of a tile's plan for a wave. -/
def Image.tokensOn (m : Image) (k w : Nat) : List Nat :=
  ((m.planOn k).filterMap fun x => if x.1 = w then some (recToken x.2.1) else none).eraseDups

/-- The waves of a tile's plan. -/
def Image.wavesOn (m : Image) (k : Nat) : List Nat := (m.entriesOf k).flatMap TileMap.waves

/-- Every wave, token and column block of a tile's plan. -/
def Image.labelsOn (m : Image) (k : Nat) : List (Nat × Nat × SliceRun) :=
  (m.wavesOn k).flatMap fun w => (m.tokensOn k w).flatMap fun t =>
    ((m.blocksOn k).filter fun r => (m.waves.getD w ⟨none, 0, 0, 0⟩).modelSlot == some r.slot).map fun r => (w, t, r)

/-- The pairs that a tile's plan opens. -/
def Image.pairsOn (m : Image) (k : Nat) : List PlannedPair :=
  (m.labelsOn k).filterMap fun x =>
    match m.addsTo k x.1 x.2.1 x.2.2 with
    | [] => none
    | y :: r => some ⟨x.1, x.2.1, recPair y.1, y.2, (r.getLast?.getD y).2⟩

/-- The slots of each pair stand in the order of the slice map and carry one PAIR number (R71), for the candidate image in force. -/
def State.orderOk (s : State) (m : Image) : Bool :=
  m.tiles.all fun k => (m.labelsOn k).all fun x =>
    let l := m.addsTo k x.1 x.2.1 x.2.2
    let got := l.map fun y => (recArray y.1, recHigh y.1)
    let want := s.expected (k / 8448) (k % 8448) x.1 x.2.2.slot x.2.2.layer x.2.2.stage x.2.2.col
    got == [] || (got == want && l.all fun y => some (recPair y.1) == l.head?.map fun z => recPair z.1)

/-- Two pairs are open at once. -/
def PlannedPair.meets (x y : PlannedPair) : Bool := decide (x.first ≤ y.last) && decide (y.first ≤ x.last)

/-- No PAIR number is used by two pairs at once, so at most 64 are open (R68); at most 8 tokens have pairs open, and while firings
are planned a pair closes within every 100 slots (R297). -/
def pairsOk (m : Image) : Bool :=
  m.tiles.all fun k =>
    let l := m.pairsOn k
    ((List.range l.length).all fun i => (l.drop (i + 1)).all fun y =>
      match l[i]? with
      | some x => x.num != y.num || !x.meets y
      | none => true)
    && (l.all fun x =>
      ((l.filter fun y => decide (y.first ≤ x.first ∧ x.first ≤ y.last)).map fun y => (y.wave, y.token)).eraseDups.length ≤ 8)
    && (m.slotsOn k).all fun c => l.any fun x => decide (c ≤ x.last ∧ x.last ≤ c + 100)

/-! ### Mogul jobs, windows, lanes, slices, energies (R86, R88, R100, R114, R388) -/

/-- The MOGUL_JOBS records: no job on a reserve unit, none of another hub's wave. -/
def mogulOk (m : Image) : Bool :=
  m.mogulJobs.all fun j => decide (j.unit < 32) && decide (j.unit % 16 < 16 - m.fbRes) && decide (j.kind ≤ 3)
    && decide (j.wave < 96) && waveHub j.wave == hubOf (j.unit / 16) && decide (j.stage ≤ 7) && decide (j.point ≤ 4)
    && (if j.kind = 1 then decide (j.pool ≤ 8192) else j.pool == 0) && decide (j.start < j.stop)

/-- The WINDOWS records. -/
def windowsOk (m : Image) : Bool :=
  m.windows.all fun x => decide (x.kind ≤ 3) && (if x.kind = 3 then x.die == 16 || x.die == 17 else decide (x.die < 16))
    && (x.kind == 3 || decide (x.tile < 8448)) && decide (1 ≤ x.period ∧ x.period ≤ 4096) && decide (x.phase < x.period)
    && decide (x.start + x.len ≤ m.lapMs * 200000)

/-- At least 16 reference reads of every array of the tiles in service in every 32 laps (R100): the tile's windows take its 256
arrays in turn. -/
def referenceReadsOk (m : Image) : Bool :=
  m.tiles.all fun k => (List.range m.cycle).all fun n =>
    decide (4096 ≤ ((List.range' n 32).map fun j => windowSlots (m.windowsOn 2 k) j).sum)

/-- The tiles that have grooming windows: those of the piste, and those that the grooming tables show as spares or in PROGRAMMING
(R114). -/
def State.groomTiles (s : State) (m : Image) : List Nat :=
  let spare := (List.range (16 * 8448)).filter fun k =>
    let b := bytesAt (s.readFlash (tileRecAddr (k / 8448) (k % 8448) + 0x230) 1) 0 1
    b == 1 || b == 2
  (m.tiles ++ spare).eraseDups

/-- Planned piste firings of array `a` of a tile in a lap. -/
def Image.firingsOf (m : Image) (k a : Nat) : Nat :=
  ((m.planOn k).filter fun x => recArray x.2.1 == a || (recKind x.2.1 == 1 && recArray x.2.1 + 1 == a)).length

/-- R114, for the entries of THRESH. -/
def State.groomingOk (s : State) (m : Image) (es : List Thresh) : Bool :=
  let plan := (threshValue es Reg.GRM_PLAN 0).getD 0
  let period := bits plan 16 11
  let retry := bits ((threshValue es Reg.GRM_TOL 0).getD 0) 28 4
  let stride := bits plan 8 8
  decide (period * retry ≤ 4095)
  && ((s.groomTiles m).all fun k => (m.windowsOn 0 k).any fun x => decide (256 ≤ x.len) && decide (x.period ≤ period))
  && m.tiles.all fun k => m.slices.all fun r =>
    tileKey r.die r.tile != k || (List.range' r.first r.count).all fun a => decide (32 * stride ≤ m.firingsOf k a * period)

/-- The KV_READ records. -/
def kvReadsOk (m : Image) : Bool := m.kvRead.all fun x => decide (x.1 < 96) && decide (x.2.2.1 ≤ x.2.2.2.1)

/-- The SLICE_MAP words: kinds, reserved bits, order (R388). -/
def slicesOk (b : List Byte) (m : Image) : Bool :=
  let w := (pisteRecords b 8).map fun r => bytesAt r 0 8
  let place := fun (r : SliceRun) => tileKey r.die r.tile * 256 + r.first
  (w.all fun x => if bits x 62 2 = 0 then bits x 0 27 == 0 && decide (bits x 44 14 < 8448) else bits x 62 2 == 1 && bits x 0 19 == 0)
  && (match w with | x :: _ => bits x 62 2 == 0 | [] => true)
  && (m.slices.all fun r => decide (r.roleset ≤ 2) && decide (r.first + r.count ≤ 256)
      && r.count % ((if r.merged then 2 else 1) * (r.roleset + 1)) == 0 && (!r.merged || r.first % 2 == 0))
  && (m.slices.zip (m.slices.drop 1)).all fun x => decide (place x.1 + x.1.count ≤ place x.2)

/-- The constants of R42 in table order, in fJ. -/
def analogueConstants : List Nat := [1400, 60, 400, 5120, 11520, 2000, 80]

/-- The ENERGY records (R388): kinds, the constants of R42, one IDLE_W. -/
def energyOk (m : Image) : Bool :=
  (m.energy.all fun e => decide (e.1 ≤ 4) && (e.1 != 4 || analogueConstants[e.2.1]? == some e.2.2) && (1 < e.1 || decide (e.2.1 < 64)))
  && m.energy.any fun e => e.1 == 2 && decide (e.2.2 < 4096)

/-- Planned analogue energy of lap `n` in hundredths of a pJ (R42). -/
def Image.analogue (m : Image) (n : Nat) : Nat :=
  (m.tiles.map fun k => ((m.planOn k).map fun x => [1500, 3128, 1700].getD (recKind x.2.1) 0).sum
    + 996 * windowSlots (m.windowsOn 2 k) n).sum

/-- IDLE_W of the piste. -/
def Image.idleW (m : Image) : Nat := ((m.energy.find? fun e => e.1 == 2).map fun e => e.2.2).getD 0

/-- R325 and R416, for the entries of THRESH. -/
def powerOk (m : Image) (es : List Thresh) : Bool :=
  let min := bits ((threshValue es Reg.LAP_EBUDGET 0).getD 0) 16 16
  let pct := bits ((threshValue es Reg.LAP_ECFG 0).getD 0) 24 8
  let prog := bits ((threshValue es Reg.LDR_PROG_W 0).getD 0) 16 16
  decide (100 * m.idleW < min * pct)
  && (List.range m.cycle).all fun n => decide (m.analogue n + prog * m.lapMs * 100000000000 ≤ 310 * m.lapMs * 100000000000)

/-- A fit slot is bound to no model slot with a tile in merged mode (R245). -/
def fitSlotsOk (m : Image) : Bool :=
  (List.range 64).all fun x => (List.range 32).all fun t =>
    !(m.waxDir.getD x ⟨0, 0#32, 0⟩).fitSlots.getLsbD t || (m.waves.getD (32 + 2 * t) ⟨none, 0, 0, 0⟩).modelSlot != some x
    || !(m.tileMaps.any fun e => e.merged && m.slices.any fun r => r.slot == x && r.die == e.die && r.tile == e.tile)

/-- Every check of the PISTE section but the pool plan's. -/
def State.pisteOk (s : State) (img : List Byte) (m : Image) : Bool :=
  let b := sectionBytes img 3
  let es := threshEntries (sectionBytes img 5)
  let t := s.modBon fun x => { x with image := some m }
  pisteHeaderOk b && wavesOk b m && tileMapsOk m && slotsOk m && t.orderOk m && pairsOk m && mogulOk m && windowsOk m
  && referenceReadsOk m && s.groomingOk m es && kvReadsOk m && slicesOk b m && energyOk m && powerOk m es && fitSlotsOk m
  && Config.pisteLimits img

/-! ### The pool plan and the whole image (R387) -/

/-- HBM of a hub's eight stacks, in 64 KiB pages. -/
def hubPages : Nat := 8 * 64 * 16384

/-- The pools, half the shadow area, the directory area and the staging buffer fit a hub's HBM; its lodge pools fit what training
found. -/
def poolFits (p : PoolRec) (shadow lodge : Nat) : Bool :=
  decide ((p.hbm + p.waxHbm) * 65536 + ceilDiv shadow 2 + 2 ^ 31 + p.staging * 2 ^ 20 ≤ hubPages * 65536)
  && decide (p.lodge + p.waxLodge + p.store ≤ lodge)

/-- The POOL section passes. The shadow area is that of the slots in use. -/
def State.poolOk (s : State) (b : List Byte) (m : Image) : Bool :=
  let shadow := ((m.slotMap.filter (·.inUse)).map (·.shadowMax)).sum
  let he := m.pools.getD 0 (poolRecord [])
  let hw := m.pools.getD 1 (poolRecord [])
  b.length == 64 && he.staging == 0 && bytesAt b 24 8 == 0 && bytesAt b 56 8 == 0 && poolFits he shadow s.bon.lodgeHe
  && poolFits hw shadow s.bon.lodgeHw

/-- Sections 2 to 9 pass their SCRC and their checks (R392 event 8). -/
def State.sectionsPass (s : State) (img : List Byte) : Bool :=
  let m := parseImage img
  ((sectionTable img).all fun x => x.crcOk img) && s.poolOk (sectionBytes img 2) m && s.pisteOk img m
  && slotMapOk (sectionBytes img 4) && threshOk (sectionBytes img 5) && routingOk (sectionBytes img 6)
  && waxDirOk (sectionBytes img 7) && (match sectionOf img 8 with | some b => linkOk b | none => true)
  && decide (104 ≤ (sectionBytes img 9).length)

end Sys2Proof.Machine
end

