-- ==== Sys2Proof/Machine/Clocks.lean ====
section
/-!
DEFINITION. Clocks (R335-R348): sources, planned changes and ramps, monitors and their votes, failover, the gate tree.
-/

namespace Sys2Proof.Machine

/-! ### Domains (R338, R340) -/

/-- Codes of CLK_DSTS.SRC (R335). -/
def srcCode : ClockSource → Nat
  | .root => 0 | .iosc => 1 | .xtal => 2

/-- The lead of a domain's ratio group (R340): ARK_FAB of its die, HUB_CORE_E of the hub group, else itself. -/
def leadOf (d : Nat) : Nat := if d < 48 then d / 3 * 3 + 2 else if d < 52 then 48 else d

/-- The members of the group that a domain leads, with their multiples of the lead divider. -/
def groupOf (lead : Nat) : List (Nat × Nat) :=
  if lead < 48 then [(lead, 1), (lead - 2, 2), (lead - 1, 4)]
  else if lead = 48 then [(48, 1), (49, 1), (50, 2), (51, 2)]
  else [(lead, 1)]

/-- The planned dividers of a group keep the ratios of R339. -/
def State.ratiosHold (s : State) (lead : Nat) : Bool :=
  let p := fun d => s.get (Fld.CLK_DCFG_DIV.sel d)
  if lead < 48 then p (lead - 1) == 2 * p (lead - 2) && decide (4 * p lead ≤ p (lead - 1))
  else if lead = 48 then p 50 == 2 * p 48 && p 51 == 2 * p 49 && p 50 == p 51
  else true

/-- A source is stable (R335). -/
def State.srcStable (s : State) (c : Nat) : Bool :=
  match c with
  | 0 => s.flag Fld.CLK_SRC_STS_ROOT_STABLE
  | 1 => s.flag Fld.CLK_SRC_STS_IOSC_STABLE
  | _ => s.flag Fld.CLK_SRC_STS_XTAL_STABLE

/-- Source and divider in force of a domain. -/
def State.inForce (s : State) (d : Nat) : Nat × Nat := (s.get (Fld.CLK_DSTS_SRC.sel d), s.get (Fld.CLK_DSTS_DIV.sel d))

/-- A domain runs from a source at a divider from now on; its monitor's running window is discarded (R343). -/
def State.setClock (s : State) (d src div : Nat) : State :=
  ((s.put (Fld.CLK_DSTS_SRC.sel d) src).put (Fld.CLK_DSTS_DIV.sel d) div).modClk
    fun c => { c with stepped := insertNat d c.stepped }

/-- CLOCK_SOURCE_STABLE (R335): the source's counter is full; AON moves to XTAL unless it has failed over (R342). -/
def execClockSourceStable (src : ClockSource) (s : State) : Host.Outcome State Fault Refusal :=
  match src with
  | .root => .next ((s.put Fld.CLK_SRC_STS_ROOT_LOCK 1).put Fld.CLK_SRC_STS_ROOT_STABLE 1)
  | .iosc => .next (s.put Fld.CLK_SRC_STS_IOSC_STABLE 1)
  | .xtal =>
    let s1 := s.put Fld.CLK_SRC_STS_XTAL_STABLE 1
    .next (if s1.flag (Fld.CLK_DSTS_FAILED.sel 58) then s1 else s1.setClock 58 2 1)

/-! ### Planned changes (R341, R342) -/

/-- A planned change of the group of domain `d` to ROOT at its planned divider, or to IOSC at divider n. A domain that has failed
over stays where it is (R345); AON makes no planned change. -/
def State.changeSource (s : State) (d src : Nat) : State :=
  let l := leadOf d
  if d = 58 ∨ src = 2 ∨ (groupOf l).any (fun m => s.flag (Fld.CLK_DSTS_FAILED.sel m.1)) then s
  else
    let div := if src = 0 then s.get (Fld.CLK_DCFG_DIV.sel l) else ioscDiv l
    s.modClk fun c => { c with target := c.target.put l (src, div) }

/-- CLOCK_SOURCE_CHANGE (R341). A plan that breaks R339 gives no defined behaviour. -/
def execClockSourceChange (d : Fin 60) (src : ClockSource) (s : State) : Host.Outcome State Fault Refusal :=
  if src = .root ∧ !s.ratiosHold (leadOf d) then .fault .clockRatioUndefined
  else .next (s.changeSource d (srcCode src))

/-- The divider at which a domain hands over on a source: 200 MHz ÷ n (R341). -/
def handover (d src : Nat) : Nat := if src = 0 then 32 * ioscDiv d else ioscDiv d

/-- One step of a divider towards another (R341). -/
def stepDivider (now target : Nat) : Nat :=
  if target < now then max target (ceilDiv (8 * now) 10) else min target (4 * now / 3)

/-- A step of the lead's divider, with its group. -/
def State.stepGroup (s : State) (l src div : Nat) : State :=
  (groupOf l).foldl (fun s m => (s.setClock m.1 src (div * m.2)).put (Fld.CLK_DSTS_RAMP.sel m.1) 1) s

/-- The group's change of source, each member at its own handover divider. -/
def State.handGroup (s : State) (l src : Nat) : State :=
  (groupOf l).foldl (fun s m => (s.setClock m.1 src (handover m.1 src)).put (Fld.CLK_DSTS_RAMP.sel m.1) 1) s

/-- The ramp of a group is done when its target is in force. -/
def State.settleGroup (s : State) (l : Nat) : State :=
  match s.clk.target.get? l with
  | some t =>
    if s.inForce l = t then
      ((groupOf l).foldl (fun s m => s.put (Fld.CLK_DSTS_RAMP.sel m.1) 0) s).modClk
        fun c => { c with target := c.target.erase l }
    else s
  | none => s

/-- One tick of the group that domain `d` belongs to (R341): towards the handover, the handover once the new source is stable,
towards the target. -/
def State.rampStep (s : State) (d : Nat) : State :=
  let l := leadOf d
  match s.clk.target.get? l with
  | none => s
  | some t =>
    let now := s.inForce l
    if now.1 ≠ t.1 then
      if now.2 ≠ handover l now.1 then s.stepGroup l now.1 (stepDivider now.2 (handover l now.1))
      else if s.srcStable t.1 then (s.handGroup l t.1).settleGroup l
      else s
    else if now.2 ≠ t.2 then (s.stepGroup l now.1 (stepDivider now.2 t.2)).settleGroup l
    else s.settleGroup l

/-- CLOCK_RAMP_STEP (R341). -/
def execClockRampStep (d : Fin 60) (s : State) : Host.Outcome State Fault Refusal :=
  match s.clk.target.get? (leadOf d) with
  | some t =>
    if t.1 = 0 ∧ !s.ratiosHold (leadOf d) then .fault .clockRatioUndefined else .next (s.rampStep d)
  | none => .next s

/-! ### Failover (R345) -/

/-- A domain switches to IOSC at divider n, without a ramp, until the next start. -/
def State.failOver (s : State) (d : Nat) : State :=
  let s1 := (s.setClock d 1 (ioscDiv d)).put (Fld.CLK_DSTS_RAMP.sel d) 0
  (s1.put (Fld.CLK_DSTS_FAILED.sel d) 1).modClk fun c => { c with target := c.target.erase (leadOf d) }

/-- A failure is counted and raises CLK_FAIL. -/
def State.clockFailed (s : State) : State := (s.count Reg.CLK_FAIL_CNT 1).raise Fld.CLK_EVT_FAIL

/-- Every domain on ROOT fails over: a clock root fault. -/
def State.rootFault (s : State) : State :=
  (((List.range 60).filter fun d => (s.inForce d).1 == 0).foldl (fun s d => s.failOver d) s).moduleFault .supplyOrClock

/-- XTAL fails: AON switches. -/
def State.failXtal (s : State) : State :=
  if s.flag Fld.CLK_SRC_STS_XTAL_FAIL then s
  else (((s.put Fld.CLK_SRC_STS_XTAL_FAIL 1).put Fld.CLK_SRC_STS_XTAL_STABLE 0).clockFailed).failOver 58

/-- IOSC fails: service continues without a fallback. -/
def State.failIosc (s : State) : State :=
  if s.flag Fld.CLK_SRC_STS_IOSC_FAIL then s
  else ((s.put Fld.CLK_SRC_STS_IOSC_FAIL 1).put Fld.CLK_SRC_STS_IOSC_STABLE 0).clockFailed

/-- REFCLK fails. -/
def State.failRef (s : State) : State :=
  if s.flag Fld.CLK_SRC_STS_REF_FAIL then s
  else ((s.put Fld.CLK_SRC_STS_REF_FAIL 1).clockFailed).rootFault

/-- ROOT fails. -/
def State.failRoot (s : State) : State :=
  if s.flag Fld.CLK_SRC_STS_ROOT_FAIL then s
  else (((s.put Fld.CLK_SRC_STS_ROOT_FAIL 1).put Fld.CLK_SRC_STS_ROOT_STABLE 0).clockFailed).rootFault

/-- The consequence of a domain's failure. -/
def domainFault (d : Nat) : Option ModuleFaultCase :=
  if d < 48 then some (.arkorDie (Fin.ofNat 16 (d / 3)))
  else if d = 48 ∨ d = 50 ∨ d = 52 then some (.hubDie .he)
  else if d = 49 ∨ d = 51 ∨ d = 53 then some (.hubDie .hw)
  else if d < 58 then some .supplyOrClock
  else none

/-- A domain fails whose source has not (R344): it switches, and what R345 names follows. -/
def State.failDomain (s : State) (d : Nat) : State :=
  if s.flag (Fld.CLK_DSTS_FAILED.sel d) then s
  else
    let s1 := (s.clockFailed).failOver d
    match domainFault d with
    | some c => s1.moduleFault c
    | none => s1

/-- ROOT_PLL_LOSS_OF_LOCK (R344). -/
def execRootPllLossOfLock (s : State) : Host.Outcome State Fault Refusal :=
  .next (((s.put Fld.CLK_SRC_STS_ROOT_LOCK 0).put Fld.CLK_SRC_STS_ROOT_STABLE 0).failRoot)

/-- INTERFACE_PLL_LOSS_OF_LOCK (R336): a report of the interface's fault, without a clock failover. No KIND names the PCIe
interface: a free value. DESIGN CHOICE; log entry 44. -/
def execInterfacePllLossOfLock (p : IfacePll) (s : State) : Host.Outcome State Fault Refusal :=
  let x := (Config.measured s.drawn).toNat
  match p with
  | .pcie => .next (s.report (dieAddr 17) 0xFFFF (x % 256) sevContained x 0#32)
  | .hbm h => .next (s.report (dieAddr (hubDie h)) 0xFFFF 0x11 sevContained x 0#32)
  | .lpddr => .next (s.report (dieAddr 31) 0xFFFF 0x13 sevContained x 0#32)
  | .link => .next (s.report (dieAddr 31) 0xFFFF 0x17 sevContained x 0#32)

/-! ### Monitors (R343, R344) -/

/-- Frequency of a source, Hz. -/
def srcHz (c : Nat) : Nat :=
  match c with
  | 0 => 6400000000 | 1 => 200000000 | _ => 25000000

/-- A count is outside its band, in thousandths of a percent, of `num` ÷ `den`. -/
def outOfBand (count num den band : Nat) : Bool :=
  decide (num * band < ((count * den : Int) - num).natAbs * 100000)

/-- The default band: 1%. -/
def defaultBand : Nat := 1000

/-- Band of a domain's monitor. -/
def State.bandOf (s : State) (d : Nat) : Nat :=
  let b := s.get (Fld.CLK_DCFG_BAND.sel d)
  if b = 0 then defaultBand else b

/-- The expected count of Dk as numerator and denominator: 1,024 cycles of the slower of the domain and its judge, in cycles of the
faster. -/
def State.domainExpected (s : State) (d : Nat) : Nat × Nat :=
  let f := s.inForce d
  let judge := if s.flag Fld.CLK_SRC_STS_XTAL_FAIL then srcHz 1 else srcHz 2
  if judge * f.2 ≤ srcHz f.1 then (1024 * srcHz f.1, judge * f.2) else (1024 * judge * f.2, srcHz f.1)

/-- The vote of XI, RX and RI once each has judged (R344). -/
def State.vote (s : State) : State :=
  match s.clk.xi, s.clk.rx, s.clk.ri with
  | some xi, some rx, some ri =>
    let s1 := s.modClk fun c => { c with xi := none, rx := none, ri := none }
    if xi ∧ rx ∧ ri then (s1.failXtal).failRef
    else if xi ∧ rx then s1.failXtal
    else if xi ∧ ri then s1.failIosc
    else if rx ∧ ri then s1.failRef
    else s1
  | _, _, _ => s

/-- The source that a domain runs from has failed. -/
def State.srcFailed (s : State) (c : Nat) : Bool :=
  match c with
  | 0 => s.flag Fld.CLK_SRC_STS_ROOT_FAIL || s.flag Fld.CLK_SRC_STS_REF_FAIL
  | 1 => s.flag Fld.CLK_SRC_STS_IOSC_FAIL
  | _ => s.flag Fld.CLK_SRC_STS_XTAL_FAIL

/-- A window of Dk (R343): discarded when the domain stepped in it. -/
def State.domainWindow (s : State) (d count : Nat) : State :=
  if d ∈ s.clk.stepped then
    (s.modClk fun c => { c with stepped := c.stepped.filter (· != d) }).count Reg.CLK_MON_DISC 1
  else
    let s1 := s.put (Fld.CLK_MON_COUNT.sel d) count
    let e := s.domainExpected d
    if outOfBand count e.1 e.2 (s.bandOf d) ∧ !s.srcFailed (s.inForce d).1 then s1.failDomain d else s1

/-- CLOCK_MONITOR_WINDOW (R343). -/
def execClockMonitorWindow (m : ClockMonitor) (count : Nat) (s : State) : Host.Outcome State Fault Refusal :=
  match m with
  | .xi => .next ((s.modClk fun c => { c with xi := some (outOfBand count 8192 1 defaultBand) }).vote)
  | .rx => .next ((s.modClk fun c => { c with rx := some (outOfBand count 4096 1 defaultBand) }).vote)
  | .ri => .next ((s.modClk fun c => { c with ri := some (outOfBand count 2048 1 defaultBand) }).vote)
  | .pl => .next (if outOfBand count 8192 1 defaultBand then s.failRoot else s)
  | .dom d => .next (s.domainWindow d count)

/-! ### The gate tree (R346, R347) -/

/-- The three domains of an Arkor die. -/
def dieDomains (die : Nat) : List Nat := [3 * die, 3 * die + 1, 3 * die + 2]

/-- A module gate opens. -/
def State.openModule (s : State) (d : Nat) : State := s.put (Fld.CLK_DSTS_GATE.sel d) 1

/-- A die gate opens, after its module gate. -/
def State.openDie (s : State) (d : Nat) : State :=
  if 48 ≤ d then s else (s.openModule d).modClk fun c => { c with dieGates := insertNat d c.dieGates }

/-- A tile's gate opens, after the module and die gates of its three clocks. -/
def State.openTile (s : State) (die tile : Nat) : State :=
  ((dieDomains die).foldl (fun s d => s.openDie d) s).modClk
    fun c => { c with tileGates := insertNat (tileKey die tile) c.tileGates }

/-- CLOCK_GATE_OPEN (R347). -/
def execClockGateOpen (_req : GateRequester) (g : ClockGate) (s : State) : Host.Outcome State Fault Refusal :=
  match g with
  | .module d => .next (s.openModule d)
  | .die d => .next (s.openDie d)
  | .tile die t => .next (s.openTile die t)

/-- Codes of CLK_REFUSE.REQ. -/
def requesterCode : GateRequester → Nat
  | .bonos => 0 | .steward => 1 | .power => 2 | .patrol => 3

/-- A close of a gate with a child in use is refused. -/
def State.refuseClose (s : State) (req level d : Nat) : State :=
  let s1 := ((s.put Fld.CLK_REFUSE_REQ req).put Fld.CLK_REFUSE_LEVEL level).put Fld.CLK_REFUSE_DOMAIN d
  ((s1.put Fld.CLK_REFUSE_TILE 0).raise Fld.CLK_EVT_REFUSED).count Reg.CLK_REFUSE_CNT 1

/-- A tile gate of the die is open. -/
def State.tileGateOpen (s : State) (die : Nat) : Bool := s.clk.tileGates.any fun k => k / 8448 == die

/-- CLOCK_GATE_CLOSE (R347). -/
def execClockGateClose (req : GateRequester) (g : ClockGate) (s : State) : Host.Outcome State Fault Refusal :=
  match g with
  | .module d =>
    .next (if !s.flag (Fld.CLK_DSTS_GATE.sel d.val) then s
      else if d.val ∈ s.clk.dieGates then s.refuseClose (requesterCode req) 0 d
      else s.put (Fld.CLK_DSTS_GATE.sel d.val) 0)
  | .die d =>
    .next (if d.val ∉ s.clk.dieGates then s
      else if s.tileGateOpen (d.val / 3) then s.refuseClose (requesterCode req) 1 d
      else s.modClk fun c => { c with dieGates := c.dieGates.filter (· != d.val) })
  | .tile die t =>
    .next (s.modClk fun c => { c with tileGates := c.tileGates.filter (· != tileKey die t) })

end Sys2Proof.Machine
end

