-- ==== Sys2Proof/Machine/Counters.lean ====
section
/-!
DEFINITION. The performance counters (R399-R407) and the queue pairs' counter mirrors (R406).
-/

namespace Sys2Proof.Machine

/-- Number of counters: 30 blocks of 8 (R399). -/
def counters : Nat := 240

/-- The highest code of its own that a block has (R400). -/
def lastCode (blk : Nat) : Nat :=
  if blk < 16 then 0x16
  else if blk = 16 ∨ blk = 19 then 0x13
  else if blk = 17 ∨ blk = 18 ∨ blk = 20 ∨ blk = 23 ∨ blk = 28 ∨ blk = 29 then 0x12
  else if blk = 27 then 0x10
  else 0x11

/-- The table of R400 gives code `c` for block `blk`. -/
def codeOk (blk c : Nat) : Bool := decide (c ≤ 2) || (decide (0x10 ≤ c) && decide (c ≤ lastCode blk))

/-- A write of PMC_EVSEL (R400, R401): fields that R400 gives are taken and wait; the others stay, with a violation. -/
def State.writeEvsel (s : State) (v : Word) : State :=
  let blk := s.get Fld.PMC_SEL_BLOCK
  let k := blk * 8 + s.get Fld.PMC_SEL_COUNTER
  let hubOk := decide (wordBits v 8 2 ≠ 3)
  let evOk := codeOk blk (wordBits v 0 8)
  let s1 := if hubOk then s.put (Fld.PMC_EVSEL_HUB.sel k) (wordBits v 8 2) else s
  let s2 := if evOk then s1.put (Fld.PMC_EVSEL_EVENT.sel k) (wordBits v 0 8) else s1
  let s3 := if hubOk || evOk then s2.put (Fld.PMC_EVSEL_PENDING.sel k) 1 else s2
  if hubOk && evOk then s3 else s3.violation 0x03 0 Reg.PMC_EVSEL 0#32

/-- PMC_EVSEL (R401). -/
def execPmcEvsel (v : Word) (s : State) : Host.Outcome State Fault Refusal :=
  .next (if s.hidden Reg.PMC_EVSEL then s.undecoded Reg.PMC_EVSEL else s.writeEvsel v)

/-- Counter `k`'s pending selection takes effect and clears the counter (R401). -/
def State.applySelection (s : State) (k : Nat) : State :=
  if s.flag (Fld.PMC_EVSEL_PENDING.sel k) then
    let e := (s.get (Fld.PMC_EVSEL_HUB.sel k), s.get (Fld.PMC_EVSEL_EVENT.sel k))
    (s.modPmc fun p => { p with active := p.active.put k e, live := p.live.put k 0 }).put (Fld.PMC_EVSEL_PENDING.sel k) 0
  else s

/-- Every counter copies its value into its snapshot register (R402), for the image of lap `lap`; selections follow. -/
def State.snapshot (s : State) (lap : Nat) : State :=
  (List.range counters).foldl (fun s k => s.applySelection k)
    (s.modPmc fun p => { p with shot := p.live, shotLap := lap, due := true })

/-- A write of PMC_CTL (R404): FREEZE, and with NOW, while no lap runs, a snapshot that keeps PMC_SNAP_LAP. -/
def State.writePmcCtl (s : State) (v : Word) : State :=
  let s1 := s.put Fld.PMC_CTL_FREEZE (wordBits v 0 1)
  if wordBits v 31 1 = 1 ∧ !s.running then s1.snapshot (s1.rd64 Reg.PMC_SNAP_LAP) else s1

/-- PMC_NOW (R404). -/
def execPmcNow (v : Word) (s : State) : Host.Outcome State Fault Refusal :=
  .next (if s.hidden Reg.PMC_CTL then s.undecoded Reg.PMC_CTL else s.writePmcCtl v)

/-- The mirror of queue pair `q` takes its counts, with the pages and bibs as they stand (R406). -/
def State.mirrorQp (s : State) (lap q : Nat) : State :=
  let mine := s.bibs.values.filter fun b => b.qp == q && b.kind == .normal && b.state != .free
  s.modQp q fun p =>
    { p with mirrorLap := lap,
             mirror := { p.counts with pages := (mine.map Bib.hbmPages).sum, bibs := mine.length,
                                       decoding := (mine.filter fun b => b.state == .decoding).length } }

/-- PMC_SNAPSHOT_SWAP (R403, R404): the halves of the image swap, unless FREEZE is set. -/
def execPmcSnapshotSwap (s : State) : Host.Outcome State Fault Refusal :=
  if s.pmc.due then
    let s1 := s.modPmc fun p => { p with due := false }
    if s.flag Fld.PMC_CTL_FREEZE then .next s1
    else
      let s2 := (s1.modPmc fun p => { p with image := p.shot }).wr64 Reg.PMC_SNAP_LAP s.pmc.shotLap
      .next ((s.qps.keys.foldl (fun s q => s.mirrorQp s.pmc.shotLap q) s2).raise Fld.PMC_EVT_SNAP)
  else .next s

/-- COUNTER_WRAP (R399): the counter's additions of one cycle carry it past 2^48. -/
def execCounterWrap (block : Fin 30) (ctr : Fin 8) (add : BitVec 24) (s : State) : Host.Outcome State Fault Refusal :=
  if s.pmc.live.getD (block.val * 8 + ctr.val) 0 + add.toNat < 2 ^ 48 then .next s
  else .next (s.modPmc fun p => p.bump block ctr add.toNat)

/-- The global bank takes the values of the lap that has ended (R405); `dlap` is that lap of the domain. -/
def State.globalSnapshot (s : State) (dlap : Nat) : State :=
  (s.modPmc fun p => { p with bank := p.shot }).wr64 Reg.PMC_GSNAP_LAP dlap

/-- A write of PMC_OVF clears bits of the selected block (R407). -/
def State.writeOvf (s : State) (v : Word) : State :=
  let b := s.get Fld.PMC_SEL_BLOCK
  s.modPmc fun p => { p with ovf := p.ovf.put b (bits (p.ovf.getD b 0) 0 8 &&& bits (~~~v).toNat 0 8) }

/-- A write of PMC_EVT (R407): any WRAP bit set in any block holds OVF. -/
def State.writePmcEvt (s : State) (v : Word) : State :=
  let s1 := if wordBits v 1 1 = 1 then s.put Fld.PMC_EVT_SNAP 0 else s
  if wordBits v 0 1 = 1 ∧ s.pmc.ovf.values.all (· == 0) then s1.modPmc fun p => { p with ovfEvt := false } else s1

end Sys2Proof.Machine
end

