-- ==== Sys2Proof/Machine/Links.lean ====
section
/-!
DEFINITION. The optical links: frames and their violations (R272-R275, R290), bring-up and lanes (R278-R281), global time (R282,
R283) and global operations (R285-R289).
-/

namespace Sys2Proof.Machine

/-! ### Sending -/

/-- Address of optical port `p` (R3). -/
def portAddr (p : Nat) : Word := hubUnit 6 16 p

/-- The port is UP or DEGRADED (R278). -/
def State.portOpen (s : State) (p : Nat) : Bool := s.portState p == 4 || s.portState p == 5

/-- A control frame leaves, and acknowledges what its ACK field covers (R273, R274). -/
def State.sendCtl (s : State) (p type : Nat) (payload : List Byte) : State :=
  let f : Frame := { type := BitVec.ofNat 8 type, flags := 0#8, len := BitVec.ofNat 16 payload.length, seq := 0#32,
                     ack := BitVec.ofNat 32 (s.port p).expSeq, payload := payload, crcOk := true }
  (s.modPort p fun x => { x with ackOwed := false }).send (.frame p f)

/-- The first 8 bytes of a frame's header. -/
def headerBytes (type flags len seq : Nat) : List Byte :=
  leBytes type 1 ++ leBytes flags 1 ++ leBytes len 2 ++ leBytes seq 4

/-- A NACK: REASON, SEQ, the offending header, 3 reserved bytes (R290). -/
def State.sendNack (s : State) (p reason seq : Nat) (header : List Byte) : State :=
  s.sendCtl p 3 (leBytes reason 1 ++ leBytes seq 4 ++ header ++ leBytes 0 3)

/-- Shortest time in ns between two NACKs of one reason on a port: 2 µs for RETRY, else 10 µs (R274, R290). -/
def nackGap (reason : Nat) : Nat := if reason = 0 then 2000 else 10000

/-- A NACK is due at local time `t`: it leaves, or is withheld and counted (R290). -/
def State.nackAt (s : State) (p reason seq : Nat) (header : List Byte) (t : Nat) : State :=
  let last := (s.port p).nacked.find? fun x => x.1 == reason
  let soon : Bool := match last with | some x => decide (t < x.2 + nackGap reason) | none => false
  if soon then (if reason = 0 then s else s.count Reg.LNK_NACK_SUPP 1)
  else
    let kept := (s.port p).nacked.filter fun x => x.1 != reason
    (s.modPort p fun x => { x with nacked := kept ++ [(reason, t)] }).sendNack p reason seq header

/-- A frame of a peer breaks the protocol (R290). -/
def State.peerViolation (s : State) (p reason seq : Nat) (header : List Byte) (t : Nat) : State :=
  let s1 := (s.count Reg.LNK_PEER_VIOL 1).raise Fld.LNK_EVT_PEER_VIOL
  (s1.report (portAddr p) reason 0x31 sevInfo p 0#32).nackAt p reason seq header t

/-! ### Receiving (R274, R275) -/

/-- `a` comes before `b` among sequence numbers that wrap at 2^32. -/
def seqBefore (a b : Nat) : Bool := decide (0 < (b + 2 ^ 32 - a) % 2 ^ 32) && decide ((b + 2 ^ 32 - a) % 2 ^ 32 < 2 ^ 31)

/-- An ACK field frees the DATA frames that it covers, and more may leave (R274). -/
def State.takeAck (s : State) (p : Nat) (a : Nat) : State :=
  (s.modPort p fun x => { x with retry := x.retry.filter fun f => !seqBefore f.seq.toNat a }).pump p

/-- Largest LEN of a message of a class (R275). -/
def largestMessage (c : Nat) : Nat := if c = 1 then 0x100000 else 0x1000000

/-- KIND codes (R275). -/
def kindKnown (k : Nat) : Bool := [0x0101, 0x0102, 0x0103, 0x0201, 0x0301, 0x0401].contains k

/-- What a DATA frame makes of the message of its class: none for FIRST and LAST out of order, an unknown KIND, a LEN above the
class limit or an end that is not at LEN; else the message so far and whether it is complete (R275, R290). -/
def joinMessage (part : Option (List Byte)) (c : Nat) (first last : Bool) (payload : List Byte) : Option (List Byte × Bool) :=
  if first = part.isSome then none
  else
    let bytes := part.getD [] ++ payload
    let len := bytesAt bytes 4 4
    let headOk := kindKnown (bytesAt bytes 0 2) && kindClass (bytesAt bytes 0 2) == c && decide (len ≤ largestMessage c)
    let whole := 16 + len
    if (decide (16 ≤ bytes.length) && !headOk) || decide (16 ≤ bytes.length ∧ whole + 3 < bytes.length) then none
    else if last then (if 16 ≤ bytes.length ∧ whole ≤ bytes.length then some (bytes.take whole, true) else none)
    else some (bytes, false)

/-- The message of class `c` in part. -/
def Port.partOf (x : Port) (c : Nat) : Option (List Byte) := (x.part.find? fun y => y.1 == c).map Prod.snd

/-- The same set. -/
def Port.setPart (x : Port) (c : Nat) (v : Option (List Byte)) : Port :=
  let kept := x.part.filter fun y => y.1 != c
  match v with
  | some b => { x with part := kept ++ [(c, b)] }
  | none => { x with part := kept }

/-- The DATA frame with the expected SEQ is taken: it is owed an ACK, and is delivered or dropped as a violation. -/
def State.takeData (s : State) (p : Nat) (f : Frame) (t : Nat) : State :=
  let s1 := s.modPort p fun x => { x with expSeq := (x.expSeq + 1) % 2 ^ 32, ackOwed := true }
  let c := (f.flags.extractLsb' 0 3).toNat
  let header := headerBytes f.type.toNat f.flags.toNat f.len.toNat f.seq.toNat
  let on : Bool := match s.portRec p with | some r => decide (1 ≤ c ∧ c ≤ 4) && r.admits c | none => false
  if !on then s1.peerViolation p 4 f.seq.toNat header t
  else
    let s2 := s1.tally 23 0x11 f.payload.length none
    match joinMessage ((s.port p).partOf c) c (f.flags.getLsbD 7) (f.flags.getLsbD 6) f.payload with
    | none => (s1.modPort p fun x => x.setPart c none).peerViolation p 5 f.seq.toNat header t
    | some (m, true) => (s2.modPort p fun x => x.setPart c none).modLnk fun l => { l with rx := l.rx ++ [(p, m)] }
    | some (m, false) => s2.modPort p fun x => x.setPart c (some m)

/-- A DATA frame by its SEQ (R274, R290). One that comes after a frame still missing waits for the resend. DEDUCED; log entry 45. -/
def State.receiveData (s : State) (p : Nat) (f : Frame) (t : Nat) : State :=
  let e := (s.port p).expSeq
  let q := f.seq.toNat
  if q = e then s.takeData p f t
  else if seqBefore q e then s
  else if 4096 < (q + 2 ^ 32 - e) % 2 ^ 32 then
    s.peerViolation p 3 q (headerBytes f.type.toNat f.flags.toNat f.len.toNat q) t
  else s

/-- Every DATA frame from `seq` on is sent again (R274). -/
def State.resend (s : State) (p seq : Nat) : State :=
  let again := (s.port p).retry.filter fun f => !seqBefore f.seq.toNat seq
  let fresh := again.map fun f => { f with ack := BitVec.ofNat 32 (s.port p).expSeq }
  let s1 := fresh.foldl (fun s f => s.send (.frame p f)) s
  ((s1.count Reg.LNK_RETRY again.length).tally 23 0x12 again.length none).modPort p fun x =>
    { x with ackOwed := x.ackOwed && again.isEmpty }

/-- A NACK arrives: its reason is shown, and RETRY draws the resend (R274, R290). -/
def State.takeNack (s : State) (p : Nat) (payload : List Byte) : State :=
  let reason := bytesAt payload 0 1
  let seq := bytesAt payload 1 4
  let s1 := s.put (Fld.LNK_PSTS_REASON.sel p) reason
  if reason = 0 then
    let s2 := s1.modPort p fun x =>
      if x.nackRun ≠ 0 ∧ x.nackSeq = seq then { x with nackRun := x.nackRun + 1 } else { x with nackSeq := seq, nackRun := 1 }
    s2.resend p seq
  else s1

/-- A port carries the frame: every frame while UP or DEGRADED, NACK and HELLO in HELLO and REFUSED too (R279). -/
def State.carries (s : State) (p type : Nat) : Bool :=
  s.portOpen p || ((s.portState p == 3 || s.portState p == 7) && (type == 3 || type == 7))

/-- A frame arrives (R273, R274, R290). -/
def State.receive (s : State) (p : Nat) (f : Frame) (t : Nat) : State :=
  let header := headerBytes f.type.toNat f.flags.toNat f.len.toNat f.seq.toNat
  if !s.carries p f.type.toNat then s
  else if !f.crcOk then s.nackAt p 0 (s.port p).expSeq header t
  else if 7 < f.type.toNat then s.peerViolation p 1 f.seq.toNat header t
  else if 256 < f.len.toNat ∨ f.len.toNat % 4 ≠ 0 then s.peerViolation p 2 f.seq.toNat header t
  else
    let s1 := s.takeAck p f.ack.toNat
    if f.type = 1#8 then s1.receiveData p f t
    else if f.type = 3#8 then s1.takeNack p f.payload
    else s1

/-- DATA (R274). -/
def execData (port : Fin 32) (f : Frame) (at' : Nat) (s : State) : Host.Outcome State Fault Refusal :=
  .next (s.receive port f at')

/-- ACK (R274). -/
def execAck (port : Fin 32) (f : Frame) (at' : Nat) (s : State) : Host.Outcome State Fault Refusal :=
  .next (s.receive port f at')

/-- NACK (R290). -/
def execNack (port : Fin 32) (f : Frame) (at' : Nat) (s : State) : Host.Outcome State Fault Refusal :=
  .next (s.receive port f at')

/-- BAD_TYPE (R290). -/
def execBadType (port : Fin 32) (f : Frame) (at' : Nat) (s : State) : Host.Outcome State Fault Refusal :=
  .next (s.receive port f at')

/-- IDLE (R272): it fills the capacity and carries nothing. -/
def execIdle (_port : Fin 32) (s : State) : Host.Outcome State Fault Refusal := .next s

/-- ACK_TIMER (R274). -/
def execAckTimer (port : Fin 32) (s : State) : Host.Outcome State Fault Refusal :=
  if s.portOpen port ∧ (s.port port).ackOwed then .next (s.sendCtl port 2 []) else .next s

/-! ### Bring-up (R278, R279) -/

/-- What a port forgets as it leaves service: its retry buffer, the messages in part, what it knows of its peer (R274). -/
def Port.close (x : Port) : Port :=
  { Port.new with txLanes := x.txLanes, locked := x.locked, nacked := x.nacked }

/-- Number of lanes in a map. -/
def laneCount (m : BitVec 5) : Nat := ((List.range 5).filter fun i => m.getLsbD i).length

/-- The lowest four lanes of a map, or the three that it has (R278). -/
def lowestLanes (m : BitVec 5) : BitVec 5 :=
  ((List.range 5).filter fun i => m.getLsbD i).take 4 |>.foldl (fun (v : BitVec 5) i => v ||| BitVec.ofNat 5 (2 ^ i)) 0#5

/-- Lanes in use by the receiver (LNK_PSTS). -/
def State.lanesOf (s : State) (p : Nat) : BitVec 5 := BitVec.ofNat 5 (s.get (Fld.LNK_PSTS_LANES.sel p))

/-- The port enters DOWN (R274): the event, its report. -/
def State.portToDown (s : State) (p : Nat) : State :=
  let s1 := (s.put (Fld.LNK_PSTS_STATE.sel p) 6).modPort p Port.close
  (s1.raise Fld.LNK_EVT_PORT_DOWN).report (portAddr p) 0xFFFF 0x17 sevContained 6 0#32

/-- The HELLO frame of a port (R279). -/
def State.sendHello (s : State) (p : Nat) : State :=
  let spare : Bool := match s.portRec p with | some r => r.spare | none => false
  let domain := match s.bon.image.bind (·.link) with | some l => l.domainId.toNat | none => 0
  s.sendCtl p 7 (leBytes s.moduleId 2 ++ leBytes p 1 ++ leBytes (s.get Fld.LAP_STS_LEN_MS) 1 ++ leBytes domain 4
    ++ leBytes (s.get Fld.LAP_CFG_STRETCH_MAX) 2 ++ leBytes spare.toNat 1 ++ leBytes 0 5)

/-- Bring-up begins with LIGHT, on an enabled port (R278). -/
def State.startPort (s : State) (p : Nat) : State :=
  match s.portRec p with
  | some r => if r.classes.getLsbD 0 then (s.modPort p Port.close).put (Fld.LNK_PSTS_STATE.sel p) 1 else s
  | none => s

/-- A stage of bring-up is complete (R278). -/
def State.portStage (s : State) (p : Nat) (lanes : BitVec 5) : State :=
  match s.portState p with
  | 1 => if 3 ≤ laneCount lanes then s.put (Fld.LNK_PSTS_STATE.sel p) 2 else s.portToDown p
  | 2 =>
    let spare : Bool := match s.portRec p with | some r => r.spare | none => false
    let got := if spare then lanes else lanes &&& 0b01111#5
    if laneCount got < 3 then s.portToDown p
    else
      let s1 := s.modPort p fun x => { x with locked := got, txLanes := lowestLanes got, heard := false }
      ((s1.put (Fld.LNK_PSTS_LANES.sel p) (lowestLanes got).toNat).put (Fld.LNK_PSTS_STATE.sel p) 3).sendHello p
  | 3 =>
    if (s.port p).heard then
      if laneCount (s.lanesOf p) = 4 then s.put (Fld.LNK_PSTS_STATE.sel p) 4
      else (s.put (Fld.LNK_PSTS_STATE.sel p) 5).raise Fld.LNK_EVT_DEGRADED
    else s
  | _ => s

/-- PORT_BRINGUP_STAGE_DONE (R278). -/
def execPortBringupStageDone (port : Fin 32) (lanes : BitVec 5) (s : State) : Host.Outcome State Fault Refusal :=
  .next (s.portStage port lanes)

/-- PORT_BRINGUP_RETRY (R278): of a port DOWN or REFUSED. -/
def execPortBringupRetry (port : Fin 32) (s : State) : Host.Outcome State Fault Refusal :=
  if s.portState port = 6 ∨ s.portState port = 7 then .next (s.startPort port) else .next s

/-- The reason for which a HELLO is refused, if any (R279): 6 WRONG_PEER, 7 DOMAIN_MISMATCH. -/
def State.helloFails (s : State) (p : Nat) (h : HelloPayload) : Option Nat :=
  match s.portRec p, s.bon.image.bind (·.link) with
  | some r, some l =>
    if h.moduleId.toNat ≠ r.peer ∨ h.port.toNat ≠ r.peerPort then some 6
    else if r.classes.getLsbD 1 ∧ (h.domainId ≠ l.domainId ∨ h.lapMs.toNat ≠ s.get Fld.LAP_STS_LEN_MS
        ∨ h.stretchMax.toNat ≠ s.get Fld.LAP_CFG_STRETCH_MAX) then some 7
    else none
  | _, _ => some 6

/-- A HELLO arrives (R279). -/
def State.takeHello (s : State) (p : Nat) (h : HelloPayload) (t : Nat) : State :=
  if !s.carries p 7 then s
  else
    let s1 := s.put (Fld.LNK_PSTS_PEER_ID.sel p) h.moduleId.toNat
    match s.helloFails p h with
    | none => s1.modPort p fun x => { x with heard := true }
    | some reason =>
      let s2 := ((s1.modPort p Port.close).put (Fld.LNK_PSTS_STATE.sel p) 7).raise Fld.LNK_EVT_PORT_DOWN
      s2.peerViolation p reason 0 (headerBytes 7 0 16 0) t

/-- HELLO (R279). -/
def execHello (port : Fin 32) (p : HelloPayload) (at' : Nat) (s : State) : Host.Outcome State Fault Refusal :=
  .next (s.takeHello port p at')

/-- PORT_DOWN (R274): of a port in bring-up or service; for 16 RETRY NACKs when they have come. -/
def execPortDown (port : Fin 32) (cause : PortDownCause) (s : State) : Host.Outcome State Fault Refusal :=
  let st := s.portState port
  if st = 0 ∨ st = 6 then .next s
  else
    match cause with
    | .retries => if 16 ≤ (s.port port).nackRun then .next (s.portToDown port) else .next s
    | _ => .next (s.portToDown port)

/-! ### Lanes (R280, R281) -/

/-- A lane fails: on an UP port the receiver names the three lanes to use (R280). -/
def State.failLane (s : State) (p w : Nat) : State :=
  let m := BitVec.ofNat 5 (2 ^ w)
  let left := s.lanesOf p &&& ~~~m
  let s1 := s.modPort p fun x => { x with locked := x.locked &&& ~~~m }
  if (s.lanesOf p).getLsbD w then
    let s2 := s1.report (portAddr p) w 0x16 sevContained left.toNat 0#32
    if s.portState p = 4 then s2.send (.lanes p left) else s2
  else s1

/-- LANE_FAILURE (R280). -/
def execLaneFailure (port : Fin 32) (wavelength : Fin 5) (s : State) : Host.Outcome State Fault Refusal :=
  if s.portOpen port then .next (s.failLane port wavelength) else .next s

/-- LANE (R280): the transmitter switches to the lanes named. -/
def execLane (port : Fin 32) (map : BitVec 5) (s : State) : Host.Outcome State Fault Refusal :=
  if s.portOpen port then .next (s.modPort port fun x => { x with txLanes := map }) else .next s

/-- DEGRADED_LOCK (R280): the receiver has locked on the three lanes that are left of an UP port. -/
def execDegradedLock (port : Fin 32) (s : State) : Host.Outcome State Fault Refusal :=
  let left := s.lanesOf port &&& (s.port port).locked
  if s.portState port = 4 ∧ laneCount left = 3 then
    let s1 := (s.put (Fld.LNK_PSTS_LANES.sel port) left.toNat).put (Fld.LNK_PSTS_STATE.sel port) 5
    .next ((s1.raise Fld.LNK_EVT_DEGRADED).sendNack port 0 (s.port port).expSeq (leBytes 0 8))
  else .next s

/-- SPARE_LANE_RESTORE (R281): both ends have locked the four lanes of the new map. -/
def execSpareLaneRestore (port : Fin 32) (map : BitVec 5) (s : State) : Host.Outcome State Fault Refusal :=
  if s.portState port = 5 ∧ laneCount map = 4 ∧ map &&& (s.port port).locked = map then
    let s1 := (s.put (Fld.LNK_PSTS_LANES.sel port) map.toNat).put (Fld.LNK_PSTS_STATE.sel port) 4
    .next (s1.send (.lanes port map))
  else .next s

/-! ### Global time (R282-R284) -/

/-- The ports that a root is heard on: port, ROOT and HOPS, with HOPS below MAX_HOPS (R283). -/
def State.rootsHeard (s : State) : List (Nat × Nat × Nat) :=
  let most := match s.bon.image.bind (·.link) with | some l => l.maxHops | none => 0
  (List.range 32).filterMap fun p =>
    let x := s.port p
    if s.portOpen p ∧ x.peerRoot ≠ 0xFFFF ∧ x.peerHops < most then some (p, x.peerRoot, x.peerHops) else none

/-- The root followed and the parent port (R283): none when the module is its own root. -/
def State.parent (s : State) : Option (Nat × Nat × Nat) :=
  match (sortBy (fun x y => decide (x.2.1 < y.2.1 ∨ (x.2.1 = y.2.1 ∧ x.2.2 ≤ y.2.2))) s.rootsHeard).head? with
  | some x => if s.moduleId ≤ x.2.1 then none else some x
  | none => none

/-- The registers take the root, the parent and the hops (R283). -/
def State.followRoot (s : State) : State :=
  match s.parent with
  | some x =>
    (((s.put Fld.LNK_ID_ROOT_ID x.2.1).put Fld.LNK_SYNC_ROOT 0).put Fld.LNK_SYNC_HOPS (x.2.2 + 1)).put Fld.LNK_SYNC_PARENT x.1
  | none =>
    (((s.put Fld.LNK_ID_ROOT_ID s.moduleId).put Fld.LNK_SYNC_ROOT 1).put Fld.LNK_SYNC_HOPS 0).put Fld.LNK_SYNC_PARENT 0

/-- A number as a 16-bit two's complement field, saturating (LNK_SYNC.OFFSET). -/
def sat16 (n : Int) : Nat := (BitVec.ofInt 16 (max (-32768) (min 32767 n))).toNat

/-- Offset of the peer to local time and one-way delay of a TIME frame, in ns (R282), rounded down. DESIGN CHOICE; log entry 46. -/
def timeOffsets (t : TimePayload) : Int × Int :=
  (((t.echoRx : Int) - t.echoTx + (t.tx - t.t4)) / 2, (((t.t4 : Int) - t.echoTx) - (t.tx - t.echoRx)) / 2)

/-- A trim of the root PLL within ±20,000 steps, whose law no rule gives: a free value (R283, R337). Log entry 46. -/
def State.freeTrim (s : State) : State :=
  let n : Int := ((Config.measured s.drawn).toNat % 40001 : Nat) - (20000 : Int)
  (s.put Fld.CLK_ROOT_TRIM_TRIM (BitVec.ofInt 16 n).toNat).draw

/-- The module steers toward its parent (R283): before lap 0 it steps to the parent's time, then it slews. -/
def State.steer (s : State) (th : Int) (t4 : Nat) : State :=
  let s1 := s.put Fld.LNK_SYNC_OFFSET (sat16 th)
  let n := if th.natAbs ≤ 10 then min 200 (s.lnk.lockRun + 1) else 0
  let s2 := (s1.modLnk fun l => { l with lockRun := n }).putB Fld.LNK_SYNC_LOCKED (n == 200)
  if s.running then
    let s3 := (s2.modLnk fun l => { l with slew := th }).freeTrim.wr64 Reg.LNK_GTIME t4
    let s4 := if 500 < th.natAbs then s3.raise Fld.LNK_EVT_ALIGN_LOST else s3
    if 1000 < th.natAbs ∧ s.inDomain then s4.modLnk fun l => { l with realign := true } else s4
  else (s2.freeTrim).wr64 Reg.LNK_GTIME (max 0 ((t4 : Int) + th)).toNat

/-- A TIME frame arrives on an open port (R282, R283). A frame whose ECHO_TX is 0 echoes nothing. -/
def State.takeTime (s : State) (p : Nat) (t : TimePayload) : State :=
  let s1 := s.modPort p fun x =>
    { x with echoTx := t.tx, echoRx := t.t4, peerRoot := t.root.toNat, peerHops := t.hops, peerDlap := t.dlap }
  let s2 := s1.followRoot
  if t.echoTx = 0 then s2
  else
    let o := timeOffsets t
    let s3 := s2.wr (keyAt p Reg.LNK_PDELAY) (BitVec.ofNat 32 (o.2.toNat % 2 ^ 16))
    match s2.parent with
    | some x => if x.1 = p then s3.steer o.1 t.t4 else s3
    | none => s3

/-- TIME (R282, R283). -/
def execTime (port : Fin 32) (t : TimePayload) (s : State) : Host.Outcome State Fault Refusal :=
  if s.portOpen port then .next (s.takeTime port t) else .next s

/-- TIME_FRAME_TIMER (R282). -/
def execTimeFrameTimer (port : Fin 32) (s : State) : Host.Outcome State Fault Refusal :=
  if s.portOpen port then
    let x := s.port port
    .next (s.sendCtl port 4 (leBytes (s.rd64 Reg.LNK_GTIME) 8 ++ leBytes x.echoTx 8 ++ leBytes x.echoRx 8
      ++ leBytes (s.dlap s.lap) 8 ++ leBytes (s.rd64 Reg.LAP_TIME) 8 ++ leBytes (s.get Fld.LNK_ID_ROOT_ID) 2
      ++ leBytes (s.get Fld.LNK_SYNC_HOPS) 1 ++ leBytes (s.get Fld.LNK_SYNC_LOCKED) 1 ++ leBytes 0 4))
  else .next s

/-! ### Global operations (R285-R289) -/

/-- The payload of an operation (R286). -/
def gopBytes (g : GopPayload) (flags : Nat) : List Byte :=
  leBytes g.op.toNat 1 ++ leBytes g.scope.toNat 1 ++ leBytes g.origin.toNat 2 ++ leBytes g.gseq.toNat 4
  ++ leBytes g.target.toNat 8 ++ leBytes g.hops.toNat 1 ++ leBytes flags 1 ++ leBytes 0 6 ++ leBytes g.arg.toNat 8
  ++ (g.data ++ List.replicate 32 0#8).take 32

/-- LOGFLAGS (R286). -/
def GopHeld.flags (x : GopHeld) : Nat := x.late.toNat + 2 * x.superseded.toNat

/-- An operation enters the log of 16, newest first (LNK_GLOG_SEL). -/
def State.logGop (s : State) (x : GopHeld) : State := s.modLnk fun l => { l with log := (x :: l.log).take 16 }

/-- The open domain ports (R286). -/
def State.domainPorts (s : State) : List Nat :=
  (List.range 32).filter fun p => s.portOpen p && match s.portRec p with
    | some r => r.classes.getLsbD 1
    | none => false

/-- An operation is sent on every domain port but the one it came by (R286). -/
def State.announce (s : State) (g : GopPayload) (but : Option Nat) : State :=
  (s.domainPorts.filter fun p => some p != but).foldl (fun s p => s.sendCtl p 5 (gopBytes g 0)) s

/-- The operation acts on this module: of its domain, or of the head-spread group of its originator (R285). -/
def State.inScope (s : State) (g : GopPayload) : Bool :=
  if g.scope = 0#8 then s.inDomain
  else match s.bon.image.bind (·.link) with
    | some l => l.size != 0 && (l.ids.take l.size).contains g.origin.toNat
    | none => false

/-- OP and SCOPE are valid (R285). -/
def gopValid (g : GopPayload) : Bool :=
  decide (1 ≤ g.op.toNat ∧ g.op.toNat ≤ 5) && (g.scope == 0#8 || (g.scope == 1#8 && (g.op == 3#8 || g.op == 4#8)))

/-- A late operation (R287): logged, counted and reported; BROADCAST is delivered at once, SNAPSHOT and RESET wait for the next
boundary, STRETCH and BARRIER draw a realignment hold. -/
def State.lateGop (s : State) (g : GopPayload) : State :=
  let s1 := (s.logGop ⟨g, true, false⟩).raise Fld.LNK_EVT_GOP_LATE
  let s2 := (s1.count Reg.LNK_GOP_LATE 1).report (dieAddr 31) g.op.toNat 0x18 sevInfo
    (g.origin.toNat * 2 ^ 32 + g.gseq.toNat) 0#32
  if g.op = 4#8 then s2.raise Fld.LNK_EVT_GOP_RX
  else if g.op = 1#8 ∨ g.op = 2#8 then s2.modLnk fun l => { l with realign := true }
  else s2.modLnk fun l => { l with held := l.held ++ [⟨g, true, false⟩] }

/-- An operation that the module has not seen: held for its boundary, or late (R287). -/
def State.holdGop (s : State) (g : GopPayload) : State :=
  if !s.inScope g then s
  else if s.running ∧ g.target.toNat ≤ s.dlap s.lap then s.lateGop g
  else s.modLnk fun l => { l with held := l.held ++ [⟨g, false, false⟩] }

/-- A GOP frame arrives (R286, R290). -/
def State.takeGop (s : State) (p : Nat) (g : GopPayload) (t : Nat) : State :=
  let o := g.origin.toNat
  let early := g.hops = 0#8 ∧ g.target.toNat < (s.port p).peerDlap + 2
  if !gopValid g ∨ early then s.peerViolation p 8 0 (headerBytes 5 0 64 0) t
  else if g.gseq.toNat ≤ s.lnk.seen.getD o 0 then s.count Reg.LNK_GOP_DUP 1
  else
    let s1 := s.modLnk fun l => { l with seen := l.seen.put o g.gseq.toNat }
    (s1.announce { g with hops := g.hops + 1#8 } (some p)).holdGop g

/-- GOP (R286). -/
def execGop (port : Fin 32) (g : GopPayload) (at' : Nat) (s : State) : Host.Outcome State Fault Refusal :=
  if s.portOpen port then .next (s.takeGop port g at') else .next s

/-- This module originates an operation for domain lap `target` (R289). -/
def State.originate (s : State) (op scope target : Nat) (arg : Nat) (data : List Byte) : State :=
  let n := s.lnk.gseq + 1
  let g : GopPayload := { op := BitVec.ofNat 8 op, scope := BitVec.ofNat 8 scope, origin := BitVec.ofNat 16 s.moduleId,
                          gseq := BitVec.ofNat 32 n, target := BitVec.ofNat 64 target, hops := 0#8,
                          arg := BitVec.ofNat 64 arg, data := data }
  let s1 := s.modLnk fun l => { l with gseq := n, seen := l.seen.put s.moduleId n }
  (s1.announce g none).holdGop g

/-- The status of a GO: 4 REFUSED_OP, 2 REFUSED_LEAD, 3 REFUSED_NODOMAIN, 1 SENT (R289). -/
def State.goStatus (s : State) (op lead scope : Nat) : Nat :=
  if op < 2 ∨ 5 < op ∨ (scope = 1 ∧ op ≠ 3 ∧ op ≠ 4) then 4
  else if lead < 2 then 2
  else if !s.inDomain then 3
  else 1

/-- A write of LNK_GOP_CTL (R289). -/
def State.writeGopCtl (s : State) (v : Word) : State :=
  let op := wordBits v 24 3
  let lead := wordBits v 16 8
  let scope := wordBits v 0 1
  let s1 := ((s.put Fld.LNK_GOP_CTL_OP op).put Fld.LNK_GOP_CTL_LEAD lead).put Fld.LNK_GOP_CTL_SCOPE scope
  if wordBits v 31 1 = 0 then s1
  else if s.flag Fld.LNK_GOP_CTL_BUSY then s1.violation 0x03 0 Reg.LNK_GOP_CTL 0#32
  else
    let st := s1.goStatus op lead scope
    let s2 := s1.put Fld.LNK_GOP_CTL_STATUS st
    if st = 1 then
      let data := (List.range 8).flatMap fun i => leBytes (s.rd (Reg.LNK_GOP_DATA + 4 * i)).toNat 4
      s2.originate op scope (s.dlap s.lap + lead) (s.rd64 Reg.LNK_GOP_ARG) (if op = 4 then data else [])
    else s2

/-- GOP_BARRIER (R289). -/
def execGopBarrier (v : Word) (s : State) : Host.Outcome State Fault Refusal :=
  .next (if s.hidden Reg.LNK_GOP_CTL then s.undecoded Reg.LNK_GOP_CTL else s.writeGopCtl v)

/-- GOP_SNAPSHOT (R289). -/
def execGopSnapshot (v : Word) (s : State) : Host.Outcome State Fault Refusal :=
  .next (if s.hidden Reg.LNK_GOP_CTL then s.undecoded Reg.LNK_GOP_CTL else s.writeGopCtl v)

/-- GOP_BROADCAST (R289). -/
def execGopBroadcast (v : Word) (s : State) : Host.Outcome State Fault Refusal :=
  .next (if s.hidden Reg.LNK_GOP_CTL then s.undecoded Reg.LNK_GOP_CTL else s.writeGopCtl v)

/-- GOP_RESET (R289). -/
def execGopReset (v : Word) (s : State) : Host.Outcome State Fault Refusal :=
  .next (if s.hidden Reg.LNK_GOP_CTL then s.undecoded Reg.LNK_GOP_CTL else s.writeGopCtl v)

/-- GOP_STRETCH_REFUSED (R289). -/
def execGopStretchRefused (v : Word) (s : State) : Host.Outcome State Fault Refusal :=
  .next (if s.hidden Reg.LNK_GOP_CTL then s.undecoded Reg.LNK_GOP_CTL else s.writeGopCtl v)

/-- The place of an operation in the order of R288. -/
def GopHeld.rank (x : GopHeld) : List Nat :=
  [if x.gop.op = 5#8 then 0 else if x.gop.op = 2#8 then 1 else if x.gop.op = 1#8 then 2 else if x.gop.op = 3#8 then 3 else 4,
   x.gop.origin.toNat, x.gop.gseq.toNat]

/-- Lexicographic order of ranks. -/
def rankLe : List Nat → List Nat → Bool
  | [], _ => true
  | _ :: _, [] => false
  | a :: x, b :: y => decide (a < b) || (decide (a = b) && rankLe x y)

/-- A RESET at its boundary: LINKS restarts bring-up of every domain port; MODULE halts the member (R285). -/
def State.applyReset (s : State) (arg : Nat) : State :=
  if arg = 1 then
    (List.range 32).foldl (fun s p =>
      match s.portRec p with
      | some r => if r.classes.getLsbD 1 then s.startPort p else s
      | none => s) s
  else if arg = 2 then s.haltLatch haltReset
  else s

/-- The snapshot of a SNAPSHOT (R285): the global bank of the lap that has ended, checkpoints of every bib; `n` is the lap that
begins. -/
def State.applySnapshot (s : State) (n arg : Nat) : State :=
  let s1 := if arg % 2 = 1 then s.globalSnapshot (s.dlap (n - 1)) else s
  if arg / 2 % 2 = 1 then s1.dueCkpts n true else s1

/-- The boundary that begins lap `n` applies the operations held for its domain lap, in the order of R288, and the late ones. An
operation whose boundary passed while no lap ran is gone. -/
def State.applyGops (s : State) (n : Nat) : State :=
  let t := s.dlap n
  let due := sortBy (fun x y => rankLe x.rank y.rank) (s.lnk.held.filter fun x => x.late || x.gop.target.toNat == t)
  let s1 := s.modLnk fun l => { l with held := l.held.filter fun x => !x.late && decide (t < x.gop.target.toNat) }
  match due.find? fun x => x.gop.op == 5#8 with
  | some r =>
    let others := due.filter fun x => x != r && !x.late
    let s2 := others.foldl (fun s x => s.logGop { x with superseded := true }) s1
    let s3 := if r.late then s2 else s2.logGop r
    (s3.raise Fld.LNK_EVT_GOP_RX).applyReset r.gop.arg.toNat
  | none =>
    let s2 := due.foldl (fun s x => if x.late then s else s.logGop x) s1
    let s3 := if due.isEmpty then s2 else s2.raise Fld.LNK_EVT_GOP_RX
    let arg := due.foldl (fun a x => if x.gop.op = 3#8 then a ||| x.gop.arg.toNat else a) 0
    s3.applySnapshot n arg

end Sys2Proof.Machine
end

