-- ==== Sys2Proof/Machine/Power.lean ====
section
/-!
DEFINITION. Supplies, power gates and sleep: rails and the reset domains (R349-R352), tile-group gates (R353-R355), the module
power states (R356-R361), the hard stop and its release (R362-R364).
-/

namespace Sys2Proof.Machine

/-! ### Power gates (R353-R355) -/

/-- Key of a group: die × 256 + group. -/
def groupKey (d g : Nat) : Nat := d * 256 + g

/-- State of a group (PWR_GSTS): 0 OFF, 1 RAMP, 2 ON, 3 SHORTED. -/
def State.groupState (s : State) (n : Nat) : Nat := s.get (Fld.PWR_GSTS_STATE.sel n)

/-- Groups of die `d` that ramp. -/
def State.ramping (s : State) (d : Nat) : Nat :=
  ((List.range 256).filter fun g => s.groupState (groupKey d g) == 1).length

/-- Keys of the tiles of group `n`; a group is 33 tiles (R13). -/
def groupTiles (n : Nat) : List Nat := List.range' (33 * n) 33

/-- The clock gates of the group's tiles that are not RETIRED open (R346, R353). -/
def State.openGroupClocks (s : State) (n : Nat) : State :=
  (groupTiles n).foldl (fun s k =>
    if (s.fab.tiles.getD k Tile.new).state = .retired then s else s.openTile (k / 8448) (k % 8448)) s

/-- The clock gates of the group's tiles close. -/
def State.closeGroupClocks (s : State) (n : Nat) : State :=
  s.modClk fun c => { c with tileGates := c.tileGates.filter fun k => !decide (k ∈ groupTiles n) }

/-- The ramp of a group begins. -/
def State.startRamp (s : State) (n : Nat) : State :=
  ((s.put (Fld.PWR_GSTS_STATE.sel n) 1).put (Fld.PWR_GSTS_STEP.sel n) 0).modPwr fun p =>
    { p with overLimit := p.overLimit.filter (· != n), waiting := p.waiting.filter (· != n) }

/-- Waiting groups of die `d` begin in ascending number while fewer than RAMP_MAX ramp (R355). -/
def State.startWaiting (s : State) (d : Nat) : State :=
  let free := s.get Fld.PWR_GCFG_RAMP_MAX - s.ramping d
  ((s.pwr.waiting.filter fun n => n / 256 == d).take free).foldl (fun s n => s.startRamp n) s

/-- Arkor die `d` is out of reset (PWR_POR0). -/
def State.dieUp (s : State) (d : Nat) : Bool := wordBits (s.rd Reg.PWR_POR0) d 1 != 0

/-- A request to close the switch of a group: it ramps, or waits for its die's RAMP_MAX (R353, R355). -/
def State.closeGate (s : State) (n : Nat) : State :=
  if s.groupState n ≠ 0 ∨ !s.dieUp (n / 256) then s
  else (s.modPwr fun p => { p with waiting := insertNat n p.waiting }).startWaiting (n / 256)

/-- GATE_CLOSE_REQUEST (R353). -/
def execGateCloseRequest (die : Fin 16) (group : Fin 256) (s : State) : Host.Outcome State Fault Refusal :=
  .next (s.closeGate (groupKey die group))

/-- A group is shorted at step `k` (R354): SHORTED, its tiles RETIRED, a tile in service a planned fence. -/
def State.shortGroup (s : State) (n k : Nat) : State :=
  let s1 := ((s.put (Fld.PWR_GSTS_STATE.sel n) 3).modPwr fun p => { p with overLimit := p.overLimit.filter (· != n) })
  let s2 := (groupTiles n).foldl (fun s t =>
    let d := t / 8448
    match (s.tile d (t % 8448)).state with
    | .inService | .proving => s.planFence d (t % 8448)
    | .fenced => s
    | _ => s.retireSpare d (t % 8448)) s1
  let s3 := (s2.raise Fld.PWR_EVT_GATE_SHORT).count Reg.PWR_GATE_SHORT_CNT 1
  s3.report (tileAddr (n / 256) (33 * (n % 256))) k 0x04 sevContained 0 0#32

/-- A step of a ramp ends with inrush current `ma` (R353, R354). -/
def State.rampStepEnd (s : State) (n ma : Nat) : State :=
  let k := s.get (Fld.PWR_GSTS_STEP.sel n) + 1
  let high := decide (s.get Fld.PWR_GCFG_ILIM < ma)
  let before := decide (n ∈ s.pwr.overLimit)
  let s1 := (s.put (Fld.PWR_GSTS_STEP.sel n) k).put (Fld.PWR_GSTS_LAST_MA.sel n) ma
  if high && before then (s1.shortGroup n k).startWaiting (n / 256)
  else
    let s2 := if before || (high && k == 64) then s1.count Reg.PWR_GATE_OVER 1 else s1
    let s3 := s2.modPwr fun p =>
      { p with overLimit := if high then insertNat n p.overLimit else p.overLimit.filter (· != n) }
    if k < 64 then s3
    else
      let s4 := (s3.put (Fld.PWR_GSTS_STATE.sel n) 2).modPwr fun p => { p with overLimit := p.overLimit.filter (· != n) }
      (s4.openGroupClocks n).startWaiting (n / 256)

/-- GATE_RAMP_STEP (R353). -/
def execGateRampStep (die : Fin 16) (group : Fin 256) (ma : BitVec 16) (s : State) : Host.Outcome State Fault Refusal :=
  let n := groupKey die group
  .next (if s.groupState n = 1 then s.rampStepEnd n ma.toNat else s)

/-- The switch of a group opens (R355), which abandons a ramp or a wait. A SHORTED group stays so (R354). -/
def State.openGate (s : State) (n : Nat) : State :=
  let s1 := (s.closeGroupClocks n).modPwr fun p =>
    { p with overLimit := p.overLimit.filter (· != n), waiting := p.waiting.filter (· != n) }
  if s1.groupState n = 3 then s1 else (s1.put (Fld.PWR_GSTS_STATE.sel n) 0).put (Fld.PWR_GSTS_STEP.sel n) 0

/-- The module is IDLE or enters it: every group may be switched (R13). -/
def State.idling (s : State) : Bool := s.pwr.mode == .idle || s.pwr.mode == .idleEntry

/-- GATE_OPEN_REQUEST (R355): not of a group with a tile in service while laps run (R13). -/
def execGateOpenRequest (die : Fin 16) (group : Fin 256) (s : State) : Host.Outcome State Fault Refusal :=
  let n := groupKey die group
  let used := (groupTiles n).any fun k => (s.fab.tiles.get? k).map (·.state) == some .inService
  if used && !s.idling then .next s else .next ((s.openGate n).startWaiting die)

/-- Every ramp that is asked for is complete: the steps that had no command of their own were within ILIM. DESIGN CHOICE; log
entry 47. -/
def State.finishRamps (s : State) : State :=
  let due := (List.range 4096).filter fun n => s.groupState n == 1 || decide (n ∈ s.pwr.waiting)
  let s1 := due.foldl (fun s n => (s.put (Fld.PWR_GSTS_STATE.sel n) 2).put (Fld.PWR_GSTS_STEP.sel n) 64) s
  let s2 := s1.modPwr fun p => { p with waiting := [], overLimit := [] }
  due.foldl (fun s n => s.openGroupClocks n) s2

/-! ### Runs of laps (R124, R357-R359) -/

/-- No bib in ADMITTED, TOWING, DECODING, LODGED or CLOSING, no long command outstanding, the loader not BUSY (R357). -/
def State.mayIdle (s : State) : Bool :=
  (s.bibs.values.all fun b => b.state == .free || b.state == .paused || b.state == .faulted)
  && (s.qps.values.all fun q => q.longs.isEmpty) && s.ldr.op.isNone

/-- A request pending ends with REQ_STATUS `n`. -/
def State.endRequest (s : State) (n : Nat) : State :=
  if s.get Fld.PWR_STS_REQ_STATUS = 1 then s.put Fld.PWR_STS_REQ_STATUS n else s

/-- A run of laps begins at global time `g` with the number that LAP_NUM shows: trims are committed, the dies are RUNNING (R122,
R124, R359). -/
def State.beginRun (s : State) (g : Nat) : State :=
  let s1 := (s.compose.bankSpares).commitBanks s.lap g
  let s2 := (((s1.setDies 2).put Fld.LAP_STS_RUNNING 1).wr64 Reg.LAP_TIME g).wr64 Reg.LNK_GTIME g
  let s3 := (s2.put Fld.PWR_STS_STATE 0).modPwr fun p => { p with mode := .active, begun := true }
  let s4 := s3.modPlan fun p =>
    { p with composed := false, cutoffDone := false, issued := [], sampled := [], stretchNow := 0, stretchNext := 0 }
  let s4 := ((s4.newLedger).showLap s.lap).countStates s.lap
  if s4.get Fld.PWR_CTL_REQ = 0 then s4.endRequest 2 else s4

/-- Entry to IDLE at a boundary (R358): dies HELD, laps stopped, clock gates closed, every switch open. -/
def State.enterIdle (s : State) : State :=
  let on := (List.range 4096).filter fun n => s.groupState n == 2
  let used := s.fab.tiles.entries.filterMap fun e =>
    if e.2.state = .inService ∨ e.2.state = .spare then some (e.1 / 33) else none
  let s1 := ((s.setDies 3).put Fld.LAP_STS_RUNNING 0).modPwr fun p =>
    { p with mode := .idleEntry, resume := on.filter fun n => decide (n ∈ used) }
  let s2 := (s1.modClk fun c => { c with tileGates := [] }).modPlan fun p => { p with idleRequested := false }
  (List.range 4096).foldl (fun s n => if s.groupState n = 0 then s else s.openGate n) s2

/-- Exit from IDLE begins (R359): self-refresh ends, the dies wait in GROOM_ONLY, the groups that were in use ramp. -/
def State.startExit (s : State) : State :=
  let s1 := (s.setDies 1).modPwr fun p => { p with mode := .idleExit, selfRefresh := false, exitHeld := false, resume := [] }
  s.pwr.resume.foldl (fun s n => s.closeGate n) s1

/-- An exit is asked for: it begins from IDLE, or waits for the entry to end (R358). -/
def State.askExit (s : State) : State :=
  match s.pwr.mode with
  | .idle => if s.pwr.begun && !s.pwr.sleepAsked && !s.halted then s.startExit else s
  | .idleEntry => s.modPwr fun p => { p with exitHeld := true }
  | _ => s

/-- A request for ACTIVE (R357, R359). Before lap 0 it waits for the start-up to end. -/
def State.askActive (s : State) : State :=
  if s.pwr.mode = .active then s.put Fld.PWR_STS_REQ_STATUS 2 else (s.put Fld.PWR_STS_REQ_STATUS 1).askExit

/-- A request for IDLE (R357). -/
def State.askIdle (s : State) : State :=
  match s.pwr.mode with
  | .active =>
    if s.mayIdle then (s.put Fld.PWR_STS_REQ_STATUS 1).modPlan fun p => { p with idleRequested := true }
    else s.put Fld.PWR_STS_REQ_STATUS 3
  | .idle => s.put Fld.PWR_STS_REQ_STATUS 2
  | _ => s.put Fld.PWR_STS_REQ_STATUS 3

/-- A request for SLEEP (R357): from IDLE, with every bib FREE and no prefix entry in use. -/
def State.askSleep (s : State) : State :=
  let empty := (s.bibs.values.all fun b => b.state == .free) && (s.kvm.prefixes.values.all fun p => p.state == .free)
  if s.pwr.mode = .idle ∧ empty then
    (s.put Fld.PWR_STS_REQ_STATUS 1).modPwr fun p => { p with sleepAsked := true, flushed := false }
  else s.put Fld.PWR_STS_REQ_STATUS 3

/-- A write of PWR_CTL by `req` (R357, R365). -/
def State.writePwrCtl (s : State) (req : Nat) (v : Word) : State :=
  let bad := fun (s : State) => if req = 5 then s.violation 0x03 0 Reg.PWR_CTL 0#32 else s
  let s1 := if wordBits v 0 2 = 3 then bad s else s.put Fld.PWR_CTL_REQ (wordBits v 0 2)
  if wordBits v 31 1 = 0 then s1
  else if s1.get Fld.PWR_STS_REQ_STATUS = 1 then bad s1
  else
    match s1.get Fld.PWR_CTL_REQ with
    | 0 => s1.askActive
    | 1 => s1.askIdle
    | _ => s1.askSleep

/-- PWR_CTL written by the host with REQ `n` and GO. -/
def pwrGo (n : Nat) : Word := BitVec.ofNat 32 (2 ^ 31 + n)

/-- PWR_REQ_ACTIVE (R359). -/
def execPwrReqActive (s : State) : Host.Outcome State Fault Refusal :=
  .next (if s.hidden Reg.PWR_CTL then s.undecoded Reg.PWR_CTL else s.writePwrCtl 5 (pwrGo 0))

/-- PWR_REQ_IDLE (R357). -/
def execPwrReqIdle (s : State) : Host.Outcome State Fault Refusal :=
  .next (if s.hidden Reg.PWR_CTL then s.undecoded Reg.PWR_CTL else s.writePwrCtl 5 (pwrGo 1))

/-- PWR_REQ_SLEEP (R357). -/
def execPwrReqSleep (s : State) : Host.Outcome State Fault Refusal :=
  .next (if s.hidden Reg.PWR_CTL then s.undecoded Reg.PWR_CTL else s.writePwrCtl 5 (pwrGo 2))

/-- IDLE_ENTRY_DONE (R358): a held exit begins in the cycle after. -/
def execIdleEntryDone (s : State) : Host.Outcome State Fault Refusal :=
  if s.pwr.mode = .idleEntry then
    let s1 := (s.put Fld.PWR_STS_STATE 1).endRequest 2
    let s2 := s1.modPwr fun p => { p with mode := .idle, selfRefresh := true }
    .next (if s.pwr.exitHeld then s2.startExit else s2)
  else .next s

/-- IDLE_EXIT (R359). -/
def execIdleExit (_cause : IdleExitCause) (s : State) : Host.Outcome State Fault Refusal := .next s.askExit

/-- IDLE_EXIT_READY (R359): the groups are on and the passes made. A domain member takes the realignment hold first (R284). -/
def execIdleExitReady (gtime : Nat) (s : State) : Host.Outcome State Fault Refusal :=
  if s.pwr.mode ≠ .idleExit ∨ s.halted ∨ s.lnk.holding then .next s
  else if s.inDomain then .next ((s.finishRamps.setDies 3).modLnk fun l => { l with holding := true })
  else .next (s.finishRamps.beginRun gtime)

/-! ### Resets (R349-R351, R364) -/

/-- Offsets of the registers that the always-on island holds: PWR, BON, the source states, the events and the counters of CLK. -/
def inAon (off : Nat) : Bool :=
  decide (0x200000 ≤ off ∧ off < 0x300000) || decide (0x2000000 ≤ off ∧ off < 0x2100000) || decide (off = Reg.CLK_SRC_STS)
  || decide (Reg.CLK_EVT ≤ off ∧ off < 0x100058)

/-- The arrays keep their conductances: all that is left of the tiles is whether they hold programmed weights (R351). -/
def keptTiles (t : Table Tile) : Table Tile :=
  (t.filter fun _ x => x.holdsWeights).map fun _ _ => { Tile.new with holdsWeights := true }

/-- Every domain but AON is reset (R364): the always-on island keeps its registers, the flash and the key store, the pins and the
telemetry target. Registers of the groups go with their dies. -/
def State.resetModule (s : State) : State :=
  let keep := fun k (_ : Word) => inAon (k % selStride) && !decide (k % selStride = Reg.PWR_GSTS)
  { State.reset with
    rf := { State.reset.rf with regs := s.rf.regs.filter keep, image := s.rf.image.filter keep }
    pcie := { State.reset.pcie with perst := s.pcie.perst, training := false }
    fab := { State.reset.fab with tiles := keptTiles s.fab.tiles }
    thm := { State.reset.thm with tripAna := s.thm.tripAna }
    pwr := { State.reset.pwr with aonUp := s.pwr.aonUp }
    bon := { State.reset.bon with flash := s.bon.flash, digests := s.bon.digests, wrapKeys := s.bon.wrapKeys,
                                  logNext := s.bon.logNext, telemMap := s.bon.telemMap, telemPtr := s.bon.telemPtr,
                                  telemAddr := s.bon.telemAddr, owed := s.bon.owed }
    drawn := s.drawn
    sent := s.sent
    pending := s.pending }

/-- The state before Bonos starts again (R364, R360): no bib, STATE IDLE, no request, start-up at stage 0. -/
def State.restart (s : State) : State :=
  let s1 := s.resetModule
  let s2 := ((s1.put Fld.PWR_STS_HALTED 0).put Fld.PWR_STS_REQ_STATUS 0).put Fld.PWR_STS_STATE 1
  s2.put Fld.BON_STS_STAGE 0

/-- AON leaves nothing but the flash, the key store and the conductances (R356 OFF). -/
def State.powerOff (s : State) : State :=
  { State.reset with
    fab := { State.reset.fab with tiles := keptTiles s.fab.tiles }
    pwr := { State.reset.pwr with mode := .off, aonUp := false }
    bon := { State.reset.bon with flash := s.bon.flash, digests := s.bon.digests, wrapKeys := s.bon.wrapKeys,
                                  logNext := s.bon.logNext }
    drawn := s.drawn
    sent := s.sent
    pending := s.pending }

/-- Place of a domain in PWR_POR0 and PWR_POR1; none for AON. -/
def porBit (d : ResetDomain) : Option (Nat × Nat) :=
  match d with
  | .aon => none
  | .arkor n => some (Reg.PWR_POR0, n.val)
  | .hub h => some (Reg.PWR_POR0, 16 + hubNum h)
  | .engine n => some (Reg.PWR_POR0, 18 + n.val)
  | .stack n => some (Reg.PWR_POR1, n.val)

/-- The UP bit of a domain set to `b`. -/
def State.putUp (s : State) (d : ResetDomain) (b : Bool) : State :=
  match porBit d with
  | some x => s.wr x.1 (setBits (s.rd x.1) x.2 1 b.toNat)
  | none => s.modPwr fun p => { p with aonUp := b }

/-- RAIL_RISE (R349): the last rail of the domain is up. -/
def execRailRise (d : ResetDomain) (s : State) : Host.Outcome State Fault Refusal :=
  match d with
  | .aon => if s.pwr.aonUp then .next s else .next ((s.putUp d true).modPwr fun p => { p with mode := .idle })
  | _ => .next (if s.pwr.aonUp then s.putUp d true else s)

/-- An Arkor die loses every register and memory (R351). -/
def State.loseDie (s : State) (d : Nat) : State :=
  let mine := fun off => decide (off / 0x100000 = 16 + d % 16)
  let gone := fun k (_ : Word) => !(mine (k % selStride) || (k % selStride == Reg.PWR_GSTS && k / selStride / 256 == d))
  let s1 := s.modRf fun r => { r with regs := r.regs.filter gone }
  let s2 := s1.modFab fun f =>
    { f with tiles := f.tiles.map (fun k x => if k / 8448 = d then { Tile.new with holdsWeights := x.holdsWeights } else x),
             arrays := f.arrays.filter fun k _ => k / 256 / 8448 != d,
             tests := f.tests.erase d, setTemps := f.setTemps.erase d, anchors := f.anchors.erase d }
  (s2.modClk fun c => { c with tileGates := c.tileGates.filter fun k => k / 8448 != d,
                               dieGates := c.dieGates.filter fun k => k / 3 != d }).modPwr fun p =>
    { p with waiting := p.waiting.filter fun n => n / 256 != d, overLimit := p.overLimit.filter fun n => n / 256 != d }

/-- A hub loses its lanes' work and, when it is HW, the patrol ring (R313). -/
def State.loseHub (s : State) (h : Hub) : State :=
  let s1 := s.modAtt fun a => { a with lanes := a.lanes.filter fun k _ => k / 32 != hubNum h }
  if h = .hw then (s1.modPat fun p => { p with log := .empty, bursts := [] }).put Fld.PAT_LOG_FREE_VALUE 4096 else s1

/-- The owning hub of a stack (R14). -/
def stackHub (n : Nat) : Hub := hubOf (n / 8)

/-- A stack loses its part of every stored vector homed on its hub, which leaves none readable (R351). -/
def State.loseStack (s : State) (n : Nat) : State :=
  s.modKvm fun k => { k with vectors := k.vectors.filter fun key _ => (s.bib (key / 2 ^ 64)).home != stackHub n }

/-- The ports of engine `n` go DOWN (R351, R274). -/
def State.loseEngine (s : State) (n : Nat) : State :=
  (List.range' (8 * n) 8).foldl (fun s p => if s.portState p = 0 ∨ s.portState p = 6 then s else s.portToDown p) s

/-- RAIL_FALL (R349, R351): a supply fault while laps run; of a stack, a fault of its hub die; of an engine, its ports DOWN. -/
def execRailFall (d : ResetDomain) (s : State) : Host.Outcome State Fault Refusal :=
  let s1 := s.putUp d false
  match d with
  | .aon => .next s.powerOff
  | .arkor n => let t := s1.loseDie n; .next (if s.running then t.moduleFault .supplyOrClock else t)
  | .hub h => let t := s1.loseHub h; .next (if s.running then t.moduleFault .supplyOrClock else t)
  | .stack n => let t := s1.loseStack n; .next (if s.running then t.moduleFault (.hubDie (stackHub n)) else t)
  | .engine n => .next (s1.loseEngine n)

/-- VPP_LOST (R352). -/
def execVppLost (s : State) : Host.Outcome State Fault Refusal :=
  .next ((s.put Fld.PWR_STS_VPP_OK 0).raise Fld.PWR_EVT_VPP_LOST)

/-- VPP_RESTORED (R352). -/
def execVppRestored (s : State) : Host.Outcome State Fault Refusal := .next (s.put Fld.PWR_STS_VPP_OK 1)

/-! ### SLEEP (R360, R361, R378) -/

/-- The patrol ring drains into the persistent log (R396). -/
def State.drainLog (s : State) : State :=
  let s1 := s.logPositions.foldl (fun s p =>
    match s.pat.log.get? p with
    | some r => s.persist r
    | none => s) s
  ((s1.put Fld.PAT_LOG_TAIL_VALUE (s1.get Fld.PAT_LOG_HEAD_VALUE)).put Fld.PAT_LOG_FREE_VALUE 4096).modPat
    fun p => { p with log := .empty }

/-- SLEEP_ENTRY (R360): with the function in D3hot, the changed trim sets and the log are written. -/
def execSleepEntry (s : State) : Host.Outcome State Fault Refusal :=
  if s.pwr.sleepAsked ∧ s.pcie.d3hot then
    .next ((s.flushSets.drainLog).modPwr fun p => { p with mode := .sleepEntry, flushed := true })
  else .next s

/-- PME_TURN_OFF (R360): the link enters L2/L3 Ready, and an entry to SLEEP that waits for it asserts SLEEP_N. -/
def execPmeTurnOff (s : State) : Host.Outcome State Fault Refusal :=
  let s1 := s.modPcie fun p => { p with l23 := true }
  if s.pwr.sleepAsked ∧ s.pwr.flushed then
    .next ((s1.endRequest 2).modPwr fun p => { p with mode := .sleep, sleepN := true, sleepAsked := false })
  else .next s1

/-- The holding bit of the source is in the always-on island (R378). -/
def heldInAon (src : Nat) : Bool := decide (0x010 ≤ src ∧ src ≤ 0x011) || decide (0x018 ≤ src ∧ src ≤ 0x01A)

/-- The source is named by an enabled entry of EVT_WAKE and is held in the always-on island (R378). -/
def State.watched (s : State) (src : Nat) : Bool :=
  heldInAon src && (List.range 32).any fun i =>
    let v := s.rd (Reg.EVT_WAKE + 4 * i)
    wordBits v 31 1 == 1 && wordBits v 0 11 == src

/-- A wake source has fired: a watched source, or PERST_N or the timer (R361). -/
def State.wakes (s : State) (src : Option (Fin 1536)) : Bool :=
  match src with
  | some n => s.watched n
  | none => true

/-- Its holding bit is set (R378). -/
def State.riseSource (s : State) (src : Option (Fin 1536)) : State :=
  match src.bind fun n => if heldInAon n then holdingBit n else none with
  | some (reg, bit) => s.wr reg (setBits (s.rd reg) bit 1 1)
  | none => s

/-- An entry to SLEEP is aborted (R361): the module stays in IDLE. The request ends REFUSED. DEDUCED; log entry 48. -/
def State.abortSleep (s : State) : State :=
  let s1 := ((s.raise Fld.PWR_STS_SLEEP_ABORT).count Reg.PWR_SLEEP_ABORT 1).endRequest 3
  s1.modPwr fun p => { p with mode := .idle, selfRefresh := false, sleepAsked := false, flushed := false }

/-- A wake (R360, R361): it aborts an entry, or, in SLEEP, SLEEP_N deasserts and start-up runs; while HALTED it is held (R364). -/
def State.wakeUp (s : State) : State :=
  if s.halted then s.modPwr fun p => { p with wakePending := true }
  else if s.pwr.sleepAsked then s.abortSleep
  else if s.pwr.mode = .sleep then s.restart
  else s

/-- WAKE (R360). -/
def execWake (source : Option (Fin 1536)) (s : State) : Host.Outcome State Fault Refusal :=
  .next (if s.wakes source then (s.riseSource source).wakeUp else s)

/-- SLEEP_ABORT (R361). -/
def execSleepAbort (source : Option (Fin 1536)) (s : State) : Host.Outcome State Fault Refusal :=
  .next (if s.pwr.sleepAsked ∧ s.wakes source then (s.riseSource source).wakeUp else s)

/-- PWR_WAKE_TMR (R361): 0 disables it. -/
def execPwrWakeTmr (s : State) : Host.Outcome State Fault Refusal :=
  .next (if s.get Fld.PWR_WAKE_TMR_MS ≠ 0 then s.wakeUp else s)

/-- PERST_N_DEASSERT (R361, R414): training may run. -/
def execPerstNDeassert (s : State) : Host.Outcome State Fault Refusal :=
  .next ((s.wakeUp).modPcie fun p => { p with perst := false, training := true, l23 := false })

/-! ### The hard stop (R362-R364) -/

/-- A halt is released (R364): every domain but AON is reset and Bonos starts again; a wake held so far is served by that. -/
def State.release364 (s : State) : State := s.restart

/-- PERST_N_ASSERT (R414): a function level reset, training held, and a halt that waits for it released. -/
def execPerstNAssert (s : State) : Host.Outcome State Fault Refusal :=
  let hold := fun (s : State) => s.modPcie fun p => { p with perst := true, training := false }
  .next (if s.pwr.awaitPerst then hold s.release364 else hold s.flr)

/-- HALT_A is asserted when low, HALT_B when high. -/
def State.haltAsserted (s : State) : Bool × Bool := (!s.flag Fld.PWR_HALT_STS_A_LVL, s.flag Fld.PWR_HALT_STS_B_LVL)

/-- A synchronised level changes (R362, R363): `ticks` counts of a disagreement that stood. -/
def State.haltChange (s : State) (pin : HaltPin) (level : Bool) (ticks : Nat) : State :=
  let was := s.flag Fld.PWR_HALT_STS_DISAGREE
  let run := if was then s.get Fld.PWR_HALT_STS_RUN + ticks else 0
  let s1 := match pin with
    | .a => s.putB Fld.PWR_HALT_STS_A_LVL level
    | .b => s.putB Fld.PWR_HALT_STS_B_LVL level
  let a := s1.haltAsserted
  let dis := a.1 != a.2
  let s2 := (s1.putB Fld.PWR_HALT_STS_DISAGREE dis).put Fld.PWR_HALT_STS_RUN (if dis then min run (2 ^ 24 - 1) else 0)
  let s3 := if was && !dis && decide (run < s.get Fld.PWR_HALT_CFG_DISC) && !s.halted then s2.count Reg.PWR_DISC_IGN 1 else s2
  if a.1 && a.2 then s3.haltLatch haltInputs else s3

/-- HALT_INPUT_CHANGE (R362). -/
def execHaltInputChange (pin : HaltPin) (level : Bool) (ticks : Nat) (s : State) : Host.Outcome State Fault Refusal :=
  .next (s.haltChange pin level ticks)

/-- HALT_DISCREPANCY (R363): the count of the disagreement has reached DISC. -/
def execHaltDiscrepancy (s : State) : Host.Outcome State Fault Refusal :=
  if s.flag Fld.PWR_HALT_STS_DISAGREE then
    .next ((s.put Fld.PWR_HALT_STS_RUN (s.get Fld.PWR_HALT_CFG_DISC)).haltLatch haltDisc)
  else .next s

/-- HALT_RELEASE (R364): the inputs have been deasserted for DISC ticks, or Bonos ends a RESET operation's halt. -/
def execHaltRelease (s : State) : Host.Outcome State Fault Refusal :=
  let a := s.haltAsserted
  if !s.halted then .next s
  else if s.get Fld.PWR_STS_HALT_CAUSE = haltReset then .next s.release364
  else if s.get Fld.PWR_STS_HALT_CAUSE = haltThermal ∨ a.1 ∨ a.2 then .next s
  else if s.get Fld.PWR_CFG_RESTART = 0 then .next (s.modPwr fun p => { p with awaitPerst := true })
  else .next s.release364

end Sys2Proof.Machine
end

