-- ==== Sys2Proof/Machine/Bonos.lean ====
section
/-!
DEFINITION. Bonos (R380-R398): the choice of a copy, start-up, RECOVERY, the grooming tables, the update path, the persistent log,
the telemetry target.
-/

namespace Sys2Proof.Machine

/-! ### The copy directory (R383, R384) -/

/-- `n` bytes of the record of copy `c` from offset `o`. -/
def State.copyField (s : State) (c o n : Nat) : Nat := bytesAt (s.readFlash (copyRecAddr c) 64) o n

/-- STATE of copy `c`; EMPTY where the record has not its MAGIC. -/
def State.copyState (s : State) (c : Nat) : Nat := if s.copyField c 0 4 = 0x52494443 then s.copyField c 4 1 else 0xFF

/-- SEQ of copy `c`. -/
def State.copySeq (s : State) (c : Nat) : Nat := s.copyField c 8 4

/-- Clear bits of ATTEMPTS of copy `c`. -/
def State.attempts (s : State) (c : Nat) : Nat := ((List.range 8).filter fun i => bits (s.copyField c 5 1) i 1 == 0).length

/-- STATE codes: TRIAL, GOOD, BAD. -/
def copyTrial : Nat := 0x7F
/-- GOOD. -/
def copyGood : Nat := 0x3F
/-- BAD. -/
def copyBad : Nat := 0x1F

/-- STATE of copy `c` written. -/
def State.markCopy (s : State) (c n : Nat) : State := s.writeFlash (copyRecAddr c + 4) (leBytes n 1)

/-- Step 1 of R384: a TRIAL copy with two ATTEMPTS bits clear is written BAD. -/
def State.spendTrials (s : State) : State :=
  [0, 1].foldl (fun s c => if s.copyState c = copyTrial ∧ 2 ≤ s.attempts c then s.markCopy c copyBad else s) s

/-- The copy may be started. -/
def State.candidateCopy (s : State) (c : Nat) : Bool := s.copyState c == copyGood || s.copyState c == copyTrial

/-- Step 2 of R384, after step 1. -/
def State.chooseCopy (s : State) : Option Nat :=
  match s.candidateCopy 0, s.candidateCopy 1 with
  | true, true => some (if s.copySeq 0 < s.copySeq 1 then 1 else 0)
  | true, false => some 0
  | false, true => some 1
  | false, false => none

/-- Before a start from a TRIAL copy the lowest set bit of its ATTEMPTS is cleared (R383). -/
def State.spendAttempt (s : State) (c : Nat) : State :=
  let a := s.copyField c 5 1
  if s.copyState c = copyTrial then
    match (List.range 8).find? fun i => bits a i 1 == 1 with
    | some i => s.writeFlash (copyRecAddr c + 5) (leBytes (a - 2 ^ i) 1)
    | none => s
  else s

/-! ### Start-up (R392-R394) -/

/-- Stage of start-up. -/
def State.stage (s : State) : Nat := s.get Fld.BON_STS_STAGE

/-- Every die out of reset whose sequencer is OFF enters GROOM_ONLY (R122, R394). -/
def State.groomOnly (s : State) : State :=
  (List.range 16).foldl (fun s d =>
    if s.dieUp d ∧ s.seqState d = 0 then s.put (Fld.ARK_STS_SEQ_STATE.die d) 1 else s) s

/-- The module enters RECOVERY (R394): nominal dividers, PCIe ready, and the entries that waited are written. -/
def State.enterRecovery (s : State) : State :=
  let s1 := ((s.put Fld.BON_STS_RECOVERY 1).put Fld.EVT_CTL_MODE 3).groomOnly
  let s2 := (List.range 60).foldl (fun s d => s.setClock d (plannedSource d) (nominalDiv d)) s1
  (s2.modPcie fun p => { p with training := !p.perst, configReady := true }).writeOwed

/-- The newest block of the persistent log, found by its sequence number, and the entries in it (R396). -/
def State.findLog (s : State) : Nat :=
  let seqs := (List.range logBlocks).filterMap fun b =>
    let h := s.readFlash (logBase + b * 0x10000) 12
    if bytesAt h 0 4 = 0x474F4C42 then some (bytesAt h 4 8, b) else none
  match seqs with
  | [] => 0
  | x :: r =>
    let y := r.foldl (fun a b => if a.1 < b.1 then b else a) x
    let used := ((List.range logPerBlock).filter fun i =>
      (s.readFlash (logBase + y.2 * 0x10000 + 64 + 64 * i) 64).any (· != erased)).length
    y.1 * logPerBlock + used

/-- Events 1 and 2 of R392: the copy is chosen, and pass 1 begins; with none left, RECOVERY. -/
def State.beginStart (s : State) : State :=
  let s1 := ((s.put Fld.EVT_CTL_MODE 1).put Fld.BON_STS_STAGE 2).spendTrials
  match s1.chooseCopy with
  | some c => (s1.spendAttempt c).put Fld.BON_STS_COPY c
  | none => s1.enterRecovery

/-- BONOS_START (R392): with AON out of reset and start-up not begun. -/
def execBonosStart (s : State) : Host.Outcome State Fault Refusal :=
  if s.pwr.aonUp ∧ s.stage = 0 ∧ !s.halted ∧ s.pwr.mode = .idle then
    .next ((s.modBon fun b => { b with logNext := s.findLog }).groomOnly).beginStart
  else .next s

/-- A copy fails a check (R384 step 3): written BAD, the domains other than AON reset, start-up again from event 2. No rule numbers
the checks: the failing check is a free value. DESIGN CHOICE; log entry 54. -/
def State.failCopy (s : State) : State :=
  let c := s.get Fld.BON_STS_COPY
  let s1 := ((s.markCopy c copyBad).bonosEntry 0x42 (c + 256 * ((Config.measured s.drawn).toNat % 256))).resetModule
  s1.groomOnly.beginStart

/-- The image in the active copy. -/
def State.activeImage (s : State) : List Byte := s.copyImage (s.get Fld.BON_STS_COPY)

/-- Event 6 of R392: the clock plan, and the THRESH values of the always-on island, which the ramps of the groups need; training, link
training and the ramps begin. DEDUCED; log entry 51. -/
def State.applyFirst (s : State) (img : List Byte) : State :=
  let es := (threshEntries (sectionBytes img 5)).filter fun e => decide (Reg.PWR_CFG ≤ e.off ∧ e.off < 0x300000)
  let s1 := (s.applyClock (clockRecords (sectionBytes img 1))).applyThreshes es
  let s2 := (s1.wr64 Reg.BON_IMG (bytesAt img 0x10 8)).modPcie fun p => { p with training := !p.perst }
  (List.range 4096).foldl (fun s n => s.closeGate n) s2

/-- IMAGE_PASS1_DONE (R392 events 4 to 6). -/
def execImagePass1Done (s : State) : Host.Outcome State Fault Refusal :=
  let img := s.activeImage
  if s.stage ≠ 2 ∨ !s.startingUp ∨ s.halted then .next s
  else if s.imageOk img && clockOk (sectionBytes img 1) then .next ((s.applyFirst img).put Fld.BON_STS_STAGE 6)
  else .next s.failCopy

/-- MEMORY_TRAINING_DONE (R392 event 7): the ramps that had no steps of their own are over. -/
def execMemoryTrainingDone (lodgeHe lodgeHw : Nat) (s : State) : Host.Outcome State Fault Refusal :=
  if s.stage ≠ 6 ∨ !s.startingUp ∨ s.halted then .next s
  else
    let s1 := s.finishRamps.modBon fun b => { b with lodgeHe := lodgeHe, lodgeHw := lodgeHw, trained := true }
    .next (s1.put Fld.BON_STS_STAGE 7)

/-- Routes and masks of the event sources (R379). -/
def State.applyRoutes (s : State) (l : List Byte) : State :=
  (List.range 1536).foldl (fun s n => s.applyRouting n (l.getD n 0#8)) s

/-- The pools, the staging buffer and the lap of the image (R389). -/
def State.applyPiste (s : State) (m : Image) : State :=
  let s1 := ((s.imageField Fld.LAP_STS_LEN_MS m.lapMs).imageField Fld.LAP_MOG_CFG_FB_RES m.fbRes).imageField
    Fld.LAP_CFG_STRETCH_MAX m.stretchMax
  let s2 := ((s1.imageField Fld.LAP_CFG_KV_STARVE m.kvStarve).imageField Fld.LAP_CFG_PLAN_LEAD m.planLead).imageField
    Fld.LAP_ECFG_IDLE_W m.idleW
  let s3 := (s2.wr64 Reg.LAP_KV_BUDGET_HE m.kvBudgetHe).wr64 Reg.LAP_KV_BUDGET_HW m.kvBudgetHw
  (List.range 32).foldl (fun s u => if 16 - m.fbRes ≤ u % 16 then s.setUnit u 1 0#32 else s) s3

/-- The pools of a hub. -/
def State.applyPool (s : State) (h : Nat) (p : PoolRec) : State :=
  (s.imageField (Fld.KVM_POOL_TOTAL_PAGES.sel h) p.hbm).imageField (Fld.KVM_POOL_TOTAL_PAGES.sel (2 + h)) p.lodge

/-- The link section (R277, R389): the identity and the group; bring-up of every enabled port begins (R278). -/
def State.applyLink (s : State) (m : Image) : State :=
  match m.link with
  | some l =>
    let s1 := ((s.imageField Fld.LNK_ID_MODULE_ID l.moduleId).imageField Fld.ATT_GROUP_SIZE l.size).imageField
      Fld.ATT_GROUP_MEMBER l.member
    (List.range 32).foldl (fun s p => s.startPort p) s1
  | none => ((s.imageField Fld.LNK_ID_MODULE_ID 0xFFFF).imageField Fld.ATT_GROUP_SIZE 0).imageField Fld.ATT_GROUP_MEMBER 0

/-- Sections 2 to 9 take effect (R392 event 8). -/
def State.applySections (s : State) (img : List Byte) : State :=
  let m := parseImage img
  let s1 := s.modBon fun b => { b with image := some m, stewardsReleased := true }
  let s2 := (s1.applyPool 0 (m.pools.getD 0 (poolRecord []))).applyPool 1 (m.pools.getD 1 (poolRecord []))
  let s3 := (s2.imageField Fld.LDR_STG_SIZE_MIB (m.pools.getD 1 (poolRecord [])).staging).applyPiste m
  ((s3.applyThreshes (threshEntries (sectionBytes img 5))).applyRoutes m.routing).applyLink m

/-- IMAGE_PASS2_DONE (R392 event 8). -/
def execImagePass2Done (s : State) : Host.Outcome State Fault Refusal :=
  let img := s.activeImage
  if s.stage ≠ 7 ∨ !s.startingUp ∨ s.halted then .next s
  else if s.sectionsPass img then .next ((s.applySections img).put Fld.BON_STS_STAGE 8)
  else .next s.failCopy

/-! ### The grooming tables (R390, R391) -/

/-- The trim sets of a tile record: the anchor set, and the others by their differences from it. -/
def recordSets (r : List Byte) (n anchor : Nat) : List (List Trim) :=
  let a := (List.range converters).map fun c => trimOfWord (bytesAt r (4 * c) 4)
  (List.range n).map fun i =>
    if i = anchor then a
    else
      let d := fun k => signedOf (bytesAt r (0x200 + 6 * i + 2 * k) 2) 16
      a.map fun x => x.shift (d 0) (d 1) (d 2)

/-- The CRC of a tile record holds. -/
def flashRecordOk (r : List Byte) : Bool := (crc32c (r.take 0x23C)).toNat == bytesAt r 0x23C 4

/-- A tile as its record gives it; one whose CRC fails starts at mid-code, in service where the piste uses it and otherwise a spare.
DEDUCED; log entry 55. -/
def State.loadTile (s : State) (d t n anchor : Nat) : State :=
  let r := s.readFlash (tileRecAddr d t) 576
  let old := s.tile d t
  let used := (s.positionMode d t).isSome
  let x := if flashRecordOk r then
      { Tile.new with state := tileOfCode (bytesAt r 0x230 1), sensor := bytesAt r 0x231 1, sets := recordSets r n anchor
                      replaces := if bytesAt r 0x232 2 = t then none else some (bytesAt r 0x232 2) }
    else { Tile.new with state := if used then .inService else .spare }
  s.modTile d t fun _ => { x with holdsWeights := old.holdsWeights }

/-- Mode and range shift of a tile are those of its position. -/
def State.placeTile (s : State) (d t : Nat) : State :=
  match s.positionMode d (s.logical d t) with
  | some m => s.modTile d t fun x => { x with merged := m.1, range := m.2 }
  | none => s

/-- A tile that is FENCED has its reserve units and its spare chosen again (R295, R298). -/
def State.recoverFence (s : State) (d t : Nat) : State :=
  if (s.tile d t).state = .fenced then ((s.claimBoth d t).beginUnits (tileAddr d t)).takeSpare d t else s

/-- The tables of die `d` are read. -/
def State.loadDie (s : State) (d : Nat) : State :=
  let h := s.readFlash (dieBlockAddr d) 20
  let n := bytesAt h 0 1
  let temps := (List.range n).map fun i => signedOf (bytesAt h (4 + 2 * i) 2) 16
  let s1 := s.modFab fun f => { f with setTemps := f.setTemps.put d temps, anchors := f.anchors.put d (bytesAt h 1 1) }
  let all := List.range 8448
  let s2 := all.foldl (fun s t => s.loadTile d t n (bytesAt h 1 1)) s1
  let s3 := all.foldl (fun s t => s.placeTile d t) s2
  all.foldl (fun s t => s.recoverFence d t) s3

/-- Slots with a recorded digest are ATTACHING (R263, R392). -/
def State.loadSlot (s : State) (m : Nat) : State :=
  let r := s.readFlash (slotRecAddr m) 64
  if r.all (· == erased) then s
  else (s.setSlot m 4).modLdr fun l => { l with digests := l.digests.put m (BitVec.ofNat 384 (bytesAt r 0 48)) }

/-- GROOMING_TABLES_LOADED (R391, R392 event 9): the tables, and the first commit. -/
def execGroomingTablesLoaded (s : State) : Host.Outcome State Fault Refusal :=
  if s.stage ≠ 8 ∨ !s.startingUp ∨ s.halted then .next s
  else
    let s1 := (List.range 64).foldl (fun s m => s.loadSlot m) s.groomOnly
    let s2 := ((List.range 16).filter fun d => s.dieUp d).foldl (fun s d => s.loadDie d) s1
    let s3 := (s2.compose.commitBanks 0 0).modPlan fun p => { p with composed := false }
    .next (s3.put Fld.BON_STS_STAGE 9)

/-- Tiles whose start-up pass failed leave service (R122, R299). -/
def State.dropFailed (s : State) : State := s.claimPlanned.fencePlanned

/-- STARTUP_READY (R392 events 10 and 11): a module in no domain begins lap 0. -/
def execStartupReady (us gtime : Nat) (s : State) : Host.Outcome State Fault Refusal :=
  if s.stage ≠ 9 ∨ !s.startingUp ∨ s.halted then .next s
  else
    let c := s.get Fld.BON_STS_COPY
    let s1 := (((s.put Fld.BON_STS_STAGE 11).put Fld.BON_STS_BOOT_US (min us (2 ^ 26 - 1))).put Fld.EVT_CTL_MODE 0).modPcie
      fun p => { p with configReady := true }
    let s2 := if s1.copyState c = copyTrial then s1.markCopy c copyGood else s1
    let s3 := (s2.writeOwed.bonosEntry 0x40 (c + 256 * s2.copySeq c)).dropFailed
    .next (if s3.inDomain then s3 else (s3.wr64 Reg.LAP_NUM 0).beginRun gtime)

/-- RECOVERY (R394): with no candidate left in a start-up. -/
def execRecovery (s : State) : Host.Outcome State Fault Refusal :=
  if s.startingUp ∧ s.chooseCopy = none then .next s.enterRecovery else .next s

/-! ### The persistent log (R396) -/

/-- Entry `n` is in the log. -/
def State.logHolds (s : State) (n : Nat) : Bool :=
  decide (n < s.bon.logNext) && decide ((s.bon.logNext - 1) / logPerBlock < n / logPerBlock + logBlocks)

/-- An entry read: a response code and its 64 bytes. -/
def State.readLog (s : State) (n : Nat) : Nat × List Byte :=
  if s.logHolds n then (0, s.readFlash (logAddr n) 64) else (2, [])

/-- LOG_DRAIN (R396); not during start-up (R393). -/
def execLogDrain (s : State) : Host.Outcome State Fault Refusal :=
  if s.stage = 0 ∨ s.startingUp then .next s else .next s.drainLog

/-- A write of BON_CMD by `req` (R398). An operation is complete within its command, so GO reads 0 again. OP 3 is reserved:
BAD_ARG. DESIGN CHOICE; log entry 56. -/
def State.writeBonCmd (s : State) (v : Word) : State :=
  let s1 := s.put Fld.BON_CMD_OP (wordBits v 0 2)
  if wordBits v 31 1 = 0 then s1
  else
    match wordBits v 0 2 with
    | 0 => s1.put Fld.BON_CMD_STATUS 0
    | 1 =>
      let r := s1.readLog (s1.rd64 Reg.BON_ARG)
      let s2 := s1.put Fld.BON_CMD_STATUS r.1
      if r.1 = 0 then (List.range 16).foldl (fun s i => s.wr (wordAt Reg.BON_RSP 16 i) (wordOf r.2 i)) s2 else s2
    | 2 => (s1.flushSets.drainLog).put Fld.BON_CMD_STATUS 0
    | _ => s1.put Fld.BON_CMD_STATUS 2

/-- BON_CMD_LOG_READ (R398). -/
def execBonCmdLogRead (v : Word) (s : State) : Host.Outcome State Fault Refusal := .next (s.writeBonCmd v)

/-- BON_CMD_FLUSH (R398). -/
def execBonCmdFlush (v : Word) (s : State) : Host.Outcome State Fault Refusal := .next (s.writeBonCmd v)

/-! ### The update path (R381, R395) -/

/-- Bonos answers an MCTP message. -/
def State.respond (s : State) (code : Nat) (bytes : List Byte) : State := s.send (.mctp code bytes)

/-- The inactive copy. -/
def State.inactive (s : State) : Nat := 1 - s.get Fld.BON_STS_COPY

/-- UPD_BEGIN (R395): the inactive copy's record EMPTY, its region erased. -/
def execUpdBegin (len : Word) (s : State) : Host.Outcome State Fault Refusal :=
  let c := s.inactive
  if s.bon.update.isSome then .next (s.respond 1 [])
  else if len.toNat = 0 ∨ imageMax < len.toNat then .next (s.respond 2 [])
  else
    let s1 := (s.eraseFlash (copyRecAddr c) 64).eraseFlash (copyBase c) imageMax
    .next ((s1.modBon fun b => { b with update := some len.toNat }).respond 0 [])

/-- UPD_DATA (R395): 1 to 1,024 bytes, within LEN. Without an update that runs: BAD_ARG. DESIGN CHOICE; log entry 56. -/
def execUpdData (off : Word) (bytes : List Byte) (s : State) : Host.Outcome State Fault Refusal :=
  match s.bon.update with
  | some n =>
    if bytes.length = 0 ∨ 1024 < bytes.length ∨ n < off.toNat + bytes.length then .next (s.respond 2 [])
    else .next ((s.writeFlash (copyBase s.inactive + off.toNat) bytes).respond 0 [])
  | none => .next (s.respond 2 [])

/-- The record of copy `c`. -/
def copyRecord (state seq len crc : Nat) : List Byte :=
  leBytes 0x52494443 4 ++ leBytes state 1 ++ leBytes 0xFF 1 ++ leBytes 0xFFFF 2 ++ leBytes seq 4 ++ leBytes len 4 ++ leBytes crc 4

/-- UPD_END (R395): the copy is checked; TRIAL with SEQ = active SEQ + 1 and an UPDATE entry, or BAD. -/
def execUpdEnd (s : State) : Host.Outcome State Fault Refusal :=
  match s.bon.update with
  | some n =>
    let c := s.inactive
    let img := s.copyImage c
    let seq := (s.copySeq (1 - c) + 1) % 2 ^ 32
    let s1 := s.modBon fun b => { b with update := none }
    if s.imageOk img then
      let s2 := s1.writeFlash (copyRecAddr c) (copyRecord copyTrial seq n (bytesAt img 0x18 4))
      .next ((s2.bonosEntry 0x43 seq).respond 0 [])
    else .next ((s1.writeFlash (copyRecAddr c) (copyRecord copyBad 0xFFFFFFFF n 0xFFFFFFFF)).respond 3 [])
  | none => .next (s.respond 2 [])

/-- A key store index is written. -/
def State.keyWritten (s : State) (kind i : Nat) : Bool :=
  if kind = 0 then (s.bon.digests.get? i).isSome else (s.bon.wrapKeys.get? i).isSome

/-- KEY_PUT (R381, R395): an index is written at most once. `data` is the digest, or the key as unwrapped, in its low bits. -/
def execKeyPut (kind index : Byte) (data : BitVec 384) (signed : Bool) (s : State) : Host.Outcome State Fault Refusal :=
  let k := kind.toNat
  let i := index.toNat
  if 1 < k ∨ (if k = 0 then 8 else 16) ≤ i then .next (s.respond 2 [])
  else if !signed then .next (s.respond 3 [])
  else if s.keyWritten k i then .next (s.respond 4 [])
  else if k = 0 then .next ((s.modBon fun b => { b with digests := b.digests.put i data }).respond 0 [])
  else .next ((s.modBon fun b => { b with wrapKeys := b.wrapKeys.put i (data.extractLsb' 0 256) }).respond 0 [])

/-- Occupancy of a key store table as a bit mask. -/
def State.occupancy (s : State) (kind n : Nat) : Nat :=
  (List.range n).foldl (fun m i => if s.keyWritten kind i then m + 2 ^ i else m) 0

/-- ID_GET (R395): the identity public key and the key store occupancy, a mask of digests and one of wrapping keys. No rule gives
their layout. DESIGN CHOICE; log entry 56. -/
def execIdGet (s : State) : Host.Outcome State Fault Refusal :=
  .next (s.respond 0 (Config.identityKey ++ leBytes (s.occupancy 0 8) 1 ++ leBytes (s.occupancy 1 16) 2))

/-- LOG_READ (R395). -/
def execLogRead (seq : DWord) (s : State) : Host.Outcome State Fault Refusal :=
  let r := s.readLog seq.toNat
  .next (s.respond r.1 r.2)

/-! ### The telemetry target (R397) -/

/-- The power of the last lap as the map holds it, kept by a copy made while no lap runs. -/
def State.telemPower (s : State) : List Byte := (List.range 4).map fun i => s.bon.telemMap.getD (8 + i) 0#8

/-- The map is copied; `power` is the power of the last lap in W. -/
def State.copyMap (s : State) (power : List Byte) : State :=
  let m := leBytes (s.get Fld.THM_STS_LEVEL) 1 ++ leBytes (s.get Fld.PWR_STS_STATE) 1 ++ leBytes (s.get Fld.THM_STS_HOT_T) 2
    ++ leBytes s.lap 4 ++ power ++ leBytes s.stage 1 ++ leBytes (s.get Fld.PWR_STS_HALT_CAUSE) 1 ++ List.replicate 50 0#8
  s.modBon fun b => { b with telemMap := m }

/-- TELEM_MAP_COPY (R397): every 20 ms while no lap runs. -/
def execTelemMapCopy (s : State) : Host.Outcome State Fault Refusal :=
  if s.running then .next s else .next (s.copyMap s.telemPower)

/-- TELEM_POINTER_WRITE (R397): the pointer wraps at 64. -/
def execTelemPointerWrite (b : Byte) (s : State) : Host.Outcome State Fault Refusal :=
  .next (s.modBon fun x => { x with telemPtr := b.toNat % 64 })

/-- TELEM_IGNORED_WRITE (R397). -/
def execTelemIgnoredWrite (s : State) : Host.Outcome State Fault Refusal := .next (s.count Reg.BON_TEL_IGN 1)

/-- TELEM_READ (R397): the map from the pointer onward, which stays. DESIGN CHOICE; log entry 56. -/
def execTelemRead (n : Nat) (s : State) : Host.Outcome State Fault Refusal :=
  .next (s.send (.i3c ((List.range n).map fun i => s.bon.telemMap.getD ((s.bon.telemPtr + i) % 64) 0#8)))

/-- The target's static address. -/
def telemStatic : BitVec 7 := 0x2E#7

/-- SETDASA (R397): a target without a dynamic address takes one, named by its static address. -/
def execSetdasa (static dyn : BitVec 7) (s : State) : Host.Outcome State Fault Refusal :=
  .next (if static = telemStatic ∧ s.bon.telemAddr = none then s.modBon fun b => { b with telemAddr := some dyn } else s)

/-- ENTDAA (R397): a target without a dynamic address takes the one that it wins. -/
def execEntdaa (won : Bool) (dyn : BitVec 7) (s : State) : Host.Outcome State Fault Refusal :=
  .next (if won ∧ s.bon.telemAddr = none then s.modBon fun b => { b with telemAddr := some dyn } else s)

end Sys2Proof.Machine
end

