-- ==== Sys2Proof/Machine/Spread.lean ====
section
/-!
DEFINITION. Head spreading (R228-R232): the handoff at the origin and at a member, control messages, tokens, gather parts.
-/

namespace Sys2Proof.Machine

/-! ### Handoff (R229) -/

/-- A block cut down to the pages of the module's share; the others return to their pool. -/
def State.shrinkBlock (s : State) (h : Hub) (pb : Nat) (k : Block) : Block × State :=
  if k.shared then (k, s)
  else
    let keep := k.pages.take pb
    ({ k with pages := keep, poison := k.poison.filter fun p => decide (p ∈ keep) },
      s.releasePages h k.lodge (k.pages.drop pb) k.poison)

/-- Every own block of entry `i` holds only the share of this module, and the rest is freed (R229). -/
def State.shrinkBib (s : State) (i : Nat) (guests : List Word) : State :=
  let s0 := s.modBib i fun b => { b with handedOff := true, guests := guests }
  let b := s0.bib i
  let pb := s0.pbOf b
  let r := b.blocks.foldl (fun (a : List Block × State) k =>
    let (k', s) := a.2.shrinkBlock b.home pb k
    (a.1 ++ [k'], s)) ([], s0)
  let s1 := r.2.modBib i fun b => { b with blocks := r.1 }
  let heads := match s.ldr.slots.get? b.modelSlot with | some x => s1.shareOf b x | none => []
  let s2 := s1.modKvm fun k =>
    { k with vectors := k.vectors.filter fun key _ => key / 2 ^ 64 != i || decide (key % 256 ∈ heads) }
  s2.trimLists i

/-- SPREAD_HANDOFF (R229): every member has acknowledged. -/
def execSpreadHandoff (bib : Word) (guests : List Word) (s : State) : Host.Outcome State Fault Refusal :=
  let i := idIndex bib
  let b := s.bib i
  if !s.names bib then .next (s.count Reg.BIB_STALE_PEER 1)
  else if b.spread ∧ b.kind = .normal ∧ b.prefillDone ∧ !b.handedOff then .next (s.shrinkBib i guests)
  else .next s

/-- The guest entry of a member (R229). -/
def State.guestBib (s : State) (i origin : Nat) (originBib : Word) (tenant slot : Nat) (wax : Option Nat) (home : Hub)
    (positions lastToken : Nat) : Bib :=
  { (Bib.free (s.bib i).gen) with
    state := .towing
    home := home
    prefillDone := true
    kind := .guest origin originBib
    spread := true
    tenant := tenant
    modelSlot := slot
    admitLap := s.lap
    promptLen := positions
    promptDone := positions
    kvBase := kvBaseOf i
    pageList := pageListOf i
    wax := wax
    lastToken := lastToken
    inputs := [lastToken]
    handedOff := true }

/-- The blocks of a guest filled with the streams that came (R229). -/
def fillBlocks (positions : Nat) (scales : List (List Byte)) (l : List Block) : List Block :=
  ((List.range l.length).zip l).map fun k =>
    { k.2 with fill := min 64 (positions - k.2.pos0), scales := scales.getD k.1 [] }

/-- A member takes a guest, or refuses for want of an entry, of the set (R241) or of pages (R229). -/
def State.takeGuest (s : State) (origin : Nat) (originBib : Word) (tenant slot : Nat) (wax : Option Nat) (home : Hub)
    (positions lastToken : Nat) (vectors : List (Nat × List Int)) (scales : List (List Byte)) : State :=
  let waxOk := match wax with | some w => s.waxReady w tenant slot | none => true
  match s.freeBibs.head 65536 with
  | none => s
  | some i =>
    if s.groupSize = 0 ∨ !s.slotHolds slot ∨ !waxOk then s
    else
      let b := s.guestBib i origin originBib tenant slot wax home positions lastToken
      match ((s.modFree fun f => f.pop 65536).putBib i b).growTo i positions with
      | (.granted _ _, s1) =>
        let s2 := s1.modBib i fun b => { b with blocks := fillBlocks positions scales b.blocks }
        let s3 := s2.modKvm fun k =>
          { k with vectors := vectors.foldl (fun t v => t.put (i * 2 ^ 64 + v.1 % 2 ^ 64) v.2) k.vectors }
        (s3.takeWax wax).tally 17 0x12 1 (some home)
      | (.quotaFull, _) => s.count Reg.KVM_QUOTA_REF 1
      | (.poolEmpty, _) => s.poolEmpty home false

/-- GUEST_HANDOFF (R229, R241). -/
def execGuestHandoff (origin : BitVec 16) (originBib : Word) (tenant : Fin 16384) (slot : Fin 64)
    (wax : Option (Fin 131072)) (home : Hub) (positions : Nat) (lastToken : BitVec 24)
    (vectors : List (Nat × List Int)) (scales : List (List Byte)) (s : State) : Host.Outcome State Fault Refusal :=
  .next (s.takeGuest origin.toNat originBib tenant slot (wax.map Fin.val) home positions lastToken.toNat vectors scales)

/-! ### Control messages (R231) -/

/-- The guest of a bib of another module. -/
def State.guestOf (s : State) (origin : Nat) (originBib : Word) : Option Nat :=
  (s.bibs.entries.find? fun e => e.2.kind == .guest origin originBib && e.2.state != .free).map Prod.fst

/-- The guest that a change names: by the origin's bib, and by its own identifier where that is not 0. -/
def State.changeTarget (s : State) (origin : Nat) (c : SpreadChange) : Option Nat :=
  match s.guestOf origin c.originBib with
  | some i => if c.guestBib = 0#32 ∨ c.guestBib = s.bibId i then some i else none
  | none => none

/-- SPREAD_CTL (R231): changes wait for the boundary of their lap; one that names no guest is discarded (R162). -/
def State.takeChange (s : State) (origin lap : Nat) (c : SpreadChange) : State :=
  match s.changeTarget origin c with
  | some _ => s.modAtt fun a => { a with changes := a.changes ++ [(lap, origin, c)] }
  | none => s.count Reg.BIB_STALE_PEER 1

/-- SPREAD_CTL (R231). -/
def execSpreadCtl (origin : BitVec 16) (lap : Nat) (changes : List SpreadChange) (s : State) :
    Host.Outcome State Fault Refusal :=
  .next (changes.foldl (fun s c => s.takeChange origin.toNat lap c) s)

/-- The code of an action (R231). -/
def actionCode (a : Fin 5) : Nat := (Config.spreadAction a).toNat

/-- A guest enters DECODING in a slot, a LODGED one only when it is back in HBM (R153, R229); one in DECODING takes the slot of its
origin's bib (R230). -/
def State.grantGuest (s : State) (i slot : Nat) : State :=
  let b := s.bib i
  if b.state = .decoding then
    (s.modBib i fun b => { b with decSlot := some slot }).modAtt fun a => { a with granted := a.granted ++ [s.bibId i] }
  else if b.state = .towing ∨ (b.state = .lodged ∧ b.restored) then
    let s1 := (s.transition i .decoding .grantDecode).modBib i fun b =>
      { b with decSlot := some slot, restored := false, replay := false }
    s1.modAtt fun a => { a with granted := a.granted ++ [s1.bibId i] }
  else s

/-- A guest follows its origin's bib into LODGED; from PAUSED its restore begins (R229, R206). -/
def State.lodgeGuest (s : State) (i : Nat) : State :=
  match (s.bib i).state with
  | .paused => ((s.transition i .lodged .resume).modBib i fun b => { b with lodgeLap := s.lap }).requestRestore i
  | .towing | .decoding => s.enterLodged i .planLodge
  | _ => s

/-- A change takes effect at its boundary: GRANT, RELEASE, PAUSE, LODGE or CLOSE (R229, R231). RELEASE follows the origin into FREE.
DEDUCED; log entry 27. -/
def State.applyChange (s : State) (origin : Nat) (c : SpreadChange) : State :=
  match s.changeTarget origin c with
  | none => s.count Reg.BIB_STALE_PEER 1
  | some i =>
    let st := (s.bib i).state
    if c.action = actionCode 0 then s.grantGuest i c.slot
    else if c.action = actionCode 1 then
      if st = .closing ∨ st = .faulted then s.enterFree i else (s.release i).enterFree i
    else if c.action = actionCode 2 then
      if st = .towing ∨ st = .decoding ∨ st = .lodged then s.enterPaused i none else s
    else if c.action = actionCode 3 then s.lodgeGuest i
    else if c.action = actionCode 4 then if st = .closing ∨ st = .faulted then s else s.enterClosing i .close none
    else s

/-- The changes of the lap that begins, and those that came late (R231). -/
def State.applyChanges (s : State) : State :=
  let now := s.dlap s.lap
  let s1 := s.modAtt fun a =>
    { a with changes := a.changes.filter (fun c => decide (now < c.1)), granted := [],
             tokensIn := a.tokensIn.filter fun x => decide (now ≤ x.2 + 1) }
  (s.att.changes.filter fun c => decide (c.1 ≤ now)).foldl (fun s c => s.applyChange c.2.1 c.2.2) s1

/-! ### Tokens (R231) -/

/-- A guest's token of a lap (R231, R232): its position is counted and the token is its next input, unless the lap is replayed. -/
def State.guestToken (s : State) (origin lap w slot : Nat) (t : Nat × Bool) : State :=
  match s.decHolder (128 * w + slot) with
  | none => s
  | some i =>
    let b := s.bib i
    match b.kind with
    | .guest o _ =>
      if o ≠ origin then s
      else
        let s1 := if t.2 ∨ b.replay then s
          else (s.commitPositions i 1).modBib i fun b => { b with inputs := [t.1 % 2 ^ 24], lastToken := t.1 % 2 ^ 24 }
        s1.modAtt fun a => { a with tokensIn := a.tokensIn ++ [(s.bibId i, lap)] }
    | _ => s

/-- First slot of the part of member `k` in a wave (R230). -/
def State.partSlot (s : State) (w k : Nat) : Nat := k * (s.spreadOf w / s.groupSize)

/-- Member number of a module ID. -/
def State.memberOf (s : State) (id : Nat) : Option Nat := (s.members.find? fun x => x.2 == id).map Prod.fst

/-- SPREAD_TOK (R231). -/
def execSpreadTok (origin : BitVec 16) (lap : Nat) (wave : Fin 32) (toks : List (Nat × Bool)) (s : State) :
    Host.Outcome State Fault Refusal :=
  match s.memberOf origin.toNat with
  | some k =>
    .next (((List.range toks.length).zip toks).foldl (fun s t =>
      s.guestToken origin.toNat lap wave (s.partSlot wave k + t.1) t.2) s)
  | none => .next s

/-! ### Gather parts (R231) -/

/-- The outputs of member `k` for one spread slot join the attention output vector. -/
def State.putPart (s : State) (w token l k : Nat) (x : Model) (v : List (BitVec 16)) : State :=
  match s.holder w token with
  | some i =>
    if (s.bib i).sharded then
      let q := s.queryShare x k
      let s1 := (List.range q.2).foldl (fun s g => s.putHead w token l (q.1 + g) x ((v.drop (g * x.dh)).take x.dh)) s
      s1.attComplete w token l x
    else s
  | none => s

/-- GATHER_PART (R231): of the running domain lap and from another member. -/
def State.takePart (s : State) (lap w l k : Nat) (replay : BitVec 128) (outputs : List (List (BitVec 16))) : State :=
  if lap ≠ s.dlap s.lap ∨ !(s.members.any fun m => m.1 == k) then s
  else
    match s.ldr.slots.get? (s.slotOf w) with
    | none => s
    | some x =>
      let s1 := s.modAtt fun a => { a with parts := a.parts ++ [(w, l, k, replay)] }
      ((List.range (s.spreadOf w)).zip outputs).foldl (fun s o => s.putPart w o.1 l k x o.2) s1

/-- GATHER_PART (R231). -/
def execGatherPart (lap : Nat) (wave : Fin 32) (layer : Fin 256) (member : Fin 8) (replay : BitVec 128)
    (outputs : List (List (BitVec 16))) (s : State) : Host.Outcome State Fault Refusal :=
  .next (s.takePart lap wave layer member replay outputs)

end Sys2Proof.Machine
end

