-- ==== Sys2Proof/Machine/Laps.lean ====
section
/-!
DEFINITION. Plan completion (R125, R143, R145, R231), the lap boundary with all that takes effect there (R120-R127, R153, R162), the
bibs that leave the table at one (R153, R161), and lap 0 and realignment in a domain (R283, R284).
-/

namespace Sys2Proof.Machine

/-! ### Plan completion (R125 event 4) -/

/-- DEC_USED of hub `h` in the planned lap. -/
def State.planDec (s : State) (h : Hub) : Nat :=
  (s.liveBibs.filter fun i => (s.bib i).home == h && s.holdsDec i).length
  + (s.plan.grants.filter fun g => g.kind == .decode && decHub g.slot == h).length

/-- TOW_USED of hub `h` in the planned lap: chunks and fit steps. -/
def State.planTow (s : State) (h : Hub) : Nat :=
  (s.plan.grants.filter fun g => g.kind != .decode && towHub g.slot == h && decide (0 < g.chunk)).length

/-- LAP_PLAN_HE and LAP_PLAN_HW, and the KV registers, describe the plan (R147). -/
def State.showPlan (s : State) : State :=
  let a := s.put Fld.LAP_PLAN_LAPNUM_LAP (s.lap + 1)
  let b := (((a.put Fld.LAP_PLAN_HE_DEC_USED (s.planDec .he)).put Fld.LAP_PLAN_HE_TOW_USED (s.planTow .he)).put
    Fld.LAP_PLAN_HE_TOW_HELD (onHub s.plan.withheld .he)).put Fld.LAP_PLAN_HE_GRANTS (min 1023 s.plan.made.1)
  let c := (((b.put Fld.LAP_PLAN_HW_DEC_USED (s.planDec .hw)).put Fld.LAP_PLAN_HW_TOW_USED (s.planTow .hw)).put
    Fld.LAP_PLAN_HW_TOW_HELD (onHub s.plan.withheld .hw)).put Fld.LAP_PLAN_HW_GRANTS (min 1023 s.plan.made.2)
  (((c.wr64 Reg.LAP_KV_PROJ_HE s.plan.proj.1).wr64 Reg.LAP_KV_PROJ_HW s.plan.proj.2).wr64 Reg.LAP_KV_HEAD_HE s.plan.head.1).wr64
    Reg.LAP_KV_HEAD_HW s.plan.head.2

/-- The stretch that this pass proposes to the domain is announced (R145). -/
def State.proposeStretch (s : State) : State :=
  match s.plan.proposed with
  | some (t, n) => if t = s.dlap s.lap + 2 then s.originate 1 0 t n [] else s
  | none => s

/-- What the planned lap makes of an announced spread bib: action, by place in R231's list, and slot. -/
def State.spreadWish (s : State) (id : Word) (slot : Nat) : Option (Nat × Nat) :=
  let b := s.bib (idIndex id)
  if !s.names id then some (1, slot)
  else
    match s.plan.grants.find? fun g => g.bib == id && g.kind == .decode with
    | some g => some (0, g.slot)
    | none =>
      if id ∈ s.plan.lodges ∨ b.state = .lodged then some (3, slot)
      else if b.state = .paused ∨ (id ∈ s.plan.parting ∧ b.pend = .pause) then some (2, slot)
      else if b.state = .closing ∨ b.state = .faulted ∨ (id ∈ s.plan.parting ∧ b.pend = .close) then some (4, slot)
      else none

/-- The changes of the planned lap: bib, slot, action, guests (R231). -/
def State.spreadChanges (s : State) : List (Word × Nat × Nat × List Word) :=
  let old := s.att.announced.filterMap fun a =>
    match s.spreadWish a.1 a.2.1 with
    | some w => if w.1 = a.2.2.1 ∧ w.1 ≠ 0 then none else some (a.1, w.2, w.1, a.2.2.2)
    | none => none
  let fresh := s.plan.grants.filter fun g =>
    g.kind == .decode && (s.bib (idIndex g.bib)).spread && !(s.att.announced.any fun a => a.1 == g.bib)
  old ++ fresh.map fun g => (g.bib, g.slot, 0, (s.bib (idIndex g.bib)).guests)

/-- An entry of SPREAD_CTL for member `k` (R231). -/
def changeBytes (k : Nat) (c : Word × Nat × Nat × List Word) : List Byte :=
  leBytes c.2.1 2 ++ [if h : c.2.2.1 < 5 then Config.spreadAction ⟨c.2.2.1, h⟩ else 0#8] ++ leBytes 0 1 ++ leBytes c.1.toNat 4
  ++ leBytes (if c.2.2.1 = 0 then 0 else (c.2.2.2.getD k 0#32).toNat) 4

/-- SPREAD_CTL to every member, of the slots whose occupant changes (R231). -/
def State.sendControl (s : State) : State :=
  let cs := s.spreadChanges
  if cs.isEmpty then s
  else
    let kept := s.att.announced.filter fun a => !(cs.any fun c => c.1 == a.1)
    let s1 := s.modAtt fun a => { a with announced := kept ++ cs.filter fun c => c.2.2.1 != 1 }
    s.members.foldl (fun s m =>
      s.sendMessage 0x0101 m.2 (leBytes (s.dlap (s.lap + 1)) 8 ++ cs.flatMap (changeBytes m.1))) s1

/-- The plan completes (R125 event 4, R143). -/
def State.planDone (s : State) : State :=
  let s1 := (s.put Fld.LAP_NEXT_STRETCH_US s.plan.stretchNext).put Fld.LAP_NEXT_VALID 1
  let s2 := if 0 < s.plan.stretchNext then s1.raise Fld.LAP_EVT_STRETCH else s1
  s2.showPlan.proposeStretch.sendControl

/-- PLAN_COMPLETE (R125): once, after the cutoff of the lap. -/
def execPlanComplete (s : State) : Host.Outcome State Fault Refusal :=
  .next (if s.running ∧ !s.halted ∧ s.plan.cutoffDone ∧ !s.flag Fld.LAP_NEXT_VALID then s.planDone else s)

/-! ### What the lap that ends leaves in the per-lap registers (R65-R67, R106, R234, R334, R402) -/

/-- Length of the lap that ends in µs: L, the planned stretch and the pauses that moved its boundary (R124, R144). -/
def State.lapUs (s : State) : Nat := s.lapMs * 1000 + s.get Fld.LAP_STS_STRETCH_US

/-- An entry of the quantiser counts is over (R65). -/
def State.qntOver (s : State) (k : Nat) (c : Nat × Nat × Nat × Nat) : Bool :=
  let a := s.get (Fld.LAP_QNT_TH_LAP_LAP_SAT.sel k)
  let z := s.get (Fld.LAP_QNT_TH_LAP_LAP_ZERO.sel k)
  (a != 0x7FFF && decide (a < c.2.2.1)) || (z != 0x7FFF && decide (z < c.2.2.2))

/-- The LAP_QNT registers of the lap that ends (R65). -/
def State.closeQnt (s : State) : State :=
  let l := s.fab.qnt.entries.filter fun e => s.qntOver e.1 e.2
  let s1 := (s.put Fld.LAP_QNT_LAPNUM_LAP s.lap).put Fld.LAP_QNT_HOTSUM_COUNT (min 16383 l.length)
  let s2 := match l with
    | [] => s1
    | e :: _ =>
      (((s1.put Fld.LAP_QNT_HOTSUM_FIRST_SLOT (e.1 / 2048)).put Fld.LAP_QNT_HOTSUM_FIRST_LAYER (e.1 / 8 % 256)).put
        Fld.LAP_QNT_HOTSUM_FIRST_POINT (e.1 % 8)).put Fld.LAP_QNT_FIRST_BIB_BIB (s.fab.qntFirst.getD e.1 0#32).toNat
        |>.raise Fld.LAP_QNT_HOTSUM_PEND
  s2.modFab fun f => { f with qntLast := f.qnt, qnt := .empty, qntFirst := .empty }

/-- ARK_OTQ_HOT of die `d` (R66): its over tiles, ascending. -/
def State.closeOtq (s : State) (d : Nat) : State :=
  let lim := s.get (Fld.ARK_OTQ_TH_OT_LAP.die d)
  let hot := (s.fab.tiles.entries.filter fun e => e.1 / 8448 == d && decide (lim < e.2.hotFirings)).map fun e => e.1 % 8448
  let s1 := s.put (Fld.ARK_OTQ_HOT_COUNT.die d) hot.length
  match hot with
  | [] => s1
  | t :: _ => (s1.put (Fld.ARK_OTQ_HOT_FIRST_TILE.die d) t).raise (Fld.ARK_OTQ_HOT_PEND.die d)

/-- Planned MACs of a mogul unit in a lap (R87). -/
def State.unitMacs (s : State) (u : Nat) : Nat :=
  match s.bon.image with
  | some m => ((m.mogulJobs.filter fun j => j.unit == u).map fun j => s.jobMacs j).sum
  | none => 0

/-- The mogul path's per-lap registers (R88, R94, R106): a unit does 16,384 MACs in a conversion slot. -/
def State.closeMogul (s : State) : State :=
  let n := s.fab.poolLap
  let th := s.get Fld.LAP_MOG_POOL_TH_POOL_TH
  let s1 := (s.put Fld.LAP_MOG_LAPNUM_LAP s.lap).put Fld.LAP_MOG_POOL_LAP_COUNT (min 0xFFFFFFFF n)
  let s2 := if th ≠ 0xFFFFFFFF ∧ th < n then s1.raise Fld.LAP_MOG_EVT_POOL_HOT else s1
  (List.range 32).foldl (fun s u =>
    s.put (Fld.LAP_MOG_USTS_LOAD.sel u) (min 1000 (s.unitMacs u * 1000 / (s.lapUs * 200 * 16384)))) s2

/-- The attention pipeline's per-lap registers (R234); a lane runs 1,600 cycles in a µs. -/
def State.closeAtt (s : State) : State :=
  let n := s.att.replayLane + s.att.replaySpread
  let th := s.get Fld.ATT_REPLAY_TH_TH
  let s1 := ((s.put Fld.ATT_LAPNUM_LAP s.lap).put Fld.ATT_REPLAY_LAP_LANE (min 0xFFFF s.att.replayLane)).put
    Fld.ATT_REPLAY_LAP_SPREAD (min 0xFFFF s.att.replaySpread)
  let s2 := if th ≠ 0xFFFF ∧ th < n then s1.raise Fld.ATT_EVT_REPLAY else s1
  (List.range 64).foldl (fun s k =>
    s.put (Fld.ATT_LSTS_BUSY.sel k) (min 1000 (s.att.busy.getD k 0 * 1000 / (s.lapUs * 1600)))) s2

/-- The ledger's registers of the lap that ends (R327, R334): E_m with the time since the last pause point. -/
def State.closeLedger (s : State) : State :=
  let s0 := s.measurePoint (s.lapUs * 1000)
  let l := s0.ledger
  let uj := l.meas / 1000000000
  let s1 := ((s0.wr64 Reg.LAP_E_MEAS uj).wr64 Reg.LAP_E_PLAN (l.planned / 256)).wr64 Reg.LAP_E_CREDIT (l.credit / 1000000000)
  ((((s1.put Fld.LAP_E_LAPNUM_LAP s.lap).put Fld.LAP_E_PAUSE_COUNT l.pauses).put Fld.LAP_E_PAUSE_US l.pauseUs).count
    Reg.LAP_E_TOTAL uj)

/-- A tile at the end of a lap: nothing is open or held, its hot firings become those of the last lap. -/
def Tile.newLap (x : Tile) : Tile :=
  { x with accums := .empty, badWaves := [], lastSatHot := min 0xFFFF x.satHot, lastZeroHot := min 0xFFFF x.zeroHot
           satHot := 0, zeroHot := 0, hotFirings := 0 }

/-- The vectors of the lap that ends are gone; nothing is in flight (R39). -/
def State.clearLap (s : State) : State :=
  let s1 := s.modFab fun f =>
    { f with tiles := f.tiles.map fun _ x => x.newLap, arrays := f.arrays.map fun _ x => { x with held := none }
             messages := .empty, blocks := .empty, vectors := .empty, reductions := .empty, invalid := [], zeroed := []
             poolUsed := .empty, tokenUsed := .empty, poolLap := 0 }
  (s1.modAtt fun a =>
    { a with lanes := .empty, ready := [], segments := .empty, formed := [], merged := [], parts := []
             replayLane := 0, replaySpread := 0, busy := .empty }).modEvt fun e => { e with claims := .empty }

/-- The memory controllers' counts of the lap (R400, blocks 28 and 29): bytes read and written, corrected errors, for each hub. The
sizes of the accesses below a page, and of refreshes and scrubs, have no rule: free values. Log entry 57. -/
def State.countMemory (s : State) : State :=
  [28, 29].foldl (fun s b => [0x10, 0x11, 0x12].foldl (fun s c => [Hub.he, Hub.hw].foldl (fun s h =>
    (s.tally b c (Config.measured s.drawn).toNat (some h)).draw) s) s) s

/-- What the end of lap `s.lap` leaves behind. The lap's SYS cycles are counted with it, its end with the lap that follows. -/
def State.closeLap (s : State) : State :=
  let s1 := (((s.closeQnt).closeMogul).closeAtt).closeLedger
  let s2 := (List.range 16).foldl (fun s d => s.closeOtq d) s1
  let s3 := (s2.endInterval).showHottest
  let cycles := s.lapUs * 200
  let s4 := ((List.range 30).foldl (fun s b => s.tally b 0x01 cycles none) s3.countMemory).snapshot s.lap
  ((List.range 30).foldl (fun s b => s.tally b 0x02 1 none) s4).clearLap

/-! ### Bibs at the boundary (R126, R127, R134, R153, R162, R224, R227) -/

/-- SCORE of every block decays (R227). -/
def State.decayScores (s : State) : State :=
  let d := s.get Fld.ATT_CFG_DECAY
  s.setBibs (s.bibs.map fun _ b =>
    if b.state = .decoding then { b with blocks := b.blocks.map fun k => { k with score := k.score - k.score / 2 ^ d } } else b)

/-- A transition that waited for a token that has not come is applied (R155). -/
def State.partLate (s : State) (id : Word) : State := if s.names id then s.applyPend (idIndex id) else s

/-- A fit's step that ran in the lap waits for its update; the fit leaves its slot (R247, R249). -/
def State.closeStep (s : State) (i w : Nat) : State :=
  let b := s.bib i
  let s1 := s.modBib i fun b => { b with towSlot := none, chunk := 0, replay := false }
  match (s.waxAt w).fit with
  | some f => if b.towSlot.isSome ∧ !b.replay then s1.putWax w { (s1.waxAt w) with fit := some { f with ran := true } } else s1
  | none => s1

/-- The chunk of entry `i` that ran in the lap is stored (R193, R224): not one marked for replay, nor a last chunk whose token has
not been sampled. -/
def State.closeChunk (s : State) (i : Nat) : State :=
  let b := s.bib i
  if b.state ≠ .towing ∨ b.chunk = 0 ∨ b.replay ∨ (b.kind = .normal ∧ b.inputs.length ≤ b.chunk) then s
  else (s.commitPositions i b.chunk).modBib i fun b => { b with inputs := b.inputs.drop b.chunk, chunk := 0 }

/-- Tow slots withheld after the plan (R104, R127). -/
def State.lateSlots (s : State) : List Nat :=
  s.plan.lateWithheld ++ (if s.plan.fullHe then List.range 16 else []) ++ (if s.plan.fullHw then List.range' 16 16 else [])

/-- The slot of a TOWING bib in the lap that begins (R127, R134, R136): lost when withheld or when the last chunk has run; the next
chunk of the plan; the same chunk again when it was marked for replay after the cutoff. -/
def State.nextChunk (s : State) (late : List Nat) (i : Nat) : State :=
  let b := s.bib i
  let leave := s.modBib i fun b => { b.noSlots with replay := false }
  match b.towSlot with
  | none => s.modBib i fun b => { b with replay := false }
  | some t =>
    if b.prefillDone ∨ t ∈ late ∨ t ∈ s.plan.withheld then leave
    else
      match s.plan.grants.find? fun g => g.held && g.bib == s.bibId i && g.slot == t with
      | some g =>
        let c := if b.chunk ≠ 0 ∧ !g.again then b.chunk else g.chunk
        s.modBib i fun b => { b with chunk := min c b.inputs.length, replay := false }
      | none =>
        if b.chunk ≠ 0 ∧ !(s.plan.grants.any fun g => g.kind != .decode && g.slot == t) then
          s.modBib i fun b => { b with replay := false }
        else leave

/-- Entry `i` as the lap that ends leaves it. -/
def State.closeBib (s : State) (late : List Nat) (i : Nat) : State :=
  match (s.bib i).kind, (s.bib i).state with
  | .fit w, .towing => s.closeStep i w
  | _, .towing => (s.closeChunk i).nextChunk late i
  | _, _ => s.modBib i fun b => { b with replay := false }

/-- The bib still meets what R153 sets for the transition that the grant causes (R162). -/
def Bib.takes (b : Bib) (k : SlotKind) : Bool :=
  match k with
  | .decode => b.prefillDone && (b.state == .towing || (b.state == .lodged && b.restored))
  | .tow => !b.prefillDone && (b.state == .admitted || b.state == .towing)
  | .fit => b.state == .admitted || b.state == .towing

/-- GRANT_DECODE (R153); the first token leaves with the bib's TOWING (R179). -/
def State.enterDecoding (s : State) (i slot : Nat) : State :=
  let s1 := ((s.flushTokens i).transition i .decoding .grantDecode).modBib i fun b =>
    { b with decSlot := some slot, towSlot := none, chunk := 0, restored := false }
  s1.eventRecord i 0xFFFF#16 stOk false 0

/-- GRANT_TOW: the first tow grant takes the bib to TOWING (R153). -/
def State.enterTowing (s : State) (i : Nat) : State :=
  if (s.bib i).state = .admitted then (s.transition i .towing .grantTow).eventRecord i 0xFFFF#16 stOk false 0 else s

/-- The positions of a fit's step are the input of its bib (R248). -/
def State.loadStep (s : State) (i : Nat) : State :=
  match (s.bib i).kind with
  | .fit w =>
    match (s.waxAt w).fit with
    | some f =>
      let l := f.stepTokens (f.done + f.ran.toNat)
      s.modBib i fun b => { b with inputs := l, chunk := l.length }
    | none => s
  | _ => s

/-- A grant takes effect (R127, R162): a stale one leaves its slot empty; one into a slot withheld late is dropped, and a first tow
grant takes its bib to TOWING all the same. -/
def State.applyGrant (s : State) (late : List Nat) (g : Grant) : State :=
  let i := idIndex g.bib
  if g.held then s
  else if !s.names g.bib ∨ g.stale ∨ !(s.bib i).takes g.kind then s.staleInt
  else if g.kind = .decode then s.enterDecoding i g.slot
  else if g.slot ∈ late then s.enterTowing i
  else ((s.enterTowing i).modBib i fun b => { b with towSlot := some g.slot, chunk := g.chunk }).loadStep i

/-- A bib that the plan lodges moves to LODGED, unless it has left its slot (R142, R153). -/
def State.applyLodge (s : State) (id : Word) : State :=
  let i := idIndex id
  if s.names id ∧ ((s.bib i).state = .towing ∨ (s.bib i).state = .decoding) then s.enterLodged i .planLodge else s

/-- The sets of the bibs that hold slots are used in lap `n` (R242). -/
def State.useSets (s : State) (n : Nat) : State :=
  s.liveBibs.foldl (fun s i =>
    let b := s.bib i
    match b.wax with
    | some w =>
      if (b.decSlot.isSome ∨ b.towSlot.isSome) ∧ (s.waxAt w).state ≠ .absent then s.putWax w { (s.waxAt w) with lastUse := n } else s
    | none => s) s

/-- The request table at the boundary that begins the planned lap. -/
def State.bibBoundary (s : State) : State :=
  let late := s.lateSlots
  let s1 := (s.plan.parting.foldl (fun s id => s.partLate id) s).decayScores
  let s2 := s1.liveBibs.foldl (fun s i => s.dropLeaving i) s1
  let s3 := s2.setBibs (s2.bibs.map fun _ b => b.age)
  let s4 := (s3.liveBibs.foldl (fun s i => s.closeBib late i) s3).retryRestores
  let s5 := s4.plan.lodges.foldl (fun s id => s.applyLodge id) s4
  s5.plan.grants.foldl (fun s g => s.applyGrant late g) s5

/-! ### The boundary (R125) -/

/-- LAP_STS, LAP_NEXT, LAP_TIME and the planner of a lap that begins at global time `g` with its planned stretch (R143, R147). -/
def State.openLap (s : State) (g : Nat) : State :=
  let n := s.plan.stretchNext
  let s1 := ((((s.put Fld.LAP_STS_STRETCH_US n).putB Fld.LAP_STS_PLANNED (decide (0 < n))).putB Fld.LAP_STS_LODGED
    (!s.plan.lodges.isEmpty)).put Fld.LAP_STS_SNOWPLOUGH 0).wr Reg.LAP_NEXT 0#32
  let s2 := ((s1.wr64 Reg.LAP_TIME g).wr64 Reg.LNK_GTIME g).count Reg.LAP_STRETCH_TOT n
  let gone := match s.plan.proposed with | some (t, _) => decide (t ≤ s.dlap s.lap) | none => true
  let s3 := (s2.tally 16 0x12 n none).modPlan fun p =>
    { p with grants := [], lodges := [], parting := [], withheld := [], lateWithheld := [], stretchNext := 0, stretchNow := n
             made := (0, 0), issued := [], sampled := [], cutoffDone := false, composed := false
             proposed := if gone then none else p.proposed }
  (s3.newLedger).showLap s.lap

/-- The module's checkpoints that the lap that ends has not completed are abandoned; those of the lap that begins are due (R301). -/
def State.ckptBoundary (s : State) : State :=
  let s1 := s.pat.ckpts.keys.foldl (fun s i => s.abandonCkpt i) s
  s1.dueCkpts s1.lap false

/-- The telemetry map with the power of the lap that has ended, `us` long (R397). -/
def State.copyTelemetry (s : State) (us : Nat) : State := s.copyMap (leBytes (s.rd64 Reg.LAP_E_MEAS / us) 4)

/-- A request for IDLE at the boundary (R357, R358): carried out, or refused when its condition no longer holds. -/
def State.idleBoundary (s : State) : State :=
  if !s.plan.idleRequested then s
  else if s.mayIdle then s.enterIdle
  else (s.modPlan fun p => { p with idleRequested := false }).endRequest 3

/-- The boundary that ends lap `s.lap` and begins the next at global time `g` (R120, R125). -/
def State.boundary (s : State) (g : Nat) : State :=
  let us := s.lapUs
  let s1 := (s.closeLap.wr64 Reg.LAP_NUM (s.lap + 1)).bibBoundary
  let s2 := s1.openLap g
  let s3 := ((s2.commitBanks s2.lap g).enterSpares).fencePlanned.startSpares
  let s4 := (s3.gateBoundary).fixBoundary
  let s5 := s4.wax.keys.foldl (fun s w => s.waxBoundary w) s4
  let s6 := ((s5.applyChanges).useSets s5.lap).ckptBoundary
  let s7 := ((s6.countStates s6.lap).modBon fun b => { b with flushLaps := b.flushLaps + 1 }).copyTelemetry us
  (s7.idleBoundary).applyGops s7.lap

/-- The module waits HELD for the domain's next boundary (R284). -/
def State.holdRealign (s : State) : State :=
  ((s.setDies 3).put Fld.LAP_STS_RUNNING 0).modLnk fun l => { l with realign := false, holding := true }

/-- LAP_BOUNDARY (R125), or the beginning of a realignment hold in its place (R284). -/
def execLapBoundary (gtime : Nat) (s : State) : Host.Outcome State Fault Refusal :=
  if !s.running ∨ s.halted then .next s
  else .next (if s.lnk.realign ∧ s.inDomain then s.holdRealign else s.boundary gtime)

/-! ### Bibs that leave the table (R153, R161) -/

/-- Entry `i` enters FREE at a boundary, with its last record. -/
def State.leave (s : State) (i : Nat) (c : Cause) (status : Byte) : State :=
  let s1 := s.finalRecord i c status
  match (s.bib i).state with
  | .paused => (s1.release i).enterFree i
  | _ => s1.enterFree i

/-- TTL_EXPIRED (R161). -/
def execTtlExpired (i : Fin 65536) (s : State) : Host.Outcome State Fault Refusal :=
  .next (if (s.bib i).state = .paused ∧ s.leavesTable (s.bib i) then s.leave i .ttlExpired stExpired else s)

/-- FAULT_HOLD (R153). -/
def execFaultHold (i : Fin 65536) (s : State) : Host.Outcome State Fault Refusal :=
  .next (if (s.bib i).state = .faulted ∧ s.leavesTable (s.bib i) then s.leave i .faultHold stOk else s)

/-- RELEASED (R153). -/
def execReleased (i : Fin 65536) (s : State) : Host.Outcome State Fault Refusal :=
  .next (if (s.bib i).state = .closing ∧ s.leavesTable (s.bib i) then s.leave i .released stOk else s)

/-! ### Lap 0 and realignment in a domain (R283, R284) -/

/-- The module is READY and has not begun lap 0. -/
def State.awaitsLap0 (s : State) : Bool := s.stage == 11 && s.inDomain && !s.pwr.begun && !s.halted

/-- Lap 0 begins at global time `g`, domain lap `dlap`. -/
def State.firstLap (s : State) (dlap g : Nat) : State :=
  ((s.wr64 Reg.LNK_DLAP_OFS dlap).wr64 Reg.LAP_NUM 0).beginRun g

/-- SYNC_LOCKED (R284): the domain boundary after the module is LOCKED. -/
def execSyncLocked (dlap : Nat) (gtime : Nat) (s : State) : Host.Outcome State Fault Refusal :=
  .next (if s.awaitsLap0 ∧ s.flag Fld.LNK_SYNC_LOCKED then s.firstLap dlap gtime else s)

/-- NO_DOMAIN_PEER (R284). -/
def execNoDomainPeer (gtime : Nat) (s : State) : Host.Outcome State Fault Refusal :=
  .next (if s.awaitsLap0 ∧ !s.flag Fld.LNK_SYNC_LOCKED then s.firstLap 0 gtime else s)

/-- LNK_DLAP_OFS such that lap `n` is domain lap `dlap`. -/
def State.alignTo (s : State) (dlap n : Nat) : State := s.wr64 Reg.LNK_DLAP_OFS (dlap + 2 ^ 64 - n % 2 ^ 64)

/-- REALIGN_HOLD_END (R284): the domain's boundary of lap `dlap`: the postponed boundary, or the first of a run after IDLE. -/
def execRealignHoldEnd (dlap : Nat) (gtime : Nat) (s : State) : Host.Outcome State Fault Refusal :=
  if !s.lnk.holding ∨ s.halted then .next s
  else
    let s1 := s.modLnk fun l => { l with holding := false }
    if s.pwr.mode = .idleExit then .next ((s1.alignTo dlap s.lap).beginRun gtime)
    else .next ((((s1.alignTo dlap (s.lap + 1)).setDies 2).put Fld.LAP_STS_RUNNING 1).boundary gtime)

end Sys2Proof.Machine
end

