-- ==== Sys2Proof/Machine/Access.lean ====
section
/-!
DEFINITION. Access to BAR0 (R4-R7, R168, R184, R394, R423-R426): writes field by field, the registers that show structured
state, reads with the holding registers of R5, and the copy of a request table entry (R166).
-/

namespace Sys2Proof.Machine

/-! ### Decoding of an offset -/

/-- A write that is answered as a violation when the host makes it (R184). -/
def State.badWrite (s : State) (req sub off : Nat) : State := if req = hostReq then s.violation sub 0 off 0#32 else s

/-- The offset lies in the MSI-X table (R168): 4,096 entries of 16 bytes. -/
def inMsixTable (off : Nat) : Bool := decide (0x80000 ≤ off) && decide (off < 0x90000)

/-- The offset lies in the MSI-X pending-bit array (R168): 4,096 bits. -/
def inMsixPending (off : Nat) : Bool := decide (0x90000 ≤ off) && decide (off < 0x90200)

/-- Element `i` of a register array at `off`. -/
def elementOf (base stride off : Nat) : Nat := (off - base) / stride

/-- The offset is one of `n` registers from `base` on, `stride` apart. -/
def within (base n stride off : Nat) : Bool := decide (base ≤ off) && decide (off < base + n * stride)

/-! ### Registers that show structured state -/

/-- LAP_QNT counts of the selected entry in the last lap (R67). -/
def State.qntShown (s : State) : Nat × Nat × Nat × Nat := s.fab.qntLast.getD (s.selection .qnt 0) (0, 0, 0, 0)

/-- LAP_QNT_HOT of the selected entry (R65, R67). -/
def State.qntHot (s : State) : Word :=
  let c := s.qntShown
  let w := decide (c ≠ (0, 0, 0, 0)) && s.qntOver (s.selection .qnt 0) c
  BitVec.ofNat 32 (w.toNat * 2 ^ 31 + min 0x7FFF c.2.2.1 * 2 ^ 16 + min 0x7FFF c.2.2.2)

/-- The pool that KVM_PSEL selects. -/
def State.selectedPool (s : State) : Hub × Bool := (hubOf (s.get Fld.KVM_PSEL_HUB), s.flag Fld.KVM_PSEL_TIER)

/-- KVM_POOL_FREE and KVM_POOL_RETIRED (R213, R214): a retired page that is still in use is not counted as retired. -/
def State.retiredPages (s : State) : Nat :=
  let p := s.kvm.pool s.selectedPool.1 s.selectedPool.2
  (p.retired.filter fun x => !decide (x ∈ p.used)).length

/-- ARK_TILE_STATE of the selected tile of die `d` (R43). -/
def State.tileStateWord (s : State) (d : Nat) : Word :=
  let t := s.get (Fld.ARK_TSEL_TILE.die d)
  let x := s.tile d t
  BitVec.ofNat 32 (x.replaces.getD t * 2 ^ 16 + t / 33 * 2 ^ 8 + x.merged.toNat * 2 ^ 7 + x.range * 2 ^ 4 + tileCode x.state)

/-- The selected array of die `d`. -/
def State.selectedArr (s : State) (d : Nat) : Arr := s.arr d (s.get (Fld.ARK_TSEL_TILE.die d)) (s.get (Fld.ARK_ASEL_ARRAY.die d))

/-- A byte of ARK_COLMAP: the entry valid, its column. -/
def mapByte (m : Option Nat) : Nat := match m with | some c => 128 + c | none => 0

/-- ARK_COLMAP (R25, R43). -/
def State.colMapWord (s : State) (d : Nat) : Word :=
  let m := (s.selectedArr d).map
  BitVec.ofNat 32 ((List.range 4).foldl (fun w i => w + mapByte (m.getD i none) * 2 ^ (8 * i)) 0)

/-- A set temperature as GRM_SETT shows it. -/
def settHalf (l : List Int) (i : Nat) : Nat :=
  match l[i]? with
  | some t => (BitVec.ofInt 16 t).toNat
  | none => 0xFFFF

/-- The bytes of the selected entry of the log of operations (R286, LNK_GLOG). -/
def State.glogBytes (s : State) : List Byte :=
  match s.lnk.log[s.get Fld.LNK_GLOG_SEL_ENTRY]? with
  | some x => gopBytes x.gop x.flags
  | none => []

/-- THM_SSTS of the selected sensor (R317-R319). -/
def State.sstsWord (s : State) : Word :=
  let x := s.hkc (s.get Fld.THM_SSEL_DIE) (s.get Fld.THM_SSEL_INPUT)
  setBits (setBits (s.rd (keyAt (s.selection .sensor 0) Reg.THM_SSTS)) 30 1 x.broken.toNat) 28 2 x.level

/-- The levels of the 32 sources of word `w` (EVT_LEVEL). -/
def State.levelWord (s : State) (w : Nat) : Word :=
  BitVec.ofNat 32 ((List.range 32).foldl (fun n i => n + (s.level (32 * w + i)).toNat * 2 ^ i) 0)

/-- A word of a 64-bit value: the low one for `hi` false. -/
def half (n : Nat) (hi : Bool) : Word := BitVec.ofNat 32 (if hi then n / 2 ^ 32 else n)

/-- The pending bits of the 32 vectors of word `w` (R168, R182). -/
def State.pendingWord (s : State) (w : Nat) : Word :=
  BitVec.ofNat 32 ((List.range 32).foldl (fun n i => n + s.get (Fld.QP_VSTS_PENDING.sel (32 * w + i)) * 2 ^ i) 0)

/-- The registers of the LAP, HKC, THM and EVT windows that show structured state. -/
def State.viewLap (s : State) (off : Nat) : Option Word :=
  if within Reg.EVT_TSTS 6 4 off then
    let t := elementOf Reg.EVT_TSTS 4 off
    some (setBits (s.rd off) 30 1 (s.idleTarget t).toNat)
  else if within Reg.EVT_LEVEL 48 4 off then some (s.levelWord (elementOf Reg.EVT_LEVEL 4 off))
  else if off = Reg.EVT_HOLD then some (setBits (s.rd off) 30 1 (decide (hostReq ∈ s.evt.expired)).toNat)
  else if off = Reg.THM_SSTS then some s.sstsWord
  else if off = Reg.LAP_QNT_SAT then some (BitVec.ofNat 32 (s.qntShown).1)
  else if off = Reg.LAP_QNT_ZERO then some (BitVec.ofNat 32 (s.qntShown).2.1)
  else if off = Reg.LAP_QNT_HOT then some s.qntHot
  else if off = Reg.LAP_ESTS then some (setBits (s.rd off) 21 11 (s.pEff100 / 100))
  else none

/-- Those of the QP, KVM, WAX, LDR, LNK, GRM and PMC windows. -/
def State.viewHub (s : State) (off : Nat) : Option Word :=
  let p := s.selectedPool
  let k := s.selection .counter 0
  if off = Reg.QP_BACKLOG then some (BitVec.ofNat 32 (s.qp (s.get Fld.QP_SEL_QP)).backlog.length)
  else if off = Reg.KVM_POOL_FREE then some (BitVec.ofNat 32 (s.poolFree p.1 p.2))
  else if off = Reg.KVM_POOL_RETIRED then some (BitVec.ofNat 32 s.retiredPages)
  else if (off = Reg.KVM_EVICT_LOW ∨ off = Reg.KVM_EVICT_HIGH) ∧ p.2 then some 0#32
  else if off = Reg.KVM_TUSE then some (BitVec.ofNat 32 (s.tenantUse (s.get Fld.KVM_TSEL_TENANT)))
  else if off = Reg.WAX_USE then some (BitVec.ofNat 32 ((s.waxCopies true).length * 2 ^ 15 + (s.waxCopies false).length))
  else if off = Reg.WAX_HPAGES_FREE then some (BitVec.ofNat 32 (s.waxFree false))
  else if off = Reg.WAX_LPAGES_FREE then some (BitVec.ofNat 32 (s.waxFree true))
  else if off = Reg.LDR_CTL then some (setBits (s.rd off) 31 1 s.ldr.op.isSome.toNat)
  else if within Reg.LDR_SLOT_DIGEST 12 4 off then
    let m := s.get Fld.LDR_SSEL_SLOT
    let d := if s.slotState m = 0 then 0#384 else (s.ldr.digests.get? m).getD 0#384
    some (BitVec.ofNat 32 (d.toNat / 2 ^ (32 * elementOf Reg.LDR_SLOT_DIGEST 4 off)))
  else if within Reg.LNK_GLOG 16 4 off then some (wordOf s.glogBytes (elementOf Reg.LNK_GLOG 4 off))
  else if within Reg.GRM_SETT 4 4 off then
    let l := s.temps (s.get Fld.GRM_TSEL_DIE)
    let i := elementOf Reg.GRM_SETT 4 off
    some (BitVec.ofNat 32 (settHalf l (2 * i + 1) * 2 ^ 16 + settHalf l (2 * i)))
  else if within Reg.PMC_LIVE 2 4 off then some (half (s.pmc.live.getD k 0) (decide (off ≠ Reg.PMC_LIVE)))
  else if within Reg.PMC_SNAP 2 4 off then some (half (s.pmc.image.getD k 0) (decide (off ≠ Reg.PMC_SNAP)))
  else if within Reg.PMC_GSNAP 2 4 off then some (half (s.pmc.bank.getD k 0) (decide (off ≠ Reg.PMC_GSNAP)))
  else if off = Reg.PMC_OVF then some (BitVec.ofNat 32 (s.pmc.ovf.getD (s.get Fld.PMC_SEL_BLOCK) 0))
  else if off = Reg.PMC_EVT then some (setBits (s.rd off) 0 1 s.pmc.ovfEvt.toNat)
  else none

/-- Those of the window of Arkor die `d`, by the offset that they have in the window of die 0. -/
def State.viewArk (s : State) (d off : Nat) : Option Word :=
  let x := s.tile d (s.get (Fld.ARK_TSEL_TILE.die d))
  let a := s.selectedArr d
  if off = Reg.ARK_TILE_STATE then some (s.tileStateWord d)
  else if off = Reg.ARK_COLMAP then some (s.colMapWord d)
  else if off = Reg.ARK_OTQ_TILE then some (BitVec.ofNat 32 (x.lastSatHot * 2 ^ 16 + x.lastZeroHot))
  else if off = Reg.ARK_GAIN then some (BitVec.ofNat 32 (a.oor.toNat * 2 ^ 31 + min 0xFFF a.age * 2 ^ 16 + a.gain % 2 ^ 16))
  else if off = Reg.ARK_RCELL then some (BitVec.ofNat 32 a.rcells.length)
  else none

/-- The registers that show structured state. -/
def State.view (s : State) (off : Nat) : Option Word :=
  if off / 0x100000 < 6 then s.viewLap off
  else if off / 0x100000 < 16 then s.viewHub off
  else if off / 0x100000 < 32 then s.viewArk (offDie off) (foldDie off)
  else none

/-! ### Reading -/

/-- What a word of BAR0 reads as now: 0 where nothing is decoded, and for WO bits (R6, R394, R423). -/
def State.readWord (s : State) (off : Nat) : Word :=
  if s.hidden off then 0#32
  else if inMsixTable off then
    match s.rf.regs.get? off with
    | some v => v
    | none => if off % 16 = 12 then 1#32 else 0#32
  else if inMsixPending off then s.pendingWord ((off - 0x90000) / 4)
  else
    match findRow off with
    | none => 0#32
    | some r =>
      let v := (s.view off).getD (s.rd (s.regKey off))
      v &&& BitVec.ofNat 32 (accessMask (fun a => a != .wo && a != .rsv) (r.wordBit off) r.fields)

/-- The holding register of a low word is set or emptied (R5). -/
def State.setLatch (s : State) (off : Nat) (v : Option Word) : State :=
  s.modRf fun r => { r with latch := r.latch.set off v }

/-- Which word of a 64-bit register the offset is: true for the high one; none for a register of one word (R5). -/
def wordOf64 (off : Nat) : Option Bool :=
  match findRow off with
  | some r => if r.words = 2 then some (r.wordBit off != 0) else none
  | none => none

/-- A host read of `off` (R4, R5, R373): the low word of a 64-bit register latches the high one, which the next read of the high
word returns; a read of EVT_CLAIM claims. -/
def State.readHost (s : State) (off : Nat) : State :=
  if off % 4 ≠ 0 then (s.violation 0x01 0 off 0#32).send (.read off 0#32)
  else if !s.hidden off ∧ within Reg.EVT_CLAIM 6 8 off ∧ off % 8 = 0 then s.claim hostReq (elementOf Reg.EVT_CLAIM 8 off)
  else
    match if s.hidden off then none else wordOf64 off with
    | some false => (s.setLatch off (some (s.readWord (off + 4)))).send (.read off (s.readWord off))
    | some true =>
      match s.rf.latch.get? (off - 4) with
      | some v => (s.setLatch (off - 4) none).send (.read off v)
      | none => s.send (.read off (s.readWord off))
    | none => s.send (.read off (s.readWord off))

/-- READ_LOW_WORD_LATCH (R5). -/
def execReadLowWordLatch (off : BitVec 26) (s : State) : Host.Outcome State Fault Refusal := .next (s.readHost off.toNat)

/-! ### The request table window (R166) -/

/-- BIB_SEL written: entry INDEX is copied whole into BIB_ENT0 to BIB_ENT31 (R166). -/
def State.selectBib (s : State) (v : Word) : State :=
  let i := wordBits v 0 16
  let e := (s.bib i).bytes i
  let s1 := (s.put Fld.BIB_SEL_INDEX i).put Fld.BIB_SNAP_LAP_LAP s.lap
  (List.range 32).foldl (fun t j => t.wr (wordAt Reg.BIB_ENT 32 j) (wordOf e j)) s1

/-- BIB_SEL (R166). -/
def execBibSel (v : Word) (s : State) : Host.Outcome State Fault Refusal :=
  .next (if s.hidden Reg.BIB_SEL then s.undecoded Reg.BIB_SEL else s.selectBib v)

/-! ### Writing (R6, R184) -/

/-- The fields that refuse some values (R184, subcode 0x03): register, lowest bit, width, the values refused. -/
def fieldLimits : List (Nat × Nat × Nat × (Nat → Bool)) :=
  [(Reg.CLK_DSEL, 0, 6, fun n => decide (60 ≤ n)),
   (Reg.EVT_TCFG, 16, 16, fun n => n == 0),
   (Reg.EVT_TCFG, 0, 8, fun n => n == 0),
   (Reg.EVT_WAKE, 0, 11, fun n => decide (sources ≤ n)),
   (Reg.LAP_QNT_SEL, 0, 3, fun n => decide (5 ≤ n)),
   (Reg.KVM_TCFG, 0, 16, fun n => decide (n < 64)),
   (Reg.PMC_SEL, 8, 5, fun n => decide (30 ≤ n)),
   (Reg.ARK_TSEL, 0, 14, fun n => decide (8447 < n))]

/-- The refused bits of a write of `v` to the register at `off`, a word of the array at `base`. -/
def refusedBits (base : Nat) (v : Word) : Word :=
  fieldLimits.foldl (fun m l =>
    if l.1 = base ∧ l.2.2.2 (wordBits v l.2.1 l.2.2.1) then m ||| fieldMask l.2.1 l.2.2.1 else m) 0#32

/-- The word at key `k` after a write of `v` (R6): RW bits take it, bits of W1C fields at which it is 1 clear. -/
def writtenWord (old v rw w1c : Word) : Word := (old &&& ~~~ rw &&& ~~~ (v &&& w1c)) ||| (v &&& rw)

/-- A write by access codes alone, with the values that a field refuses left out (R6, R184). -/
def State.writeFields (s : State) (req off : Nat) (r : RegRow) (v : Word) : State :=
  let k := keyAt (s.selection r.sel (offDie off)) off
  let no := refusedBits (foldDie r.off) v
  let rw := BitVec.ofNat 32 (accessMask (· == .rw) (r.wordBit off) r.fields) &&& ~~~ no
  let w1c := BitVec.ofNat 32 (accessMask (· == .w1c) (r.wordBit off) r.fields)
  let s1 := s.wr k (writtenWord (s.rd k) v rw w1c)
  if no = 0#32 then s1 else s1.badWrite req 0x03 off

/-- A write that is taken only where `ok` holds; else the register is unchanged, with a violation of subcode `sub`. -/
def State.writeIf (s : State) (ok : Bool) (req off sub : Nat) (r : RegRow) (v : Word) : State :=
  if ok then s.writeFields req off r v else s.badWrite req sub off

/-- A write of EVT_CTL (R376): MODE is Bonos firmware's. -/
def State.writeEvtCtl (s : State) (req : Nat) (v : Word) : State :=
  let s1 := s.put Fld.EVT_CTL_STORM (wordBits v 8 8)
  if req = 0 then s1.put Fld.EVT_CTL_MODE (wordBits v 0 2) else s1

/-- A write of THM_SSTS and of LAP_EBUDGET takes the energy measured and the time of the lap as they stand. -/
def State.measuredNow (s : State) : Nat × Nat := (s.ledger.meas, s.ledger.elapsed)

/-- HKC_SEL names an input that its die has (R333). -/
def hkcSelOk (v : Word) : Bool :=
  decide (wordBits v 16 5 < 18) && decide (wordBits v 0 6 < if wordBits v 16 5 < 16 then 32 else 40)

/-- THM_SSEL names a sensor (R316, R333). -/
def thmSelOk (v : Word) : Bool := decide (wordBits v 16 5 < 18) && (sensorClass (wordBits v 16 5) (wordBits v 0 6)).isSome

/-- Registers of the EVT window whose write has a rule of its own. -/
def State.writeEvt (s : State) (req off : Nat) (r : RegRow) (v : Word) : State :=
  if off = Reg.EVT_CTL then s.writeEvtCtl req v
  else if off = Reg.EVT_HOLD then s.writeHold req v
  else if within Reg.EVT_CLAIM 6 8 off then s.done req (elementOf Reg.EVT_DONE 8 off) (wordBits v 0 11)
  else if within Reg.EVT_MASK 48 4 off then s.writeSourceWord req false (elementOf Reg.EVT_MASK 4 off) v
  else if within Reg.EVT_PEND 48 4 off then s.writeSourceWord req true (elementOf Reg.EVT_PEND 4 off) v
  else if within Reg.EVT_SRC 1536 4 off then s.writeRoute (elementOf Reg.EVT_SRC 4 off) v
  else s.writeFields req off r v

/-- Registers of the PWR, HKC, THM and LAP windows. -/
def State.writeLap (s : State) (req off : Nat) (r : RegRow) (v : Word) : State :=
  if off = Reg.PWR_CTL then s.writePwrCtl req v
  else if off = Reg.HKC_SEL then s.writeIf (hkcSelOk v) req off 0x03 r v
  else if off = Reg.THM_SSEL then s.writeIf (thmSelOk v) req off 0x03 r v
  else if off = Reg.THM_SSTS then s.writeSsts req v (s.measuredNow).1 (s.measuredNow).2
  else if off = Reg.LAP_EBUDGET then s.writeEbudget req v (s.measuredNow).1 (s.measuredNow).2
  else s.writeFields req off r v

/-- Registers of the BIB, QP, KVM and WAX windows. -/
def State.writeHub (s : State) (req off : Nat) (r : RegRow) (v : Word) : State :=
  if off = Reg.BIB_SEL then s.selectBib v
  else if off = Reg.QP_CFG then s.writeQpCfg v
  else if off = Reg.QP_VCFG then s.writeIf (wordBits v 16 16 != 0 && wordBits v 0 8 != 0) req off 0x06 r v
  else if off = Reg.KVM_EVICT_LOW ∨ off = Reg.KVM_EVICT_HIGH then s.writeIf (!s.flag Fld.KVM_PSEL_TIER) req off 0x03 r v
  else if off = Reg.KVM_QUOTA then s.writeQuota v
  else if off = Reg.WAX_SEL then s.selectWax v
  else s.writeFields req off r v

/-- Registers of the LDR and LNK windows. -/
def State.writeLoad (s : State) (req off : Nat) (r : RegRow) (v : Word) : State :=
  if off = Reg.LDR_CTL then s.writeLdrCtl req v
  else if off = Reg.LDR_PUT then s.writePut ((s.rd (Reg.LDR_PUT + 4)).toNat * 2 ^ 32 + v.toNat)
  else if off = Reg.LDR_PUT + 4 then s.writePut (v.toNat * 2 ^ 32 + (s.rd Reg.LDR_PUT).toNat)
  else if off = Reg.LDR_PROG_W then
    s.writeIf (wordBits v 0 16 != 0 && decide (wordBits v 0 16 ≤ s.get Fld.LDR_PROG_W_MAX)) req off 0x03 r v
  else if off = Reg.LNK_GOP_CTL then s.writeGopCtl v
  else s.writeFields req off r v

/-- Registers of the PAT, GRM and PMC windows. -/
def State.writePat (s : State) (req off : Nat) (r : RegRow) (v : Word) : State :=
  if off = Reg.PAT_ORPHAN then s.writeOrphan v
  else if off = Reg.PAT_TSEL then s.writePatTsel req v
  else if off = Reg.PAT_FPSEL then s.writeFpsel v
  else if off = Reg.PAT_LOG_SEL then s.writeLogSel v
  else if off = Reg.GRM_TSEL then s.writeGrmTsel req v
  else if off = Reg.GRM_CSEL then s.writeGrmCsel v
  else if off = Reg.PMC_CTL then s.writePmcCtl v
  else if off = Reg.PMC_EVSEL then s.writeEvsel v
  else if off = Reg.PMC_OVF then s.writeOvf v
  else if off = Reg.PMC_EVT then s.writePmcEvt v
  else s.writeFields req off r v

/-- A write of a register that has a writable field. -/
def State.writeReg (s : State) (req off : Nat) (r : RegRow) (v : Word) : State :=
  match off / 0x100000 with
  | 3 => s.writeEvt req off r v
  | 2 | 4 | 5 => s.writeLap req off r v
  | 6 | 7 | 8 | 10 => s.writeHub req off r v
  | 11 | 12 => s.writeLoad req off r v
  | 13 | 14 | 15 => s.writePat req off r v
  | _ =>
    if foldDie off = Reg.ARK_TEST_CTL then s.writeTestCtl req (offDie off) v
    else if off = Reg.BON_CMD then s.writeBonCmd v
    else s.writeFields req off r v

/-- Some field of the register is writable (R6). -/
def RegRow.writable (r : RegRow) : Bool := r.fields.any fun f => f.acc != .ro && f.acc != .rsv

/-- A write of `nbytes` bytes at BAR0 offset `off` by requester `req` (R4, R6, R184, R423). -/
def State.writeBar0 (s : State) (req off nbytes : Nat) (v : Word) : State :=
  if nbytes ≠ 4 ∨ off % 4 ≠ 0 then s.badWrite req 0x01 off
  else if (req = hostReq ∧ s.hidden off) ∨ inMsixPending off then s.badWrite req 0x02 off
  else if inMsixTable off then
    if off % 16 = 12 then s.writeMask ((off - 0x80000) / 16) v else s.wr off v
  else
    match findRow off with
    | some r => if r.writable then s.writeReg req off r v else s.badWrite req 0x02 off
    | none => s.badWrite req 0x02 off

/-- REGISTER_WRITE (R6). -/
def execRegisterWrite (req : Requester) (off : BitVec 26) (nbytes : Fin 9) (v : Word) (s : State) :
    Host.Outcome State Fault Refusal :=
  .next (s.writeBar0 req off.toNat nbytes v)

end Sys2Proof.Machine
end

