-- ==== Sys2Proof/Machine/Dispatch.lean ====
section
/-!
DEFINITION. The dispatch of the commands: one arm per row of the opcode table.
-/

namespace Sys2Proof.Machine

/-- The effect of a command on everything but the queue. -/
def exec (i : Instr) (s : State) : Host.Outcome State Fault Refusal :=
  match i with
  | .registerWrite req off nbytes v => Sys2Proof.Machine.execRegisterWrite req off nbytes v s
  | .readLowWordLatch off => Sys2Proof.Machine.execReadLowWordLatch off s
  | .sqTail q off nbytes v => Sys2Proof.Machine.execSqTail q off nbytes v s
  | .cqHead q off nbytes v => Sys2Proof.Machine.execCqHead q off nbytes v s
  | .qpEnable v => Sys2Proof.Machine.execQpEnable v s
  | .open q d prompt => Sys2Proof.Machine.execOpen q d prompt s
  | .append q d prompt => Sys2Proof.Machine.execAppend q d prompt s
  | .pause q d => Sys2Proof.Machine.execPause q d s
  | .resume q d => Sys2Proof.Machine.execResume q d s
  | .close q d => Sys2Proof.Machine.execClose q d s
  | .prefixCreate q d prompt => Sys2Proof.Machine.execPrefixCreate q d prompt s
  | .prefixDrop q d => Sys2Proof.Machine.execPrefixDrop q d s
  | .waxLoad q d data => Sys2Proof.Machine.execWaxLoad q d data s
  | .waxFit q d data => Sys2Proof.Machine.execWaxFit q d data s
  | .query q d => Sys2Proof.Machine.execQuery q d s
  | .fence q d => Sys2Proof.Machine.execFence q d s
  | .fenceComplete q => Sys2Proof.Machine.execFenceComplete q s
  | .descriptorFetchError q => Sys2Proof.Machine.execDescriptorFetchError q s
  | .msixVectorTimer vec inL1 => Sys2Proof.Machine.execMsixVectorTimer vec inL1 s
  | .msixUnmask vec => Sys2Proof.Machine.execMsixUnmask vec s
  | .functionLevelReset => Sys2Proof.Machine.execFunctionLevelReset s
  | .d3hotEntry pmeEn => Sys2Proof.Machine.execD3hotEntry pmeEn s
  | .d0Return busMaster => Sys2Proof.Machine.execD0Return busMaster s
  | .perstNAssert => Sys2Proof.Machine.execPerstNAssert s
  | .perstNDeassert => Sys2Proof.Machine.execPerstNDeassert s
  | .bibSel v => Sys2Proof.Machine.execBibSel v s
  | .grmTsel v => Sys2Proof.Machine.execGrmTsel v s
  | .grmCsel v => Sys2Proof.Machine.execGrmCsel v s
  | .waxSel v => Sys2Proof.Machine.execWaxSel v s
  | .patTsel v => Sys2Proof.Machine.execPatTsel v s
  | .patFpsel v => Sys2Proof.Machine.execPatFpsel v s
  | .patLogSel v => Sys2Proof.Machine.execPatLogSel v s
  | .kvmQuota v => Sys2Proof.Machine.execKvmQuota v s
  | .lapTweight v => Sys2Proof.Machine.execLapTweight v s
  | .lapEbudget v em ns => Sys2Proof.Machine.execLapEbudget v em ns s
  | .thmSstsExcl v em ns => Sys2Proof.Machine.execThmSstsExcl v em ns s
  | .pmcEvsel v => Sys2Proof.Machine.execPmcEvsel v s
  | .pmcNow v => Sys2Proof.Machine.execPmcNow v s
  | .evtClaim req t => Sys2Proof.Machine.execEvtClaim req t s
  | .evtDone req t v => Sys2Proof.Machine.execEvtDone req t v s
  | .evtHoldTake req v => Sys2Proof.Machine.execEvtHoldTake req v s
  | .evtHoldRelease req v => Sys2Proof.Machine.execEvtHoldRelease req v s
  | .evtHoldExpire => Sys2Proof.Machine.execEvtHoldExpire s
  | .evtLineTimer t => Sys2Proof.Machine.execEvtLineTimer t s
  | .evtSourcePending src => Sys2Proof.Machine.execEvtSourcePending src s
  | .arkTestSeparate die v => Sys2Proof.Machine.execArkTestSeparate die v s
  | .arkTestMerged die v => Sys2Proof.Machine.execArkTestMerged die v s
  | .arkTestTransposed die v => Sys2Proof.Machine.execArkTestTransposed die v s
  | .arkTestReference die v => Sys2Proof.Machine.execArkTestReference die v s
  | .arkTestDone die charge => Sys2Proof.Machine.execArkTestDone die charge s
  | .ldrLoad v => Sys2Proof.Machine.execLdrLoad v s
  | .ldrReplace v => Sys2Proof.Machine.execLdrReplace v s
  | .ldrAttach v => Sys2Proof.Machine.execLdrAttach v s
  | .ldrRelease v => Sys2Proof.Machine.execLdrRelease v s
  | .ldrAbort v => Sys2Proof.Machine.execLdrAbort v s
  | .ldrPut v => Sys2Proof.Machine.execLdrPut v s
  | .bar4Write off bytes => Sys2Proof.Machine.execBar4Write off bytes s
  | .ldrSectionVerified => Sys2Proof.Machine.execLdrSectionVerified s
  | .programRoundDone arrays => Sys2Proof.Machine.execProgramRoundDone arrays s
  | .ldrLayerVerified fp => Sys2Proof.Machine.execLdrLayerVerified fp s
  | .ldrOperationDone => Sys2Proof.Machine.execLdrOperationDone s
  | .pwrReqActive => Sys2Proof.Machine.execPwrReqActive s
  | .pwrReqIdle => Sys2Proof.Machine.execPwrReqIdle s
  | .pwrReqSleep => Sys2Proof.Machine.execPwrReqSleep s
  | .idleEntryDone => Sys2Proof.Machine.execIdleEntryDone s
  | .idleExit cause => Sys2Proof.Machine.execIdleExit cause s
  | .idleExitReady gtime => Sys2Proof.Machine.execIdleExitReady gtime s
  | .sleepEntry => Sys2Proof.Machine.execSleepEntry s
  | .sleepAbort source => Sys2Proof.Machine.execSleepAbort source s
  | .pwrWakeTmr => Sys2Proof.Machine.execPwrWakeTmr s
  | .wake source => Sys2Proof.Machine.execWake source s
  | .haltInputChange pin level ticks => Sys2Proof.Machine.execHaltInputChange pin level ticks s
  | .haltDiscrepancy => Sys2Proof.Machine.execHaltDiscrepancy s
  | .haltRelease => Sys2Proof.Machine.execHaltRelease s
  | .railRise d => Sys2Proof.Machine.execRailRise d s
  | .railFall d => Sys2Proof.Machine.execRailFall d s
  | .vppLost => Sys2Proof.Machine.execVppLost s
  | .vppRestored => Sys2Proof.Machine.execVppRestored s
  | .thermalComparatorTrip die => Sys2Proof.Machine.execThermalComparatorTrip die s
  | .gateCloseRequest die group => Sys2Proof.Machine.execGateCloseRequest die group s
  | .gateRampStep die group ma => Sys2Proof.Machine.execGateRampStep die group ma s
  | .gateOpenRequest die group => Sys2Proof.Machine.execGateOpenRequest die group s
  | .clockGateOpen req g => Sys2Proof.Machine.execClockGateOpen req g s
  | .clockGateClose req g => Sys2Proof.Machine.execClockGateClose req g s
  | .clockSourceStable src => Sys2Proof.Machine.execClockSourceStable src s
  | .clockSourceChange d src => Sys2Proof.Machine.execClockSourceChange d src s
  | .clockRampStep d => Sys2Proof.Machine.execClockRampStep d s
  | .clockMonitorWindow m count => Sys2Proof.Machine.execClockMonitorWindow m count s
  | .rootPllLossOfLock => Sys2Proof.Machine.execRootPllLossOfLock s
  | .bonosStart => Sys2Proof.Machine.execBonosStart s
  | .imagePass1Done => Sys2Proof.Machine.execImagePass1Done s
  | .memoryTrainingDone lodgeHe lodgeHw => Sys2Proof.Machine.execMemoryTrainingDone lodgeHe lodgeHw s
  | .imagePass2Done => Sys2Proof.Machine.execImagePass2Done s
  | .groomingTablesLoaded => Sys2Proof.Machine.execGroomingTablesLoaded s
  | .startupReady us gtime => Sys2Proof.Machine.execStartupReady us gtime s
  | .recovery => Sys2Proof.Machine.execRecovery s
  | .lapBoundary gtime => Sys2Proof.Machine.execLapBoundary gtime s
  | .ttlExpired entry => Sys2Proof.Machine.execTtlExpired entry s
  | .faultHold entry => Sys2Proof.Machine.execFaultHold entry s
  | .released entry => Sys2Proof.Machine.execReleased entry s
  | .hkcIntervalEnd => Sys2Proof.Machine.execHkcIntervalEnd s
  | .pmcSnapshotSwap => Sys2Proof.Machine.execPmcSnapshotSwap s
  | .planCutoff => Sys2Proof.Machine.execPlanCutoff s
  | .planComplete => Sys2Proof.Machine.execPlanComplete s
  | .trimBankCompose => Sys2Proof.Machine.execTrimBankCompose s
  | .waveIssue wave => Sys2Proof.Machine.execWaveIssue wave s
  | .firingIssue die tile wave rec => Sys2Proof.Machine.execFiringIssue die tile wave rec s
  | .transposedRead die tile wave rec codes => Sys2Proof.Machine.execTransposedRead die tile wave rec codes s
  | .referenceRead die tile array => Sys2Proof.Machine.execReferenceRead die tile array s
  | .conversionSlot die tile wave rec charge => Sys2Proof.Machine.execConversionSlot die tile wave rec charge s
  | .partialRelease die tile pair => Sys2Proof.Machine.execPartialRelease die tile pair s
  | .columnSum wave token layer stage block => Sys2Proof.Machine.execColumnSum wave token layer stage block s
  | .driftGainUpdate die tile array => Sys2Proof.Machine.execDriftGainUpdate die tile array s
  | .mogulJob index => Sys2Proof.Machine.execMogulJob index s
  | .attItemStart lane => Sys2Proof.Machine.execAttItemStart lane s
  | .attItemDone lane => Sys2Proof.Machine.execAttItemDone lane s
  | .attMerge wave slot head layer => Sys2Proof.Machine.execAttMerge wave slot head layer s
  | .attDue wave layer => Sys2Proof.Machine.execAttDue wave layer s
  | .sample wave slot => Sys2Proof.Machine.execSample wave slot s
  | .spreadHandoff bib guests => Sys2Proof.Machine.execSpreadHandoff bib guests s
  | .spreadCtl origin lap changes => Sys2Proof.Machine.execSpreadCtl origin lap changes s
  | .spreadTok origin lap wave toks => Sys2Proof.Machine.execSpreadTok origin lap wave toks s
  | .gatherPart lap wave layer member replay outputs => Sys2Proof.Machine.execGatherPart lap wave layer member replay outputs s
  | .groomWindow die tile ms => Sys2Proof.Machine.execGroomWindow die tile ms s
  | .grmStatHalfClose die tile halfB st bad => Sys2Proof.Machine.execGrmStatHalfClose die tile halfB st bad s
  | .spareColumnProgrammed die tile array col => Sys2Proof.Machine.execSpareColumnProgrammed die tile array col s
  | .grmFlush => Sys2Proof.Machine.execGrmFlush s
  | .provingWindow die tile points temp => Sys2Proof.Machine.execProvingWindow die tile points temp s
  | .tileFaultDetect die tile det element => Sys2Proof.Machine.execTileFaultDetect die tile det element s
  | .reserveUnitBegin unit skipped => Sys2Proof.Machine.execReserveUnitBegin unit skipped s
  | .spareProgrammed die tile ok => Sys2Proof.Machine.execSpareProgrammed die tile ok s
  | .mogulUnitFail unit => Sys2Proof.Machine.execMogulUnitFail unit s
  | .laneFail lane => Sys2Proof.Machine.execLaneFail lane s
  | .joinUnitFail unit => Sys2Proof.Machine.execJoinUnitFail unit s
  | .memoryChannelFault ch pages => Sys2Proof.Machine.execMemoryChannelFault ch pages s
  | .poison entry page => Sys2Proof.Machine.execPoison entry page s
  | .shadowPoison slot granule => Sys2Proof.Machine.execShadowPoison slot granule s
  | .waxRecordPoison index wave => Sys2Proof.Machine.execWaxRecordPoison index wave s
  | .reserveFull h u => Sys2Proof.Machine.execReserveFull h u s
  | .moduleFault c => Sys2Proof.Machine.execModuleFault c s
  | .checkpointWindow h => Sys2Proof.Machine.execCheckpointWindow h s
  | .checkpointComplete bib => Sys2Proof.Machine.execCheckpointComplete bib s
  | .checkpointAbandon bib => Sys2Proof.Machine.execCheckpointAbandon bib s
  | .ckptRestore entry => Sys2Proof.Machine.execCkptRestore entry s
  | .mirrorEntry m => Sys2Proof.Machine.execMirrorEntry m s
  | .mirrorKv origin originBib first n body => Sys2Proof.Machine.execMirrorKv origin originBib first n body s
  | .mirrorTail origin originBib toks => Sys2Proof.Machine.execMirrorTail origin originBib toks s
  | .mirrorAck bib => Sys2Proof.Machine.execMirrorAck bib s
  | .mirrorDrop origin originBib => Sys2Proof.Machine.execMirrorDrop origin originBib s
  | .orphan origin => Sys2Proof.Machine.execOrphan origin s
  | .migration m slotLayout kv => Sys2Proof.Machine.execMigration m slotLayout kv s
  | .patOrphan v => Sys2Proof.Machine.execPatOrphan v s
  | .fingerprint member slot dlap layout bytes => Sys2Proof.Machine.execFingerprint member slot dlap layout bytes s
  | .fingerprintVerdict slot => Sys2Proof.Machine.execFingerprintVerdict slot s
  | .fpDrainExpired slot => Sys2Proof.Machine.execFpDrainExpired slot s
  | .errorReport r => Sys2Proof.Machine.execErrorReport r s
  | .burstClose entry => Sys2Proof.Machine.execBurstClose entry s
  | .logDrain => Sys2Proof.Machine.execLogDrain s
  | .transferBlockDone bib blk => Sys2Proof.Machine.execTransferBlockDone bib blk s
  | .restoreDone bib => Sys2Proof.Machine.execRestoreDone bib s
  | .prefixReady entry => Sys2Proof.Machine.execPrefixReady entry s
  | .waxLoadDone index => Sys2Proof.Machine.execWaxLoadDone index s
  | .waxMoveDone index => Sys2Proof.Machine.execWaxMoveDone index s
  | .waxFitUpdate index grads loss sat => Sys2Proof.Machine.execWaxFitUpdate index grads loss sat s
  | .waxFitEnd index => Sys2Proof.Machine.execWaxFitEnd index s
  | .hkcSample die input code em ns => Sys2Proof.Machine.execHkcSample die input code em ns s
  | .hbmSensorRead stack code em ns => Sys2Proof.Machine.execHbmSensorRead stack code em ns s
  | .pausePoint k ns => Sys2Proof.Machine.execPausePoint k ns s
  | .snowploughEnd => Sys2Proof.Machine.execSnowploughEnd s
  | .data port f at' => Sys2Proof.Machine.execData port f at' s
  | .ack port f at' => Sys2Proof.Machine.execAck port f at' s
  | .nack port f at' => Sys2Proof.Machine.execNack port f at' s
  | .time port t => Sys2Proof.Machine.execTime port t s
  | .gop port g at' => Sys2Proof.Machine.execGop port g at' s
  | .lane port map => Sys2Proof.Machine.execLane port map s
  | .hello port p at' => Sys2Proof.Machine.execHello port p at' s
  | .idle port => Sys2Proof.Machine.execIdle port s
  | .ackTimer port => Sys2Proof.Machine.execAckTimer port s
  | .timeFrameTimer port => Sys2Proof.Machine.execTimeFrameTimer port s
  | .portDown port cause => Sys2Proof.Machine.execPortDown port cause s
  | .portBringupRetry port => Sys2Proof.Machine.execPortBringupRetry port s
  | .portBringupStageDone port lanes => Sys2Proof.Machine.execPortBringupStageDone port lanes s
  | .laneFailure port wavelength => Sys2Proof.Machine.execLaneFailure port wavelength s
  | .degradedLock port => Sys2Proof.Machine.execDegradedLock port s
  | .spareLaneRestore port map => Sys2Proof.Machine.execSpareLaneRestore port map s
  | .syncLocked dlap gtime => Sys2Proof.Machine.execSyncLocked dlap gtime s
  | .noDomainPeer gtime => Sys2Proof.Machine.execNoDomainPeer gtime s
  | .realignHoldEnd dlap gtime => Sys2Proof.Machine.execRealignHoldEnd dlap gtime s
  | .gopBarrier v => Sys2Proof.Machine.execGopBarrier v s
  | .gopSnapshot v => Sys2Proof.Machine.execGopSnapshot v s
  | .gopBroadcast v => Sys2Proof.Machine.execGopBroadcast v s
  | .gopReset v => Sys2Proof.Machine.execGopReset v s
  | .gopStretchRefused v => Sys2Proof.Machine.execGopStretchRefused v s
  | .bonCmdLogRead v => Sys2Proof.Machine.execBonCmdLogRead v s
  | .bonCmdFlush v => Sys2Proof.Machine.execBonCmdFlush v s
  | .updBegin len => Sys2Proof.Machine.execUpdBegin len s
  | .updData off bytes => Sys2Proof.Machine.execUpdData off bytes s
  | .updEnd => Sys2Proof.Machine.execUpdEnd s
  | .keyPut kind index data signed => Sys2Proof.Machine.execKeyPut kind index data signed s
  | .idGet => Sys2Proof.Machine.execIdGet s
  | .logRead seq => Sys2Proof.Machine.execLogRead seq s
  | .telemPointerWrite b => Sys2Proof.Machine.execTelemPointerWrite b s
  | .telemIgnoredWrite => Sys2Proof.Machine.execTelemIgnoredWrite s
  | .telemRead n => Sys2Proof.Machine.execTelemRead n s
  | .setdasa static dyn => Sys2Proof.Machine.execSetdasa static dyn s
  | .entdaa won dyn => Sys2Proof.Machine.execEntdaa won dyn s
  | .qpDisable v => Sys2Proof.Machine.execQpDisable v s
  | .busMasterEnable en => Sys2Proof.Machine.execBusMasterEnable en s
  | .l1Exit => Sys2Proof.Machine.execL1Exit s
  | .pmeTurnOff => Sys2Proof.Machine.execPmeTurnOff s
  | .interfacePllLossOfLock p => Sys2Proof.Machine.execInterfacePllLossOfLock p s
  | .guestHandoff origin originBib tenant slot wax home positions lastToken vectors scales => Sys2Proof.Machine.execGuestHandoff origin originBib tenant slot wax home positions lastToken vectors scales s
  | .badType port f at' => Sys2Proof.Machine.execBadType port f at' s
  | .telemMapCopy => Sys2Proof.Machine.execTelemMapCopy s
  | .stormIntervalEnd => Sys2Proof.Machine.execStormIntervalEnd s
  | .counterWrap block ctr add => Sys2Proof.Machine.execCounterWrap block ctr add s

end Sys2Proof.Machine
end

