-- ==== Sys2Proof/Safety.lean ====
section
/-!
DEFINITION. What claims are stated in: the canonical form of the finite maps and byte memories, a step that does not stop, the
parts of the state that a command may change, and the fields of registers that it leaves alone.
-/

namespace Sys2Proof.Machine

/-- The register file's maps rise strictly. -/
def RegFile.canonical (r : RegFile) : Bool := r.regs.wf && r.image.wf && r.latch.wf

/-- The maps of the KV memory rise strictly. -/
def Kvm.canonical (k : Kvm) : Bool := k.prefixes.wf && k.vectors.wf

/-- The maps of the arrays, tiles and hub stores rise strictly. -/
def Fabric.canonical (f : Fabric) : Bool :=
  f.tiles.wf && f.arrays.wf && f.tests.wf && f.setTemps.wf && f.anchors.wf && f.messages.wf && f.blocks.wf && f.vectors.wf
  && f.reductions.wf && f.poolUsed.wf && f.tokenUsed.wf && f.qnt.wf && f.qntLast.wf && f.qntFirst.wf

/-- The maps of the attention pipeline rise strictly. -/
def Attention.canonical (a : Attention) : Bool := a.lanes.wf && a.segments.wf && a.busy.wf

/-- The maps of the loader rise strictly, and the staging buffer is a canonical byte memory. -/
def Loader.canonical (l : Loader) : Bool := l.slots.wf && l.digests.wf && Memory.wf stagingByte l.staging

/-- The maps of the links rise strictly. -/
def Links.canonical (l : Links) : Bool := l.ports.wf && l.seen.wf

/-- The maps of patrol rise strictly. -/
def Patrol.canonical (p : Patrol) : Bool := p.log.wf && p.ckpts.wf

/-- The map of the housekeeping inputs rises strictly. -/
def Thermal.canonical (x : Thermal) : Bool := x.inputs.wf

/-- The map of ramp targets rises strictly. -/
def Clocks.canonical (c : Clocks) : Bool := c.target.wf

/-- The map of claims rises strictly. -/
def Events.canonical (e : Events) : Bool := e.claims.wf

/-- The maps of the counters rise strictly. -/
def Pmc.canonical (p : Pmc) : Bool := p.active.wf && p.live.wf && p.ovf.wf && p.shot.wf && p.image.wf && p.bank.wf

/-- The maps of Bonos rise strictly, and the flash is a canonical byte memory. -/
def Bonos.canonical (b : Bonos) : Bool := Memory.wf erased b.flash && b.digests.wf && b.wrapKeys.wf

/-- Every map and byte memory of the state has its canonical form, so that equal stores are equal data. -/
def State.canonical (s : State) : Bool :=
  s.rf.canonical && s.qps.wf && s.bibs.wf && s.kvm.canonical && s.fab.canonical && s.att.canonical && s.wax.wf
  && s.ldr.canonical && s.lnk.canonical && s.pat.canonical && s.thm.canonical && s.clk.canonical && s.evt.canonical
  && s.bon.canonical && s.pmc.canonical

/-- The step that the state makes is a next state: no fault, no refusal. -/
def safeStep (s : State) : Bool :=
  match step s with
  | .next _ => true
  | _ => false

/-- The command completes on the state, and `after` holds of its next state. -/
def Completes (c : Instr) (s : State) (after : State → Prop) : Prop := ∃ t, exec c s = .next t ∧ after t

/-! ### What a command leaves alone -/

/-- The register window of a key: its MiB of BAR0 (R423), the 16 windows of the Arkor dies as one. -/
def regWindow (k : Nat) : Nat :=
  let w := k % selStride / 0x100000
  if 16 ≤ w ∧ w < 32 then 16 else w

/-- A part of the state: a field of State, of its register file the image, the holding registers and each window, or a free
value's counter. The queue is no part. -/
inductive Part where
  | image | latch | pcie | qps | bibs | freeBibs | kvm | plan | ledger | fab | att | wax | ldr | lnk | pat | thm | clk | pwr
  | evt | bon | pmc | drawn | sent
  | win (w : Nat)
deriving DecidableEq, Repr

/-- The part is the same in both states; a window, every register of it. -/
def Part.same (p : Part) (s t : State) : Prop :=
  match p with
  | .image => t.rf.image = s.rf.image
  | .latch => t.rf.latch = s.rf.latch
  | .pcie => t.pcie = s.pcie
  | .qps => t.qps = s.qps
  | .bibs => t.bibs = s.bibs
  | .freeBibs => t.freeBibs = s.freeBibs
  | .kvm => t.kvm = s.kvm
  | .plan => t.plan = s.plan
  | .ledger => t.ledger = s.ledger
  | .fab => t.fab = s.fab
  | .att => t.att = s.att
  | .wax => t.wax = s.wax
  | .ldr => t.ldr = s.ldr
  | .lnk => t.lnk = s.lnk
  | .pat => t.pat = s.pat
  | .thm => t.thm = s.thm
  | .clk => t.clk = s.clk
  | .pwr => t.pwr = s.pwr
  | .evt => t.evt = s.evt
  | .bon => t.bon = s.bon
  | .pmc => t.pmc = s.pmc
  | .drawn => t.drawn = s.drawn
  | .sent => t.sent = s.sent
  | .win w => ∀ k, regWindow k = w → t.rd k = s.rd k

/-- Every part is the same but those listed. -/
def SameBut (l : List Part) (s t : State) : Prop := ∀ p, p ∉ l → p.same s t

/-- Every register window. -/
def everyWindow : List Part := (List.range 64).map .win

/-- Every part. -/
def everyPart : List Part :=
  [.image, .latch, .pcie, .qps, .bibs, .freeBibs, .kvm, .plan, .ledger, .fab, .att, .wax, .ldr, .lnk, .pat, .thm, .clk, .pwr,
   .evt, .bon, .pmc, .drawn, .sent] ++ everyWindow

/-- What an error report may change (R312-R314): the logger, its window, the counters and the free value drawn. -/
def reportParts : List Part := [.pat, .pmc, .drawn, .win 13]

/-- What a protocol violation may change (R184): a report's parts and the window of the queue pairs. -/
def violationParts : List Part := .win 7 :: reportParts

/-- What a completion record may change (R172, R176-R182, R302, R303): its queue pair, vectors and their timers, what is sent,
the token tail and its mirror message, and a violation's parts when it is dropped. -/
def recordParts : List Part := [.pcie, .qps, .lnk, .sent, .win 12] ++ violationParts

/-- The parts of the state that a command may change. The windows are GLB 0, CLK 1, PWR 2, EVT 3, HKC and THM 4, LAP 5, BIB 6,
QP 7, KVM 8, ATT 9, WAX 10, LDR 11, LNK 12, PAT 13, GRM 14, PMC 15, ARK 16, BON 32 (R423). -/
def touched (c : Instr) : List Part :=
  match c with
  | .registerWrite .. =>
    recordParts ++ [.bibs, .freeBibs, .kvm, .plan, .ledger, .fab, .att, .wax, .ldr, .thm, .pwr, .evt, .bon, .win 0, .win
    1, .win 2, .win 3, .win 4, .win 5, .win 6, .win 8, .win 9, .win 10, .win 11, .win 14, .win 15, .win 16, .win 17, .win
    18, .win 19, .win 20, .win 21, .win 22, .win 23, .win 24, .win 25, .win 26, .win 27, .win 28, .win 29, .win 30, .win
    31, .win 32, .win 33, .win 34, .win 35, .win 36, .win 37, .win 38, .win 39, .win 40, .win 41, .win 42, .win 43, .win
    44, .win 45, .win 46, .win 47, .win 48, .win 49, .win 50, .win 51, .win 52, .win 53, .win 54, .win 55, .win 56, .win
    57, .win 58, .win 59, .win 60, .win 61, .win 62, .win 63]
  | .readLowWordLatch .. =>
    violationParts ++ [.latch, .evt, .sent, .win 3]
  | .sqTail .. | .cqHead .. | .qpEnable .. | .fence .. | .fenceComplete .. | .qpDisable .. =>
    recordParts
  | .open .. =>
    recordParts ++ [.bibs, .freeBibs, .kvm, .wax, .win 6]
  | .append .. =>
    recordParts ++ [.bibs, .plan, .win 6]
  | .pause .. | .restoreDone .. =>
    recordParts ++ [.bibs, .kvm, .plan, .wax, .win 6]
  | .resume .. =>
    recordParts ++ [.bibs, .kvm, .plan, .win 6, .win 8]
  | .close .. =>
    recordParts ++ [.bibs, .freeBibs, .kvm, .plan, .wax, .win 6]
  | .prefixCreate .. | .ttlExpired .. | .faultHold .. | .released .. | .ckptRestore .. | .orphan .. | .patOrphan .. |
    .prefixReady .. | .waxFitEnd .. =>
    recordParts ++ [.bibs, .freeBibs, .kvm, .wax]
  | .prefixDrop .. =>
    recordParts ++ [.bibs, .kvm, .wax]
  | .waxLoad .. | .waxLoadDone .. =>
    recordParts ++ [.wax]
  | .waxFit .. =>
    recordParts ++ [.bibs, .freeBibs, .wax]
  | .query .. =>
    recordParts ++ [.win 6]
  | .descriptorFetchError .. | .patTsel .. | .patFpsel .. | .patLogSel .. =>
    violationParts
  | .msixVectorTimer .. | .l1Exit .. =>
    [.pcie, .pmc, .sent, .win 7]
  | .msixUnmask .. =>
    [.pmc, .sent, .win 0, .win 7]
  | .functionLevelReset .. =>
    recordParts ++ [.bibs, .freeBibs, .kvm, .plan, .fab, .wax, .ldr, .win 5, .win 11]
  | .d3hotEntry .. =>
    [.pcie, .sent]
  | .d0Return .. | .busMasterEnable .. =>
    [.pcie, .qps, .lnk, .pat, .pmc, .sent, .win 7, .win 12]
  | .perstNAssert .. | .perstNDeassert .. | .sleepAbort .. | .pwrWakeTmr .. | .wake .. | .haltRelease .. | .railFall .. |
    .imagePass1Done .. | .imagePass2Done .. =>
    everyPart
  | .bibSel .. =>
    violationParts ++ [.win 6]
  | .grmTsel .. | .grmCsel .. =>
    violationParts ++ [.win 14]
  | .waxSel .. =>
    violationParts ++ [.win 10]
  | .kvmQuota .. =>
    violationParts ++ [.win 8]
  | .lapTweight .. =>
    violationParts ++ [.win 5]
  | .lapEbudget .. =>
    violationParts ++ [.plan, .ledger, .win 5]
  | .thmSstsExcl .. =>
    violationParts ++ [.plan, .ledger, .att, .thm, .bon, .win 2, .win 4, .win 5, .win 16]
  | .pmcEvsel .. | .pmcNow .. =>
    violationParts ++ [.win 15]
  | .evtClaim .. =>
    [.evt, .sent, .win 3]
  | .evtDone .. =>
    violationParts ++ [.win 3]
  | .evtHoldTake .. | .evtHoldRelease .. =>
    violationParts ++ [.evt, .sent, .win 3]
  | .evtHoldExpire .. | .evtLineTimer .. | .evtSourcePending .. =>
    [.evt, .pmc, .sent, .win 3, .win 7]
  | .arkTestSeparate .. | .arkTestMerged .. | .arkTestTransposed .. | .arkTestReference .. =>
    violationParts ++ [.fab, .win 16]
  | .arkTestDone .. =>
    [.fab, .win 16]
  | .ldrLoad .. | .ldrReplace .. | .ldrAttach .. | .ldrRelease .. | .ldrAbort .. | .ldrPut .. =>
    violationParts ++ [.bibs, .kvm, .plan, .fab, .wax, .ldr, .win 5, .win 11]
  | .bar4Write .. | .ldrSectionVerified .. =>
    [.bibs, .kvm, .plan, .fab, .wax, .ldr, .pat, .pmc, .win 5, .win 11]
  | .programRoundDone .. =>
    reportParts ++ [.bibs, .kvm, .plan, .ledger, .fab, .wax, .ldr, .win 5, .win 11]
  | .ldrLayerVerified .. =>
    [.fab, .ldr]
  | .ldrOperationDone .. =>
    [.bibs, .kvm, .plan, .fab, .wax, .ldr, .pat, .bon, .pmc, .win 5, .win 8, .win 11]
  | .pwrReqActive .. | .pwrReqIdle .. | .pwrReqSleep .. =>
    violationParts ++ [.plan, .pwr, .win 2, .win 16]
  | .idleEntryDone .. | .idleExit .. =>
    [.pwr, .win 2, .win 16]
  | .idleExitReady .. =>
    [.plan, .ledger, .fab, .lnk, .clk, .pwr, .win 1, .win 2, .win 5, .win 6, .win 12, .win 14, .win 16]
  | .sleepEntry .. =>
    [.fab, .pat, .pwr, .bon, .win 13]
  | .haltInputChange .. | .haltDiscrepancy .. =>
    [.att, .pat, .bon, .drawn, .win 2, .win 5, .win 16]
  | .railRise .. | .gateCloseRequest .. =>
    [.pwr, .win 2]
  | .vppLost .. | .vppRestored .. =>
    [.win 2]
  | .thermalComparatorTrip .. | .hkcIntervalEnd .. =>
    [.thm, .win 4]
  | .gateRampStep .. =>
    reportParts ++ [.fab, .clk, .pwr, .win 1, .win 2]
  | .gateOpenRequest .. =>
    [.clk, .pwr, .win 2]
  | .clockGateOpen .. | .clockGateClose .. | .clockSourceStable .. | .clockRampStep .. =>
    [.clk, .win 1]
  | .clockSourceChange .. =>
    [.clk]
  | .clockMonitorWindow .. | .rootPllLossOfLock .. =>
    reportParts ++ [.lnk, .clk, .sent, .win 1, .win 12, .win 16]
  | .bonosStart .. | .recovery .. =>
    [.pcie, .clk, .bon, .win 1, .win 3, .win 16, .win 32]
  | .memoryTrainingDone .. =>
    [.clk, .pwr, .bon, .win 1, .win 2, .win 32]
  | .groomingTablesLoaded .. =>
    reportParts ++ [.plan, .fab, .ldr, .win 5, .win 11, .win 14, .win 16, .win 32]
  | .startupReady .. =>
    reportParts ++ [.pcie, .plan, .ledger, .fab, .pwr, .bon, .win 2, .win 3, .win 5, .win 6, .win 12, .win 14, .win 16,
    .win 32]
  | .lapBoundary .. | .realignHoldEnd .. =>
    recordParts ++ [.bibs, .freeBibs, .kvm, .plan, .ledger, .fab, .att, .wax, .ldr, .thm, .clk, .pwr, .evt, .bon, .win 2,
    .win 3, .win 4, .win 5, .win 6, .win 8, .win 9, .win 11, .win 14, .win 15, .win 16]
  | .pmcSnapshotSwap .. =>
    [.qps, .pmc, .win 15]
  | .planCutoff .. =>
    recordParts ++ [.bibs, .freeBibs, .kvm, .plan, .ledger, .fab, .wax, .ldr, .win 5, .win 8, .win 10]
  | .planComplete .. =>
    reportParts ++ [.att, .lnk, .sent, .win 5, .win 12]
  | .trimBankCompose .. =>
    [.plan, .fab, .win 14]
  | .waveIssue .. =>
    [.bibs, .plan, .fab, .att, .pmc, .win 5, .win 9, .win 10]
  | .firingIssue .. =>
    [.ledger, .fab, .pmc, .win 16]
  | .transposedRead .. | .referenceRead .. =>
    [.ledger, .fab, .win 16]
  | .conversionSlot .. =>
    [.fab, .pmc, .win 16]
  | .partialRelease .. =>
    [.fab]
  | .columnSum .. =>
    recordParts ++ [.bibs, .kvm, .plan, .fab, .att, .wax, .win 5, .win 6, .win 8, .win 9, .win 11]
  | .driftGainUpdate .. =>
    [.fab, .win 5]
  | .mogulJob .. =>
    recordParts ++ [.bibs, .kvm, .plan, .fab, .wax, .win 5, .win 6, .win 8]
  | .attItemStart .. =>
    [.att]
  | .attItemDone .. =>
    [.bibs, .att, .pmc, .win 5, .win 9]
  | .attMerge .. =>
    [.fab, .att, .lnk, .pmc, .sent, .win 5, .win 9, .win 12]
  | .attDue .. =>
    [.bibs, .fab, .att, .pmc, .win 9, .win 11]
  | .sample .. =>
    recordParts ++ [.bibs, .kvm, .plan, .wax, .win 5]
  | .spreadHandoff .. =>
    [.bibs, .kvm, .wax, .pmc, .win 6]
  | .spreadCtl .. =>
    [.att, .win 6]
  | .spreadTok .. =>
    [.qps, .bibs, .att]
  | .gatherPart .. =>
    [.fab, .att, .win 5]
  | .groomWindow .. | .grmStatHalfClose .. =>
    reportParts ++ [.fab, .win 14]
  | .spareColumnProgrammed .. =>
    [.fab, .win 14]
  | .grmFlush .. =>
    [.fab, .bon]
  | .provingWindow .. | .spareProgrammed .. =>
    reportParts ++ [.fab]
  | .tileFaultDetect .. =>
    reportParts ++ [.bibs, .plan, .fab, .win 5]
  | .reserveUnitBegin .. =>
    [.bibs, .fab, .pat, .win 13]
  | .mogulUnitFail .. | .reserveFull .. =>
    reportParts ++ [.plan, .win 5]
  | .laneFail .. =>
    reportParts ++ [.att, .win 9]
  | .joinUnitFail .. =>
    reportParts ++ [.bibs, .fab]
  | .memoryChannelFault .. =>
    recordParts ++ [.bibs, .kvm, .plan, .wax, .win 6, .win 8]
  | .poison .. =>
    recordParts ++ [.bibs, .kvm, .plan, .fab, .wax, .win 6, .win 8]
  | .shadowPoison .. =>
    reportParts ++ [.ldr, .win 5, .win 11]
  | .waxRecordPoison .. =>
    recordParts ++ [.bibs, .kvm, .plan, .fab, .wax, .win 6, .win 8, .win 10]
  | .moduleFault .. =>
    reportParts ++ [.lnk, .sent, .win 12, .win 16]
  | .checkpointWindow .. =>
    [.kvm, .pat, .pmc, .win 8]
  | .checkpointComplete .. =>
    [.bibs, .kvm, .lnk, .pat, .pmc, .sent, .win 6, .win 12, .win 13]
  | .checkpointAbandon .. =>
    [.pat, .pmc, .win 6, .win 13]
  | .mirrorEntry .. | .mirrorKv .. | .mirrorTail .. =>
    [.kvm, .lnk, .pat, .pmc, .sent, .win 8, .win 12]
  | .mirrorAck .. =>
    [.pmc, .win 6]
  | .mirrorDrop .. =>
    [.bibs, .kvm, .wax, .pat, .pmc]
  | .migration .. =>
    recordParts ++ [.bibs, .freeBibs, .kvm, .wax, .win 8]
  | .fingerprint .. =>
    [.lnk, .pat, .pmc, .sent, .win 12]
  | .fingerprintVerdict .. =>
    reportParts ++ [.fab, .ldr]
  | .fpDrainExpired .. =>
    recordParts ++ [.bibs, .kvm, .plan, .wax, .ldr, .win 6]
  | .errorReport .. | .burstClose .. =>
    [.pat, .pmc, .win 13]
  | .logDrain .. =>
    [.pat, .bon, .win 13]
  | .transferBlockDone .. =>
    [.bibs, .kvm, .wax, .pmc, .win 6, .win 8]
  | .waxMoveDone .. =>
    [.wax, .win 10]
  | .waxFitUpdate .. =>
    [.wax, .pmc, .win 10]
  | .hkcSample .. | .hbmSensorRead .. =>
    reportParts ++ [.plan, .ledger, .att, .thm, .bon, .win 2, .win 4, .win 5, .win 16]
  | .pausePoint .. =>
    [.ledger, .lnk, .thm, .pmc, .win 5]
  | .snowploughEnd .. =>
    [.ledger]
  | .data .. | .ack .. | .nack .. | .gop .. | .hello .. | .portBringupStageDone .. | .badType .. =>
    reportParts ++ [.lnk, .sent, .win 12]
  | .time .. =>
    [.lnk, .drawn, .win 1, .win 12]
  | .lane .. =>
    [.lnk]
  | .idle .. =>
    []
  | .ackTimer .. | .timeFrameTimer .. =>
    [.lnk, .sent]
  | .portDown .. =>
    reportParts ++ [.lnk, .win 12]
  | .portBringupRetry .. =>
    [.lnk, .win 12]
  | .laneFailure .. =>
    reportParts ++ [.lnk, .sent]
  | .degradedLock .. =>
    [.lnk, .sent, .win 12]
  | .spareLaneRestore .. =>
    [.sent, .win 12]
  | .syncLocked .. | .noDomainPeer .. =>
    [.plan, .ledger, .fab, .pwr, .win 2, .win 5, .win 6, .win 12, .win 14, .win 16]
  | .gopBarrier .. | .gopSnapshot .. | .gopBroadcast .. | .gopReset .. | .gopStretchRefused .. =>
    violationParts ++ [.lnk, .sent, .win 12]
  | .bonCmdLogRead .. | .bonCmdFlush .. =>
    [.fab, .pat, .bon, .win 13, .win 32]
  | .updBegin .. | .updData .. | .keyPut .. =>
    [.bon, .sent]
  | .updEnd .. =>
    [.bon, .drawn, .sent]
  | .idGet .. | .logRead .. | .telemRead .. =>
    [.sent]
  | .telemPointerWrite .. | .setdasa .. | .entdaa .. | .telemMapCopy .. =>
    [.bon]
  | .telemIgnoredWrite .. =>
    [.win 32]
  | .pmeTurnOff .. =>
    [.pcie, .pwr, .win 2]
  | .interfacePllLossOfLock .. =>
    reportParts
  | .guestHandoff .. =>
    [.bibs, .freeBibs, .kvm, .wax, .pmc, .win 8]
  | .stormIntervalEnd .. =>
    [.evt]
  | .counterWrap .. =>
    [.pmc]

/-- The fields have no bit in common. -/
abbrev Fld.apart (f g : Fld) : Prop := f.reg ≠ g.reg ∨ f.lo + f.width ≤ g.lo ∨ g.lo + g.width ≤ f.lo

/-- A whole register word as a field. -/
def Fld.word (k : Nat) : Fld := ⟨k, 0, 32⟩

/-- The two words of a 64-bit register. -/
def Fld.dword (k : Nat) : List Fld := [Fld.word k, Fld.word (k + 4)]

/-- Every bit of every register is the same but those of the fields listed. -/
def FieldsBut (l : List Fld) (s t : State) : Prop := ∀ g : Fld, (∀ f ∈ l, f.apart g) → t.get g = s.get g

/-- Offsets whose write has a rule of its own; the others follow the access codes alone (R6). -/
def ownRule (off : Nat) : Bool :=
  [Reg.EVT_CTL, Reg.EVT_HOLD, Reg.PWR_CTL, Reg.HKC_SEL, Reg.THM_SSEL, Reg.THM_SSTS, Reg.LAP_EBUDGET, Reg.BIB_SEL, Reg.QP_CFG,
   Reg.QP_VCFG, Reg.KVM_EVICT_LOW, Reg.KVM_EVICT_HIGH, Reg.KVM_QUOTA, Reg.WAX_SEL, Reg.LDR_CTL, Reg.LDR_PUT, Reg.LDR_PUT + 4,
   Reg.LDR_PROG_W, Reg.LNK_GOP_CTL, Reg.PAT_ORPHAN, Reg.PAT_TSEL, Reg.PAT_FPSEL, Reg.PAT_LOG_SEL, Reg.GRM_TSEL, Reg.GRM_CSEL,
   Reg.PMC_CTL, Reg.PMC_EVSEL, Reg.PMC_OVF, Reg.PMC_EVT, Reg.BON_CMD].contains off
  || foldDie off == Reg.ARK_TEST_CTL || within Reg.EVT_CLAIM 6 8 off || within Reg.EVT_MASK 48 4 off
  || within Reg.EVT_PEND 48 4 off || within Reg.EVT_SRC 1536 4 off

/-- A protocol violation has been counted and held (R184), and nothing else but its report and `more` has changed. -/
def Violates (more : List Part) (s t : State) : Prop :=
  t.rd64 Reg.QP_VIOL = (s.rd64 Reg.QP_VIOL + 1) % 2 ^ 64 ∧ t.flag Fld.QP_EVT_VIOL = true ∧ SameBut (more ++ violationParts) s t

/-- The host reaches every window: the module is not in RECOVERY (R394). -/
abbrev Decoded (s : State) : Prop := s.flag Fld.BON_STS_RECOVERY = false

/-- Record `r` has been written at the completion tail that queue pair `q` had in `s`, when its ring was open and no older record
waited (R172). -/
def Posts (q : Nat) (r : Record) (s t : State) : Prop :=
  s.ringOpen q = true → (s.qp q).backlog = [] → r.bib ∉ (s.qp q).lostBibs →
    Out.record q (s.get (Fld.QP_CQ_TAIL_INDEX.sel q)) (s.qp q).phase r ∈ t.sent

/-- The descriptor at the head of `q` is of command `op` and may be accepted (R171, R181, R184, R359, R362). -/
def Ready (q op : Nat) (d : Desc) (s : State) : Prop := s.mayAccept q op = true ∧ dOpcode d = op

/-- The head of the submission ring of `q` has moved past one descriptor (R171). -/
def HeadMoved (q : Nat) (s t : State) : Prop :=
  t.get (Fld.QP_SQ_HEAD_INDEX.sel q) = (s.get (Fld.QP_SQ_HEAD_INDEX.sel q) + 1) % s.sqSize q

/-- Steps 1 to 5 of R185 pass: the descriptor names a bib of the queue pair by its current identifier. -/
def NamesOwn (q op : Nat) (d : Desc) (s : State) : Prop :=
  Ready q op d s ∧ descBytesOk d = true ∧ s.bibCheck q (dBib d) = none

/-- No entry of the request table but `i` differs. -/
def OtherBibs (i : Nat) (s t : State) : Prop := ∀ j, j ≠ i → t.bib j = s.bib j

/-- Entry `i` is FREE with the next generation and every other field at its reset value, last in the free list; no other entry
differs (R148, R149, R159). -/
def Freed (i : Nat) (s t : State) : Prop :=
  t.bib i = Bib.free (nextGen (s.bib i).gen) ∧ t.freeBibs = s.freeBibs.push i ∧ OtherBibs i s t

/-- `n` reports have reached the logger (R313, R315). -/
def Reported (n : Nat) (s t : State) : Prop := t.rd64 Reg.PAT_REPORTS = (s.rd64 Reg.PAT_REPORTS + n) % 2 ^ 64

/-- The entry at ring position `p` takes report `r` within MERGE_US (R313). -/
def State.merges (s : State) (r : Report) (p : Nat) : Bool :=
  match s.pat.log.get? p with
  | some e => e.unit == r.unit && e.kind == r.kind && decide (e.sev < 128)
      && decide (r.gtime - e.gtime ≤ s.get Fld.PAT_LOG_CFG_MERGE_US * 1000)
  | none => false

/-- Mirror `m`, of a slot with LAYOUT_ID `layout`, can be rebuilt here: into entry `j`, homed on `h` (R306). -/
def Adopts (m : Mirror) (layout : DWord) (j : Nat) (h : Hub) (s : State) : Prop :=
  let e := s.entryBib m.entry
  (m.origin, m.originBib) ∉ s.pat.adopted ∧ s.flag Fld.PAT_CTL_ADOPT_EN = true ∧ m.entry.length = 128
  ∧ holdsAll m.ranges e.promptDone = true ∧ (∀ w, e.wax = some w → s.waxReady w e.tenant e.modelSlot = true)
  ∧ s.get (Fld.LDR_SLOT_STS_STATE.sel e.modelSlot) = 2 ∧ s.pfxStands e.pfxHandle e.modelSlot = true
  ∧ (∃ x, s.ldr.slots.get? e.modelSlot = some x ∧ x.layout = layout) ∧ s.freeBibs.head 65536 = some j
  ∧ s.homeHub e.modelSlot (if e.pfxHandle = 0 then none else some (s.pfx (e.pfxHandle % 65536)).hub) = some h

/-- Entry `j` is the bib of checkpoint entry `e` with token tail `tail`, LODGED for its restore (R305, R306). -/
def Rebuilt (j : Nat) (h : Hub) (e : Bib) (tail : List Nat) (s t : State) : Prop :=
  (t.bib j).state = .lodged ∧ (t.bib j).cause = .ckptRestore ∧ (t.bib j).home = h ∧ (t.bib j).inputs = rebuiltInputs e tail
  ∧ (t.bib j).genTokens = e.genTokens + tail.length ∧ (t.bib j).draws = e.draws + tail.length
  ∧ (t.bib j).xfer = .wait ∧ t.rd64 Reg.PAT_RESTART = (s.rd64 Reg.PAT_RESTART + 1) % 2 ^ 64 ∧ t.flag Fld.PAT_EVT_ADOPT = true
  ∧ t.freeBibs = s.freeBibs.pop 65536

end Sys2Proof.Machine
end

