-- ==== Sys2Proof/Certificates/Slice0/Obligations.lean ====
section
/-!
DEFINITION. The statements about the model: its machine, and for every command what it does and what it leaves.

`Completes c s after` says that the command answers a next state of which `after` holds; `SameBut` and `FieldsBut` are its frames
(Safety.lean).
-/

section

open Sys2Proof Sys2Proof.Machine

/-! ### The machine -/

/-- A step takes the command at the front of the queue and runs it on the state with the queue's rest. An empty queue idles:
the model's choice, log entry 1. -/
def Obligations.step_runs_front_command : Prop :=
  (∀ (c : Instr) (rest : List Instr) (s : State), step { s with pending := c :: rest } = exec c { s with pending := rest })
  ∧ ∀ s : State, s.pending = [] → step s = .next s

/-- Every table and byte memory of the state after reset has its canonical form. -/
def Obligations.reset_is_canonical : Prop :=
State.reset.canonical = true

/-- Every step from a canonical state gives a canonical state: keys rise strictly, and no memory cell holds what an unlisted
one reads as. -/
def Obligations.step_keeps_canonical : Prop :=
∀ s t : State, s.canonical = true → step s = .next t → t.canonical = true

/-- The frame of every command: it leaves every part of the state, every register window among them, but those that
`touched` lists for it. -/
def Obligations.each_command_leaves_the_other_parts : Prop :=
∀ (c : Instr) (s t : State), exec c s = .next t → SameBut (touched c) s t

/-- No command touches the queue, takes back what the block has sent, or rewinds the model's counter of free values. -/
def Obligations.no_command_retracts_output : Prop :=
∀ (c : Instr) (s t : State), exec c s = .next t → t.pending = s.pending ∧ s.sent <+: t.sent ∧ s.drawn ≤ t.drawn

/-- Every command completes from every state, but for a change or a ramp to ROOT whose planned dividers break R339, which ends in
the fault of that name. Where this goes beyond the rules it is the model's choice: log entry 111. -/
def Obligations.only_undefined_clock_ratios_stop : Prop :=
∀ (c : Instr) (s : State),
    (∃ t, exec c s = .next t)
    ∨ exec c s = .fault .clockRatioUndefined
      ∧ ((∃ d, c = .clockSourceChange d .root ∧ s.ratiosHold (leadOf d) = false)
        ∨ ∃ d n, c = .clockRampStep d ∧ s.clk.target.get? (leadOf d) = some (0, n) ∧ s.ratiosHold (leadOf d) = false)

/-- R4, R6, R184, R394, R423: a 32-bit write of a register that the access codes alone govern: a RW bit takes the bit written, a
W1C bit at which 1 is written clears, and nothing else changes; a field that refuses its value keeps its bits. A host write of
another width or alignment, of an offset that nothing decodes, of the pending-bit array or of a register without a writable field
changes nothing and is a protocol violation; of another requester it changes nothing at all. Where this goes beyond the rules it
is the model's choice: log entries 58, 59, 60, 62, 63 and 64. -/
def Obligations.register_writes_follow_access_codes : Prop :=
  (∀ (req : Requester) (off : BitVec 26) (v : Word) (s : State) (r : RegRow),
       findRow off.toNat = some r → r.writable = true → off.toNat % 4 = 0 → (req = 5 → s.hidden off.toNat = false) →
       inMsixTable off.toNat = false → inMsixPending off.toNat = false → ownRule off.toNat = false →
       refusedBits (foldDie r.off) v = 0#32 →
       Completes (.registerWrite req off 4 v) s fun t =>
         (∀ i, i < 32 → (t.rd (s.regKey off.toNat)).getLsbD i =
           if (accessMask (· == .rw) (r.wordBit off.toNat) r.fields).testBit i then v.getLsbD i
           else if (accessMask (· == .w1c) (r.wordBit off.toNat) r.fields).testBit i then
             (s.rd (s.regKey off.toNat)).getLsbD i && !v.getLsbD i
           else (s.rd (s.regKey off.toNat)).getLsbD i)
         ∧ (∀ k, k ≠ s.regKey off.toNat → t.rd k = s.rd k)
         ∧ SameBut [.win (regWindow (s.regKey off.toNat))] s t)
  ∧ (∀ (req : Requester) (off : BitVec 26) (n : Fin 9) (v : Word) (s : State),
       (((n ≠ 4 ∨ off.toNat % 4 ≠ 0)
         ∨ (n = 4 ∧ off.toNat % 4 = 0 ∧ ((req = 5 ∧ s.hidden off.toNat = true) ∨ inMsixPending off.toNat = true
           ∨ (inMsixTable off.toNat = false ∧ ∀ r, findRow off.toNat = some r → r.writable = false)))) →
         Completes (.registerWrite req off n v) s fun t => (req = 5 → Violates [] s t) ∧ (req ≠ 5 → t = s))
       ∧ ∀ r, n = 4 → findRow off.toNat = some r → r.writable = true → off.toNat % 4 = 0 →
         (req = 5 → s.hidden off.toNat = false) → inMsixTable off.toNat = false → inMsixPending off.toNat = false → ownRule off.toNat = false →
         refusedBits (foldDie r.off) v ≠ 0#32 →
         Completes (.registerWrite req off n v) s fun t =>
           (∀ i, (refusedBits (foldDie r.off) v).getLsbD i = true →
             (t.rd (s.regKey off.toNat)).getLsbD i = (s.rd (s.regKey off.toNat)).getLsbD i)
           ∧ (req = 5 → Violates [.win (regWindow (s.regKey off.toNat))] s t)
           ∧ (req ≠ 5 → SameBut [.win (regWindow (s.regKey off.toNat))] s t))

/-- R5: a read of the low word of a 64-bit register returns it and latches the high word; the next read of the high word
returns the latched value and empties the latch, and one without a latched value the live word. No register changes. -/
def Obligations.low_word_read_latches_the_high_word : Prop :=
∀ (off : BitVec 26) (s : State), off.toNat % 4 = 0 → s.hidden off.toNat = false →
    within Reg.EVT_CLAIM 6 8 off.toNat = false →
    (wordOf64 off.toNat = some false →
      Completes (.readLowWordLatch off) s fun t =>
        t.rf.latch.get? off.toNat = some (s.readWord (off.toNat + 4))
        ∧ (∀ k, k ≠ off.toNat → t.rf.latch.get? k = s.rf.latch.get? k)
        ∧ t.sent = s.sent ++ [.read off.toNat (s.readWord off.toNat)] ∧ SameBut [.latch, .sent] s t)
    ∧ (∀ v, wordOf64 off.toNat = some true → s.rf.latch.get? (off.toNat - 4) = some v →
      Completes (.readLowWordLatch off) s fun t =>
        t.rf.latch.get? (off.toNat - 4) = none ∧ t.sent = s.sent ++ [.read off.toNat v] ∧ SameBut [.latch, .sent] s t)
    ∧ (wordOf64 off.toNat = some true → s.rf.latch.get? (off.toNat - 4) = none →
      Completes (.readLowWordLatch off) s fun t =>
        t.sent = s.sent ++ [.read off.toNat (s.readWord off.toNat)] ∧ SameBut [.sent] s t)

/-- R123, R141, R166, R199, R200, R254, R315: BIB_SEL copies the entry INDEX whole into BIB_ENT0 to BIB_ENT31 with the lap of the
copy, PAT_LOG_SEL entry INDEX of the log into PAT_LOG0 to PAT_LOG15. GRM_TSEL and PAT_TSEL latch the tile that they name, and a
tile number above 8,447 is a violation that leaves them; GRM_CSEL latches the trims of the converter, WAX_SEL the wax index,
PAT_FPSEL the slot's verdict. LAP_TWEIGHT and KVM_QUOTA set the selected tenant's weight and quota, and use above the new quota
holds QUOTA_OVER. No other register bit changes. That a log entry never written copies as zeros is the model's reading. Where this
goes beyond the rules it is the model's choice: log entry 114. -/
def Obligations.selectors_copy_latch_and_set : Prop :=
(∀ (v : Word) (s : State), Decoded s →
       (Completes (.bibSel v) s fun t =>
         t.get Fld.BIB_SEL_INDEX = wordBits v 0 16 ∧ t.get Fld.BIB_SNAP_LAP_LAP = s.lap % 2 ^ 32
         ∧ (∀ j, j < 32 → t.rd (wordAt Reg.BIB_ENT 32 j) = wordOf ((s.bib (wordBits v 0 16)).bytes (wordBits v 0 16)) j)
         ∧ FieldsBut (Fld.BIB_SEL_INDEX :: Fld.BIB_SNAP_LAP_LAP :: (List.range 32).map fun j => Fld.word (wordAt Reg.BIB_ENT 32 j)) s t
         ∧ SameBut [.win 6] s t)
       ∧ Completes (.patLogSel v) s fun t =>
         t.get Fld.PAT_LOG_SEL_INDEX = wordBits v 0 12
         ∧ (∀ j, j < 16 → t.rd (wordAt Reg.PAT_LOG 16 j) = match s.pat.log.get? (wordBits v 0 12) with
             | some r => wordOf (reportBytes r) j
             | none => 0#32)
         ∧ FieldsBut (Fld.PAT_LOG_SEL_INDEX :: (List.range 16).map fun j => Fld.word (wordAt Reg.PAT_LOG 16 j)) s t
         ∧ SameBut [.win 13] s t)
  ∧ (∀ (v : Word) (s : State), Decoded s →
       (wordBits v 0 14 ≤ 8447 → Completes (.grmTsel v) s fun t =>
         t.get Fld.GRM_TSEL_DIE = wordBits v 16 4 ∧ t.get Fld.GRM_TSEL_TILE = wordBits v 0 14
         ∧ (let x := s.tile (wordBits v 16 4) (wordBits v 0 14)
           t.flag Fld.GRM_TILE_STS_OFF_OK = x.offOk ∧ t.flag Fld.GRM_TILE_STS_REF_OK = x.refOk
           ∧ t.flag Fld.GRM_TILE_STS_STAT_OK = x.statOk ∧ t.flag Fld.GRM_TILE_STS_FAILED = x.failed
           ∧ t.flag Fld.GRM_TILE_STS_TEMP_OUT = x.tempOut ∧ t.flag Fld.GRM_TILE_STS_OUT_OF_TRIM = x.outOfTrim
           ∧ t.get Fld.GRM_TILE_PASSES_COUNT = x.passes % 2 ^ 32 ∧ t.rd64 Reg.GRM_TILE_LAST_LAP = x.lastLap % 2 ^ 64
           ∧ t.rd64 Reg.GRM_TILE_LAST_TIME = x.lastTime % 2 ^ 64)
         ∧ FieldsBut ([Reg.GRM_TSEL, Reg.GRM_TILE_STS, Reg.GRM_TILE_PASSES, Reg.GRM_TRIM].map Fld.word
             ++ Fld.dword Reg.GRM_TILE_LAST_LAP ++ Fld.dword Reg.GRM_TILE_LAST_TIME) s t
         ∧ SameBut [.win 14] s t)
       ∧ (8447 < wordBits v 0 14 → Completes (.grmTsel v) s (Violates [] s) ∧ Completes (.patTsel v) s (Violates [] s))
       ∧ (wordBits v 0 14 ≤ 8447 → Completes (.patTsel v) s fun t =>
         t.get Fld.PAT_TSEL_DIE = wordBits v 16 4 ∧ t.get Fld.PAT_TSEL_TILE = wordBits v 0 14
         ∧ (let x := s.tile (wordBits v 16 4) (wordBits v 0 14)
           t.get Fld.PAT_TILE_FENCES = x.fences % 256 ∧ t.get Fld.PAT_TILE_PASS_TEMP = x.passTemp.getD 0xFF % 256
           ∧ t.get Fld.PAT_TILE_PROVE = verdictCode x.prove ∧ t.get Fld.PAT_TILE_SPARE = x.spare.getD 0x3FFF % 2 ^ 14
           ∧ t.rd64 Reg.PAT_TILE_PLAP = x.proveLap % 2 ^ 64)
         ∧ FieldsBut ([Reg.PAT_TSEL, Reg.PAT_TILE].map Fld.word ++ Fld.dword Reg.PAT_TILE_PLAP) s t ∧ SameBut [.win 13] s t)
       ∧ (Completes (.grmCsel v) s fun t =>
         t.get Fld.GRM_CSEL_CONV = wordBits v 0 7
         ∧ (let y := trimAt (s.tile (s.get Fld.GRM_TSEL_DIE) (s.get Fld.GRM_TSEL_TILE)).inForce (wordBits v 0 7)
           t.get Fld.GRM_TRIM_REF = y.ref % 1024 ∧ t.get Fld.GRM_TRIM_OFF = y.off % 1024)
         ∧ FieldsBut [Fld.GRM_CSEL_CONV, Fld.GRM_TRIM_REF, Fld.GRM_TRIM_OFF] s t ∧ SameBut [.win 14] s t)
       ∧ (Completes (.waxSel v) s fun t =>
         t.get Fld.WAX_SEL_INDEX = wordBits v 0 17
         ∧ (let x := s.waxAt (wordBits v 0 17)
           t.get Fld.WAX_STS_STATE = waxCode x.state ∧ t.get Fld.WAX_STS_MODEL_SLOT = x.modelSlot % 64
           ∧ t.flag Fld.WAX_STS_FITTING = x.fitting ∧ t.get Fld.WAX_STS_TENANT = x.tenant % 2 ^ 14
           ∧ t.get Fld.WAX_REFS_REFS = x.refs % 2 ^ 32 ∧ t.rd64 Reg.WAX_VER_LAP = x.versionLap % 2 ^ 64
           ∧ t.get Fld.WAX_FIT_STEPS_STEPS = x.steps % 2 ^ 32 ∧ t.rd Reg.WAX_FIT_LOSS = x.loss)
         ∧ FieldsBut ([Reg.WAX_SEL, Reg.WAX_STS, Reg.WAX_REFS, Reg.WAX_FIT_STEPS, Reg.WAX_FIT_LOSS].map Fld.word
             ++ Fld.dword Reg.WAX_VER_LAP) s t
         ∧ SameBut [.win 10] s t)
       ∧ Completes (.patFpsel v) s fun t =>
         t.get Fld.PAT_FPSEL_SLOT = wordBits v 0 6
         ∧ t.rd Reg.PAT_FPSTS = s.rd (keyAt (fpHome (wordBits v 0 6)) Reg.PAT_FPSTS)
         ∧ t.rd64 Reg.PAT_FPLAP = s.rd64 (keyAt (fpHome (wordBits v 0 6)) Reg.PAT_FPLAP)
         ∧ FieldsBut ([Reg.PAT_FPSEL, Reg.PAT_FPSTS].map Fld.word ++ Fld.dword Reg.PAT_FPLAP) s t ∧ SameBut [.win 13] s t)
  ∧ (∀ (v : Word) (s : State), Decoded s →
       (Completes (.lapTweight v) s fun t =>
         t.get (Fld.LAP_TWEIGHT_WEIGHT.sel (s.get Fld.LAP_TSEL_TENANT)) = wordBits v 0 8
         ∧ FieldsBut [Fld.LAP_TWEIGHT_WEIGHT.sel (s.get Fld.LAP_TSEL_TENANT)] s t ∧ SameBut [.win 5] s t)
       ∧ Completes (.kvmQuota v) s fun t =>
         t.quota (s.get Fld.KVM_TSEL_TENANT) = v.toNat
         ∧ t.flag Fld.KVM_EVT_QUOTA_OVER =
           (decide (v.toNat < s.tenantUse (s.get Fld.KVM_TSEL_TENANT)) || s.flag Fld.KVM_EVT_QUOTA_OVER)
         ∧ FieldsBut [Fld.KVM_QUOTA_PAGES.sel (s.get Fld.KVM_TSEL_TENANT), Fld.KVM_EVT_QUOTA_OVER] s t ∧ SameBut [.win 8] s t)

/-- R394, R423, R428: in RECOVERY every host write of a register outside the GLB and BON windows is ignored and a violation, a
claim of the host reads 0, and BAR4 ignores writes. Where this goes beyond the rules it is the model's choice: log entry 60. -/
def Obligations.recovery_leaves_the_other_windows_undecoded : Prop :=
∀ (v : Word) (em ns : Nat) (d : Fin 16) (t : Fin 6) (s : State), s.flag Fld.BON_STS_RECOVERY = true →
    (∀ c, c ∈ [Instr.evtDone 5 t v, .evtHoldTake 5 v, .evtHoldRelease 5 v, .pwrReqActive, .pwrReqIdle, .pwrReqSleep,
        .thmSstsExcl v em ns, .lapTweight v, .lapEbudget v em ns, .bibSel v, .qpEnable v, .qpDisable v, .kvmQuota v, .waxSel v,
        .ldrLoad v, .ldrReplace v, .ldrAttach v, .ldrRelease v, .ldrAbort v, .gopBarrier v, .gopSnapshot v, .gopBroadcast v,
        .gopReset v, .gopStretchRefused v, .patOrphan v, .patTsel v, .patFpsel v, .patLogSel v, .grmTsel v, .grmCsel v, .pmcEvsel v,
        .pmcNow v, .arkTestSeparate d v, .arkTestMerged d v, .arkTestTransposed d v, .arkTestReference d v] →
      Completes c s (Violates [] s))
    ∧ (Completes (.evtClaim 5 t) s fun u => u.sent = s.sent ++ [.read (Reg.EVT_CLAIM + 8 * t.val) 0#32] ∧ SameBut [.sent] s u)
    ∧ (∀ x : DWord, Completes (.ldrPut x) s fun u =>
      u.rd64 Reg.QP_VIOL = (s.rd64 Reg.QP_VIOL + 2) % 2 ^ 64 ∧ SameBut violationParts s u)
    ∧ ∀ (off : BitVec 36) (bytes : List Byte), Completes (.bar4Write off bytes) s fun u => u = s


/-! ### Events, counters, clocks -/

/-- R373: a read of EVT_CLAIM of target `t` by its own requester takes the lowest-numbered source that is pending, unmasked,
routed to the target and not held: it stops pending, enters service under the target, is counted and returned, and no other source
changes. With none the read returns 0x7FF and the line, its count and its timer restart. Another requester is told 0x7FF. Where
this goes beyond the rules it is the model's choice: log entry 102. -/
def Obligations.claims_take_the_lowest_source : Prop :=
∀ (req : Requester) (t : Fin 6) (s : State), (req = 5 → Decoded s) →
    (∀ n, s.lowestClaim t = some n ↔ n < 1536 ∧ s.claimable t n = true ∧ ∀ m, m < n → s.claimable t m = false)
    ∧ (∀ n, req = t → s.lowestClaim t = some n → Completes (.evtClaim req t) s fun u =>
        u.evtPend n = false ∧ u.inService n = true ∧ u.get (srcWord Fld.EVT_SRC_CLAIMER n) = t
        ∧ (∀ m, m < 1536 → m ≠ n → u.evtPend m = s.evtPend m ∧ u.inService m = s.inService m)
        ∧ u.rd64 Reg.EVT_CLAIMS = (s.rd64 Reg.EVT_CLAIMS + 1) % 2 ^ 64 ∧ u.sent = s.sent ++ [.claim t n]
        ∧ SameBut [.evt, .sent, .win 3] s u)
    ∧ (req = t → s.lowestClaim t = none → Completes (.evtClaim req t) s fun u =>
        u.flag (Fld.EVT_TSTS_LINE.target t) = false ∧ u.get (Fld.EVT_TSTS_COUNTED.target t) = 0 ∧ t.val ∉ u.evt.timers
        ∧ u.rd64 Reg.EVT_SPURIOUS = (s.rd64 Reg.EVT_SPURIOUS + 1) % 2 ^ 64 ∧ u.sent = s.sent ++ [.claim t 0x7FF]
        ∧ FieldsBut (Fld.EVT_TSTS_LINE.target t :: Fld.EVT_TSTS_COUNTED.target t :: Fld.dword Reg.EVT_SPURIOUS) s u
        ∧ SameBut [.evt, .sent, .win 3] s u)
    ∧ (req ≠ t → Completes (.evtClaim req t) s fun u =>
        u.sent = s.sent ++ [.claim t 0x7FF] ∧ FieldsBut [] s u ∧ SameBut [.sent] s u)

/-- R374: a write of EVT_DONE by the target that claimed the source ends its service; any other is counted in EVT_DONE_BAD and
changes nothing else. R369: the storm counts of the interval before lap 0 start again at its end. R375: the timer of a target
asserts its line. -/
def Obligations.service_ends_and_timers : Prop :=
(∀ (req : Requester) (t : Fin 6) (v : Word) (s : State), (req = 5 → Decoded s) →
    let n := wordBits v 0 11
    (req = t ∧ n < 1536 ∧ s.inService n = true ∧ s.get (srcWord Fld.EVT_SRC_CLAIMER n) = t.val →
      Completes (.evtDone req t v) s fun u =>
        u.inService n = false ∧ FieldsBut [⟨wordAt Reg.EVT_INSVC 48 (n / 32), n % 32, 1⟩, srcWord Fld.EVT_SRC_CLAIMER n] s u
        ∧ SameBut [.win 3] s u)
    ∧ (¬ (req = t ∧ n < 1536 ∧ s.inService n = true ∧ s.get (srcWord Fld.EVT_SRC_CLAIMER n) = t.val) →
      Completes (.evtDone req t v) s fun u =>
        u.rd64 Reg.EVT_DONE_BAD = (s.rd64 Reg.EVT_DONE_BAD + 1) % 2 ^ 64 ∧ FieldsBut (Fld.dword Reg.EVT_DONE_BAD) s u
        ∧ SameBut [.win 3] s u))
  ∧ (∀ s : State, Completes .stormIntervalEnd s fun u =>
      (s.running = false → u.evt.claims = .empty ∧ SameBut [.evt] s u) ∧ (s.running = true → u = s))
  ∧ ∀ (t : Fin 6) (s : State), Completes (.evtLineTimer t) s fun u =>
      (t.val ∈ s.evt.timers → u.flag (Fld.EVT_TSTS_LINE.target t) = true) ∧ (t.val ∉ s.evt.timers → u = s)

/-- R366 to R368, R371, R375: a source becomes pending while its level is high, its mask 0, its route not 0, it is not in service
and its word is not held; each target of its route counts it, and the line asserts when the count reaches COUNT, at once for
source 0x010. A held word defers it; else nothing changes. Source 0x010 is never masked and always routed to Bonos. Where this
goes beyond the rules it is the model's choice: log entries 102 and 115. -/
def Obligations.sources_become_pending : Prop :=
∀ (src : Fin 1536) (s : State),
    let n := src.val
    let open' := s.level n = true ∧ s.evtMasked n = false ∧ s.route n ≠ 0 ∧ s.inService n = false
    (open' → s.heldWord true n = false → s.evtPend n = false → Completes (.evtSourcePending src) s fun t =>
      t.evtPend n = true
      ∧ (∀ m, m < 1536 → m ≠ n → t.evtPend m = s.evtPend m)
      ∧ ∀ τ, τ < 6 →
        (s.routedTo n τ = true → t.get (Fld.EVT_TSTS_COUNTED.target τ) = min (s.get (Fld.EVT_TSTS_COUNTED.target τ) + 1) 255
          ∧ (n = 0x010 ∨ s.get (Fld.EVT_TCFG_COUNT.target τ) ≤ s.get (Fld.EVT_TSTS_COUNTED.target τ) + 1 →
            t.flag (Fld.EVT_TSTS_LINE.target τ) = true))
        ∧ (s.routedTo n τ = false → t.get (Fld.EVT_TSTS_COUNTED.target τ) = s.get (Fld.EVT_TSTS_COUNTED.target τ)
          ∧ t.flag (Fld.EVT_TSTS_LINE.target τ) = s.flag (Fld.EVT_TSTS_LINE.target τ)))
    ∧ (open' → s.heldWord true n = true → s.evtPend n = false → Completes (.evtSourcePending src) s fun t =>
      Deferred.setPend n ∈ t.evt.deferred ∧ FieldsBut [] s t ∧ SameBut [.evt] s t)
    ∧ (¬ open' ∨ s.evtPend n = true → Completes (.evtSourcePending src) s fun t => t = s)
    ∧ s.evtMasked 0x010 = false ∧ s.routedTo 0x010 0 = true

/-- R371: a free hold is taken, the holder's own moves, another's stays; a release applies what was deferred; after 4,096 cycles a
hold expires, is counted, and its holder reads EXPIRED and has its next write of the word discarded. -/
def Obligations.holds_are_taken_released_and_expire : Prop :=
(∀ (req : Requester) (v : Word) (s : State), (req = 5 → Decoded s) → wordBits v 31 1 = 1 → wordBits v 0 6 < 48 →
    (s.evt.hold = none → Completes (.evtHoldTake req v) s fun t =>
      t.evt.hold = some (req.val, wordBits v 7 1 == 1, wordBits v 0 6) ∧ t.evt.deferred = s.evt.deferred
      ∧ t.flag Fld.EVT_HOLD_HOLD = true ∧ t.get Fld.EVT_HOLD_OWNER = req
      ∧ t.get Fld.EVT_HOLD_REG = wordBits v 7 1 ∧ t.get Fld.EVT_HOLD_WORD = wordBits v 0 6
      ∧ FieldsBut [Fld.EVT_HOLD_HOLD, Fld.EVT_HOLD_OWNER, Fld.EVT_HOLD_REG, Fld.EVT_HOLD_WORD] s t ∧ SameBut [.evt, .win 3] s t)
    ∧ (∀ o, s.evt.hold = some o → o.1 = req → Completes (.evtHoldTake req v) s fun t =>
      t.evt.hold = some (req.val, wordBits v 7 1 == 1, wordBits v 0 6) ∧ t.evt.deferred = [])
    ∧ (∀ o, s.evt.hold = some o → o.1 ≠ req → Completes (.evtHoldTake req v) s fun t =>
      t.evt.hold = s.evt.hold ∧ t.evt.deferred = s.evt.deferred ∧ FieldsBut [] s t ∧ SameBut [.evt] s t))
  ∧ (∀ (req : Requester) (v : Word) (s : State), (req = 5 → Decoded s) → wordBits v 31 1 = 0 →
    (∀ o, s.evt.hold = some o → o.1 = req → Completes (.evtHoldRelease req v) s fun t =>
      t.evt.hold = none ∧ t.evt.deferred = [] ∧ t.flag Fld.EVT_HOLD_HOLD = false)
    ∧ (∀ o, s.evt.hold = some o → o.1 ≠ req → Completes (.evtHoldRelease req v) s fun t =>
      t.evt.hold = s.evt.hold ∧ t.evt.deferred = s.evt.deferred ∧ FieldsBut [] s t ∧ SameBut [.evt] s t))
  ∧ ∀ s : State,
    (∀ o, s.evt.hold = some o → Completes .evtHoldExpire s fun t =>
      t.evt.hold = none ∧ o.1 ∈ t.evt.expired ∧ t.evt.discard = some o
      ∧ t.rd64 Reg.EVT_HOLD_EXP = (s.rd64 Reg.EVT_HOLD_EXP + 1) % 2 ^ 64)
    ∧ (s.evt.hold = none → Completes .evtHoldExpire s fun t => t = s)

/-- R399 to R404: a valid PMC_EVSEL write waits as PENDING on the selected counter, another is a violation; PMC_NOW while no lap
runs copies every live counter into the snapshot; the swap shows it as the image of its lap unless FREEZE is set; a counter that
passes 2^48 wraps and holds its WRAP bit. Where this goes beyond the rules it is the model's choice: log entries 69 and 102. -/
def Obligations.counters_select_snapshot_swap_and_wrap : Prop :=
(∀ (v : Word) (s : State), Decoded s →
    let k := s.get Fld.PMC_SEL_BLOCK * 8 + s.get Fld.PMC_SEL_COUNTER
    let ok := wordBits v 8 2 ≠ 3 ∧ codeOk (s.get Fld.PMC_SEL_BLOCK) (wordBits v 0 8) = true
    (ok → Completes (.pmcEvsel v) s fun t =>
      t.get (Fld.PMC_EVSEL_HUB.sel k) = wordBits v 8 2 ∧ t.get (Fld.PMC_EVSEL_EVENT.sel k) = wordBits v 0 8
      ∧ t.flag (Fld.PMC_EVSEL_PENDING.sel k) = true
      ∧ FieldsBut [Fld.PMC_EVSEL_HUB.sel k, Fld.PMC_EVSEL_EVENT.sel k, Fld.PMC_EVSEL_PENDING.sel k] s t ∧ SameBut [.win 15] s t)
    ∧ (¬ ok → Completes (.pmcEvsel v) s (Violates [.win 15] s)))
  ∧ (∀ (v : Word) (s : State), Decoded s → Completes (.pmcNow v) s fun t =>
      t.get Fld.PMC_CTL_FREEZE = wordBits v 0 1
      ∧ (wordBits v 31 1 = 1 ∧ s.running = false → t.pmc.shot = s.pmc.live ∧ t.pmc.due = true
        ∧ t.pmc.shotLap = s.rd64 Reg.PMC_SNAP_LAP)
      ∧ (¬ (wordBits v 31 1 = 1 ∧ s.running = false) → FieldsBut [Fld.PMC_CTL_FREEZE] s t ∧ SameBut [.win 15] s t))
  ∧ (∀ s : State,
    (s.pmc.due = true → s.flag Fld.PMC_CTL_FREEZE = false → Completes .pmcSnapshotSwap s fun t =>
      t.pmc.image = s.pmc.shot ∧ t.pmc.due = false ∧ t.rd64 Reg.PMC_SNAP_LAP = s.pmc.shotLap % 2 ^ 64
      ∧ t.flag Fld.PMC_EVT_SNAP = true ∧ FieldsBut (Fld.PMC_EVT_SNAP :: Fld.dword Reg.PMC_SNAP_LAP) s t)
    ∧ (s.pmc.due = true → s.flag Fld.PMC_CTL_FREEZE = true → Completes .pmcSnapshotSwap s fun t =>
      t.pmc.image = s.pmc.image ∧ t.pmc.due = false ∧ FieldsBut [] s t ∧ SameBut [.pmc] s t)
    ∧ (s.pmc.due = false → Completes .pmcSnapshotSwap s fun t => t = s))
  ∧ ∀ (b : Fin 30) (c : Fin 8) (add : BitVec 24) (s : State),
    let v := s.pmc.live.getD (b.val * 8 + c.val) 0 + add.toNat
    (2 ^ 48 ≤ v → Completes (.counterWrap b c add) s fun t =>
      t.pmc.live.getD (b.val * 8 + c.val) 0 = v % 2 ^ 48 ∧ (t.pmc.ovf.getD b.val 0).testBit c = true ∧ t.pmc.ovfEvt = true
      ∧ (∀ k, k ≠ b.val * 8 + c.val → t.pmc.live.get? k = s.pmc.live.get? k) ∧ SameBut [.pmc] s t)
    ∧ (v < 2 ^ 48 → Completes (.counterWrap b c add) s fun t => t = s)

/-- R335, R341, R342, R345 to R347: a planned change sets the target of the domain's group: ROOT at the planned divider, IOSC at
n; XTAL, AON and a domain that has failed over take none. A ramp step on the target's source moves the lead's divider one step and
each member's in its ratio; off it at the handover divider, it waits for the new source to be stable. A source that is stable says
so, and XTAL takes AON; a gate opens after its parents; a gate with an open child is not closed, and the refusal is held and
counted. Where this goes beyond the rules it is the model's choice: log entries 101 and 111. -/
def Obligations.clocks_change_ramp_and_gate : Prop :=
  ((∀ (d : Fin 60) (src : ClockSource) (s : State), (src = .root → s.ratiosHold (leadOf d) = true) →
       Completes (.clockSourceChange d src) s fun t =>
         (d.val ≠ 58 → src ≠ .xtal → (∀ m ∈ groupOf (leadOf d), s.flag (Fld.CLK_DSTS_FAILED.sel m.1) = false) →
           let go := if src = .root then (0, s.get (Fld.CLK_DCFG_DIV.sel (leadOf d))) else (1, ioscDiv (leadOf d))
           t.clk = { s.clk with target := s.clk.target.put (leadOf d) go }
           ∧ SameBut [.clk] s t)
         ∧ ((d.val = 58 ∨ src = .xtal ∨ ∃ m ∈ groupOf (leadOf d), s.flag (Fld.CLK_DSTS_FAILED.sel m.1) = true) → t = s))
     ∧ ∀ (d : Fin 60) (s : State),
       (s.clk.target.get? (leadOf d) = none → Completes (.clockRampStep d) s fun t => t = s)
       ∧ ∀ src div, s.clk.target.get? (leadOf d) = some (src, div) → (src = 0 → s.ratiosHold (leadOf d) = true) →
         Completes (.clockRampStep d) s fun t =>
           let now := s.inForce (leadOf d)
           (now.1 = src → now.2 ≠ div → ∀ m ∈ groupOf (leadOf d),
             t.inForce m.1 = (src % 4, stepDivider now.2 div * m.2 % 1024))
           ∧ (now = (src, div) → t.clk.target.get? (leadOf d) = none
             ∧ ∀ m ∈ groupOf (leadOf d), t.flag (Fld.CLK_DSTS_RAMP.sel m.1) = false)
           ∧ (now.1 ≠ src → now.2 = handover (leadOf d) now.1 →
             (s.srcStable src = false → t = s)
             ∧ (s.srcStable src = true → ∀ m ∈ groupOf (leadOf d), t.inForce m.1 = (src % 4, handover m.1 src % 1024))))
  ∧ ((∀ s : State,
       (Completes (.clockSourceStable .root) s fun t =>
         t.flag Fld.CLK_SRC_STS_ROOT_LOCK = true ∧ t.flag Fld.CLK_SRC_STS_ROOT_STABLE = true
         ∧ FieldsBut [Fld.CLK_SRC_STS_ROOT_LOCK, Fld.CLK_SRC_STS_ROOT_STABLE] s t ∧ SameBut [.win 1] s t)
       ∧ (Completes (.clockSourceStable .iosc) s fun t =>
         t.flag Fld.CLK_SRC_STS_IOSC_STABLE = true ∧ FieldsBut [Fld.CLK_SRC_STS_IOSC_STABLE] s t ∧ SameBut [.win 1] s t)
       ∧ Completes (.clockSourceStable .xtal) s fun t =>
         t.flag Fld.CLK_SRC_STS_XTAL_STABLE = true
         ∧ (s.flag (Fld.CLK_DSTS_FAILED.sel 58) = false → t.inForce 58 = (2, 1))
         ∧ (s.flag (Fld.CLK_DSTS_FAILED.sel 58) = true → t.inForce 58 = s.inForce 58)
         ∧ FieldsBut [Fld.CLK_SRC_STS_XTAL_STABLE, Fld.CLK_DSTS_SRC.sel 58, Fld.CLK_DSTS_DIV.sel 58] s t)
     ∧ (∀ (r : GateRequester) (d : Fin 60) (die : Fin 16) (tile : Fin 8448) (s : State),
       (Completes (.clockGateOpen r (.module d)) s fun t =>
         t.flag (Fld.CLK_DSTS_GATE.sel d.val) = true ∧ FieldsBut [Fld.CLK_DSTS_GATE.sel d.val] s t ∧ SameBut [.win 1] s t)
       ∧ (d.val < 48 → Completes (.clockGateOpen r (.die d)) s fun t =>
         t.flag (Fld.CLK_DSTS_GATE.sel d.val) = true ∧ d.val ∈ t.clk.dieGates ∧ FieldsBut [Fld.CLK_DSTS_GATE.sel d.val] s t)
       ∧ (48 ≤ d.val → Completes (.clockGateOpen r (.die d)) s fun t => t = s)
       ∧ Completes (.clockGateOpen r (.tile die tile)) s fun t =>
         tileKey die tile ∈ t.clk.tileGates
         ∧ (∀ d ∈ dieDomains die, d ∈ t.clk.dieGates ∧ t.flag (Fld.CLK_DSTS_GATE.sel d) = true)
         ∧ FieldsBut ((dieDomains die).map Fld.CLK_DSTS_GATE.sel) s t)
     ∧ ∀ (r : GateRequester) (d : Fin 60) (die : Fin 16) (tile : Fin 8448) (s : State),
       let refused := fun (level : Nat) (t : State) =>
         t.flag Fld.CLK_EVT_REFUSED = true ∧ t.get Fld.CLK_REFUSE_REQ = requesterCode r ∧ t.get Fld.CLK_REFUSE_LEVEL = level
         ∧ t.get Fld.CLK_REFUSE_DOMAIN = d ∧ t.rd64 Reg.CLK_REFUSE_CNT = (s.rd64 Reg.CLK_REFUSE_CNT + 1) % 2 ^ 64
         ∧ FieldsBut (Fld.CLK_EVT_REFUSED :: Fld.word Reg.CLK_REFUSE :: Fld.dword Reg.CLK_REFUSE_CNT) s t ∧ SameBut [.win 1] s t
       (s.flag (Fld.CLK_DSTS_GATE.sel d.val) = true → d.val ∈ s.clk.dieGates → Completes (.clockGateClose r (.module d)) s (refused 0))
       ∧ (d.val ∉ s.clk.dieGates → Completes (.clockGateClose r (.module d)) s fun t =>
         t.flag (Fld.CLK_DSTS_GATE.sel d.val) = false ∧ FieldsBut [Fld.CLK_DSTS_GATE.sel d.val] s t ∧ SameBut [.win 1] s t)
       ∧ (d.val ∈ s.clk.dieGates → s.tileGateOpen (d.val / 3) = true → Completes (.clockGateClose r (.die d)) s (refused 1))
       ∧ (s.tileGateOpen (d.val / 3) = false → Completes (.clockGateClose r (.die d)) s fun t =>
         d.val ∉ t.clk.dieGates ∧ FieldsBut [] s t ∧ SameBut [.clk] s t)
       ∧ Completes (.clockGateClose r (.tile die tile)) s fun t =>
         tileKey die tile ∉ t.clk.tileGates ∧ (∀ k, k ≠ tileKey die tile → (k ∈ t.clk.tileGates ↔ k ∈ s.clk.tileGates))
         ∧ FieldsBut [] s t ∧ SameBut [.clk] s t)

/-- R336, R343 to R345: a window in which its domain stepped is discarded; one in band is only counted; one out of band fails the
domain, which runs from IOSC at divider n from then on. ROOT, found out of band or out of lock, fails with every domain on it. Of
XI, RX and RI, two that fail together name the source. An interface PLL is a report and no failover. Where this goes beyond the
rules it is the model's choice: log entries 44 and 106. -/
def Obligations.clock_monitors_and_failover : Prop :=
(∀ (d : Fin 60) (count : Nat) (s : State),
    let e := s.domainExpected d
    (d.val ∈ s.clk.stepped → Completes (.clockMonitorWindow (.dom d) count) s fun t =>
      d.val ∉ t.clk.stepped ∧ t.rd64 Reg.CLK_MON_DISC = (s.rd64 Reg.CLK_MON_DISC + 1) % 2 ^ 64
      ∧ FieldsBut (Fld.dword Reg.CLK_MON_DISC) s t ∧ SameBut [.clk, .win 1] s t)
    ∧ (d.val ∉ s.clk.stepped → outOfBand count e.1 e.2 (s.bandOf d) = false → Completes (.clockMonitorWindow (.dom d) count) s fun t =>
      t.get (Fld.CLK_MON_COUNT.sel d.val) = count % 2 ^ 17 ∧ FieldsBut [Fld.CLK_MON_COUNT.sel d.val] s t ∧ SameBut [.win 1] s t)
    ∧ (d.val ∉ s.clk.stepped → outOfBand count e.1 e.2 (s.bandOf d) = true → s.srcFailed (s.inForce d).1 = false →
      s.flag (Fld.CLK_DSTS_FAILED.sel d.val) = false → Completes (.clockMonitorWindow (.dom d) count) s fun t =>
      t.flag (Fld.CLK_DSTS_FAILED.sel d.val) = true ∧ t.inForce d = (1, ioscDiv d) ∧ t.flag Fld.CLK_EVT_FAIL = true
      ∧ t.rd64 Reg.CLK_FAIL_CNT = (s.rd64 Reg.CLK_FAIL_CNT + 1) % 2 ^ 64))
  ∧ (∀ (count : Nat) (s : State), s.flag Fld.CLK_SRC_STS_ROOT_FAIL = false →
    let failed := fun (t : State) =>
      t.flag Fld.CLK_SRC_STS_ROOT_FAIL = true ∧ t.flag Fld.CLK_SRC_STS_ROOT_STABLE = false ∧ t.flag Fld.CLK_EVT_FAIL = true
      ∧ ∀ d, d < 60 → (s.inForce d).1 = 0 → t.flag (Fld.CLK_DSTS_FAILED.sel d) = true ∧ t.inForce d = (1, ioscDiv d)
    (Completes .rootPllLossOfLock s fun t => t.flag Fld.CLK_SRC_STS_ROOT_LOCK = false ∧ failed t)
    ∧ (outOfBand count 8192 1 defaultBand = true → Completes (.clockMonitorWindow .pl count) s failed)
    ∧ (outOfBand count 8192 1 defaultBand = false → Completes (.clockMonitorWindow .pl count) s fun t => t = s))
  ∧ (∀ (m : ClockMonitor) (count : Nat) (xi rx ri : Bool) (s : State),
    (m = .xi ∧ xi = outOfBand count 8192 1 defaultBand ∧ s.clk.rx = some rx ∧ s.clk.ri = some ri
      ∨ m = .rx ∧ rx = outOfBand count 4096 1 defaultBand ∧ s.clk.xi = some xi ∧ s.clk.ri = some ri
      ∨ m = .ri ∧ ri = outOfBand count 2048 1 defaultBand ∧ s.clk.xi = some xi ∧ s.clk.rx = some rx) →
    Completes (.clockMonitorWindow m count) s fun t =>
      (xi = true → rx = true → t.flag Fld.CLK_SRC_STS_XTAL_FAIL = true)
      ∧ (xi = true → ri = true → rx = false → t.flag Fld.CLK_SRC_STS_IOSC_FAIL = true)
      ∧ (rx = true → ri = true → t.flag Fld.CLK_SRC_STS_REF_FAIL = true)
      ∧ ((xi.toNat + rx.toNat + ri.toNat < 2) → FieldsBut [] s t ∧ SameBut [.clk] s t))
  ∧ ∀ (p : IfacePll) (s : State), Completes (.interfacePllLossOfLock p) s fun t =>
      t.rd64 Reg.PAT_REPORTS = (s.rd64 Reg.PAT_REPORTS + 1) % 2 ^ 64 ∧ SameBut reportParts s t


/-! ### Queue pairs, descriptors, requests -/

/-- R169 to R172, R184: SQ_TAIL sets the tail, CQ_HEAD returns entries, of an enabled queue pair; another access, a queue pair that
is not enabled, a tail beyond its ring and a head that returns more than the ring holds are violations. -/
def Obligations.doorbells_move_tail_and_head : Prop :=
∀ (q : Fin 16384) (off : BitVec 12) (n : Fin 9) (v : Word) (s : State),
    let x := wordBits v 0 16
    let back := cqReturned (s.cqSize q) (s.qp q).cqHead (s.qp q).cqUsed x
    (s.enabled q = true → x < s.sqSize q → Completes (.sqTail q 0 4 v) s fun t =>
      t.qp q = { s.qp q with sqTail := x } ∧ (∀ p, p ≠ q.val → t.qp p = s.qp p) ∧ FieldsBut [] s t ∧ SameBut [.qps] s t)
    ∧ (s.enabled q = true → x < s.cqSize q → back ≤ (s.qp q).cqUsed → (s.qp q).backlog = [] →
      Completes (.cqHead q 8 4 v) s fun t =>
        t.qp q = { s.qp q with cqHead := x, cqUsed := (s.qp q).cqUsed - back }
        ∧ (∀ p, p ≠ q.val → t.qp p = s.qp p) ∧ FieldsBut [] s t ∧ SameBut [.qps] s t)
    ∧ ((n ≠ 4 ∨ off.toNat % 4 ≠ 0 ∨ (off ≠ 0 ∧ off ≠ 8) ∨ s.enabled q = false) →
      Completes (.sqTail q off n v) s (Violates [] s) ∧ Completes (.cqHead q off n v) s (Violates [] s))
    ∧ (s.enabled q = true → s.sqSize q ≤ x → Completes (.sqTail q 0 4 v) s (Violates [] s))
    ∧ (s.enabled q = true → (s.cqSize q ≤ x ∨ (s.qp q).cqUsed < back) → Completes (.cqHead q 8 4 v) s (Violates [] s))

/-- R170, R172, R184: a valid QP_CFG write with EN 1 starts the selected queue pair with its heads, tails and counts at 0; an invalid
one leaves EN 0 with CFG_ERR and a violation; a write with EN 0 stops it, and its rings and backlog stay; while it runs the fields
that are fixed keep the whole word. -/
def Obligations.queue_pairs_start_and_stop : Prop :=
∀ (v : Word) (s : State), Decoded s →
    let q := s.get Fld.QP_SEL_QP
    let free := ((s.rd (keyAt q Reg.QP_CFG) ^^^ (v &&& qpCfgMask)) &&& ~~~ qpCfgFree) = 0#32
    (s.enabled q = false → wordBits v 31 1 = 1 → s.enableOk q (v &&& qpCfgMask) = true → (s.qp q).backlog = [] →
      Completes (.qpEnable v) s fun t =>
        t.rd (keyAt q Reg.QP_CFG) = v &&& qpCfgMask ∧ t.enabled q = true ∧ t.flag (Fld.QP_STS_ENABLED.sel q) = true
        ∧ t.get (Fld.QP_SQ_HEAD_INDEX.sel q) = 0 ∧ t.get (Fld.QP_CQ_TAIL_INDEX.sel q) = 0
        ∧ t.qp q = { s.qp q with sqTail := 0, cqHead := 0, cqUsed := 0, phase := true, fence := none,
                                 counts := ⟨0, 0, 0, 0, 0, 0, 0, 0⟩ }
        ∧ (∀ p, p ≠ q → t.qp p = s.qp p)
        ∧ FieldsBut [Fld.word (keyAt q Reg.QP_CFG), Fld.QP_STS_ENABLED.sel q, Fld.QP_SQ_HEAD_INDEX.sel q,
            Fld.QP_CQ_TAIL_INDEX.sel q] s t
        ∧ SameBut [.qps, .win 7] s t)
    ∧ (s.enabled q = false → wordBits v 31 1 = 1 → s.enableOk q (v &&& qpCfgMask) = false →
      Completes (.qpEnable v) s fun t =>
        t.enabled q = false ∧ t.flag (Fld.QP_STS_CFG_ERR.sel q) = true ∧ Violates [] s t)
    ∧ (s.enabled q = true → free → wordBits v 31 1 = 0 → Completes (.qpDisable v) s fun t =>
        t.rd (keyAt q Reg.QP_CFG) = v &&& qpCfgMask ∧ t.enabled q = false
        ∧ t.flag (Fld.QP_STS_ENABLED.sel q) = false ∧ t.flag (Fld.QP_STS_FETCH_ERR.sel q) = false
        ∧ FieldsBut [Fld.word (keyAt q Reg.QP_CFG), Fld.QP_STS_ENABLED.sel q, Fld.QP_STS_FETCH_ERR.sel q] s t
        ∧ SameBut [.win 7] s t)
    ∧ (s.enabled q = true → ¬ free →
      Completes (.qpEnable v) s (fun t => t.rd (keyAt q Reg.QP_CFG) = s.rd (keyAt q Reg.QP_CFG) ∧ Violates [] s t)
      ∧ Completes (.qpDisable v) s fun t => t.rd (keyAt q Reg.QP_CFG) = s.rd (keyAt q Reg.QP_CFG) ∧ Violates [] s t)

/-- R171, R178, R184, R185: a descriptor that may not be accepted waits and changes nothing. One of no command is refused with
BAD_OPCODE and a violation. A bib command whose identifier fails steps 3 to 5 is refused with the status of the check, and the
request table stays. -/
def Obligations.descriptors_wait_or_are_refused : Prop :=
∀ (q : Fin 16384) (d : Desc) (p : Option (List Word)) (b : Option (List Byte)) (s : State),
    (∀ c, c ∈ [.open q d p, .append q d p, .pause q d, .resume q d, .close q d, .prefixCreate q d p, .prefixDrop q d,
        .waxLoad q d b, .waxFit q d b, .query q d, .fence q d] →
      (s.mayAccept q (dOpcode d) = false → exec c s = .next s)
      ∧ (s.mayAccept q (dOpcode d) = true → dOpcode d ∉ opcodes → Completes c s fun t =>
        HeadMoved q s t ∧ Posts q (plainRecord 0#32 (dCid d) .cmd stBadOpcode 0 0 0) s t
        ∧ t.bibs = s.bibs ∧ t.freeBibs = s.freeBibs ∧ t.kvm = s.kvm ∧ t.wax = s.wax
        ∧ t.flag Fld.QP_EVT_VIOL = true))
    ∧ ∀ c op, (c, op) ∈ [(Instr.append q d p, 2), (.pause q d, 3), (.resume q d, 4), (.close q d, 5)] →
      ∀ n, Ready q op d s → descBytesOk d = true → s.bibCheck q (dBib d) = some n → Completes c s fun t =>
        HeadMoved q s t ∧ Posts q (plainRecord (dBib d) (dCid d) .cmd n.status 0 0 0) s t
        ∧ t.bibs = s.bibs ∧ t.freeBibs = s.freeBibs ∧ t.kvm = s.kvm ∧ t.wax = s.wax

/-- R149, R151, R175, R178: an OPEN that passes R185 fills the entry at the head of the free list, in ADMITTED, with the fields of
the descriptor and the queue pair, and its record returns the identifier. A refused one changes no entry. Where this goes beyond
the rules it is the model's choice: log entry 4. -/
def Obligations.open_admits_a_bib : Prop :=
∀ (q : Fin 16384) (d : Desc) (s : State), Ready q 0x01 d s →
    (∀ toks i, s.openCheck q d (some toks) = none → s.freeBibs.head 65536 = some i →
      Completes (.open q d (some toks)) s fun t =>
        let b := t.bib i
        HeadMoved q s t ∧ t.freeBibs = s.freeBibs.pop 65536 ∧ OtherBibs i s t
        ∧ b.state = .admitted ∧ b.cause = .open ∧ b.gen = (s.bib i).gen ∧ b.qp = q ∧ b.tenant = s.get (Fld.QP_CFG_TENANT.sel q)
        ∧ b.modelSlot = dSlot d ∧ b.promptLen = dfield d 0x10 4 ∧ b.maxLen = dfield d 0x14 4 ∧ b.wax = dWax d
        ∧ b.pfxHandle = dfield d 0x20 8 ∧ b.promptDone = 0 ∧ b.genTokens = 0 ∧ b.blocks = [] ∧ b.admitLap = s.lap
        ∧ b.priority = (s.floorPrio q (bits (dFlags d) 0 3)).1
        ∧ b.deadline = (if dfield d 0x18 4 = 0 then none else some (s.lap + dfield d 0x18 4))
        ∧ b.inputs = (toks.map (·.toNat)).take (dfield d 0x10 4)
        ∧ Posts q { plainRecord (bibIdOf i (s.bib i).gen) (dCid d) .cmd stOk 1 1 0 with
            adj := (s.floorPrio q (bits (dFlags d) 0 3)).2 } s t)
    ∧ ∀ prompt n, s.openCheck q d prompt = some n → Completes (.open q d prompt) s fun t =>
        HeadMoved q s t ∧ t.bibs = s.bibs ∧ t.freeBibs = s.freeBibs ∧ t.kvm = s.kvm ∧ t.wax = s.wax
        ∧ Posts q (plainRecord 0#32 (dCid d) .cmd n.status n.state 0 n.count) s t
        ∧ (n.status = stTableFull → t.flag Fld.BIB_EVT_TABLE_FULL = true
          ∧ t.rd64 Reg.BIB_OPEN_REF = (s.rd64 Reg.BIB_OPEN_REF + 1) % 2 ^ 64)

/-- R155, R156: APPEND adds its tokens, and a decoding bib holds a pending TOW; PAUSE, RESUME and CLOSE move a bib that holds no
slot at once and leave the transition pending on one that does; a CLOSE of a FAULTED bib frees it. No other bib changes. Where
this goes beyond the rules it is the model's choice: log entry 36. -/
def Obligations.bib_commands_move_or_pend : Prop :=
∀ (q : Fin 16384) (d : Desc) (s : State),
    let i := idIndex (dBib d)
    let b := s.bib i
    (∀ toks, NamesOwn q 0x02 d s → s.appendCheck d (some toks) b = none → Completes (.append q d (some toks)) s fun t =>
      HeadMoved q s t ∧ OtherBibs i s t
      ∧ (t.bib i).promptLen = b.promptLen + dfield d 0x10 4
      ∧ (t.bib i).inputs = b.inputs ++ (toks.map (·.toNat)).take (dfield d 0x10 4)
      ∧ (b.state = .decoding → (t.bib i).state = .decoding ∧ (t.bib i).appended = true
        ∧ (t.bib i).pend = (if b.pend = .none then .tow else b.pend))
      ∧ (b.state = .lodged ∧ b.restored = true → (t.bib i).state = .towing ∧ (t.bib i).prefillDone = false)
      ∧ (b.state = .admitted ∨ b.state = .towing ∨ b.state = .paused → (t.bib i).state = b.state ∧ (t.bib i).prefillDone = false))
    ∧ (NamesOwn q 0x03 d s → pauseCheck b = none → Completes (.pause q d) s fun t =>
      HeadMoved q s t ∧ OtherBibs i s t
      ∧ (b.state ≠ .paused → b.holdsSlot = true → (t.bib i).pend = .pause ∧ (t.bib i).state = b.state
        ∧ (t.bib i).decSlot = b.decSlot ∧ (t.bib i).towSlot = b.towSlot
        ∧ Posts q (plainRecord (s.bibId i) (dCid d) .cmd stOk (stateCode b.state) 0 b.genTokens) s t)
      ∧ (b.state ≠ .paused → b.holdsSlot = false → (t.bib i).state = .paused ∧ (t.bib i).cause = .pause
        ∧ (t.bib i).decSlot = none ∧ (t.bib i).towSlot = none ∧ (t.bib i).ttl = dfield d 0x08 4)
      ∧ (b.state = .paused → t.bib i = { b with ttl := dfield d 0x08 4 }))
    ∧ (NamesOwn q 0x04 d s → resumeCheck b = none → Completes (.resume q d) s fun t =>
      HeadMoved q s t ∧ OtherBibs i s t
      ∧ (b.state = .paused → (t.bib i).state = .lodged ∧ (t.bib i).cause = .resume ∧ (t.bib i).lodgeLap = s.lap ∧ (t.bib i).ttl = 0)
      ∧ (b.state = .lodged → t.bib i = b))
    ∧ (NamesOwn q 0x05 d s → Completes (.close q d) s fun t =>
      HeadMoved q s t ∧ OtherBibs i s t
      ∧ (b.state = .faulted → Freed i s t)
      ∧ (b.state = .closing → t.bib i = b)
      ∧ (b.holdsSlot = true → (t.bib i).pend = .close ∧ (t.bib i).state = b.state)
      ∧ (b.holdsSlot = false → b.state ≠ .faulted → b.state ≠ .closing → (t.bib i).state = .closing ∧ (t.bib i).cause = .close
        ∧ (t.bib i).decSlot = none ∧ (t.bib i).towSlot = none ∧ (t.bib i).blocks = [] ∧ (t.bib i).pend = .none))

/-- R148, R149, R153, R159, R161, R205, R206: TTL_EXPIRED, FAULT_HOLD and RELEASED free the entry they name when it is due in its
state, with the generation after its own and at the end of the free list; else they change nothing. A finished block of a transfer
stands on pages of the other tier; the last one of a restore sets RESTORED, or moves a bib whose prefill is not done to TOWING. A
stale completion is counted. Where this goes beyond the rules it is the model's choice: log entries 13, 70 and 71. -/
def Obligations.bibs_leave_and_transfers_end : Prop :=
  (∀ (i : Fin 65536) (s : State) (c : Instr) (st : BibState),
       (c, st) ∈ [(.ttlExpired i, .paused), (.faultHold i, .faulted), (.released i, .closing)] →
       ((s.bib i).state = st → s.leavesTable (s.bib i) = true → Completes c s (Freed i s))
       ∧ (¬ ((s.bib i).state = st ∧ s.leavesTable (s.bib i) = true) → Completes c s fun t => t = s))
  ∧ ((∀ (bib : Word) (blk : Nat) (k : Block) (s : State),
       let i := idIndex bib
       let b := s.bib i
       s.names bib = true → b.state ≠ .closing → b.state ≠ .faulted → b.blocks[blk]? = some k →
       (∀ p, b.xfer = .out p → k.movesOut = true → k.pages.length ≤ s.poolFree b.home true →
         Completes (.transferBlockDone bib blk) s fun t =>
           (∃ k', (t.bib i).blocks[blk]? = some k' ∧ k'.lodge = true ∧ k'.pages = s.lowestPages b.home true k.pages.length
             ∧ k'.fill = k.fill ∧ k'.pos0 = k.pos0)
           ∧ (t.bib i).state = b.state ∧ OtherBibs i s t)
       ∧ (b.xfer = .back → k.lodge = true → s.pbOf b ≤ b.restorePages.length → Completes (.transferBlockDone bib blk) s fun t =>
           (∃ k', (t.bib i).blocks[blk]? = some k' ∧ k'.lodge = false ∧ k'.pages = b.restorePages.take (s.pbOf b)
             ∧ k'.fill = k.fill ∧ k'.pos0 = k.pos0)
           ∧ (t.bib i).restorePages = b.restorePages.drop (s.pbOf b) ∧ (t.bib i).state = b.state ∧ OtherBibs i s t))
     ∧ (∀ (bib : Word) (s : State),
       let i := idIndex bib
       let b := s.bib i
       s.names bib = true → b.state = .lodged → b.xfer = .back → b.lodgeBlocks = 0 → Completes (.restoreDone bib) s fun t =>
         (t.bib i).xfer = .none ∧ (t.bib i).restorePages = [] ∧ (t.bib i).restored = b.prefillDone
         ∧ (t.bib i).state = (if b.prefillDone then .lodged else .towing) ∧ OtherBibs i s t)
     ∧ ∀ (bib : Word) (blk : Nat) (s : State), s.names bib = false →
       let stale := fun (t : State) =>
         t.rd64 Reg.BIB_STALE_INT = (s.rd64 Reg.BIB_STALE_INT + 1) % 2 ^ 64 ∧ FieldsBut (Fld.dword Reg.BIB_STALE_INT) s t
         ∧ t.bibs = s.bibs
       Completes (.transferBlockDone bib blk) s stale ∧ Completes (.restoreDone bib) s stale)

/-- R207 to R209: PREFIX_CREATE takes a prefix entry, BUILDING, and a bib for it; the end of its last chunk makes it READY with
one reference and frees the bib, and the WORK record carries the handle; PREFIX_DROP drains a READY prefix, freeing one without
other references, and marks a build as abandoned. Where this goes beyond the rules it is the model's choice: log entry 12. -/
def Obligations.prefixes_are_built_and_dropped : Prop :=
(∀ (q : Fin 16384) (d : Desc) (toks : List Word) (p i : Nat) (s : State), Ready q 0x10 d s →
    s.prefixCheck q d (some toks) = none → s.kvm.freePrefixes.head 65536 = some p → s.freeBibs.head 65536 = some i →
    Completes (.prefixCreate q d (some toks)) s fun t =>
      HeadMoved q s t ∧ OtherBibs i s t ∧ t.freeBibs = s.freeBibs.pop 65536
      ∧ t.kvm.freePrefixes = s.kvm.freePrefixes.pop 65536
      ∧ (t.pfx p).state = .building ∧ (t.pfx p).gen = (s.pfx p).gen ∧ (t.pfx p).bib = i ∧ (t.pfx p).refs = 0
      ∧ (t.pfx p).hub = s.prefixHub d ∧ (t.pfx p).modelSlot = dSlot d ∧ (t.pfx p).tenant = s.get (Fld.QP_CFG_TENANT.sel q)
      ∧ (t.bib i).state = .admitted ∧ (t.bib i).kind = .build p ∧ (t.bib i).promptLen = dfield d 0x10 4 ∧ (t.bib i).silent = true
      ∧ Posts q { plainRecord 0#32 (dCid d) .cmd stOk 0 0 0 with adj := (s.floorPrio q (bits (dFlags d) 2 3)).2 } s t)
  ∧ (∀ (i : Fin 65536) (p : Nat) (s : State), (s.bib i).kind = .build p → (s.bib i).pfxHandle = 0 →
    ((s.bib i).state = .towing → (s.bib i).promptDone = (s.bib i).promptLen → (s.pfx p).dropped = false →
      Completes (.prefixReady i) s fun t =>
        Freed i s t ∧ (t.pfx p).state = .ready ∧ (t.pfx p).refs = 1 ∧ (t.pfx p).gen = (s.pfx p).gen
        ∧ (t.pfx p).length = (s.bib i).promptLen ∧ (∀ b ∈ (t.pfx p).blocks, b.shared = true)
        ∧ Posts (s.pfx p).qp { plainRecord 0#32 (s.pfx p).cid .work stOk 0 0 0 with
            result0 := BitVec.ofNat 64 ((s.pfx p).gen * 2 ^ 32 + p) } s t))
  ∧ ∀ (q : Fin 16384) (d : Desc) (s : State), Ready q 0x11 d s → s.dropCheck q d = none →
    let p := dfield d 0x08 8 % 65536
    Completes (.prefixDrop q d) s fun t =>
      HeadMoved q s t ∧ t.bibs = s.bibs
      ∧ ((s.pfx p).state = .ready → 1 < (s.pfx p).refs →
        t.pfx p = { s.pfx p with state := .draining, refs := (s.pfx p).refs - 1 })
      ∧ ((s.pfx p).state = .ready → (s.pfx p).refs = 1 → t.pfx p = Prefix.free (nextGen (s.pfx p).gen)
        ∧ t.kvm.freePrefixes = s.kvm.freePrefixes.push p)
      ∧ ((s.pfx p).state = .building → t.pfx p = { s.pfx p with dropped := true })

/-- R180, R181: a QUERY writes the bytes of what it names before its record and changes no table; a FENCE holds acceptance until
no long command, with WORK, and no pending transition, with PEND, of the queue pair is left, then posts its record. -/
def Obligations.queries_answer_and_fences_hold : Prop :=
(∀ (q : Fin 16384) (d : Desc) (s : State), Ready q 0x30 d s → s.queryCheck q d = none → Completes (.query q d) s fun t =>
    HeadMoved q s t ∧ (s.sent ++ [.response (dfield d 0x08 8) (s.queryBytes d)] <+: t.sent)
    ∧ (bits (dFlags d) 0 2 = 1 → Posts q (plainRecord (dBib d) (dCid d) .cmd stOk (stateCode (s.bib (idIndex (dBib d))).state) 0
        (s.bib (idIndex (dBib d))).genTokens) s t)
    ∧ (bits (dFlags d) 0 2 ≠ 1 → Posts q (plainRecord 0#32 (dCid d) .cmd stOk 0 0 0) s t)
    ∧ t.bibs = s.bibs ∧ t.kvm = s.kvm ∧ t.wax = s.wax)
  ∧ (∀ (q : Fin 16384) (d : Desc) (s : State), Ready q 0x3F d s → descBytesOk d = true → Completes (.fence q d) s fun t =>
    HeadMoved q s t ∧ (t.qp q).fence = some ⟨dCid d, bits (dFlags d) 0 1 == 1, bits (dFlags d) 1 1 == 1⟩
    ∧ t.sent = s.sent ∧ ∀ op, t.mayAccept q op = false)
  ∧ ∀ (q : Fin 16384) (s : State),
    (∀ f, (s.qp q).fence = some f → s.fenceMet q f = true → Completes (.fenceComplete q) s fun t =>
      (t.qp q).fence = none ∧ Posts q (plainRecord 0#32 f.cid .cmd stOk 0 0 0) s t ∧ t.bibs = s.bibs)
    ∧ (∀ f, (s.qp q).fence = some f → s.fenceMet q f = false → Completes (.fenceComplete q) s fun t => t = s)
    ∧ ((s.qp q).fence = none → Completes (.fenceComplete q) s fun t => t = s)

/-- R172, R182 to R184: a vector whose timer runs out sends its message when it may and is pending else; unmasking sends a pending
one; a timer that ran out in L1 fires after the exit. D3hot keeps everything for the return, which drains the backlogs that have
room and fires what is pending, as Bus Master Enable does. A failed descriptor read stops the queue pair's fetching. Where this
goes beyond the rules it is the model's choice: log entry 10. -/
def Obligations.vectors_and_function_states : Prop :=
(∀ (vec : Fin 4096) (s : State),
    (vec.val ∈ s.pcie.timers → s.masked vec = false → s.canWrite = true → Completes (.msixVectorTimer vec false) s fun t =>
      t.sent = s.sent ++ [.msix vec] ∧ t.get (Fld.QP_VSTS_COUNTED.sel vec.val) = 0
      ∧ t.flag (Fld.QP_VSTS_PENDING.sel vec.val) = false ∧ vec.val ∉ t.pcie.timers
      ∧ FieldsBut [Fld.QP_VSTS_COUNTED.sel vec.val, Fld.QP_VSTS_PENDING.sel vec.val] s t)
    ∧ (vec.val ∈ s.pcie.timers → (s.masked vec = true ∨ s.canWrite = false) → Completes (.msixVectorTimer vec false) s fun t =>
      t.sent = s.sent ∧ t.get (Fld.QP_VSTS_COUNTED.sel vec.val) = 0 ∧ t.flag (Fld.QP_VSTS_PENDING.sel vec.val) = true
      ∧ vec.val ∉ t.pcie.timers ∧ FieldsBut [Fld.QP_VSTS_COUNTED.sel vec.val, Fld.QP_VSTS_PENDING.sel vec.val] s t)
    ∧ (vec.val ∈ s.pcie.timers → Completes (.msixVectorTimer vec true) s fun t =>
      vec.val ∈ t.pcie.l1Vectors ∧ vec.val ∉ t.pcie.timers ∧ FieldsBut [] s t ∧ SameBut [.pcie] s t)
    ∧ (vec.val ∉ s.pcie.timers → ∀ l, Completes (.msixVectorTimer vec l) s fun t => t = s)
    ∧ Completes (.msixUnmask vec) s fun t =>
      t.masked vec = false
      ∧ (s.flag (Fld.QP_VSTS_PENDING.sel vec.val) = true ∧ s.canWrite = true →
        t.sent = s.sent ++ [.msix vec] ∧ t.flag (Fld.QP_VSTS_PENDING.sel vec.val) = false)
      ∧ (s.flag (Fld.QP_VSTS_PENDING.sel vec.val) = false ∨ s.canWrite = false → t.sent = s.sent)
      ∧ FieldsBut [Fld.word (msixControl vec), Fld.QP_VSTS_PENDING.sel vec.val] s t)
  ∧ (∀ s : State, Completes .l1Exit s fun t =>
      t.pcie.l1 = false ∧ t.pcie.l1Vectors = []
      ∧ ∀ v ∈ s.pcie.l1Vectors, t.get (Fld.QP_VSTS_COUNTED.sel v) = 0
        ∧ (s.masked v = false → s.canWrite = true → .msix v ∈ t.sent))
  ∧ (∀ (pmeEn : Bool) (s : State), Completes (.d3hotEntry pmeEn) s fun t =>
      let waits := ∃ v, v < 4096 ∧ (s.flag (Fld.QP_VSTS_PENDING.sel v) = true ∨ s.get (Fld.QP_VSTS_COUNTED.sel v) ≠ 0)
      t.pcie = { s.pcie with d3hot := true, pmeEn := pmeEn } ∧ (pmeEn = true ∧ waits → t.sent = s.sent ++ [.pme])
      ∧ (¬ (pmeEn = true ∧ waits) → t.sent = s.sent) ∧ FieldsBut [] s t)
  ∧ (∀ (bm : Bool) (s : State),
    let back := fun (t : State) =>
      ((t.pcie.busMaster && !t.pcie.d3hot) = true →
        (∀ q, s.enabled q = true → (s.qp q).cqUsed + (s.qp q).backlog.length ≤ s.cqSize q → (t.qp q).backlog = [])
        ∧ ∀ v, v < 4096 → s.masked v = false → t.flag (Fld.QP_VSTS_PENDING.sel v) = false)
      ∧ ((t.pcie.busMaster && !t.pcie.d3hot) = false → SameBut [.pcie] s t ∧ FieldsBut [] s t)
    (Completes (.d0Return bm) s fun t => t.pcie.d3hot = false ∧ t.pcie.busMaster = bm ∧ back t)
    ∧ Completes (.busMasterEnable bm) s fun t => t.pcie.d3hot = s.pcie.d3hot ∧ t.pcie.busMaster = bm ∧ back t)
  ∧ ∀ (q : Fin 16384) (s : State),
    let waits := s.enabled q = true ∧ s.get (Fld.QP_SQ_HEAD_INDEX.sel q.val) ≠ (s.qp q).sqTail
      ∧ s.flag (Fld.QP_STS_FETCH_ERR.sel q.val) = false
    (waits → Completes (.descriptorFetchError q) s fun t =>
      t.flag (Fld.QP_STS_FETCH_ERR.sel q.val) = true ∧ (∀ op, t.mayAccept q op = false) ∧ Violates [] s t)
    ∧ (¬ waits → Completes (.descriptorFetchError q) s fun t => t = s)

/-- R238 to R251: a WAX_LOAD reserves its index, or drops a READY set; a checked first load is READY with the records it carried,
in the version of its lap; a completed move waits for the boundary. A WAX_FIT takes a bib and holds the fit; an update advances
the set's step, loss and version; the fit ends when its steps are done, and its bib is freed. Where this goes beyond the rules it
is the model's choice: log entries 13, 31, 32, 33 and 34. -/
def Obligations.wax_sets_load_move_and_fit : Prop :=
(∀ (q : Fin 16384) (d : Desc) (data : Option (List Byte)) (s : State), Ready q 0x20 d s → s.waxLoadCheck q d data = none →
    let w := dWaxIndex d
    Completes (.waxLoad q d data) s fun t =>
      HeadMoved q s t ∧ t.bibs = s.bibs
      ∧ (dfield d 0x10 4 ≠ 0 → (s.waxAt w).state = .absent → (t.waxAt w).state = .loading
        ∧ (t.waxAt w).tenant = s.get (Fld.QP_CFG_TENANT.sel q) ∧ (t.waxAt w).modelSlot = dSlot d)
      ∧ (dfield d 0x10 4 ≠ 0 → (s.waxAt w).state ≠ .absent → (t.waxAt w).load.isSome = true
        ∧ (t.waxAt w).state = (s.waxAt w).state ∧ (t.waxAt w).layers = (s.waxAt w).layers)
      ∧ (dfield d 0x10 4 = 0 → (s.waxAt w).state = .hbm ∨ (s.waxAt w).state = .lodge → 0 < (s.waxAt w).refs →
        t.waxAt w = { s.waxAt w with state := .draining })
      ∧ Posts q (plainRecord 0#32 (dCid d) .cmd stOk 0 0 0) s t)
  ∧ (∀ (w : Fin 131072) (l : WaxLoad) (s : State), (s.waxAt w).load = some l → l.ready = false →
    (s.badLayer (s.waxAt w).modelSlot l.data = none → l.first = true → Completes (.waxLoadDone w) s fun t =>
      t.waxAt w = s.loadedSet (s.waxAt w) l
      ∧ Posts l.qp { plainRecord 0#32 l.cid .work stOk 0 0 0 with result0 := 0#64 } s t)
    ∧ (s.badLayer (s.waxAt w).modelSlot l.data = none → l.first = false → (s.waxAt w).state = .hbm ∨ (s.waxAt w).state = .lodge →
      Completes (.waxLoadDone w) s fun t => t.waxAt w = { s.waxAt w with load := some { l with ready := true } })
    ∧ (∀ n, s.badLayer (s.waxAt w).modelSlot l.data = some n → l.first = true → Completes (.waxLoadDone w) s fun t =>
      t.waxAt w = Wax.absent
      ∧ Posts l.qp { plainRecord 0#32 l.cid .work stWaxBadImage 0 0 0 with result0 := BitVec.ofNat 64 n } s t))
  ∧ (∀ (w : Fin 131072) (s : State), (s.waxAt w).move = some false → (s.waxAt w).state = .moving →
    Completes (.waxMoveDone w) s fun t =>
      t.waxAt w = { s.waxAt w with move := some true }
      ∧ ((s.waxAt w).inLodge = true → t.rd64 Reg.WAX_PROMOTE = (s.rd64 Reg.WAX_PROMOTE + 1) % 2 ^ 64)
      ∧ ((s.waxAt w).inLodge = false → t.rd64 Reg.WAX_DEMOTE = (s.rd64 Reg.WAX_DEMOTE + 1) % 2 ^ 64))
  ∧ (∀ (q : Fin 16384) (d : Desc) (p : List Byte) (i : Nat) (s : State), Ready q 0x21 d s → s.waxFitCheck q d (some p) = none →
    s.freeBibs.head 65536 = some i → Completes (.waxFit q d (some p)) s fun t =>
      let w := dWaxIndex d
      HeadMoved q s t ∧ OtherBibs i s t ∧ (t.bib i).kind = .fit w ∧ (t.bib i).state = .admitted
      ∧ (t.waxAt w).fit.isSome = true ∧ (t.waxAt w).refs = (s.waxAt w).refs + 1 ∧ (t.waxAt w).layers = (s.waxAt w).layers)
  ∧ (∀ (w : Fin 131072) (grads : List (List Word)) (loss : Word) (sat : Nat) (f : Fit) (s : State),
    (s.waxAt w).fit = some f → (s.waxAt w).state ≠ .absent →
    (f.ran = true → Completes (.waxFitUpdate w grads loss sat) s fun t =>
      (t.waxAt w).steps = (s.waxAt w).steps + 1 ∧ (t.waxAt w).loss = loss ∧ (t.waxAt w).versionLap = s.lap
      ∧ (t.waxAt w).state = (s.waxAt w).state ∧ t.rd64 Reg.WAX_FIT_STEP = (s.rd64 Reg.WAX_FIT_STEP + 1) % 2 ^ 64
      ∧ (∀ v, v ≠ w.val → t.waxAt v = s.waxAt v)
      ∧ FieldsBut (Fld.dword Reg.WAX_FIT_STEP ++ Fld.dword Reg.WAX_FIT_SAT) s t)
    ∧ (f.ran = false → Completes (.waxFitUpdate w grads loss sat) s fun t => t = s))
  ∧ ∀ (w : Fin 131072) (f : Fit) (s : State), (s.waxAt w).fit = some f → (s.waxAt w).state ≠ .absent →
    (f.steps ≤ f.done ∨ f.dropped = true → Completes (.waxFitEnd w) s fun t =>
      (t.waxAt w).fit = none ∧ t.bib f.bib = Bib.free (nextGen (s.bib f.bib).gen) ∧ OtherBibs f.bib s t
      ∧ Posts f.qp { plainRecord 0#32 f.cid .work (if f.steps ≤ f.done then stOk else stWaxDropped) 0 0 0 with
          result0 := BitVec.ofNat 64 f.done, result1 := BitVec.ofNat 64 f.loss.toNat } s t)
    ∧ (f.done < f.steps → f.dropped = false → Completes (.waxFitEnd w) s fun t => t = s)


/-! ### Laps, the plan and energy -/

/-- R120, R125, R143, R283, R284: LAP_BOUNDARY ends the lap that runs: LAP_NUM counts on, the planned stretch becomes that of the
lap that begins, the plan, the lap's vectors and its measured energy are gone; in a domain that is to realign it begins the hold
instead. REALIGN_HOLD_END ends the hold with the postponed boundary, or with the first of a run after IDLE, in the domain's lap. A
READY module of a domain begins lap 0 at SYNC_LOCKED when it is LOCKED, in the domain's lap, and at NO_DOMAIN_PEER when it is not,
with domain lap 0. Without laps nothing happens. Where this goes beyond the rules it is the model's choice: log entries 68, 77 and
98. -/
def Obligations.laps_begin_at_their_boundaries : Prop :=
  (∀ (g dlap : Nat) (s : State),
     let begins := fun (t : State) =>
       t.lap = (s.lap + 1) % 2 ^ 64 ∧ t.rd64 Reg.LAP_TIME = g % 2 ^ 64 ∧ t.rd64 Reg.LNK_GTIME = g % 2 ^ 64
       ∧ t.get Fld.LAP_STS_STRETCH_US = s.plan.stretchNext % 2 ^ 17 ∧ t.get Fld.LAP_STS_SNOWPLOUGH = 0 ∧ t.rd Reg.LAP_NEXT = 0#32
       ∧ t.plan.grants = [] ∧ t.plan.lodges = [] ∧ t.plan.issued = [] ∧ t.plan.cutoffDone = false
       ∧ t.fab.messages = .empty ∧ t.att.lanes = .empty ∧ t.ledger.meas = 0 ∧ t.running = true
     ((s.running = false ∨ s.halted = true) → Completes (.lapBoundary g) s fun t => t = s)
     ∧ ((s.lnk.holding = false ∨ s.halted = true) → Completes (.realignHoldEnd dlap g) s fun t => t = s)
     ∧ (s.halted = false → s.plan.idleRequested = false → s.lnk.held = [] →
       (s.running = true → (s.lnk.realign && s.inDomain) = false → Completes (.lapBoundary g) s begins)
       ∧ (s.running = true → (s.lnk.realign && s.inDomain) = true → Completes (.lapBoundary g) s fun t =>
         t.running = false ∧ t.lnk.holding = true ∧ t.lnk.realign = false ∧ t.lap = s.lap ∧ t.bibs = s.bibs ∧ t.plan = s.plan)
       ∧ (s.lnk.holding = true → s.pwr.mode ≠ .idleExit → Completes (.realignHoldEnd dlap g) s fun t =>
         begins t ∧ t.lnk.holding = false ∧ t.dlap t.lap = dlap % 2 ^ 64)
       ∧ (s.lnk.holding = true → s.pwr.mode = .idleExit → Completes (.realignHoldEnd dlap g) s fun t =>
         t.running = true ∧ t.lap = s.lap ∧ t.lnk.holding = false ∧ t.dlap t.lap = dlap % 2 ^ 64
         ∧ t.rd64 Reg.LAP_TIME = g % 2 ^ 64 ∧ t.pwr.mode = .active)))
  ∧ (∀ (dlap g : Nat) (s : State),
     let begun := fun (n : Nat) (t : State) =>
       t.lap = 0 ∧ t.rd64 Reg.LNK_DLAP_OFS = n % 2 ^ 64 ∧ t.rd64 Reg.LAP_TIME = g % 2 ^ 64 ∧ t.running = true
       ∧ t.pwr.begun = true ∧ t.pwr.mode = .active ∧ t.plan.cutoffDone = false
       ∧ ∀ d < 16, s.seqState d ≠ 0 → s.seqState d ≠ 4 → t.seqState d = 2
     (s.awaitsLap0 = true → s.flag Fld.LNK_SYNC_LOCKED = true →
       Completes (.syncLocked dlap g) s (begun dlap) ∧ Completes (.noDomainPeer g) s fun t => t = s)
     ∧ (s.awaitsLap0 = true → s.flag Fld.LNK_SYNC_LOCKED = false →
       Completes (.noDomainPeer g) s (begun 0) ∧ Completes (.syncLocked dlap g) s fun t => t = s)
     ∧ (s.awaitsLap0 = false → Completes (.noDomainPeer g) s (fun t => t = s) ∧ Completes (.syncLocked dlap g) s fun t => t = s))

/-- R125, R126, R143, R147: a lap has one PLAN_CUTOFF; after it one PLAN_COMPLETE shows the planned stretch, with its event, as
valid, and the lap that the plan is for. R120: the shadow bank is composed once, from the trims at each tile's temperature, and
leaves those in force alone. Where this goes beyond the rules it is the model's choice: log entries 36 and 37. -/
def Obligations.a_lap_is_cut_off_planned_and_banked : Prop :=
∀ s : State,
  (s.running = true → s.halted = false →
    (s.plan.cutoffDone = false → Completes .planCutoff s fun t => t.plan.cutoffDone = true ∧ t.lap = s.lap ∧ t.running = true)
    ∧ (s.plan.cutoffDone = true → s.flag Fld.LAP_NEXT_VALID = false → Completes .planComplete s fun t =>
      t.get Fld.LAP_NEXT_STRETCH_US = s.plan.stretchNext % 2 ^ 16 ∧ t.flag Fld.LAP_NEXT_VALID = true
      ∧ (0 < s.plan.stretchNext → t.flag Fld.LAP_EVT_STRETCH = true)
      ∧ t.get Fld.LAP_PLAN_LAPNUM_LAP = (s.lap + 1) % 2 ^ 32 ∧ t.plan = s.plan ∧ t.bibs = s.bibs)
    ∧ (s.plan.composed = false → Completes .trimBankCompose s fun t =>
      t.plan.composed = true ∧ ∀ k x, s.fab.tiles.get? k = some x → ∃ y, t.fab.tiles.get? k = some y ∧ y.inForce = x.inForce
        ∧ y.bank = (if s.composed (k / 8448) x = x.trims then none else some (s.composed (k / 8448) x))
        ∧ y.passBanked = (x.passBanked || x.passPending) ∧ y.passPending = false))
  ∧ ((s.running = false ∨ s.halted = true ∨ s.plan.cutoffDone = true) → Completes .planCutoff s fun t => t = s)
  ∧ ((s.running = false ∨ s.halted = true ∨ s.plan.cutoffDone = false ∨ s.flag Fld.LAP_NEXT_VALID = true) →
    Completes .planComplete s fun t => t = s)
  ∧ ((s.running = false ∨ s.halted = true ∨ s.plan.composed = true) → Completes .trimBankCompose s fun t => t = s)

/-- R326 to R331, R334: a budget below MIN or above 1600 is a violation, another is in force; a pause point of the lap forms E_m,
and an excess above 0 pauses the piste clock for the q of R329, moving the boundary of a module outside a domain; SNOWPLOUGH_END
resumes it. Where this goes beyond the rules it is the model's choice: log entry 72. -/
def Obligations.budgets_and_snowplough_pauses : Prop :=
(∀ (v : Word) (em ns : Nat) (s : State), Decoded s →
    let w := wordBits v 0 16
    ((w < s.get Fld.LAP_EBUDGET_MIN ∨ 1600 < w) → Completes (.lapEbudget v em ns) s (Violates [] s))
    ∧ (s.get Fld.LAP_EBUDGET_MIN ≤ w → w ≤ 1600 → Completes (.lapEbudget v em ns) s fun t =>
      t.get Fld.LAP_EBUDGET_WATTS = w ∧ t.get Fld.LAP_EBUDGET_MIN = s.get Fld.LAP_EBUDGET_MIN
      ∧ t.rd64 Reg.QP_VIOL = s.rd64 Reg.QP_VIOL))
  ∧ (∀ (k ns : Nat) (s : State),
    let p := (s.measurePoint ns).advanceCap ns
    let q := p.pauseLength (p.excess k).toNat
    s.running = true → s.halted = false →
    (s.pointInLap k = false → Completes (.pausePoint k ns) s fun t => t = s)
    ∧ (s.pointInLap k = true → p.excess k ≤ 0 → Completes (.pausePoint k ns) s fun t =>
      t.ledger = { s.ledger with meas := s.ledger.meas + s.pointEnergy (ns - s.ledger.point), point := max s.ledger.point ns
                                 cap := s.ledger.cap + s.effEnergy (1000 * (ns / 1000 - s.ledger.elapsed / 1000))
                                 elapsed := max s.ledger.elapsed ns }
      ∧ FieldsBut [] s t)
    ∧ (s.pointInLap k = true → 0 < p.excess k → s.ledger.pauseUs + q < 65535 → s.inDomain = false →
      Completes (.pausePoint k ns) s fun t =>
        t.ledger = { p.ledger with pauses := s.ledger.pauses + 1, pauseUs := s.ledger.pauseUs + q, pausing := some q }
        ∧ t.get Fld.LAP_STS_STRETCH_US = (s.get Fld.LAP_STS_STRETCH_US + q) % 2 ^ 17 ∧ t.flag Fld.LAP_STS_SNOWPLOUGH = true
        ∧ t.flag Fld.LAP_EEVT_PAUSE = true ∧ t.rd64 Reg.LAP_PAUSE_CNT = (s.rd64 Reg.LAP_PAUSE_CNT + 1) % 2 ^ 64
        ∧ t.lnk.realign = s.lnk.realign))
  ∧ ∀ s : State, Completes .snowploughEnd s fun t => t.ledger.pausing = none ∧ SameBut [.ledger] s t

/-- R319, R320: excluding a sensor that is not broken, or a fifth of its die, is a violation; else EXCL is as written, and LEVEL is the
highest level of the sensors that are not excluded. -/
def Obligations.excluded_sensors_leave_the_level : Prop :=
∀ (v : Word) (em ns : Nat) (s : State), Decoded s →
  let d := s.get Fld.THM_SSEL_DIE
  let i := s.get Fld.THM_SSEL_INPUT
  let refused := wordBits v 31 1 = 1 ∧ s.excluded d i = false ∧ ((s.hkc d i).broken = false ∨ 4 ≤ s.excludedOn d)
  (refused → Completes (.thmSstsExcl v em ns) s (Violates [] s))
  ∧ (¬ refused → Completes (.thmSstsExcl v em ns) s fun t =>
    t.excluded d i = decide (wordBits v 31 1 = 1) ∧ t.get Fld.THM_STS_LEVEL = t.moduleLevel % 4 ∧ t.bibs = s.bibs
    ∧ t.rd64 Reg.QP_VIOL = s.rd64 Reg.QP_VIOL ∧ t.get Fld.THM_SSEL_DIE = d ∧ t.get Fld.THM_SSEL_INPUT = i)


/-! ### Waves, arrays and test operations -/

/-- R17 to R19, R127, R151, R153, R164, R224: a wave is issued once in a lap, in a slot of a model; a token vector marked for
replay is carried as zeros, and one of a bib whose tokens are on this module enters with the embedding row of its input token. A
decoding bib's token vector of an issued wave is sampled once; the token drawn from the head's output becomes the bib's next
input, counts as generated and drawn, and a STOP_TOKEN ends the bib. Where this goes beyond the rules it is the model's choice:
log entry 24. -/
def Obligations.waves_enter_and_samples_return : Prop :=
(∀ (w : Fin 96) (s : State),
     let goes := s.running = true ∧ s.halted = false ∧ w.val ∉ s.plan.issued ∧ (s.waveSlot w).isSome = true
     (goes → Completes (.waveIssue w) s fun t =>
       t.plan.issued = s.plan.issued ++ [w.val]
       ∧ (∀ k i, k < 128 → s.holder w k = some i → (s.bib i).replay = true → w.val * 128 + k ∈ t.fab.zeroed)
       ∧ ∀ k i x, k < 128 → s.holder w k = some i → (s.bib i).replay = false → (s.bib i).kind = .normal →
         s.ldr.slots.get? (s.slotOf w) = some x → x.dModel % 128 = 0 → x.dModel ≤ 4096 * 128 →
         t.residual w k x = x.embedding (s.inputToken i w k))
     ∧ (¬ goes → Completes (.waveIssue w) s fun t => t = s))
  ∧ (∀ (w : Fin 96) (k : Fin 128) (s : State),
     let goes := s.running = true ∧ s.halted = false ∧ w.val ∈ s.plan.issued ∧ w.val * 128 + k.val ∉ s.plan.sampled
     (¬ goes → Completes (.sample w k) s fun t => t = s)
     ∧ (goes → s.holder w k = none → Completes (.sample w k) s fun t =>
       t.plan = { s.plan with sampled := s.plan.sampled ++ [w.val * 128 + k.val] } ∧ t.bibs = s.bibs)
     ∧ ∀ (i : Nat) (x : Model) (y : Layer) (st : Stage) (v : List (BitVec 16)),
       let b := s.bib i
       let r := s.reductionsOf w k x.layers 7
       let tok := (s.runHub (pickToken b (v.take x.vocab) (r.getD 3 0#32) (r.getD 4 0#32) (r.getD 5 0#32).toNat)).1
       goes → w.val < 32 → s.holder w k = some i → b.kind = .normal → b.state = .decoding → b.replay = false →
       w.val * 128 + k.val ∉ s.fab.zeroed → s.ldr.slots.get? b.modelSlot = some x → s.layerOf b.modelSlot x.layers = some y →
       y.stage 7 = some st → s.outVector w k x.layers 7 st.colBlocks = some v →
       (b.stop = some tok → Completes (.sample w k) s fun t =>
         (t.bib i).state = .closing ∧ (t.bib i).cause = .stopToken ∧ OtherBibs i s t)
       ∧ (b.stop ≠ some tok → b.promptLen + b.genTokens + 1 < b.maxLen → s.bibId i ∉ s.plan.parting → Completes (.sample w k) s fun t =>
         (t.bib i).genTokens = b.genTokens + 1 ∧ (t.bib i).draws = b.draws + 1 ∧ (t.bib i).lastToken = tok
         ∧ (t.bib i).inputs = tok :: b.inputs.drop 1 ∧ (t.bib i).promptDone = b.promptDone + 1 ∧ (t.bib i).state = .decoding
         ∧ t.plan.sampled = s.plan.sampled ++ [w.val * 128 + k.val] ∧ OtherBibs i s t))

/-- R73 to R78, R87, R91, R98, R103, R104, R212, R224: a column block that has a message for every position, or a reserve unit's
substitute, is summed, scaled, joined and stored, with the substitutes counted; it waits until then, and stores zeros for a token
carried as zeros. A planned job counts the products of its kind; the job of a unit that has failed without a stand-in leaves its
token vectors invalid, and ends the bib of one. Nothing runs in a pause, or for an index without a job. Where this goes beyond the
rules it is the model's choice: log entry 20. -/
def Obligations.blocks_are_summed_and_jobs_counted : Prop :=
  (∀ (w : Fin 96) (k : Fin 128) (l : Fin 256) (st : Fin 8) (b : Fin 4096) (md : Model) (y : Layer) (x : Stage) (s : State),
     let m := s.slotOf w
     let arrived := (s.positions m l st b).mapM fun p => (s.position w k l st b p).map fun v => (p, v)
     s.ldr.slots.get? m = some md → s.layerOf m l = some y → y.stage st = some x → x.stage = st.val →
     b.val < x.colBlocks → x.colBlocks ≤ 4096 → s.occupied w k = true → s.gatedLayer m l = false →
     (w.val * 128 + k.val ∈ s.fab.zeroed → Completes (.columnSum w k l st b) s fun t =>
       t.outBlock w k l st b = some (List.replicate 128 0#16))
     ∧ (w.val * 128 + k.val ∉ s.fab.zeroed → x.resident ≠ 1 → arrived = none → Completes (.columnSum w k l st b) s fun t => t = s)
     ∧ (∀ ps, w.val * 128 + k.val ∉ s.fab.zeroed → x.resident ≠ 1 → arrived = some ps → Completes (.columnSum w k l st b) s fun t =>
       t.outBlock w k l st b = some (s.runHub (s.blockValues w k l b md y x (s.columnSums w k l st b ps))).1
       ∧ t.rd64 Reg.LAP_ACC_SUB = (s.rd64 Reg.LAP_ACC_SUB + (ps.filter fun p => p.2.2).length) % 2 ^ 64))
  ∧ (∀ (n : Nat) (s : State),
     (s.mogulRec n = none → Completes (.mogulJob n) s fun t => t = s)
     ∧ ∀ j, s.mogulRec n = some j →
       let toks := s.occupiedTokens j.wave
       let failed := s.unitState j.unit = 4 ∧ s.coverOf (waveHub j.wave) (mogulAddr j.unit) = none
       let goes := s.running = true ∧ s.halted = false ∧ s.paused = false
       (¬ goes → Completes (.mogulJob n) s fun t => t = s)
       ∧ (goes → failed → Completes (.mogulJob n) s fun t =>
         (∀ k ∈ toks, j.wave * 128 + k ∈ t.fab.invalid)
         ∧ ∀ k i, toks = [k] → s.holder j.wave k = some i → (s.bib i).kind = .normal → (s.bib i).mayFault = true →
           (t.bib i).state = .faulted ∧ (t.bib i).cause = .uncovered ∧ OtherBibs i s t)
       ∧ (goes → ¬ failed → s.poisonedPart (s.slotOf j.wave) j.layer j.stage = false → Completes (.mogulJob n) s fun t =>
         (j.kind = 0 → ∀ y, s.layerOf (s.slotOf j.wave) j.layer = some y → t.rd64 Reg.LAP_MOG_STATIC =
           (s.rd64 Reg.LAP_MOG_STATIC + (y.channels j.point).length * s.stageColumns (s.slotOf j.wave) j.layer j.stage * toks.length)
             % 2 ^ 64)
         ∧ (j.kind ≠ 0 → t.rd64 Reg.LAP_MOG_STATIC = s.rd64 Reg.LAP_MOG_STATIC)
         ∧ (j.kind = 3 → t.rd64 Reg.LAP_MOG_SHRES = (s.rd64 Reg.LAP_MOG_SHRES + s.jobMacs j / 128 * toks.length) % 2 ^ 64)
         ∧ (j.kind ≠ 3 → t.rd64 Reg.LAP_MOG_SHRES = s.rd64 Reg.LAP_MOG_SHRES)
         ∧ t.bibs = s.bibs ∧ FieldsBut (Fld.dword Reg.LAP_MOG_STATIC ++ Fld.dword Reg.LAP_MOG_SHRES) s t))

/-- R26 to R37, R40 to R43, R70: a firing, transposed read or reference read that its die may run is held by its free array and
counted, and one whose array still holds an output tile is a plan fault; else nothing happens. Where this goes beyond the rules it
is the model's choice: log entry 16. -/
def Obligations.arrays_take_firings_and_reads : Prop :=
∀ (d : Fin 16) (tl : Fin 8448) (s : State),
  (∀ (w : Fin 96) (rec : DWord) (codes : List (BitVec 4)),
    let a := recArray rec
    let k := recToken rec
    let fires := s.paused = false ∧ s.dieRuns d = true ∧ (s.tile d tl).state = .inService ∧ recKind rec < 2 ∧ s.occupied w k = true
    let free := s.arrayBusy d tl a = false ∧ (recKind rec = 1 → s.arrayBusy d tl (a + 1) = false)
    let p := s.inputOf d tl a w k (recHigh rec)
    let q := s.inputOf d tl (a + 1) w k (recHigh rec)
    let reads := s.paused = false ∧ s.dieRuns d = true ∧ (s.tile d tl).state = .inService ∧ (s.tile d tl).merged = false
    let faults := fun (t : State) =>
      t.flag (Fld.ARK_STS_PLAN_FAULT.die d) = true ∧ w.val ∈ (t.tile d tl).badWaves ∧ t.fab.arrays = s.fab.arrays
      ∧ FieldsBut [Fld.ARK_STS_PLAN_FAULT.die d] s t
    (fires → free → recKind rec = 0 → Completes (.firingIssue d tl w rec) s fun t =>
      (t.arr d tl a).held = some { kind := .separate, nnz := p.1, nnz2 := 0, wave := w, token := k, pair := recPair rec,
                                   nibble := recHigh rec, align := alignOf p.2.1 p.2.2, floor := p.2.2 }
      ∧ t.rd64 (arkKey Reg.ARK_FIRE_CNT d) = (s.rd64 (arkKey Reg.ARK_FIRE_CNT d) + 1) % 2 ^ 64
      ∧ t.rd64 (arkKey Reg.ARK_NNZ_SUM d) = (s.rd64 (arkKey Reg.ARK_NNZ_SUM d) + p.1) % 2 ^ 64
      ∧ t.ledger.credit = s.ledger.credit + (15000 - separateEnergy p.1))
    ∧ (fires → free → recKind rec = 1 → Completes (.firingIssue d tl w rec) s fun t =>
      (∃ h, (t.arr d tl a).held = some h ∧ h.kind = .merged ∧ h.nnz = p.1 ∧ h.nnz2 = q.1 ∧ h.wave = w.val ∧ h.token = k)
      ∧ t.rd64 (arkKey Reg.ARK_FIRE_CNT d) = (s.rd64 (arkKey Reg.ARK_FIRE_CNT d) + 2) % 2 ^ 64
      ∧ t.rd64 (arkKey Reg.ARK_NNZ_SUM d) = (s.rd64 (arkKey Reg.ARK_NNZ_SUM d) + p.1 + q.1) % 2 ^ 64
      ∧ t.ledger.credit = s.ledger.credit + (31280 - mergedEnergy p.1 q.1))
    ∧ (fires → ¬ free → Completes (.firingIssue d tl w rec) s faults)
    ∧ (¬ fires → Completes (.firingIssue d tl w rec) s fun t => t = s)
    ∧ (reads → s.arrayBusy d tl a = false → Completes (.transposedRead d tl w rec codes) s fun t =>
      (∃ h, (t.arr d tl a).held = some h ∧ h.kind = .transposed ∧ h.nnz = nnzOf ((codes.take 128).map codeValue))
      ∧ t.rd64 (arkKey Reg.ARK_TRANS_CNT d) = (s.rd64 (arkKey Reg.ARK_TRANS_CNT d) + 1) % 2 ^ 64)
    ∧ (reads → s.arrayBusy d tl a = true → Completes (.transposedRead d tl w rec codes) s faults)
    ∧ (¬ reads → Completes (.transposedRead d tl w rec codes) s fun t => t = s))
  ∧ ∀ a : Fin 256,
    let reads := s.halted = false ∧ s.paused = false ∧ (s.seqState d = 1 ∨ s.seqState d = 2)
    (reads → s.arrayBusy d tl a = false → Completes (.referenceRead d tl a) s fun t =>
      (∃ h, (t.arr d tl a).held = some h ∧ h.kind = .reference ∧ h.nnz = refRows (s.tile d tl).range)
      ∧ t.rd64 (arkKey Reg.ARK_REFRD_CNT d) = (s.rd64 (arkKey Reg.ARK_REFRD_CNT d) + 1) % 2 ^ 64)
    ∧ (reads → s.arrayBusy d tl a = true → Completes (.referenceRead d tl a) s fun t =>
      t.flag (Fld.ARK_STS_PLAN_FAULT.die d) = true ∧ t.fab = s.fab)
    ∧ (¬ reads → Completes (.referenceRead d tl a) s fun t => t = s)

/-- R30, R68 to R73, R99, R294: a conversion slot adds the contributions of the array that the slice map expects to its pair and frees the
array, and any other is a plan fault; a reference's difference joins the last sixteen. A closed pair leaves as its message; sixteen
references give the array a new gain or an event. -/
def Obligations.conversions_release_and_gains : Prop :=
∀ (d : Fin 16) (tl : Fin 8448) (s : State),
  (∀ (w : Fin 96) (rec : DWord) (charge : List Int) (h : Held),
    let a := recArray rec
    let x := s.tile d tl
    (s.arr d tl a).held = some h →
    (h.kind = .reference → Completes (.conversionSlot d tl w rec charge) s fun t =>
      (t.arr d tl a).held = none ∧ (t.arr d tl a).refs.length ≤ 16 ∧ (t.arr d tl a).refRange = x.range
      ∧ (t.arr d tl a).refs.getLast? = some ((clip 127 (charge.getD 0 0)).1 - (clip 127 (charge.getD 1 0)).1)
      ∧ t.fab.tiles = s.fab.tiles)
    ∧ (h.kind = .transposed → Completes (.conversionSlot d tl w rec charge) s fun t =>
      (t.arr d tl a).held = none ∧ (t.arr d tl a).refs = (s.arr d tl a).refs ∧ t.fab.tiles = s.fab.tiles)
    ∧ ∀ r, h.kind = .separate ∨ h.kind = .merged → s.dieRuns d = true → x.state = .inService → s.sliceOf d tl a = some r →
      let e := s.expected d (s.logical d tl) h.wave r.slot r.layer r.stage r.col
      let p := x.accums.getD h.pair (Accum.new h.wave h.token r.layer r.stage r.col h.floor)
      let fits := e[p.taken]? = some (a, h.nibble) ∧ p.closed = false ∧ p.wave = h.wave ∧ p.token = h.token ∧ p.block = r.col
      let y := p.add ((h.codes charge).map fun c =>
        contribution c.1 (s.arr d tl a).gain (totalShift x.range (r.roleOf (a - r.first)) h.nibble h.align))
      (fits → Completes (.conversionSlot d tl w rec charge) s fun t =>
        (t.arr d tl a).held = none
        ∧ ∃ z, (t.tile d tl).accums.get? h.pair = some z ∧ z.partials = y.partials ∧ z.sat = y.sat ∧ z.taken = p.taken + 1
          ∧ z.closed = decide (p.taken + 1 = e.length) ∧ z.valid = p.valid)
      ∧ (¬ fits → Completes (.conversionSlot d tl w rec charge) s fun t =>
        t.flag (Fld.ARK_STS_PLAN_FAULT.die d) = true ∧ h.wave ∈ (t.tile d tl).badWaves ∧ t.fab.arrays = s.fab.arrays))
  ∧ (∀ (pair : Fin 64) (p : Accum), (s.tile d tl).accums.get? pair = some p →
    (p.closed = true → (s.tile d tl).state = .inService → Completes (.partialRelease d tl pair) s fun t =>
      (t.tile d tl).accums.get? pair = none
      ∧ t.fab.messages.get? (msgKey (colKey p.wave p.token p.layer p.stage p.block) d (s.logical d tl))
        = some { partials := p.partials, sat := p.sat, floor := p.floor, valid := p.valid && !decide (p.wave ∈ (s.tile d tl).badWaves) })
    ∧ ((p.closed = false ∨ (s.tile d tl).state ≠ .inService) → Completes (.partialRelease d tl pair) s fun t => t = s))
  ∧ ∀ a : Fin 256,
    let z := s.arr d tl a
    (z.refs.length < 16 → Completes (.driftGainUpdate d tl a) s fun t => t = s)
    ∧ (∀ g, 16 ≤ z.refs.length → driftGain (z.refs.foldl (· + ·) 0) (idealDiff z.refRange) = some g →
      Completes (.driftGainUpdate d tl a) s fun t =>
        t.arr d tl a = { z with newGain := some g, oor := false, refs := [] } ∧ FieldsBut [] s t)
    ∧ (16 ≤ z.refs.length → driftGain (z.refs.foldl (· + ·) 0) (idealDiff z.refRange) = none →
      Completes (.driftGainUpdate d tl a) s fun t =>
        t.arr d tl a = { z with oor := true, refs := [] } ∧ t.flag Fld.LAP_MOG_EVT_DRIFT_RANGE = true
        ∧ t.rd64 Reg.LAP_MOG_DRIFT_OOR = (s.rd64 Reg.LAP_MOG_DRIFT_OOR + 1) % 2 ^ 64)

/-- R43 to R45: a write of ARK_TEST_CTL with RANGE 7, or with START while a test runs, is a violation; without START it sets its fields;
with START it answers with STATUS on a tile or array that it may not use, and else runs with everything latched. The end shows the
outputs and DONE, and a claim that waited for the tile takes effect. -/
def Obligations.test_operations_run_and_end : Prop :=
∀ (d : Fin 16) (s : State), Decoded s →
  (∀ (v : Word) (c : Instr), c ∈ [Instr.arkTestSeparate d v, .arkTestMerged d v, .arkTestTransposed d v, .arkTestReference d v] →
    let kind := wordBits v 20 2
    let array := wordBits v 0 8
    let tl := s.get (Fld.ARK_TSEL_TILE.die d)
    let usable := (s.tile d tl).state = .spare ∨ (s.tile d tl).state = .fenced
    let written := fun (t : State) =>
      t.get (Fld.ARK_TEST_CTL_KIND.die d) = kind ∧ t.get (Fld.ARK_TEST_CTL_ARRAY.die d) = array
    (wordBits v 16 3 = 7 → Completes c s fun t => Violates [.win 16] s t ∧ written t ∧ t.fab.tests = s.fab.tests)
    ∧ (wordBits v 16 3 ≠ 7 → wordBits v 31 1 = 0 → Completes c s fun t =>
      written t ∧ t.get (Fld.ARK_TEST_CTL_RANGE.die d) = wordBits v 16 3 ∧ t.fab = s.fab)
    ∧ (wordBits v 16 3 ≠ 7 → wordBits v 31 1 = 1 →
      ((s.fab.tests.get? d).isSome = true → Completes c s fun t => Violates [.win 16] s t ∧ t.fab = s.fab)
      ∧ ((s.fab.tests.get? d) = none → ¬ usable → Completes c s fun t =>
        written t ∧ t.get (Fld.ARK_TEST_CTL_STATUS.die d) = 2 ∧ t.fab = s.fab)
      ∧ ((s.fab.tests.get? d) = none → usable → kind = 1 → array % 2 = 1 → Completes c s fun t =>
        written t ∧ t.get (Fld.ARK_TEST_CTL_STATUS.die d) = 3 ∧ t.fab = s.fab)
      ∧ ((s.fab.tests.get? d) = none → usable → ¬ (kind = 1 ∧ array % 2 = 1) → Completes c s fun t =>
        written t ∧ t.flag (Fld.ARK_TEST_CTL_BUSY.die d) = true
        ∧ t.fab.tests.get? d = some { kind := testKind kind, tile := tl, range := wordBits v 16 3, array := array, codes := s.testCodes d }
        ∧ (t.tile d tl).range = wordBits v 16 3)))
  ∧ ∀ (charge : List Int),
    (s.fab.tests.get? d = none → Completes (.arkTestDone d charge) s fun t => t = s)
    ∧ ∀ o, s.fab.tests.get? d = some o → Completes (.arkTestDone d charge) s fun t =>
      t.fab.tests.get? d = none ∧ t.flag (Fld.ARK_TEST_CTL_BUSY.die d) = false ∧ t.get (Fld.ARK_TEST_CTL_STATUS.die d) = 1
      ∧ (t.tile d o.tile).state = (s.tile d o.tile).claimed.getD (s.tile d o.tile).state ∧ (t.tile d o.tile).claimed = none
      ∧ ∀ i < 64, t.rd (arkKey (wordAt Reg.ARK_TEST_OUT 64 i) d)
        = testHalf ((o.outputs charge).getD (2 * i + 1) (0, false)) ++ testHalf ((o.outputs charge).getD (2 * i) (0, false))


/-! ### Attention and head spreading -/

/-- R215 to R224, R226, R232, R268: an idle lane that is not fenced takes the first ready item of its hub; at its end the segment
results are kept for the merge, and the item and its positions are counted; a head whose segments are all done is merged into the
attention output of its tokens, once. When the attention of an issued wave falls due, a token with an item unfinished or unmerged
is marked for replay and carried as zeros, as one of a gated layer is; one whose items are all merged, of a bib that is not
spread, goes on. Where this goes beyond the rules it is the model's choice: log entry 25. -/
def Obligations.attention_items_merge_or_replay : Prop :=
  ((∀ (lane : Fin 64) (s : State),
       let idle := s.halted = false ∧ s.paused = false ∧ s.att.lanes.get? lane = none ∧ s.flag (Fld.ATT_LSTS_FENCED.sel lane.val) = false
       let first := s.att.ready.find? fun a => waveHub a.wave == laneHub lane
       (∀ a, idle → first = some a → Completes (.attItemStart lane) s fun t =>
         t.att = { s.att with lanes := s.att.lanes.put lane a, ready := s.att.ready.erase a } ∧ SameBut [.att] s t)
       ∧ (¬ idle ∨ first = none → Completes (.attItemStart lane) s fun t => t = s)
       ∧ (s.att.lanes.get? lane = none → Completes (.attItemDone lane) s fun t => t = s)
       ∧ ∀ (a : LaneItem) (i : Nat) (x : Model) (y : Layer), s.att.lanes.get? lane = some a → s.holder a.wave a.slot = some i →
         s.ldr.slots.get? (s.bib i).modelSlot = some x → s.layerOf (s.bib i).modelSlot a.layer = some y →
         Completes (.attItemDone lane) s fun t =>
           t.att.lanes.get? lane = none
           ∧ t.att.segments.get? (itemKey a.wave a.slot a.head a.layer a.segment)
             = some (s.runHub (s.laneItem i a.wave a.slot a.layer a.head a.segment x y)).1
           ∧ t.rd64 Reg.ATT_ITEMS = (s.rd64 Reg.ATT_ITEMS + 1) % 2 ^ 64
           ∧ t.rd64 Reg.ATT_POS
             = (s.rd64 Reg.ATT_POS + ((stepsOf (s.attended i a.wave) a.segment).map fun st => st.2.length).sum) % 2 ^ 64)
     ∧ ∀ (w : Fin 96) (slot : Fin 128) (head l : Fin 256) (i : Nat) (x : Model) (s : State),
       s.holder w slot = some i → s.ldr.slots.get? (s.bib i).modelSlot = some x → (head.val + 1) * x.sharing * (x.dh / 128) ≤ 4096 →
       let count := s.segments i w
       let pairs := (List.range x.sharing).flatMap fun g => (s.queryTokens w slot).map fun k => (g, k)
       let due := waveLayer w l ∈ s.att.formed ∧ headKey w slot head l ∉ s.att.merged ∧ head.val ∈ s.shareOf (s.bib i) x
         ∧ ∀ g < count, (s.att.segments.get? (itemKey w slot head l g)).isSome = true
       (due → Completes (.attMerge w slot head l) s fun t =>
         headKey w slot head l ∈ t.att.merged
         ∧ ∀ n g k c, pairs[n]? = some (g, k) → c < x.dh / 128 →
           t.outBlock w k l attStage ((head.val * x.sharing + g) * (x.dh / 128) + c)
             = some ((((s.runHub (headOutput ((s.segmentsOf w slot head l count n).getD []))).1.drop (128 * c)).take 128)))
       ∧ (¬ due → Completes (.attMerge w slot head l) s fun t => t = s))
  ∧ (∀ (w : Fin 96) (l : Fin 256) (s : State),
     (w.val ∉ s.plan.issued → Completes (.attDue w l) s fun t => t = s)
     ∧ (w.val ∈ s.plan.issued → Completes (.attDue w l) s fun t =>
       ∀ k i, k < 128 → s.holder w k = some i →
         let slot := if w.val < 32 then k else 0
         (s.gatedLayer (s.bib i).modelSlot l = true ∨ s.slotMerged i w slot l = false →
           (t.bib i).replay = true ∧ w.val * 128 + k ∈ t.fab.zeroed)
         ∧ (w.val < 32 → s.gatedLayer (s.bib i).modelSlot l = false → s.slotMerged i w slot l = true → (s.bib i).sharded = false →
           t.bib i = s.bib i)))

/-- R229, R230, R241: a prefilled spread bib hands the other members' share of its blocks back; a member takes a guest entry with
the positions that came, or refuses for want of an entry, of the set or of pages. Where this goes beyond the rules it is the
model's choice: log entry 27. -/
def Obligations.spread_bibs_are_handed_off : Prop :=
(∀ (id : Word) (guests : List Word) (s : State),
    let i := idIndex id
    let b := s.bib i
    let pb := s.pbOf { b with handedOff := true, guests := guests }
    let goes := b.spread = true ∧ b.kind = .normal ∧ b.prefillDone = true ∧ b.handedOff = false
    (s.names id = false → Completes (.spreadHandoff id guests) s fun t =>
      t.rd64 Reg.BIB_STALE_PEER = (s.rd64 Reg.BIB_STALE_PEER + 1) % 2 ^ 64 ∧ t.bibs = s.bibs)
    ∧ (s.names id = true → ¬ goes → Completes (.spreadHandoff id guests) s fun t => t = s)
    ∧ (s.names id = true → goes → Completes (.spreadHandoff id guests) s fun t =>
      (t.bib i).handedOff = true ∧ (t.bib i).guests = guests ∧ (t.bib i).state = b.state ∧ OtherBibs i s t
      ∧ ∀ (n : Nat) (k : Block), b.blocks[n]? = some k → ∃ k', (t.bib i).blocks[n]? = some k' ∧ k'.fill = k.fill
        ∧ k'.pages = if k.shared then k.pages else k.pages.take pb))
  ∧ ∀ (origin : BitVec 16) (ob : Word) (tn : Fin 16384) (m : Fin 64) (wax : Option (Fin 131072)) (h : Hub) (n : Nat) (tok : BitVec 24)
      (vs : List (Nat × List Int)) (sc : List (List Byte)) (i : Nat) (s : State),
    let c := Instr.guestHandoff origin ob tn m wax h n tok vs sc
    let b := s.guestBib i origin.toNat ob tn m (wax.map Fin.val) h n tok.toNat
    let answer := (((s.modFree fun f => f.pop 65536).putBib i b).growTo i n).1
    let may := s.groupSize ≠ 0 ∧ s.slotHolds m = true ∧ (∀ x : Fin 131072, wax = some x → s.waxReady x tn m = true)
    (s.freeBibs.head 65536 = none → Completes c s fun t => t = s)
    ∧ (s.freeBibs.head 65536 = some i → ¬ may → Completes c s fun t => t = s)
    ∧ (∀ ps ls, s.freeBibs.head 65536 = some i → may → answer = .granted ps ls → Completes c s fun t =>
      (t.bib i).state = .towing ∧ (t.bib i).kind = .guest origin.toNat ob ∧ (t.bib i).prefillDone = true
      ∧ (t.bib i).promptDone = n ∧ (t.bib i).lastToken = tok.toNat ∧ (t.bib i).tenant = tn.val ∧ (t.bib i).modelSlot = m.val
      ∧ (t.bib i).home = h ∧ t.freeBibs = s.freeBibs.pop 65536 ∧ OtherBibs i s t)
    ∧ (s.freeBibs.head 65536 = some i → may → answer = .quotaFull → Completes c s fun t =>
      t.rd64 Reg.KVM_QUOTA_REF = (s.rd64 Reg.KVM_QUOTA_REF + 1) % 2 ^ 64 ∧ t.bibs = s.bibs ∧ t.freeBibs = s.freeBibs)

/-- R162, R230 to R232: changes of a control message wait for their boundary, one that names no guest is counted; a guest's token
is its next input, unless its lap is replayed; a gather part of the running lap joins the attention output. Where this goes beyond
the rules it is the model's choice: log entries 26, 27 and 76. -/
def Obligations.spread_messages_are_taken : Prop :=
(∀ (origin : BitVec 16) (lap : Nat) (cs : List SpreadChange) (s : State),
    ((∀ c ∈ cs, (s.changeTarget origin.toNat c).isSome = true) → Completes (.spreadCtl origin lap cs) s fun t =>
      t.att = { s.att with changes := s.att.changes ++ cs.map fun c => (lap, origin.toNat, c) } ∧ SameBut [.att] s t)
    ∧ ((∀ c ∈ cs, s.changeTarget origin.toNat c = none) → Completes (.spreadCtl origin lap cs) s fun t =>
      t.rd64 Reg.BIB_STALE_PEER = (s.rd64 Reg.BIB_STALE_PEER + cs.length) % 2 ^ 64
      ∧ FieldsBut (Fld.dword Reg.BIB_STALE_PEER) s t ∧ t.att = s.att))
  ∧ (∀ (origin : BitVec 16) (lap : Nat) (w : Fin 32) (toks : List (Nat × Bool)) (s : State),
    (s.memberOf origin.toNat = none → Completes (.spreadTok origin lap w toks) s fun t => t = s)
    ∧ ∀ m, s.memberOf origin.toNat = some m → Completes (.spreadTok origin lap w toks) s fun t =>
      ∀ (n tok : Nat) (again : Bool) (i : Nat) (ob : Word), toks[n]? = some (tok, again) →
        s.decHolder (128 * w + (s.partSlot w m + n)) = some i → (s.bib i).kind = .guest origin.toNat ob →
        (s.bibId i, lap) ∈ t.att.tokensIn
        ∧ (again = false → (s.bib i).replay = false → (t.bib i).inputs = [tok % 2 ^ 24] ∧ (t.bib i).lastToken = tok % 2 ^ 24
          ∧ (t.bib i).promptDone = (s.bib i).promptDone + 1)
        ∧ (again = true ∨ (s.bib i).replay = true → t.bib i = s.bib i))
  ∧ ∀ (lap : Nat) (w : Fin 32) (l : Fin 256) (m : Fin 8) (replay : BitVec 128) (out : List (List (BitVec 16))) (x : Model) (s : State),
    let q := s.queryShare x m
    let mine := lap = s.dlap s.lap ∧ (s.members.any fun p => p.1 == m.val) = true
    s.ldr.slots.get? (s.slotOf w) = some x → (q.1 + q.2) * (x.dh / 128) ≤ 4096 →
    (¬ mine → Completes (.gatherPart lap w l m replay out) s fun t => t = s)
    ∧ (mine → Completes (.gatherPart lap w l m replay out) s fun t =>
      t.att.parts = s.att.parts ++ [(w.val, l.val, m.val, replay)]
      ∧ ∀ k v i g c, k < s.spreadOf w → out[k]? = some v → s.holder w k = some i → (s.bib i).sharded = true → g < q.2 →
        c < x.dh / 128 → t.outBlock w k l attStage ((q.1 + g) * (x.dh / 128) + c)
          = some (((((v.drop (g * x.dh)).take x.dh).drop (128 * c)).take 128)))


/-! ### Grooming, faults and patrol -/

/-- R110 to R112, R115, R119, R391: a groomed tile's window accepts the step that it still needs when every converter's halves
agree, and counts a disagreement otherwise, the last of which fails the pass; a closed half is kept, and the second is compared; a
programmed spare column waits for the bank; a flush writes every record that has changed. Where this goes beyond the rules it is
the model's choice: log entries 28 and 92. -/
def Obligations.grooming_steps_and_flush : Prop :=
  (∀ (d : Fin 16) (tl : Fin 8448) (ms : List GroomMeasure) (s : State),
    let x := s.tile d tl
    let m := fun c => ms.getD c GroomMeasure.none
    let goes := s.halted = false ∧ (s.seqState d = 1 ∨ s.seqState d = 2) ∧ x.groomed = true
    let offs := (List.range converters).all fun c => offAgree (s.get Fld.GRM_TOL_AGREE_OFF) (m c)
    let refs := (List.range converters).all fun c => refAgree (s.get Fld.GRM_TOL_AGREE_REF) (m c)
    let again := x.retries.modify 0 (· + 1)
    (¬ goes → Completes (.groomWindow d tl ms) s fun t => t = s)
    ∧ (goes → x.offOk = false → x.refOk = true → offs = true → Completes (.groomWindow d tl ms) s fun t =>
      (t.tile d tl).offOk = true ∧ (t.tile d tl).retries = x.retries.set 0 0 ∧ (t.tile d tl).inForce = x.inForce
      ∧ (t.tile d tl).sets = (x.accept (s.temps d) (s.tileTemp d x)
        (fun y c => { y with off := clampCode ((y.off : Int) - offStep (m c)) }) fun a b => ((a.off : Int) - b.off, 0, 0)).sets
      ∧ (t.tile d tl).passPending = (x.statOk || !x.holdsWeights))
    ∧ (goes → x.offOk = false → x.refOk = true → offs = false → nth again 0 < s.get Fld.GRM_TOL_RETRY_MAX →
      Completes (.groomWindow d tl ms) s fun t =>
        (t.tile d tl).retries = again ∧ (t.tile d tl).sets = x.sets ∧ (t.tile d tl).offOk = false
        ∧ t.rd64 Reg.GRM_DISAGREE = (s.rd64 Reg.GRM_DISAGREE + 1) % 2 ^ 64)
    ∧ (goes → x.offOk = false → x.refOk = true → offs = false → s.get Fld.GRM_TOL_RETRY_MAX ≤ nth again 0 →
      Completes (.groomWindow d tl ms) s fun t =>
        (t.tile d tl).failed = true ∧ (t.tile d tl).inForce = x.inForce ∧ t.flag Fld.GRM_EVT_PASS_FAIL = true ∧ Reported 1 s t
        ∧ t.rd64 Reg.GRM_FAILS = (s.rd64 Reg.GRM_FAILS + 1) % 2 ^ 64)
    ∧ (goes → x.offOk = true → x.refOk = false → refs = true → Completes (.groomWindow d tl ms) s fun t =>
      (t.tile d tl).refOk = true ∧ (t.tile d tl).retries = x.retries.set 1 0
      ∧ (t.tile d tl).sets = (x.accept (s.temps d) (s.tileTemp d x)
        (fun y c => { y with bg := clampCode ((y.bg : Int) + refStep (m c)) }) fun a b => (0, (a.bg : Int) - b.bg, 0)).sets))
  ∧ (∀ (d : Fin 16) (tl : Fin 8448) (st : List StatHalf) (bad : List (Fin 256 × Fin 128)) (s : State),
    let x := s.tile d tl
    let vars := st.map fun h => (h.varCode, h.varIdeal)
    let goes := s.halted = false ∧ x.groomed = true ∧ x.holdsWeights = true
    (goes → Completes (.grmStatHalfClose d tl false st bad) s fun t =>
      (t.tile d tl).halfA = vars ∧ (t.tile d tl).badA = (bad.map fun y => (y.1.val, y.2.val)) ∧ FieldsBut [] s t)
    ∧ (¬ goes ∨ x.halfA = [] → Completes (.grmStatHalfClose d tl true st bad) s fun t => t = s)
    ∧ (goes → x.halfA ≠ [] → x.statOk = false →
      (∀ c < converters, s.estimates x.halfA vars c = true →
        statAgree (s.get Fld.GRM_TOL_AGREE_STAT) (statGain (halfAt x.halfA c)) (statGain (halfAt vars c)) = true) →
      Completes (.grmStatHalfClose d tl true st bad) s fun t =>
        (t.tile d tl).statOk = true ∧ (t.tile d tl).halfA = [] ∧ (t.tile d tl).passPending = (x.offOk && x.refOk)))
  ∧ (∀ (d : Fin 16) (tl : Fin 8448) (a : Fin 256) (c : Fin 128) (s : State),
    let m := (s.arr d tl a).nextMap
    (m.findIdx? (·.isNone) = none → Completes (.spareColumnProgrammed d tl a c) s fun t => t = s)
    ∧ ∀ n, m.findIdx? (·.isNone) = some n → Completes (.spareColumnProgrammed d tl a c) s fun t =>
      t.arr d tl a = { s.arr d tl a with newMap := some (m.set n (some c.val)) }
      ∧ t.rd64 Reg.GRM_SPARECOL = (s.rd64 Reg.GRM_SPARECOL + 1) % 2 ^ 64 ∧ FieldsBut (Fld.dword Reg.GRM_SPARECOL) s t)
  ∧ ∀ s : State, s.canonical = true →
    let goes := s.param 0 2 ≤ s.bon.flushLaps ∧ s.startingUp = false
    (¬ goes → Completes .grmFlush s fun t => t = s)
    ∧ (goes → Completes .grmFlush s fun t =>
      t.bon.flushLaps = 0 ∧ FieldsBut [] s t
      ∧ ∀ (d : Fin 16) (tl : Fin 8448) (x : Tile), s.fab.tiles.get? (tileKey d tl) = some x →
        (t.tile d tl).setsChanged = false
        ∧ (s.recordStale d tl x = true →
          t.readFlash (tileRecAddr d tl) 576 = x.recordBytes tl (s.temps d).length (s.fab.anchors.getD d 0)))

/-- R101, R102, R294 to R299, R307: a fault of a tile in service voids its pairs, replays their tokens and fences it with a spare,
or retires it without one, and a free unit of each hub covers it; that of a spare retires it. A programmed spare is ready; a
proving window gives its verdict, and a failure plans a fence; a unit that begins replays the tokens it skipped. Where this goes
beyond the rules it is the model's choice: log entries 65, 91 and 93. -/
def Obligations.tiles_fail_spares_replace_and_prove : Prop :=
  (∀ (d : Fin 16) (tl : Fin 8448) (det : Detector) (e : BitVec 16) (s : State),
    let x := s.tile d tl
    (x.state = .inService → Completes (.tileFaultDetect d tl det e) s fun t =>
      (((t.tile d tl).state = .fenced ∧ (t.tile d tl).spare.isSome = true)
        ∨ ((t.tile d tl).state = .retired ∧ t.flag Fld.PAT_EVT_SPARE_OUT = true))
      ∧ (t.tile d tl).accums = .empty ∧ (t.tile d tl).fences = min 255 (x.fences + 1) ∧ t.flag Fld.PAT_EVT_FENCE = true
      ∧ t.rd64 Reg.PAT_FENCE = (s.rd64 Reg.PAT_FENCE + 1) % 2 ^ 64
      ∧ (∀ p ∈ x.accums.values,
        (∃ m, t.fab.messages.get? (msgKey (colKey p.wave p.token p.layer p.stage p.block) d (s.logical d tl)) = some m ∧ m.valid = false)
        ∧ ∀ i, s.holder p.wave p.token = some i → (t.bib i).replay = true ∧ p.wave * 128 + p.token ∈ t.fab.zeroed)
      ∧ ∀ h, (s.freeUnit h).isSome = true → (t.coverOf h (tileAddr d tl)).isSome = true)
    ∧ (x.state = .spare ∨ x.state = .programming → Completes (.tileFaultDetect d tl det e) s fun t =>
      (t.tile d tl).state = .retired ∧ t.bibs = s.bibs)
    ∧ (x.state = .fenced ∨ x.state = .retired ∨ x.state = .proving → Completes (.tileFaultDetect d tl det e) s fun t =>
      t.fab = s.fab ∧ Reported 1 s t))
  ∧ (∀ (d : Fin 16) (tl : Fin 8448) (s : State),
    (s.replacedBy d tl = none ∨ (s.tile d tl).state ≠ .programming → ∀ ok, Completes (.spareProgrammed d tl ok) s fun t => t = s)
    ∧ ∀ f, s.replacedBy d tl = some f → (s.tile d tl).state = .programming →
      (Completes (.spareProgrammed d tl true) s fun t => (t.tile d tl).holdsWeights = true ∧ (t.tile d f).spareReady = true)
      ∧ Completes (.spareProgrammed d tl false) s fun t => (t.tile d tl).state = .retired)
  ∧ (∀ (d : Fin 16) (tl : Fin 8448) (ps : List ProvePoint) (temp : Nat) (s : State),
    let x := s.tile d tl
    let proves := x.state = .inService ∨ x.state = .spare
    (¬ proves → Completes (.provingWindow d tl ps temp) s fun t => t = s)
    ∧ (proves → s.firstFailing ps = none → Completes (.provingWindow d tl ps temp) s fun t =>
      t.tile d tl = { x with prove := .pass, proveLap := s.lap, passTemp := some temp }
      ∧ t.rd64 Reg.PAT_PROVE_RUN = (s.rd64 Reg.PAT_PROVE_RUN + 1) % 2 ^ 64 ∧ FieldsBut (Fld.dword Reg.PAT_PROVE_RUN) s t)
    ∧ ∀ k, proves → s.firstFailing ps = some k → Completes (.provingWindow d tl ps temp) s fun t =>
      (t.tile d tl).prove = (if k = 0 then .fail else .marginal) ∧ (t.tile d tl).proveLap = s.lap
      ∧ (x.state = .inService → (t.tile d tl).plannedFence = true) ∧ (x.state = .spare → (t.tile d tl).state = .retired)
      ∧ t.rd64 Reg.PAT_PROVE_RUN = (s.rd64 Reg.PAT_PROVE_RUN + 1) % 2 ^ 64
      ∧ t.rd64 Reg.PAT_PROVE_FAIL = (s.rd64 Reg.PAT_PROVE_FAIL + 1) % 2 ^ 64 ∧ t.flag Fld.PAT_EVT_PROVE_FAIL = true ∧ Reported 1 s t)
  ∧ ∀ (u : Fin 32) (skipped : List (Fin 96 × Fin 128)) (s : State),
    let begins := (s.unitState u = 2 ∨ s.unitState u = 3) ∧ u.val ∉ s.pat.begun
    (¬ begins → Completes (.reserveUnitBegin u skipped) s fun t => t = s)
    ∧ (begins → Completes (.reserveUnitBegin u skipped) s fun t =>
      u.val ∈ t.pat.begun ∧ ∀ y ∈ skipped, ∀ i, s.holder y.1 y.2 = some i →
        (t.bib i).replay = true ∧ y.1.val * 128 + y.2.val ∈ t.fab.zeroed)

/-- R91, R103, R104, R212, R213, R243, R292, R293, R300: a failed mogul unit is fenced and a free one stands in for its jobs;
without one the module leaves service; a failed lane hands its item back, a failed join unit replays the wave in flight, a failed
HBM channel retires its pages; a module fault leaves service. Poisoned data ends the bib that read it, with its tokens zero;
poison of a granule is kept; that of a wax record ends the wave's bibs that select the set and drains it. Where this goes beyond
the rules it is the model's choice: log entry 15. -/
def Obligations.units_fail_and_poison_ends_bibs : Prop :=
  (∀ (u : Fin 32) (s : State),
    (s.unitState u = 4 → Completes (.mogulUnitFail u) s fun t => t = s)
    ∧ (s.unitState u ≠ 4 → Completes (.mogulUnitFail u) s fun t => t.unitState u = 4 ∧ u.val ∉ t.pat.begun)
    ∧ (s.unitState u = 0 → ∀ v, s.freeUnit (hubOf (u.val / 16)) = some v → Completes (.mogulUnitFail u) s fun t =>
      t.unitState v = 3 ∧ t.rd (keyAt v Reg.LAP_MOG_UTILE) = mogulAddr u ∧ Reported 1 s t)
    ∧ (s.unitState u = 0 → s.freeUnit (hubOf (u.val / 16)) = none → Completes (.mogulUnitFail u) s fun t =>
      t.flag Fld.LAP_MOG_EVT_RESERVE_FULL = true ∧ t.pat.outOfService = true))
  ∧ (∀ (h : Hub) (y : UncoveredUnit) (s : State),
    let full := s.freeUnit h = none ∧ s.coverOf h (uncoveredAddr y) = none
    (¬ full → Completes (.reserveFull h y) s fun t => t = s)
    ∧ (full → Completes (.reserveFull h y) s fun t =>
      t.flag Fld.LAP_MOG_EVT_RESERVE_FULL = true ∧ t.pat.outOfService = true ∧ (hubNum h, uncoveredAddr y) ∈ t.pat.uncovered
      ∧ t.plan.fullHe = (s.plan.fullHe || h == .he) ∧ t.plan.fullHw = (s.plan.fullHw || h == .hw)))
  ∧ (∀ (lane : Fin 64) (s : State),
    let fenced := s.flag (Fld.ATT_LSTS_FENCED.sel lane.val)
    (fenced = true → Completes (.laneFail lane) s fun t => t = s)
    ∧ (fenced = false → Completes (.laneFail lane) s fun t =>
      t.flag (Fld.ATT_LSTS_FENCED.sel lane.val) = true ∧ Reported 1 s t
      ∧ (s.att.lanes.get? lane = none → t.att = s.att)
      ∧ ∀ a, s.att.lanes.get? lane = some a → t.att = { s.att with lanes := s.att.lanes.erase lane, ready := a :: s.att.ready }))
  ∧ (∀ (j : Fin 64) (s : State),
    (j.val ∈ s.pat.fencedJoin → Completes (.joinUnitFail j) s fun t => t = s)
    ∧ (j.val ∉ s.pat.fencedJoin → Completes (.joinUnitFail j) s fun t =>
      j.val ∈ t.pat.fencedJoin ∧ Reported 1 s t
      ∧ ∀ w k i, s.running = true → s.waveInFlight (hubOf (j.val / 32)) = some w → k ∈ s.occupiedTokens w →
        s.holder w k = some i → (t.bib i).replay = true ∧ w * 128 + k ∈ t.fab.zeroed))
  ∧ (∀ (pc : Fin 512) (c : Fin 16) (pages : List Nat) (s : State),
    (pc.val ∈ s.pat.fencedHbm → Completes (.memoryChannelFault (.hbm pc) pages) s fun t => t = s)
    ∧ (c.val ∈ s.pat.fencedLodge → Completes (.memoryChannelFault (.lodge c) pages) s fun t => t = s)
    ∧ (c.val ∉ s.pat.fencedLodge → Completes (.memoryChannelFault (.lodge c) pages) s fun t => c.val ∈ t.pat.fencedLodge)
    ∧ (pc.val ∉ s.pat.fencedHbm → Completes (.memoryChannelFault (.hbm pc) pages) s fun t =>
      let h := hubOf (pc.val / 256)
      pc.val ∈ t.pat.fencedHbm ∧ (∀ p ∈ pages, p ∈ (t.kvm.pool h false).retired)
      ∧ ∀ (i n : Nat) (k : Block), (s.bib i).home = h → (s.bib i).blocks[n]? = some k → k.lodge = false →
        (t.bib i).blocks[n]? = some (k.poisonPages pages)))
  ∧ (∀ (c : ModuleFaultCase) (s : State), Completes (.moduleFault c) s fun t =>
    t.pat.outOfService = true ∧ ∀ d : Fin 16, c = .arkorDie d → t.seqState d = 4)
  ∧ (∀ (i : Fin 65536) (page : Option (Nat × Nat)) (s : State),
    ((s.bib i).mayFault = false → Completes (.poison i page) s fun t => t = s)
    ∧ ((s.bib i).mayFault = true → (s.bib i).kind = .normal → Completes (.poison i page) s fun t =>
      (t.bib i).state = .faulted ∧ (t.bib i).cause = .poison ∧ (∀ n ∈ (s.bib i).tokens, n ∈ t.fab.zeroed)
      ∧ t.flag Fld.KVM_EVT_POISON = true ∧ t.rd64 Reg.KVM_POISON_END = (s.rd64 Reg.KVM_POISON_END + 1) % 2 ^ 64
      ∧ OtherBibs i s t))
  ∧ (∀ (m : Fin 64) (g : Nat) (s : State),
    (s.ldr.slots.get? m = none → Completes (.shadowPoison m g) s fun t => t = s)
    ∧ ∀ x, s.ldr.slots.get? m = some x → Completes (.shadowPoison m g) s fun t =>
      t.ldr.slots.get? m = some { x with poisonedGranules := insertNat g x.poisonedGranules }
      ∧ t.flag (Fld.LDR_SLOT_STS_POISON.sel m.val) = true ∧ t.flag Fld.LAP_MOG_EVT_SHADOW_POISON = true ∧ Reported 1 s t)
  ∧ ∀ (w : Fin 131072) (wave : Fin 96) (s : State),
    let gone := (s.waxAt w).state = .absent ∨ (s.waxAt w).state = .loading
    (gone → Completes (.waxRecordPoison w wave) s fun t => t = s)
    ∧ (¬ gone → (∀ j, (s.bib j).kind = .normal) → Completes (.waxRecordPoison w wave) s fun t =>
      t.flag Fld.WAX_EVT_POISON = true ∧ ((t.waxAt w).state = .draining ∨ (t.waxAt w).state = .absent)
      ∧ ∀ k i, k < 128 → s.holder wave k = some i → (s.bib i).wax = some w.val → (s.bib i).mayFault = true →
        (t.bib i).state = .faulted ∧ (t.bib i).cause = .poison)

/-- R162, R163, R196, R301, R302, R305: a window starts the checkpoint that waits when both hubs grant its pages; a complete one
raises CKPT_POS and CKPT_LAP together with the area's entry and tail, an abandoned one leaves the last; stale writes are counted.
A faulted bib is rebuilt in a new entry from its checkpoint. Where this goes beyond the rules it is the model's choice: log
entries 38, 39 and 40. -/
def Obligations.checkpoints_complete_and_restore : Prop :=
  (∀ (h : Hub) (s : State),
    let waits := (s.pat.ckpts.entries.filter fun e => e.2.due && !e.2.started && (s.bib e.1).home == h).map Prod.fst
    (s.halted = true ∨ s.running = false ∨ waits = [] → Completes (.checkpointWindow h) s fun t => t = s)
    ∧ ∀ i c e, s.halted = false → s.running = true → waits = [i] → s.pat.ckpts.get? i = some c → c.next = some e →
      let need := s.ckptPages (s.bib i) e.promptDone
      let a := s.requestLodge (otherHub (s.bib i).home) (need.1 - c.pages.length)
      let b := a.2.requestLodge (s.bib i).home (need.2 - c.homePages.length)
      ∀ p q p' q', a.1 = .granted p p' → b.1 = .granted q q' → Completes (.checkpointWindow h) s fun t =>
        t.pat.ckpts.get? i = some { c with pages := c.pages ++ p, homePages := c.homePages ++ q, started := true } ∧ t.bibs = s.bibs)
  ∧ (∀ (id : Word) (s : State),
    let i := idIndex id
    let stale := fun (t : State) => t.rd64 Reg.BIB_STALE_CKPT = (s.rd64 Reg.BIB_STALE_CKPT + 1) % 2 ^ 64 ∧ t.pat = s.pat ∧ t.bibs = s.bibs
    (s.names id = false ∨ (s.bib i).state = .closing ∨ (s.bib i).state = .faulted → Completes (.checkpointComplete id) s stale)
    ∧ (s.names id = false → Completes (.checkpointAbandon id) s stale)
    ∧ ∀ c, s.names id = true → s.pat.ckpts.get? i = some c →
      (∀ e, (s.bib i).state ≠ .closing → (s.bib i).state ≠ .faulted → c.next = some e → c.due = true → c.started = true →
        Completes (.checkpointComplete id) s fun t =>
          (t.bib i).ckptPos = e.promptDone ∧ (t.bib i).ckptLap = c.dueLap % 2 ^ 32 ∧ (t.bib i).state = (s.bib i).state ∧ OtherBibs i s t
          ∧ t.rd64 Reg.PAT_CKPT = (s.rd64 Reg.PAT_CKPT + 1) % 2 ^ 64
          ∧ t.pat.ckpts.get? i = some { c with pos := e.promptDone, lap := c.dueLap, entry := some e, tail := c.tailNext
                                               tailNext := [], due := false, started := false, next := none, poisoned := false })
      ∧ (c.due = true → Completes (.checkpointAbandon id) s fun t =>
        t.pat.ckpts.get? i = some { c with due := false, started := false, next := none, tailNext := [] }
        ∧ t.rd64 Reg.PAT_CKPT_DEFER = (s.rd64 Reg.PAT_CKPT_DEFER + 1) % 2 ^ 64 ∧ t.bibs = s.bibs)
      ∧ (c.due = false → Completes (.checkpointAbandon id) s fun t => t = s))
  ∧ ∀ (i : Fin 65536) (s : State),
    (s.pat.ckpts.get? i = none ∨ s.mayRestart i = false → Completes (.ckptRestore i) s fun t => t = s)
    ∧ ∀ c e j h, s.pat.ckpts.get? i = some c → c.entry = some e → s.freeBibs.head 65536 = some j → j ≠ i.val →
      s.homeHub e.modelSlot (if e.pfxHandle = 0 then none else some (s.pfx (e.pfxHandle % 65536)).hub) = some h →
      s.mayRestart i = true → c.poisoned = false → s.pfxStands e.pfxHandle e.modelSlot = true →
      (∀ w, e.wax = some w → s.waxReady w e.tenant e.modelSlot = true) → Completes (.ckptRestore i) s fun t =>
        Rebuilt j h e c.tail s t ∧ (t.bib j).ckptPos = c.pos ∧ t.pat.ckpts.get? i = none
        ∧ ∃ c', t.pat.ckpts.get? j = some c' ∧ c'.pos = c.pos ∧ c'.entry = c.entry ∧ c'.tail = c.tail

/-- R162, R303, R304, R306: what a mirror message brings is kept with its pages, a tail only for a mirror that is held; a dropped
mirror is gone, an acknowledgement for no bib is counted. A bib that a peer lost is rebuilt here from its mirror, or from its
migration, when it may be; a second time it is discarded, and without leave refused. Where this goes beyond the rules it is the
model's choice: log entries 41, 42 and 93. -/
def Obligations.mirrors_are_kept_and_rebuilt : Prop :=
  (∀ (o : BitVec 16) (id : Word) (c : Instr) (f : Mirror → Mirror) (s : State),
    ((∃ m : MirrorEntry, c = .mirrorEntry m ∧ m.origin = o ∧ m.originBib = id
        ∧ f = fun x => { x with entry := m.entry, ckptLap := m.ckptLap, tail := m.tail.take 16383 })
      ∨ (∃ first n body, c = .mirrorKv o id first n body
        ∧ f = fun x => { x with ranges := (x.ranges.filter fun r => !(r.1 == first && decide (r.2.1 ≤ n))) ++ [(first, n, body)] })
      ∨ ∃ toks, c = .mirrorTail o id toks ∧ (s.mirrorOf o.toNat id).isSome = true
        ∧ f = fun x => { x with tail := (x.tail ++ toks).take 16383 }) →
    let x := f ((s.mirrorOf o.toNat id).getD (Mirror.new o.toNat id s.lodgeHub))
    let answer := (s.requestLodge x.hub (ceilDiv (mirrorSize x.entry x.tail x.ranges) 65536 - x.pages.length)).1
    (∀ p q, answer = .granted p q → Completes c s fun t =>
      t.mirrorOf o.toNat id = some { x with pages := x.pages ++ p } ∧ t.bibs = s.bibs)
    ∧ (answer = .poolEmpty → Completes c s fun t => t.pat.mirrors = s.pat.mirrors))
  ∧ (∀ (o : BitVec 16) (id : Word) (s : State),
    (∀ toks, s.mirrorOf o.toNat id = none → Completes (.mirrorTail o id toks) s fun t => t = s)
    ∧ (s.mirrorOf o.toNat id = none → Completes (.mirrorDrop o id) s fun t => t = s)
    ∧ ((s.mirrorOf o.toNat id).isSome = true → Completes (.mirrorDrop o id) s fun t => t.mirrorOf o.toNat id = none)
    ∧ (s.names id = true → Completes (.mirrorAck id) s fun t => t = s)
    ∧ (s.names id = false → Completes (.mirrorAck id) s fun t =>
      t.rd64 Reg.BIB_STALE_PEER = (s.rd64 Reg.BIB_STALE_PEER + 1) % 2 ^ 64 ∧ FieldsBut (Fld.dword Reg.BIB_STALE_PEER) s t))
  ∧ (∀ (m : MirrorEntry) (layout : DWord) (kv : List (Nat × Nat × List Byte)) (s : State),
    let x := { Mirror.new m.origin.toNat m.originBib s.lodgeHub with
               entry := m.entry, ckptLap := m.ckptLap, tail := m.tail, ranges := kv }
    let a := s.requestLodge x.hub (ceilDiv (mirrorSize x.entry x.tail x.ranges) 65536)
    let held := (m.origin.toNat, m.originBib) ∈ s.pat.adopted
    (held → Completes (.migration m layout kv) s fun t =>
      t.rd64 Reg.PAT_MIG_DUP = (s.rd64 Reg.PAT_MIG_DUP + 1) % 2 ^ 64 ∧ FieldsBut (Fld.dword Reg.PAT_MIG_DUP) s t ∧ t.bibs = s.bibs)
    ∧ (¬ held → s.flag Fld.PAT_CTL_ADOPT_EN = false → Completes (.migration m layout kv) s fun t =>
      t.rd64 Reg.PAT_ADOPT_REF = (s.rd64 Reg.PAT_ADOPT_REF + 1) % 2 ^ 64 ∧ t.bibs = s.bibs)
    ∧ ∀ p q j h, a.1 = .granted p q → Adopts x layout j h a.2 → Completes (.migration m layout kv) s fun t =>
      Rebuilt j h (s.entryBib m.entry) m.tail s t ∧ (m.origin.toNat, m.originBib) ∈ t.pat.adopted)
  ∧ ∀ (o : BitVec 16) (c : Instr) (s : State),
    (c = .orphan o ∨ ∃ v, Decoded s ∧ c = .patOrphan v ∧ wordBits v 0 16 = o.toNat ∧ wordBits v 31 1 = 1) →
    let mine := s.pat.mirrors.filter fun m => m.origin == o.toNat
    let twice := mine.filter fun m => decide ((m.origin, m.originBib) ∈ s.pat.adopted)
    (s.flag Fld.PAT_CTL_ADOPT_EN = false → Completes c s fun t =>
      t.rd64 Reg.PAT_MIG_DUP = (s.rd64 Reg.PAT_MIG_DUP + twice.length) % 2 ^ 64
      ∧ t.rd64 Reg.PAT_ADOPT_REF = (s.rd64 Reg.PAT_ADOPT_REF + (mine.length - twice.length)) % 2 ^ 64 ∧ t.bibs = s.bibs)
    ∧ ∀ m j h, mine = [m] → Adopts m (s.slotLayout (s.entryBib m.entry).modelSlot) j h s → Completes c s fun t =>
      Rebuilt j h (s.entryBib m.entry) m.tail s t ∧ (m.origin, m.originBib) ∈ t.pat.adopted

/-- R308 to R311: a fingerprint of a resident slot's LAYOUT_ID, of this module or of a replica, is kept; the verdict shows its
code and members, expels the module that a majority leaves out and starts its drain, or finds it sound; the end of the drain ends
the slot's bibs. Where this goes beyond the rules it is the model's choice: log entries 43 and 114. -/
def Obligations.fingerprints_are_judged_and_drain : Prop :=
  (∀ (mb : BitVec 16) (m : Fin 64) (n : Nat) (layout : DWord) (bytes : List Int) (s : State),
    let mine := ∃ x, s.ldr.slots.get? m = some x ∧ x.layout = layout ∧ (mb.toNat = s.moduleId ∨ mb.toNat ∈ s.replicas m)
    (mine → Completes (.fingerprint mb m n layout bytes) s fun t =>
      t.pat.prints = (s.pat.prints.filter fun p => !(p.1 == m.val && p.2.1 == n && p.2.2.1 == mb.toNat))
        ++ [(m.val, n, mb.toNat, bytes)])
    ∧ (¬ mine → Completes (.fingerprint mb m n layout bytes) s fun t => t = s))
  ∧ (∀ (m : Fin 64) (x : Model) (s : State), s.ldr.slots.get? m = some x →
    let n := s.dlap s.lap - 2
    let ps := s.printsOf m n
    ((ps.find? fun p => p.1 == s.moduleId) = none → Completes (.fingerprintVerdict m) s fun t => t = s)
    ∧ ∀ own, (ps.find? fun p => p.1 == s.moduleId) = some own →
      let maj := s.majorityOf x ps
      let out := if maj = [] then !s.fpAgree x own.2 x.expectedPrint else !decide (s.moduleId ∈ maj)
      let code := if maj = [] ∧ 3 ≤ ps.length then fpNoQuorum else if out then fpExpelled else fpAgreeCode
      (out = true → Completes (.fingerprintVerdict m) s fun t =>
        t.get (Fld.PAT_FPSTS_VERDICT.sel (fpHome m)) = code ∧ t.get (Fld.PAT_FPSTS_MEMBERS.sel (fpHome m)) = ps.length % 16
        ∧ Reported 1 s t ∧ ∃ x', t.ldr.slots.get? m = some x' ∧ x'.verdictNext = some true ∧ x'.majority = maj
          ∧ (x.expelled = false → x.verdictNext ≠ some true → x'.drain = some (s.lap + s.get Fld.PAT_CFG2_FP_DRAIN)
            ∧ t.flag (Fld.PAT_FPSTS_DRAINING.sel (fpHome m)) = true ∧ t.flag Fld.PAT_EVT_EXPEL = true
            ∧ t.rd64 Reg.PAT_EXPEL = (s.rd64 Reg.PAT_EXPEL + 1) % 2 ^ 64))
      ∧ (out = false → Completes (.fingerprintVerdict m) s fun t =>
        t.get (Fld.PAT_FPSTS_VERDICT.sel (fpHome m)) = code ∧ t.get (Fld.PAT_FPSTS_MEMBERS.sel (fpHome m)) = ps.length % 16
        ∧ t.flag (Fld.PAT_FPSTS_DRAINING.sel (fpHome m)) = false ∧ ∃ x', t.ldr.slots.get? m = some x' ∧ x'.verdictNext = some false
          ∧ x'.drain = none ∧ x'.suspect = []))
  ∧ ∀ (m : Fin 64) (s : State), s.canonical = true → (∀ j, (s.bib j).kind = .normal) →
    ((s.ldr.slots.get? m = none ∨ ∃ x, s.ldr.slots.get? m = some x ∧ x.drain = none) → Completes (.fpDrainExpired m) s fun t => t = s)
    ∧ ∀ x n, s.ldr.slots.get? m = some x → x.drain = some n → Completes (.fpDrainExpired m) s fun t =>
      t.flag (Fld.PAT_FPSTS_DRAINING.sel (fpHome m)) = false ∧ t.ldr.slots.get? m = some { x with drain := none }
      ∧ ∀ i, (s.bib i).modelSlot = m.val → (s.bib i).mayFault = true → (s.bib i).state ≠ .closing →
        (t.bib i).state = .faulted ∧ (t.bib i).cause = .uncovered

/-- R312 to R314, R396: a report merges into the entry of its unit and kind within MERGE_US, enters the ring while more than 64 entries
are free, and else is dropped and counted by severity; a burst closes with its last occurrence; the drain empties the ring into the
persistent log. -/
def Obligations.reports_merge_enter_or_drop : Prop :=
  (∀ (r : Report) (s : State), r.sev < 5 →
    (∀ p e, s.logPositions.find? (s.merges r) = some p → s.pat.log.get? p = some e → s.pat.bursts.length < 64 →
      Completes (.errorReport r) s fun t =>
        t.pat.log.get? p = some { e with count := e.count + r.count, lastGtime := r.lastGtime } ∧ Reported 1 s t
        ∧ t.rd64 Reg.PAT_MERGED = (s.rd64 Reg.PAT_MERGED + 1) % 2 ^ 64
        ∧ t.get Fld.PAT_LOG_FREE_VALUE = s.get Fld.PAT_LOG_FREE_VALUE)
    ∧ (∀ p, s.logPositions.find? (s.merges r) = some p → Completes (.errorReport r) s fun t =>
      t.rd64 Reg.PAT_MERGED = (s.rd64 Reg.PAT_MERGED + 1) % 2 ^ 64)
    ∧ (s.logPositions.find? (s.merges r) = none → 64 < s.get Fld.PAT_LOG_FREE_VALUE → Completes (.errorReport r) s fun t =>
      t.pat.log = s.pat.log.put (s.get Fld.PAT_LOG_HEAD_VALUE % 4096) r ∧ Reported 1 s t
      ∧ t.get Fld.PAT_LOG_HEAD_VALUE = (s.get Fld.PAT_LOG_HEAD_VALUE % 4096 + 1) % 4096
      ∧ t.get Fld.PAT_LOG_FREE_VALUE = s.get Fld.PAT_LOG_FREE_VALUE - 1)
    ∧ (s.logPositions.find? (s.merges r) = none → s.get Fld.PAT_LOG_FREE_VALUE ≤ 64 → Completes (.errorReport r) s fun t =>
      t.pat.log = s.pat.log ∧ Reported 1 s t ∧ t.flag Fld.PAT_EVT_LOG_STORM = true
      ∧ t.rd64 (Reg.PAT_DROP + 8 * r.sev) = (s.rd64 (Reg.PAT_DROP + 8 * r.sev) + 1) % 2 ^ 64))
  ∧ (∀ (i : Fin 64) (s : State),
    (s.pat.bursts.find? (fun b => b.1 == i.val) = none → Completes (.burstClose i) s fun t => t = s)
    ∧ ∀ j b, s.pat.bursts.find? (fun b => b.1 == i.val) = some (j, b) → Completes (.burstClose i) s fun t =>
      t.pat.bursts = s.pat.bursts.filter (fun c => c.1 != i.val)
      ∧ (0 < s.get Fld.PAT_LOG_FREE_VALUE → t.pat.log = s.pat.log.put (s.get Fld.PAT_LOG_HEAD_VALUE % 4096)
          { b.newest with sev := b.newest.sev % 8 + 128, count := b.extra })
      ∧ (s.get Fld.PAT_LOG_FREE_VALUE = 0 → t.pat.log = s.pat.log ∧ t.flag Fld.PAT_EVT_LOG_STORM = true))
  ∧ ∀ s : State,
    (s.stage = 0 ∨ s.startingUp = true → Completes .logDrain s fun t => t = s)
    ∧ (s.stage ≠ 0 → s.startingUp = false → Completes .logDrain s fun t =>
      t.pat.log = .empty ∧ t.get Fld.PAT_LOG_TAIL_VALUE = s.get Fld.PAT_LOG_HEAD_VALUE ∧ t.get Fld.PAT_LOG_FREE_VALUE = 4096
      ∧ t.bon.logNext = s.bon.logNext + (s.logPositions.filter fun p => (s.pat.log.get? p).isSome).length)

/-! ### Sensors and links -/

/-- R316 to R324: a good sensor sample enters its accumulators and moves its level; the third bad one in a row breaks the sensor,
which from then on reads as its class's throttle threshold; LEVEL is the highest level of the sensors that are not excluded. A
rail only accumulates. The end of an interval copies and clears every input; a comparator trip is held. Where this goes beyond the
rules it is the model's choice: log entry 29. -/
def Obligations.sensors_accumulate_and_set_the_level : Prop :=
  (∀ (c : Instr) (d i k : Nat) (code : Option Nat) (em ns : Nat) (s : State),
    ((∃ (die : Fin 18) (input : Fin 40) (v : BitVec 12), c = .hkcSample die input v em ns ∧ d = die ∧ i = input
        ∧ converted d i = true ∧ sensorClass d i = some k ∧ code = some v.toNat)
      ∨ ∃ (st : Fin 16) (v : Option (BitVec 12)), c = .hbmSensorRead st v em ns ∧ d = 16 + st.val / 8 ∧ i = 32 + st.val % 8 ∧ k = 2
        ∧ code = v.map (·.toNat)) →
    let x := s.hkc d i
    let takes := fun (n : Nat) (t : State) =>
      (t.hkc d i).level = s.nextLevel k x.level n ∧ (t.hkc d i).sum = x.sum + n ∧ (t.hkc d i).count = x.count + 1
      ∧ t.get Fld.THM_STS_LEVEL = t.moduleLevel % 4
    (x.broken = true → Completes c s (takes (s.threshold k 2)))
    ∧ (x.broken = false → badSample code = false → Completes c s fun t =>
      takes (code.getD 0) t ∧ (t.hkc d i).bad = 0 ∧ (t.hkc d i).broken = false)
    ∧ (x.broken = false → badSample code = true → x.bad < 2 → Completes c s fun t =>
      t.hkc d i = { x with bad := x.bad + 1 } ∧ FieldsBut [] s t)
    ∧ (x.broken = false → badSample code = true → 2 ≤ x.bad → Completes c s fun t =>
      takes (s.threshold k 2) t ∧ (t.hkc d i).broken = true ∧ t.flag Fld.THM_EVT_BROKEN = true ∧ Reported 1 s t))
  ∧ (∀ (d : Fin 18) (i : Fin 40) (v : BitVec 12) (em ns : Nat) (s : State),
    (converted d i = false → Completes (.hkcSample d i v em ns) s fun t => t = s)
    ∧ (converted d i = true → sensorClass d i = none → Completes (.hkcSample d i v em ns) s fun t =>
      (∃ o, t.hkc d i = { (s.hkc d i).add v.toNat with outside := o }) ∧ FieldsBut [pendBit d i] s t))
  ∧ (∀ s : State, s.canonical = true → Completes .hkcIntervalEnd s fun t =>
    t.get Fld.HKC_IVAL_COUNT = (s.get Fld.HKC_IVAL_COUNT + 1) % 2 ^ 32 ∧ t.get Fld.HKC_LAPNUM_LAP = s.lap % 2 ^ 32
    ∧ ∀ k x, s.thm.inputs.get? k = some x →
      t.rd (keyAt k Reg.HKC_SUM) = BitVec.ofNat 32 x.sum ∧ t.rd (keyAt k Reg.HKC_CNT) = BitVec.ofNat 32 x.count
      ∧ t.rd (keyAt k Reg.HKC_MINMAX) = BitVec.ofNat 32 (x.max * 65536 + x.min)
      ∧ t.thm.inputs.get? k = some { x with sum := 0, count := 0, min := 0xFFF, max := 0 })
  ∧ ∀ (d : Fin 18) (s : State), Completes (.thermalComparatorTrip d) s fun t =>
    t.flag Fld.THM_STS_TRIP_ANA = true ∧ d.val ∈ t.thm.tripAna ∧ FieldsBut [Fld.THM_STS_TRIP_ANA] s t

/-- R272 to R275, R290: a frame that its port does not carry is nothing; one with a bad CRC draws a RETRY NACK, at most every 2
µs; an unknown type or a bad length is a violation. The DATA frame that is due extends its class's message, which is delivered
when whole; an earlier one is discarded. ACK frees what it covers, NACK shows its reason and draws the resend; the acknowledgement
that is owed leaves with its timer. Where this goes beyond the rules it is the model's choice: log entries 45, 78, 80 and 82. -/
def Obligations.frames_are_checked_and_delivered : Prop :=
  (∀ (p : Fin 32) (f : Frame) (now : Nat) (s : State) (c : Instr),
    c ∈ [Instr.data p f now, .ack p f now, .nack p f now, .badType p f now] →
    let x := s.port p
    let carried := s.carries p f.type.toNat
    let bad := 7 < f.type.toNat ∨ 256 < f.len.toNat ∨ f.len.toNat % 4 ≠ 0
    let violates := fun (t : State) =>
      t.rd64 Reg.LNK_PEER_VIOL = (s.rd64 Reg.LNK_PEER_VIOL + 1) % 2 ^ 64 ∧ t.flag Fld.LNK_EVT_PEER_VIOL = true ∧ Reported 1 s t
      ∧ t.lnk.rx = s.lnk.rx
    let kept := x.retry.filter fun g => !seqBefore g.seq.toNat f.ack.toNat
    (carried = false → Completes c s fun t => t = s)
    ∧ (carried = true → f.crcOk = false →
      ((∀ y, x.nacked.find? (fun y => y.1 == 0) = some y → y.2 + 2000 ≤ now) → Completes c s fun t =>
        (∃ n, t.sent = s.sent ++ [.frame p n] ∧ n.type = 3#8) ∧ FieldsBut [] s t)
      ∧ (∀ y, x.nacked.find? (fun y => y.1 == 0) = some y → now < y.2 + 2000 → Completes c s fun t => t = s))
    ∧ (carried = true → f.crcOk = true → bad → Completes c s violates)
    ∧ (carried = true → f.crcOk = true → ¬ bad → f.type = 1#8 →
      let n := (f.flags.extractLsb' 0 3).toNat
      let on := ∃ r, s.portRec p = some r ∧ 1 ≤ n ∧ n ≤ 4 ∧ r.admits n = true
      let whole := joinMessage (x.partOf n) n (f.flags.getLsbD 7) (f.flags.getLsbD 6) f.payload
      (∀ m, f.seq.toNat = x.expSeq → on → whole = some (m, true) → Completes c s fun t =>
        (t.port p).expSeq = (x.expSeq + 1) % 2 ^ 32 ∧ (t.port p).ackOwed = true ∧ t.lnk.rx = s.lnk.rx ++ [(p.val, m)]
        ∧ (t.port p).partOf n = none ∧ t.rd64 Reg.LNK_PEER_VIOL = s.rd64 Reg.LNK_PEER_VIOL)
      ∧ (∀ m, f.seq.toNat = x.expSeq → on → whole = some (m, false) → Completes c s fun t =>
        (t.port p).expSeq = (x.expSeq + 1) % 2 ^ 32 ∧ (t.port p).ackOwed = true ∧ t.lnk.rx = s.lnk.rx
        ∧ (t.port p).partOf n = some m ∧ t.rd64 Reg.LNK_PEER_VIOL = s.rd64 Reg.LNK_PEER_VIOL)
      ∧ (f.seq.toNat = x.expSeq → ¬ on ∨ whole = none → Completes c s fun t =>
        violates t ∧ (t.port p).expSeq = (x.expSeq + 1) % 2 ^ 32)
      ∧ (f.seq.toNat ≠ x.expSeq → seqBefore f.seq.toNat x.expSeq = true → Completes c s fun t =>
        (t.port p).expSeq = x.expSeq ∧ t.lnk.rx = s.lnk.rx ∧ t.rd64 Reg.LNK_PEER_VIOL = s.rd64 Reg.LNK_PEER_VIOL)
      ∧ (f.seq.toNat ≠ x.expSeq → seqBefore f.seq.toNat x.expSeq = false → 4096 < (f.seq.toNat + 2 ^ 32 - x.expSeq) % 2 ^ 32 →
        Completes c s violates))
    ∧ (carried = true → f.crcOk = true → ¬ bad → f.type = 3#8 → x.wait = [] →
      let again := kept.filter fun g => !seqBefore g.seq.toNat (bytesAt f.payload 1 4)
      (bytesAt f.payload 0 1 = 0 → Completes c s fun t =>
        t.get (Fld.LNK_PSTS_REASON.sel p) = 0 ∧ (t.port p).retry = kept
        ∧ t.rd64 Reg.LNK_RETRY = (s.rd64 Reg.LNK_RETRY + again.length) % 2 ^ 64
        ∧ t.sent = s.sent ++ again.map fun g => .frame p { g with ack := BitVec.ofNat 32 x.expSeq })
      ∧ (bytesAt f.payload 0 1 ≠ 0 → Completes c s fun t =>
        t.get (Fld.LNK_PSTS_REASON.sel p) = bytesAt f.payload 0 1 % 16 ∧ (t.port p).retry = kept ∧ t.sent = s.sent))
    ∧ (carried = true → f.crcOk = true → ¬ bad → f.type ≠ 1#8 → f.type ≠ 3#8 → x.wait = [] → Completes c s fun t =>
      (t.port p).retry = kept ∧ t.sent = s.sent ∧ t.lnk.rx = s.lnk.rx ∧ FieldsBut [] s t))
  ∧ ∀ (p : Fin 32) (s : State),
    Completes (.idle p) s (fun t => t = s)
    ∧ (s.portOpen p = true → (s.port p).ackOwed = true → Completes (.ackTimer p) s fun t =>
      (t.port p).ackOwed = false
      ∧ ∃ f, t.sent = s.sent ++ [.frame p f] ∧ f.type = 2#8 ∧ f.ack = BitVec.ofNat 32 (s.port p).expSeq)
    ∧ (s.portOpen p = false ∨ (s.port p).ackOwed = false → Completes (.ackTimer p) s fun t => t = s)

/-- R274, R278 to R281: the stages of bring-up lead from LIGHT over lock and HELLO to UP, or to DEGRADED on three lanes; fewer
lanes, or what takes a port out of service, lead to DOWN; a HELLO of the wrong peer is refused. A port down or refused tries
again. A failed lane of an UP port is named to the peer, and the port is DEGRADED when the three are locked, UP when a fourth is.
Where this goes beyond the rules it is the model's choice: log entries 79 and 84. -/
def Obligations.ports_come_up_and_lose_lanes : Prop :=
  ∀ (p : Fin 32) (s : State),
  let st := s.portState p
  let enters := fun (n : Nat) (t : State) => t.portState p = n
  let down := fun (t : State) =>
    enters 6 t ∧ t.flag Fld.LNK_EVT_PORT_DOWN = true ∧ Reported 1 s t ∧ (t.port p).retry = [] ∧ (t.port p).part = []
  (∀ lanes : BitVec 5,
    let spare := ∃ r, s.portRec p = some r ∧ r.spare = true
    let tryOn := fun (got : BitVec 5) =>
      (laneCount got < 3 → Completes (.portBringupStageDone p lanes) s down)
      ∧ (3 ≤ laneCount got → Completes (.portBringupStageDone p lanes) s fun t =>
        enters 3 t ∧ t.lanesOf p = lowestLanes got ∧ (t.port p).txLanes = lowestLanes got ∧ (t.port p).locked = got
        ∧ ∃ f, t.sent = s.sent ++ [.frame p f] ∧ f.type = 7#8)
    (st = 1 → 3 ≤ laneCount lanes → Completes (.portBringupStageDone p lanes) s (enters 2))
    ∧ (st = 1 → laneCount lanes < 3 → Completes (.portBringupStageDone p lanes) s down)
    ∧ (st = 2 → spare → tryOn lanes) ∧ (st = 2 → ¬ spare → tryOn (lanes &&& 0b01111#5))
    ∧ (st = 3 → (s.port p).heard = true → laneCount (s.lanesOf p) = 4 → Completes (.portBringupStageDone p lanes) s (enters 4))
    ∧ (st = 3 → (s.port p).heard = true → laneCount (s.lanesOf p) ≠ 4 → Completes (.portBringupStageDone p lanes) s fun t =>
      enters 5 t ∧ t.flag Fld.LNK_EVT_DEGRADED = true)
    ∧ (st = 0 ∨ 3 < st ∨ (st = 3 ∧ (s.port p).heard = false) → Completes (.portBringupStageDone p lanes) s fun t => t = s))
  ∧ (let enabled := ∃ r, s.portRec p = some r ∧ r.classes.getLsbD 0 = true
    (st = 6 ∨ st = 7 → enabled → Completes (.portBringupRetry p) s (enters 1))
    ∧ (¬ (st = 6 ∨ st = 7) ∨ ¬ enabled → Completes (.portBringupRetry p) s fun t => t = s))
  ∧ (∀ (h : HelloPayload) (now : Nat),
    (s.carries p 7 = false → Completes (.hello p h now) s fun t => t = s)
    ∧ (s.carries p 7 = true → s.helloFails p h = none → Completes (.hello p h now) s fun t =>
      (t.port p).heard = true ∧ t.get (Fld.LNK_PSTS_PEER_ID.sel p) = h.moduleId.toNat ∧ enters st t)
    ∧ ∀ r, s.carries p 7 = true → s.helloFails p h = some r → Completes (.hello p h now) s fun t =>
      enters 7 t ∧ t.get (Fld.LNK_PSTS_PEER_ID.sel p) = h.moduleId.toNat ∧ t.flag Fld.LNK_EVT_PORT_DOWN = true
      ∧ t.rd64 Reg.LNK_PEER_VIOL = (s.rd64 Reg.LNK_PEER_VIOL + 1) % 2 ^ 64)
  ∧ (∀ cause : PortDownCause,
    let stays := st = 0 ∨ st = 6 ∨ (cause = .retries ∧ (s.port p).nackRun < 16)
    (stays → Completes (.portDown p cause) s fun t => t = s) ∧ (¬ stays → Completes (.portDown p cause) s down))
  ∧ (∀ (map : BitVec 5),
    (s.portOpen p = true → Completes (.lane p map) s fun t => (t.port p).txLanes = map ∧ SameBut [.lnk] s t)
    ∧ (s.portOpen p = false → Completes (.lane p map) s fun t => t = s)
    ∧ (let restores := st = 5 ∧ laneCount map = 4 ∧ map &&& (s.port p).locked = map
      (restores → Completes (.spareLaneRestore p map) s fun t =>
        enters 4 t ∧ t.lanesOf p = map ∧ t.sent = s.sent ++ [.lanes p map])
      ∧ (¬ restores → Completes (.spareLaneRestore p map) s fun t => t = s)))
  ∧ (∀ w : Fin 5,
    let m := BitVec.ofNat 5 (2 ^ w.val)
    (s.portOpen p = false → Completes (.laneFailure p w) s fun t => t = s)
    ∧ (s.portOpen p = true → Completes (.laneFailure p w) s fun t =>
      (t.port p).locked = (s.port p).locked &&& ~~~m
      ∧ ((s.lanesOf p).getLsbD w = true → Reported 1 s t)
      ∧ ((s.lanesOf p).getLsbD w = true → st = 4 → t.sent = s.sent ++ [.lanes p (s.lanesOf p &&& ~~~m)])
      ∧ ((s.lanesOf p).getLsbD w = false ∨ st = 5 → t.sent = s.sent)))
  ∧ let left := s.lanesOf p &&& (s.port p).locked
    (st = 4 → laneCount left = 3 → Completes (.degradedLock p) s fun t =>
      enters 5 t ∧ t.lanesOf p = left ∧ t.flag Fld.LNK_EVT_DEGRADED = true
      ∧ ∃ f, t.sent = s.sent ++ [.frame p f] ∧ f.type = 3#8)
    ∧ (st ≠ 4 ∨ laneCount left ≠ 3 → Completes (.degradedLock p) s fun t => t = s)

/-- R282 to R289: a TIME frame of an open port is kept for the echo, and the module follows the lowest root; from its parent it
takes the offset, and counts the frames within 10 ns up to LOCKED. A global operation is refused when it breaks the protocol,
counted when seen before, else passed on and held for its boundary, or late. GO answers with its status, and a SENT operation
leaves on every domain port. Where this goes beyond the rules it is the model's choice: log entries 46, 83 and 84. -/
def Obligations.time_is_followed_and_operations_held : Prop :=
  (∀ (p : Fin 32) (x : TimePayload) (s : State),
    let s1 := s.modPort p fun y =>
      { y with echoTx := x.tx, echoRx := x.t4, peerRoot := x.root.toNat, peerHops := x.hops, peerDlap := x.dlap }
    let th := (timeOffsets x).1
    (s.portOpen p = false → Completes (.time p x) s (fun t => t = s) ∧ Completes (.timeFrameTimer p) s fun t => t = s)
    ∧ (s.portOpen p = true → Completes (.timeFrameTimer p) s fun t =>
      ∃ f, t.sent = s.sent ++ [.frame p f] ∧ f.type = 4#8)
    ∧ (s.portOpen p = true → Completes (.time p x) s fun t =>
      t.port p = s1.port p
      ∧ (∀ y, s1.parent = some y → t.get Fld.LNK_ID_ROOT_ID = y.2.1 % 2 ^ 16 ∧ t.get Fld.LNK_SYNC_HOPS = (y.2.2 + 1) % 64
        ∧ t.get Fld.LNK_SYNC_PARENT = y.1 % 32 ∧ t.flag Fld.LNK_SYNC_ROOT = false)
      ∧ (s1.parent = none → t.get Fld.LNK_ID_ROOT_ID = s.moduleId ∧ t.get Fld.LNK_SYNC_HOPS = 0 ∧ t.flag Fld.LNK_SYNC_ROOT = true)
      ∧ (∀ y, x.echoTx ≠ 0 → s1.parent = some y → y.1 = p.val →
        let n := if th.natAbs ≤ 10 then min 200 (s.lnk.lockRun + 1) else 0
        t.get Fld.LNK_SYNC_OFFSET = sat16 th ∧ t.lnk.lockRun = n ∧ t.flag Fld.LNK_SYNC_LOCKED = (n == 200)
        ∧ (s.running = false → t.rd64 Reg.LNK_GTIME = (max 0 ((x.t4 : Int) + th)).toNat % 2 ^ 64)
        ∧ (s.running = true → t.rd64 Reg.LNK_GTIME = x.t4 % 2 ^ 64))))
  ∧ (∀ (p : Fin 32) (g : GopPayload) (now : Nat) (s : State),
    let bad := gopValid g = false ∨ (g.hops = 0#8 ∧ g.target.toNat < (s.port p).peerDlap + 2)
    let seen := g.gseq.toNat ≤ s.lnk.seen.getD g.origin.toNat 0
    let late := s.running = true ∧ g.target.toNat ≤ s.dlap s.lap
    (s.portOpen p = false → Completes (.gop p g now) s fun t => t = s)
    ∧ (s.portOpen p = true → bad → Completes (.gop p g now) s fun t =>
      t.rd64 Reg.LNK_PEER_VIOL = (s.rd64 Reg.LNK_PEER_VIOL + 1) % 2 ^ 64 ∧ t.lnk.held = s.lnk.held)
    ∧ (s.portOpen p = true → ¬ bad → seen → Completes (.gop p g now) s fun t =>
      t.rd64 Reg.LNK_GOP_DUP = (s.rd64 Reg.LNK_GOP_DUP + 1) % 2 ^ 64 ∧ FieldsBut (Fld.dword Reg.LNK_GOP_DUP) s t ∧ t.lnk = s.lnk)
    ∧ (s.portOpen p = true → ¬ bad → ¬ seen → Completes (.gop p g now) s fun t =>
      t.lnk.seen.get? g.origin.toNat = some g.gseq.toNat
      ∧ (∀ q ∈ s.domainPorts, q ≠ p.val → ∃ f, Out.frame q f ∈ t.sent ∧ f.type = 5#8)
      ∧ (s.inScope g = false → t.lnk.held = s.lnk.held)
      ∧ (s.inScope g = true → ¬ late → t.lnk.held = s.lnk.held ++ [⟨g, false, false⟩])
      ∧ (s.inScope g = true → late → t.flag Fld.LNK_EVT_GOP_LATE = true
        ∧ t.rd64 Reg.LNK_GOP_LATE = (s.rd64 Reg.LNK_GOP_LATE + 1) % 2 ^ 64
        ∧ (g.op = 1#8 ∨ g.op = 2#8 → t.lnk.realign = true ∧ t.lnk.held = s.lnk.held)
        ∧ (g.op = 3#8 ∨ g.op = 5#8 → t.lnk.held = s.lnk.held ++ [⟨g, true, false⟩])
        ∧ (g.op = 4#8 → t.flag Fld.LNK_EVT_GOP_RX = true ∧ t.lnk.held = s.lnk.held))))
  ∧ ∀ (v : Word) (s : State) (c : Instr),
    c ∈ [Instr.gopBarrier v, .gopSnapshot v, .gopBroadcast v, .gopReset v, .gopStretchRefused v] → Decoded s →
    let op := wordBits v 24 3
    let status := s.goStatus op (wordBits v 16 8) (wordBits v 0 1)
    (wordBits v 31 1 = 0 → Completes c s fun t =>
      t.get Fld.LNK_GOP_CTL_OP = op ∧ t.get Fld.LNK_GOP_CTL_LEAD = wordBits v 16 8 ∧ t.get Fld.LNK_GOP_CTL_SCOPE = wordBits v 0 1
      ∧ FieldsBut [Fld.LNK_GOP_CTL_OP, Fld.LNK_GOP_CTL_LEAD, Fld.LNK_GOP_CTL_SCOPE] s t)
    ∧ (wordBits v 31 1 = 1 → s.flag Fld.LNK_GOP_CTL_BUSY = true → Completes c s (Violates [.win 12] s))
    ∧ (wordBits v 31 1 = 1 → s.flag Fld.LNK_GOP_CTL_BUSY = false → Completes c s fun t =>
      t.get Fld.LNK_GOP_CTL_STATUS = status
      ∧ (status = 1 → t.lnk.gseq = s.lnk.gseq + 1
        ∧ ∀ q ∈ s.domainPorts, ∃ f, Out.frame q f ∈ t.sent ∧ f.type = 5#8)
      ∧ (status ≠ 1 → t.lnk = s.lnk ∧ t.sent = s.sent))

/-! ### The loader -/

/-- R259, R261, R264, R268, R428: a write of LDR_CTL with START runs its MODE on its SLOT when the loader is not BUSY and the slot
is in the state that the mode needs, else ends with BAD_SLOT_STATE; START while an operation runs is a violation, and ABORT ends a
LOAD or ATTACH with the slot EMPTY, a REPLACE with it RESIDENT, MIXED after a gate, one whose gate is closed once that opens, a
RELEASE not at all. LDR_PUT and the staging window move the image in, or end the operation with STG_OVERRUN. Where this goes
beyond the rules it is the model's choice: log entries 32 and 90. -/
def Obligations.loader_operations_start_and_abort : Prop :=
  (∀ (v : Word) (s : State) (c : Instr),
    c ∈ [Instr.ldrLoad v, .ldrReplace v, .ldrAttach v, .ldrRelease v, .ldrAbort v] → Decoded s →
    let mode := ldrModeOf (wordBits v 28 2)
    let m := wordBits v 22 6
    let ends := fun (slot n : Nat) (t : State) =>
      t.ldr.op = none ∧ t.ldr.left = [] ∧ t.slotState slot = n ∧ t.flag Fld.LDR_STS_BUSY = false ∧ t.get Fld.LDR_STS_PHASE = 6
      ∧ t.get Fld.LDR_STS_ERR = ldrAborted ∧ t.flag Fld.LDR_EVT_FAILED = true
    (s.ldr.op = none → wordBits v 31 1 = 1 → s.slotState m = mode.states.1 → Completes c s fun t =>
      t.ldr.op = some (LdrOp.new mode m (wordBits v 14 8) (wordBits v 13 1 != 0)) ∧ t.slotState m = mode.states.2
      ∧ t.flag Fld.LDR_STS_BUSY = true ∧ t.get Fld.LDR_STS_PHASE = (if mode = .release then 2 else 1)
      ∧ t.get Fld.LDR_STS_ERR = 0 ∧ t.rd64 Reg.LDR_GET = 0 ∧ (mode ≠ .release → t.wax = s.wax)
      ∧ t.ldr.digests = s.ldr.digests ∧ t.bibs = s.bibs ∧ t.fab = s.fab)
    ∧ (s.ldr.op = none → wordBits v 31 1 = 1 → s.slotState m ≠ mode.states.1 → Completes c s fun t =>
      t.get Fld.LDR_STS_PHASE = 6 ∧ t.get Fld.LDR_STS_ERR = ldrBadSlot ∧ t.flag Fld.LDR_EVT_FAILED = true
      ∧ SameBut [.win 11] s t)
    ∧ (s.ldr.op = none → wordBits v 31 1 = 0 → Completes c s fun t =>
      FieldsBut [Fld.LDR_CTL_MODE, Fld.LDR_CTL_SLOT, Fld.LDR_CTL_GAP, Fld.LDR_CTL_STAGE_LODGE] s t ∧ SameBut [.win 11] s t)
    ∧ ∀ o, s.ldr.op = some o →
      (wordBits v 30 1 = 0 → wordBits v 31 1 = 1 → Completes c s (Violates [.win 11] s))
      ∧ (wordBits v 30 1 = 1 → o.mode = .load ∨ o.mode = .attach → Completes c s fun t =>
        ends o.slot 0 t ∧ t.ldr.slots.get? o.slot = none)
      ∧ (wordBits v 30 1 = 1 → o.mode = .replace → o.gate = none → Completes c s fun t =>
        ends o.slot 2 t ∧ t.ldr.slots = s.ldr.slots ∧ (0 < o.programmed → t.flag (Fld.LDR_SLOT_STS_MIXED.sel o.slot) = true))
      ∧ (wordBits v 30 1 = 1 → o.mode = .replace → o.gate ≠ none → Completes c s fun t =>
        t.ldr.op = some { o with err := if o.err = 0 then ldrAborted else o.err, aborting := true })
      ∧ (wordBits v 30 1 = 1 → o.mode = .release → Completes c s fun t => SameBut [.win 11] s t ∧ t.slotState m = s.slotState m))
  ∧ (∀ (x : DWord) (s : State), Decoded s →
    let falls := x.toNat < s.rd64 Reg.LDR_PUT ∨ s.rd64 Reg.LDR_IMG_LEN < x.toNat
    (s.streams = false ∨ ¬ falls → Completes (.ldrPut x) s fun t =>
      t.rd64 Reg.LDR_PUT = x.toNat ∧ FieldsBut (Fld.dword Reg.LDR_PUT) s t ∧ SameBut [.win 11] s t)
    ∧ ∀ o, s.ldr.op = some o → o.mode ≠ .release → o.gate = none → falls → Completes (.ldrPut x) s fun t =>
      t.ldr.op = none ∧ t.get Fld.LDR_STS_ERR = ldrOverrun ∧ t.flag Fld.LDR_EVT_FAILED = true
      ∧ t.rd64 Reg.LDR_PUT = s.rd64 Reg.LDR_PUT)
  ∧ ∀ (off : BitVec 36) (bytes : List Byte) (s : State), Decoded s →
    let n := s.stagingSize
    let fits := s.imageByte off.toNat + bytes.length ≤ s.rd64 Reg.LDR_GET + n
    (s.streams = false ∨ fits → bytes.length ≤ n → Completes (.bar4Write off bytes) s fun t =>
      FieldsBut [] s t ∧ SameBut [.ldr] s t ∧ t.ldr.op = s.ldr.op
      ∧ (∀ i b, bytes[i]? = some b → Memory.read stagingByte t.ldr.staging ((off.toNat + i) % n) = b)
      ∧ ∀ a, (∀ i < bytes.length, a ≠ (off.toNat + i) % n) →
        Memory.read stagingByte t.ldr.staging a = Memory.read stagingByte s.ldr.staging a)
    ∧ ∀ o, s.ldr.op = some o → o.mode ≠ .release → o.gate = none → ¬ fits → Completes (.bar4Write off bytes) s fun t =>
      t.ldr.op = none ∧ t.get Fld.LDR_STS_ERR = ldrOverrun ∧ t.flag Fld.LDR_EVT_FAILED = true
      ∧ t.ldr.staging = s.ldr.staging

/-- R258, R261 to R268: the loader takes the header, then section by section, what PUT has staged, ending with the code of the
first check that fails; a round programs the arrays that are due, an array that passes taking its residual cells, map and gain; a
layer whose fingerprint agrees counts, or its gate may open, one that does not is programmed again, and a gated layer's old
weights come back after the second failure; the operation ends when all that it must do is done. Where this goes beyond the rules
it is the model's choice: log entries 49, 50, 90 and 91. -/
def Obligations.loads_are_verified_programmed_and_end : Prop :=
  (∀ (s : State) (o : LdrOp), s.ldr.op = some o →
    let idle := o.mode = .release ∨ o.aborting = true ∨ s.halted = true
    let put := s.rd64 Reg.LDR_PUT
    let h := headerLen (bytesAt (s.imageBytes 0x0C 4) 0 4)
    let staged := 0x100 ≤ put ∧ (h ≤ put ∨ bytesAt (s.imageBytes 8 4) 0 4 ≠ h)
    let code := s.headerCode o (s.imageBytes 0 h)
    let fails := fun (n : Nat) (t : State) =>
      t.ldr.op = none ∧ t.get Fld.LDR_STS_ERR = n ∧ t.get Fld.LDR_STS_PHASE = 6 ∧ t.flag Fld.LDR_EVT_FAILED = true
    (idle → Completes .ldrSectionVerified s fun t => t = s)
    ∧ (¬ idle → o.headerDone = false → ¬ staged → Completes .ldrSectionVerified s fun t => t = s)
    ∧ (¬ idle → o.headerDone = false → staged → o.gate = none → code ≠ 0 → Completes .ldrSectionVerified s (fails code))
    ∧ (¬ idle → o.headerDone = false → staged → code = 0 → Completes .ldrSectionVerified s fun t =>
      t.rd64 Reg.LDR_GET = h ∧ t.get Fld.LDR_STS_PHASE = 2
      ∧ ∃ o', t.ldr.op = some o' ∧ o'.headerDone = true ∧ o'.model = headerModel (s.imageBytes 0 h) ∧ o'.slot = o.slot
        ∧ o'.dir.length = bytesAt (s.imageBytes 0 h) 0x0C 4
        ∧ (o.mode = .attach → s.ldr.digests.get? o.slot ≠ some o'.digest → o'.mode = .load ∧ t.slotState o.slot = 1)
        ∧ (o.mode ≠ .attach ∨ s.ldr.digests.get? o.slot = some o'.digest → o'.mode = o.mode))
    ∧ (¬ idle → o.headerDone = true → o.dir[o.next]? = none → Completes .ldrSectionVerified s fun t => t = s)
    ∧ ∀ e, ¬ idle → o.headerDone = true → o.dir[o.next]? = some e →
      let r := openSection o o.next e (s.imageBytes e.offset e.len)
      let x := s.takeSection o e r.2
      (put < e.offset + e.len → Completes .ldrSectionVerified s fun t => t = s)
      ∧ (e.offset + e.len ≤ put → o.gate = none → r.1 ≠ 0 → Completes .ldrSectionVerified s (fails r.1))
      ∧ (e.offset + e.len ≤ put → o.gate = none → r.1 = 0 → x.1 ≠ 0 → Completes .ldrSectionVerified s (fails x.1))
      ∧ (e.offset + e.len ≤ put → r.1 = 0 → x.1 = 0 → Completes .ldrSectionVerified s fun t =>
        t.ldr.op = some { o with model := x.2, next := o.next + 1 } ∧ t.rd64 Reg.LDR_GET = e.offset + e.len))
  ∧ (∀ (l : List ArrayProgram) (s : State),
    let idle := s.flag Fld.PWR_STS_VPP_OK = false ∨ s.halted = true
    (idle → Completes (.programRoundDone l) s fun t => t = s)
    ∧ (¬ idle → Completes (.programRoundDone l) s fun t =>
      t.ledger = { s.ledger with planned := s.ledger.planned + 256 * s.get Fld.LDR_PROG_W_WATTS * 10000 })
    ∧ ∀ p, ¬ idle → l = [p] →
      let d := p.die.val
      let k := arrKey d p.tile p.array
      let r := moveColumns (natMisses p.spareMisses) 4 [] (natMisses p.misses)
      let open' := ∀ o, s.ldr.op = some o → o.gate = none
      k ∈ s.ldr.left.take s.roundSize → (s.tile d p.tile).state = .programming → open' →
      (p.passOk = true → r.2.length ≤ 32 → Completes (.programRoundDone l) s fun t =>
        let g := driftGain (p.refs.foldl (· + ·) 0) (idealDiff (s.tile d p.tile).range)
        (t.arr d p.tile p.array).gain = g.getD (s.arr d p.tile p.array).gain ∧ (t.arr d p.tile p.array).oor = g.isNone
        ∧ (t.arr d p.tile p.array).map = ((List.range 4).map fun i => r.1[i]?)
        ∧ (t.arr d p.tile p.array).rcells = cellsOf r.2 ∧ (t.arr d p.tile p.array).age = 0
        ∧ (∀ j, j ≠ k → t.fab.arrays.get? j = s.fab.arrays.get? j)
        ∧ k ∉ t.ldr.left ∧ (t.tile d p.tile).holdsWeights = true
        ∧ t.rd64 Reg.LDR_PV_MISS = (s.rd64 Reg.LDR_PV_MISS + r.2.length) % 2 ^ 64
        ∧ t.rd64 Reg.LDR_PV_SPARECOL = (s.rd64 Reg.LDR_PV_SPARECOL + r.1.length) % 2 ^ 64)
      ∧ ∀ y, (p.passOk = false ∨ 32 < r.2.length) → s.chooseSpare d p.tile = some y → y ≠ p.tile → s.fab.tests.get? d = none →
        Completes (.programRoundDone l) s fun t =>
          (t.tile d p.tile).state = .retired ∧ (t.tile d y).state = .programming ∧ (t.tile d y).replaces = some p.tile.val
          ∧ (∀ a : Fin 256, arrKey d p.tile a ∉ t.ldr.left) ∧ (∀ a : Fin 256, arrKey d y a ∈ t.ldr.left) ∧ Reported 1 s t)
  ∧ (∀ (fp : List Int) (s : State) (o : LdrOp), s.ldr.op = some o → s.ldr.left = [] →
    let gated := o.gate.isSome = true ∧ o.verified = false ∧ o.err ≠ ldrVerifyFail
    let attach := o.matched = true ∧ o.next = o.dir.length ∧ o.programmed ≤ o.model.layers
    let good := differing (s.get Fld.PAT_CFG_FP_TOL) fp (fpLayer o.model.expectedPrint o.programmed) ≤ s.get Fld.PAT_CFG2_FP_MAX
    (¬ gated → ¬ attach → Completes (.ldrLayerVerified fp) s fun t => t = s)
    ∧ (gated ∨ attach → o.matched = true → good → Completes (.ldrLayerVerified fp) s fun t =>
      t.ldr.op = some { o with programmed := o.programmed + 1 } ∧ t.fab = s.fab)
    ∧ (gated ∨ attach → o.matched = true → ¬ good → Completes (.ldrLayerVerified fp) s fun t =>
      t.ldr.op = some { o with retried := true })
    ∧ (gated → o.matched = false → good → Completes (.ldrLayerVerified fp) s fun t =>
      t.ldr.op = some { o with verified := true, late := s.plan.composed } ∧ t.fab = s.fab)
    ∧ (gated → o.matched = false → ¬ good → o.retried = false → Completes (.ldrLayerVerified fp) s fun t =>
      t.ldr.op = some { o with retried := true })
    ∧ (gated → o.matched = false → ¬ good → o.retried = true → Completes (.ldrLayerVerified fp) s fun t =>
      ∃ x, t.ldr.op = some { o with err := ldrVerifyFail, model := x }
        ∧ x.content.get? o.programmed = some (s.oldLayer o o.programmed)))
  ∧ (∀ (fp : List Int) (s : State), s.ldr.op = none →
    Completes .ldrSectionVerified s (fun t => t = s) ∧ Completes (.ldrLayerVerified fp) s (fun t => t = s)
    ∧ Completes .ldrOperationDone s fun t => t = s)
  ∧ ∀ (s : State) (o : LdrOp), s.ldr.op = some o →
    let all := o.headerDone = true ∧ o.next = o.dir.length
    let whole := fun (t : State) =>
      t.ldr.op = none ∧ t.slotState o.slot = 2 ∧ t.ldr.slots.get? o.slot = some o.model
      ∧ t.ldr.digests.get? o.slot = some o.digest ∧ t.get Fld.LDR_STS_PHASE = 5 ∧ t.get Fld.LDR_STS_ERR = 0
      ∧ t.flag Fld.LDR_EVT_DONE = true ∧ t.flag (Fld.LDR_SLOT_STS_MIXED.sel o.slot) = false
      ∧ t.get (Fld.LDR_SLOT_STS_LAYERS.sel o.slot) = o.model.layers % 256
      ∧ t.get (Fld.KVM_MFMT_PB.sel o.slot) =
        ceilDiv (64 * (o.model.layers * o.model.kvheads * (if o.model.key4 then 3 * o.model.dh / 2 else 2 * o.model.dh))) 65536 % 512
    (s.halted = true → Completes .ldrOperationDone s fun t => t = s)
    ∧ (s.halted = false → o.mode = .release → s.slotIdle o.slot = true → Completes .ldrOperationDone s fun t =>
      t.ldr.op = none ∧ t.slotState o.slot = 0 ∧ t.ldr.slots.get? o.slot = none ∧ t.ldr.digests.get? o.slot = none
      ∧ t.get Fld.LDR_STS_PHASE = 5 ∧ t.flag Fld.LDR_EVT_DONE = true ∧ t.get (Fld.KVM_MFMT_PB.sel o.slot) = 0)
    ∧ (s.halted = false → o.mode = .release → s.slotIdle o.slot = false → Completes .ldrOperationDone s fun t => t = s)
    ∧ (s.halted = false → o.mode = .replace → all → o.model.layers < o.programmed → o.gate = none →
      Completes .ldrOperationDone s whole)
    ∧ (s.halted = false → o.mode = .load ∨ o.mode = .attach → all → o.matched = true → o.model.layers < o.programmed →
      s.ldr.left = [] → Completes .ldrOperationDone s whole)
    ∧ (s.halted = false → o.mode = .load ∨ o.mode = .attach → all → o.matched = false → o.claimed = true → s.ldr.left = [] →
      Completes .ldrOperationDone s whole)
    ∧ (s.halted = false → o.mode = .load ∨ o.mode = .attach → all → o.matched = false → o.claimed = true → s.ldr.left ≠ [] →
      Completes .ldrOperationDone s fun t => t = s)
    ∧ (s.halted = false → o.mode ≠ .release → ¬ all → Completes .ldrOperationDone s fun t => t = s)
    ∧ (s.halted = false → o.mode = .load ∨ o.mode = .attach → all → o.matched = false → o.claimed = false →
      Completes .ldrOperationDone s fun t =>
        (t.ldr.op = some { o with claimed := true } ∧ t.get Fld.LDR_STS_PHASE = 3)
        ∨ (t.ldr.op = none ∧ t.get Fld.LDR_STS_ERR = ldrNoSpare ∧ t.flag Fld.LDR_EVT_FAILED = true))

/-! ### Power, start-up and Bonos -/

/-- R357 to R359: a request for ACTIVE, IDLE or SLEEP ends DONE where it is met, REFUSED where its conditions fail, and else is
pending; one made while another is pending is a violation. An entry to IDLE ends, an exit begins from IDLE or is held until the
entry ends, and the next run of laps begins when the exit is ready; a member of a domain waits for the domain first. Where this
goes beyond the rules it is the model's choice: log entries 13, 47 and 88. -/
def Obligations.power_requests_enter_and_leave_idle : Prop :=
  (∀ (c : Instr) (n : Nat) (s : State), (c, n) ∈ [(.pwrReqActive, 0), (.pwrReqIdle, 1), (.pwrReqSleep, 2)] → Decoded s →
    let status := fun (k : Nat) (t : State) => t.get Fld.PWR_STS_REQ_STATUS = k ∧ t.get Fld.PWR_CTL_REQ = n
    let only := FieldsBut [Fld.PWR_CTL_REQ, Fld.PWR_STS_REQ_STATUS] s
    let free := s.get Fld.PWR_STS_REQ_STATUS ≠ 1
    let empty := (∀ b ∈ s.bibs.values, b.state = .free) ∧ ∀ p ∈ s.kvm.prefixes.values, p.state = .free
    (s.get Fld.PWR_STS_REQ_STATUS = 1 → Completes c s fun t => status 1 t ∧ Violates [.win 2] s t)
    ∧ (free → n = 0 → s.pwr.mode = .active → Completes c s fun t => status 2 t ∧ only t ∧ SameBut [.win 2] s t)
    ∧ (free → n = 0 → s.pwr.mode = .idle → s.pwr.begun = true → s.pwr.sleepAsked = false → s.halted = false →
      Completes c s fun t => status 1 t ∧ t.pwr.mode = .idleExit ∧ t.pwr.selfRefresh = false)
    ∧ (free → n = 0 → s.pwr.mode = .idleEntry → Completes c s fun t => status 1 t ∧ t.pwr = { s.pwr with exitHeld := true })
    ∧ (free → n = 0 → s.pwr.mode ≠ .active → s.pwr.mode ≠ .idleEntry →
      ¬ (s.pwr.mode = .idle ∧ s.pwr.begun = true ∧ s.pwr.sleepAsked = false ∧ s.halted = false) →
      Completes c s fun t => status 1 t ∧ only t ∧ SameBut [.win 2] s t)
    ∧ (free → n = 1 → s.pwr.mode = .active → s.mayIdle = true → Completes c s fun t =>
      status 1 t ∧ only t ∧ t.plan = { s.plan with idleRequested := true })
    ∧ (free → n = 1 → s.pwr.mode = .idle → Completes c s fun t => status 2 t ∧ only t ∧ SameBut [.win 2] s t)
    ∧ (free → n = 1 → (s.pwr.mode = .active ∧ s.mayIdle = false) ∨ (s.pwr.mode ≠ .active ∧ s.pwr.mode ≠ .idle) →
      Completes c s fun t => status 3 t ∧ only t ∧ SameBut [.win 2] s t)
    ∧ (free → n = 2 → s.pwr.mode = .idle → empty → Completes c s fun t =>
      status 1 t ∧ only t ∧ t.pwr = { s.pwr with sleepAsked := true, flushed := false })
    ∧ (free → n = 2 → ¬ (s.pwr.mode = .idle ∧ empty) → Completes c s fun t => status 3 t ∧ only t ∧ SameBut [.win 2] s t))
  ∧ (∀ s : State,
    (s.pwr.mode ≠ .idleEntry → Completes .idleEntryDone s fun t => t = s)
    ∧ (s.pwr.mode = .idleEntry → s.pwr.exitHeld = false → Completes .idleEntryDone s fun t =>
      t.get Fld.PWR_STS_STATE = 1 ∧ t.pwr = { s.pwr with mode := .idle, selfRefresh := true }
      ∧ (s.get Fld.PWR_STS_REQ_STATUS = 1 → t.get Fld.PWR_STS_REQ_STATUS = 2))
    ∧ (s.pwr.mode = .idleEntry → s.pwr.exitHeld = true → Completes .idleEntryDone s fun t =>
      t.pwr.mode = .idleExit ∧ t.pwr.selfRefresh = false ∧ t.pwr.exitHeld = false))
  ∧ (∀ (cause : IdleExitCause) (s : State),
    let leaves := s.pwr.begun = true ∧ s.pwr.sleepAsked = false ∧ s.halted = false
    (s.pwr.mode = .idle → leaves → Completes (.idleExit cause) s fun t => t.pwr.mode = .idleExit ∧ t.pwr.selfRefresh = false)
    ∧ (s.pwr.mode = .idleEntry → Completes (.idleExit cause) s fun t =>
      t.pwr = { s.pwr with exitHeld := true } ∧ FieldsBut [] s t)
    ∧ ((s.pwr.mode ≠ .idle ∧ s.pwr.mode ≠ .idleEntry) ∨ (s.pwr.mode = .idle ∧ ¬ leaves) →
      Completes (.idleExit cause) s fun t => t = s))
  ∧ ∀ (g : Nat) (s : State),
    let waits := s.pwr.mode ≠ .idleExit ∨ s.halted = true ∨ s.lnk.holding = true
    let on := fun (t : State) => ∀ n < 4096, s.groupState n = 1 ∨ n ∈ s.pwr.waiting → t.groupState n = 2
    (waits → Completes (.idleExitReady g) s fun t => t = s)
    ∧ (¬ waits → s.inDomain = true → Completes (.idleExitReady g) s fun t =>
      t.lnk.holding = true ∧ on t ∧ t.running = s.running)
    ∧ (¬ waits → s.inDomain = false → Completes (.idleExitReady g) s fun t =>
      on t ∧ t.running = true ∧ t.rd64 Reg.LAP_TIME = g % 2 ^ 64 ∧ t.rd64 Reg.LNK_GTIME = g % 2 ^ 64 ∧ t.pwr.mode = .active
      ∧ t.get Fld.PWR_STS_STATE = 0 ∧ t.lap = s.lap
      ∧ ∀ d < 16, s.seqState d ≠ 0 → s.seqState d ≠ 4 → t.seqState d = 2)

/-- R186, R268, R360, R361, R364, R414: with the function in D3hot an entry to SLEEP flushes and waits for the link, which then
puts the module to SLEEP; a wake aborts an entry, starts the module from SLEEP, and is held while it is halted. PERST_N and the
function level reset disable the queue pairs, close the bibs and abort the loader. The request of an aborted entry ends REFUSED
(log entry 48). Where this goes beyond the rules it is the model's choice: log entry 85. -/
def Obligations.sleep_wake_and_function_resets : Prop :=
  (∀ s : State,
    (¬ (s.pwr.sleepAsked = true ∧ s.pcie.d3hot = true) → Completes .sleepEntry s fun t => t = s)
    ∧ (s.pwr.sleepAsked = true → s.pcie.d3hot = true → Completes .sleepEntry s fun t =>
      t.pwr = { s.pwr with mode := .sleepEntry, flushed := true } ∧ t.pat.log = .empty ∧ t.bon.flushLaps = 0
      ∧ t.get Fld.PAT_LOG_FREE_VALUE = 4096 ∧ t.get Fld.PAT_LOG_TAIL_VALUE = s.get Fld.PAT_LOG_HEAD_VALUE)
    ∧ (¬ (s.pwr.sleepAsked = true ∧ s.pwr.flushed = true) → Completes .pmeTurnOff s fun t =>
      t.pcie = { s.pcie with l23 := true } ∧ SameBut [.pcie] s t)
    ∧ (s.pwr.sleepAsked = true → s.pwr.flushed = true → Completes .pmeTurnOff s fun t =>
      t.pcie = { s.pcie with l23 := true } ∧ t.pwr = { s.pwr with mode := .sleep, sleepN := true, sleepAsked := false }
      ∧ (s.get Fld.PWR_STS_REQ_STATUS = 1 → t.get Fld.PWR_STS_REQ_STATUS = 2)))
  ∧ (∀ (src : Option (Fin 1536)) (c : Instr) (goes : Prop) (s : State),
    (c, goes) ∈ [(Instr.wake src, s.wakes src = true), (.sleepAbort src, s.pwr.sleepAsked = true ∧ s.wakes src = true),
      (.pwrWakeTmr, src = none ∧ s.get Fld.PWR_WAKE_TMR_MS ≠ 0)] →
    (goes → s.halted = true → Completes c s fun t => t.pwr = { s.pwr with wakePending := true })
    ∧ (goes → s.halted = false → s.pwr.sleepAsked = true → Completes c s fun t =>
      t.pwr.mode = .idle ∧ t.pwr.sleepAsked = false ∧ t.pwr.flushed = false ∧ t.flag Fld.PWR_STS_SLEEP_ABORT = true
      ∧ t.rd64 Reg.PWR_SLEEP_ABORT = (s.rd64 Reg.PWR_SLEEP_ABORT + 1) % 2 ^ 64
      ∧ (s.get Fld.PWR_STS_REQ_STATUS = 1 → t.get Fld.PWR_STS_REQ_STATUS = 3))
    ∧ (goes → s.halted = false → s.pwr.sleepAsked = false → s.pwr.mode = .sleep → Completes c s fun t =>
      t.stage = 0 ∧ t.get Fld.PWR_STS_STATE = 1 ∧ t.pwr.sleepN = false ∧ t.bibs = .empty ∧ t.bon.flash = s.bon.flash
      ∧ t.bon.digests = s.bon.digests)
    ∧ (goes → s.halted = false → s.pwr.sleepAsked = false → s.pwr.mode ≠ .sleep → Completes c s fun t => t = s.riseSource src))
  ∧ (∀ (src : Option (Fin 1536)) (s : State),
    (s.wakes src = false → Completes (.wake src) s fun t => t = s)
    ∧ (s.pwr.sleepAsked = false ∨ s.wakes src = false → Completes (.sleepAbort src) s fun t => t = s)
    ∧ (s.get Fld.PWR_WAKE_TMR_MS = 0 → Completes .pwrWakeTmr s fun t => t = s))
  ∧ (∀ s : State, Completes .perstNDeassert s fun t =>
    t.pcie.perst = false ∧ t.pcie.training = true ∧ t.pcie.l23 = false
    ∧ (s.halted = false → s.pwr.mode = .sleep → s.pwr.sleepAsked = false → t.stage = 0)
    ∧ (s.halted = false → s.pwr.mode ≠ .sleep → s.pwr.sleepAsked = false → SameBut [.pcie] s t))
  ∧ ∀ s : State, s.canonical = true →
    let reset := fun (t : State) =>
      (∀ q, (s.qps.get? q).isSome = true →
        t.enabled q = false ∧ t.flag (Fld.QP_STS_ENABLED.sel q) = false)
      ∧ (∀ i, (s.bib i).kind = .normal → (s.bib i).state = .faulted → (t.bib i).state = .free)
      ∧ (∀ i, (s.bib i).kind = .normal → (s.bib i).state = .closing → (t.bib i).state = .closing)
      ∧ (∀ o, s.ldr.op = some o → o.mode = .load ∨ o.mode = .attach ∨ (o.mode = .replace ∧ o.gate = none) → t.ldr.op = none)
    Completes .functionLevelReset s reset
    ∧ (s.pwr.awaitPerst = false → Completes .perstNAssert s fun t => reset t ∧ t.pcie.perst = true ∧ t.pcie.training = false)
    ∧ (s.pwr.awaitPerst = true → Completes .perstNAssert s fun t =>
      t.pcie.perst = true ∧ t.pcie.training = false ∧ t.halted = false ∧ t.stage = 0 ∧ t.bibs = .empty)

/-- R362 to R364: the levels and their disagreement are shown; with both inputs asserted the module halts, with HALT_CAUSE INPUTS,
as it does with DISCREPANCY when the disagreement has lasted, its dies HELD and the laps stopped; a shorter disagreement counts. A
halt is released with its inputs deasserted, at PERST_N when CFG says so, and a thermal one not at all: every domain but AON is
reset. Where this goes beyond the rules it is the model's choice: log entries 14, 85 and 89. -/
def Obligations.halts_latch_and_are_released : Prop :=
  let halts := fun (s : State) (cause : Nat) (t : State) =>
    t.halted = true ∧ t.get Fld.PWR_STS_HALT_CAUSE = cause ∧ t.flag Fld.PWR_EVT_HALT = true ∧ t.running = false
    ∧ t.rd64 Reg.PWR_HALT_CNT = (s.rd64 Reg.PWR_HALT_CNT + 1) % 2 ^ 64 ∧ t.pat.outOfService = true ∧ t.att.lanes = .empty
    ∧ ∀ d < 16, s.seqState d ≠ 0 → s.seqState d ≠ 4 → t.seqState d = 3
  (∀ (pin : HaltPin) (level : Bool) (ticks : Nat) (s : State),
    let a := if pin = .a then level else s.flag Fld.PWR_HALT_STS_A_LVL
    let b := if pin = .b then level else s.flag Fld.PWR_HALT_STS_B_LVL
    let short := s.flag Fld.PWR_HALT_STS_DISAGREE = true ∧ a = !b
      ∧ s.get Fld.PWR_HALT_STS_RUN + ticks < s.get Fld.PWR_HALT_CFG_DISC
    Completes (.haltInputChange pin level ticks) s fun t =>
      t.flag Fld.PWR_HALT_STS_A_LVL = a ∧ t.flag Fld.PWR_HALT_STS_B_LVL = b ∧ t.flag Fld.PWR_HALT_STS_DISAGREE = (a == b)
      ∧ (a = false → b = true → s.halted = false → halts s 1 t)
      ∧ (¬ (a = false ∧ b = true) → t.halted = s.halted ∧ t.running = s.running)
      ∧ (short → s.halted = false → t.rd64 Reg.PWR_DISC_IGN = (s.rd64 Reg.PWR_DISC_IGN + 1) % 2 ^ 64)
      ∧ (¬ short ∨ s.halted = true → t.rd64 Reg.PWR_DISC_IGN = s.rd64 Reg.PWR_DISC_IGN))
  ∧ (∀ s : State,
    (s.flag Fld.PWR_HALT_STS_DISAGREE = false → Completes .haltDiscrepancy s fun t => t = s)
    ∧ (s.flag Fld.PWR_HALT_STS_DISAGREE = true → s.halted = false → Completes .haltDiscrepancy s (halts s 2)))
  ∧ ∀ s : State,
    let asserted := s.flag Fld.PWR_HALT_STS_A_LVL = false ∨ s.flag Fld.PWR_HALT_STS_B_LVL = true
    let cause := s.get Fld.PWR_STS_HALT_CAUSE
    let restarts := fun (t : State) =>
      t.halted = false ∧ t.stage = 0 ∧ t.get Fld.PWR_STS_STATE = 1 ∧ t.get Fld.PWR_STS_REQ_STATUS = 0 ∧ t.bibs = .empty
      ∧ t.qps = .empty ∧ t.bon.flash = s.bon.flash ∧ t.bon.digests = s.bon.digests ∧ t.bon.wrapKeys = s.bon.wrapKeys
      ∧ t.rd64 Reg.PWR_HALT_CNT = s.rd64 Reg.PWR_HALT_CNT
    (s.halted = false → Completes .haltRelease s fun t => t = s)
    ∧ (s.halted = true → cause = haltReset → Completes .haltRelease s restarts)
    ∧ (s.halted = true → cause = haltThermal ∨ (asserted ∧ cause ≠ haltReset) → Completes .haltRelease s fun t => t = s)
    ∧ (s.halted = true → cause ≠ haltReset → cause ≠ haltThermal → ¬ asserted →
      (s.get Fld.PWR_CFG_RESTART = 0 → Completes .haltRelease s fun t => t.pwr = { s.pwr with awaitPerst := true } ∧ SameBut [.pwr] s t)
      ∧ (s.get Fld.PWR_CFG_RESTART ≠ 0 → Completes .haltRelease s restarts))

/-- R349 to R355: the last rail of a domain takes it out of reset, a rail that falls puts it into reset, and with laps running
that of a die or stack takes the module out of service; VPP is followed. The switch of an OFF group ramps, or waits while RAMP_MAX
groups of its die ramp; each step shows its current, two above ILIM in a row short the group, the 64th turns it ON and opens the
clocks of its tiles; one with no tile in service, or of an idle module, opens. Where this goes beyond the rules it is the model's
choice: log entries 85, 86 and 87. -/
def Obligations.rails_and_tile_group_gates : Prop :=
  (∀ (d : ResetDomain) (r b : Nat) (s : State), porBit d = some (r, b) →
    (s.pwr.aonUp = false → Completes (.railRise d) s fun t => t = s)
    ∧ (s.pwr.aonUp = true → Completes (.railRise d) s fun t => wordBits (t.rd r) b 1 = 1 ∧ FieldsBut [⟨r, b, 1⟩] s t)
    ∧ Completes (.railFall d) s fun t =>
      wordBits (t.rd r) b 1 = 0
      ∧ (∀ n : Fin 16, d = .arkor n → ∀ k, k % selStride / 0x100000 = 16 + n.val → t.rd k = regDefault s.rf.image k)
      ∧ (∀ n, d = .engine n → ∀ p, 8 * n.val ≤ p → p < 8 * n.val + 8 → s.portState p ≠ 0 → t.portState p = 6)
      ∧ (s.running = true → (∀ n, d ≠ .engine n) → t.pat.outOfService = true))
  ∧ (∀ s : State,
    (s.pwr.aonUp = true → Completes (.railRise .aon) s fun t => t = s)
    ∧ (s.pwr.aonUp = false → Completes (.railRise .aon) s fun t => t.pwr = { s.pwr with aonUp := true, mode := .idle })
    ∧ (Completes (.railFall .aon) s fun t =>
      t.pwr.aonUp = false ∧ t.pwr.mode = .off ∧ (∀ k, t.rd k = State.reset.rd k) ∧ t.bon.flash = s.bon.flash
      ∧ t.bon.digests = s.bon.digests ∧ t.bon.wrapKeys = s.bon.wrapKeys ∧ t.bibs = .empty)
    ∧ (Completes .vppLost s fun t =>
      t.flag Fld.PWR_STS_VPP_OK = false ∧ t.flag Fld.PWR_EVT_VPP_LOST = true
      ∧ FieldsBut [Fld.PWR_STS_VPP_OK, Fld.PWR_EVT_VPP_LOST] s t ∧ SameBut [.win 2] s t)
    ∧ Completes .vppRestored s fun t =>
      t.flag Fld.PWR_STS_VPP_OK = true ∧ FieldsBut [Fld.PWR_STS_VPP_OK] s t ∧ SameBut [.win 2] s t)
  ∧ ∀ (d : Fin 16) (g : Fin 256) (s : State),
    let n := groupKey d g
    let st := s.groupState n
    (¬ (st = 0 ∧ s.dieUp d = true) → Completes (.gateCloseRequest d g) s fun t => t = s)
    ∧ (st = 0 → s.dieUp d = true → s.ramping d < s.get Fld.PWR_GCFG_RAMP_MAX → (∀ m ∈ s.pwr.waiting, m / 256 ≠ d.val) →
      Completes (.gateCloseRequest d g) s fun t =>
        t.groupState n = 1 ∧ t.get (Fld.PWR_GSTS_STEP.sel n) = 0
        ∧ FieldsBut [Fld.PWR_GSTS_STATE.sel n, Fld.PWR_GSTS_STEP.sel n] s t)
    ∧ (st = 0 → s.dieUp d = true → s.get Fld.PWR_GCFG_RAMP_MAX ≤ s.ramping d → Completes (.gateCloseRequest d g) s fun t =>
      n ∈ t.pwr.waiting ∧ FieldsBut [] s t)
    ∧ (∀ ma : BitVec 16, n ∉ s.pwr.waiting →
      let k := s.get (Fld.PWR_GSTS_STEP.sel n) + 1
      let high := s.get Fld.PWR_GCFG_ILIM < ma.toNat
      let shows := fun (t : State) => t.get (Fld.PWR_GSTS_LAST_MA.sel n) = ma.toNat
      (st ≠ 1 → Completes (.gateRampStep d g ma) s fun t => t = s)
      ∧ (st = 1 → high → n ∈ s.pwr.overLimit → Completes (.gateRampStep d g ma) s fun t =>
        shows t ∧ t.groupState n = 3 ∧ t.flag Fld.PWR_EVT_GATE_SHORT = true
        ∧ t.rd64 Reg.PWR_GATE_SHORT_CNT = (s.rd64 Reg.PWR_GATE_SHORT_CNT + 1) % 2 ^ 64
        ∧ ∀ x ∈ groupTiles n, (s.tile d (x % 8448)).state = .spare → (t.tile d (x % 8448)).state = .retired)
      ∧ (st = 1 → k < 64 → high → n ∉ s.pwr.overLimit → Completes (.gateRampStep d g ma) s fun t =>
        shows t ∧ t.groupState n = 1 ∧ t.get (Fld.PWR_GSTS_STEP.sel n) = k ∧ n ∈ t.pwr.overLimit)
      ∧ (st = 1 → k < 64 → ¬ high → Completes (.gateRampStep d g ma) s fun t =>
        shows t ∧ t.groupState n = 1 ∧ t.get (Fld.PWR_GSTS_STEP.sel n) = k ∧ n ∉ t.pwr.overLimit
        ∧ (n ∈ s.pwr.overLimit → t.rd64 Reg.PWR_GATE_OVER = (s.rd64 Reg.PWR_GATE_OVER + 1) % 2 ^ 64))
      ∧ (st = 1 → 64 ≤ k → ¬ (high ∧ n ∈ s.pwr.overLimit) → Completes (.gateRampStep d g ma) s fun t =>
        shows t ∧ t.groupState n = 2
        ∧ ∀ x ∈ groupTiles n, (s.tile d (x % 8448)).state ≠ .retired → x ∈ t.clk.tileGates))
    ∧ (let used := ∃ x ∈ groupTiles n, (s.fab.tiles.get? x).map (·.state) = some .inService
      (used → s.idling = false → Completes (.gateOpenRequest d g) s fun t => t = s)
      ∧ (¬ used ∨ s.idling = true → Completes (.gateOpenRequest d g) s fun t =>
        t.groupState n = (if st = 3 then 3 else 0) ∧ n ∉ t.pwr.waiting ∧ ∀ x ∈ groupTiles n, x ∉ t.clk.tileGates))

/-- R383, R384, R392 to R394: start-up chooses a copy and spends an attempt of a TRIAL one; each stage is reached in order when
its checks pass, and a copy that fails one is written BAD and start-up goes on from the choice; the last stage marks a TRIAL copy
GOOD and begins lap 0 of a module in no domain. With no copy left the module is in RECOVERY. Where this goes beyond the rules it
is the model's choice: log entries 13, 51, 54, 55 and 103. -/
def Obligations.start_up_runs_in_stages : Prop :=
  (∀ s : State,
    let begins := s.pwr.aonUp = true ∧ s.stage = 0 ∧ s.halted = false ∧ s.pwr.mode = .idle
    let recovers := fun (t : State) =>
      t.flag Fld.BON_STS_RECOVERY = true ∧ t.get Fld.EVT_CTL_MODE = 3 ∧ t.pcie.configReady = true ∧ t.bon.owed = []
    (¬ begins → Completes .bonosStart s fun t => t = s)
    ∧ (∀ c, begins → s.spendTrials.chooseCopy = some c → Completes .bonosStart s fun t =>
      t.stage = 2 ∧ t.get Fld.BON_STS_COPY = c ∧ t.get Fld.EVT_CTL_MODE = 1
      ∧ (s.spendTrials.copyState c = copyTrial → t.attempts c = s.attempts c + 1))
    ∧ (begins → s.spendTrials.chooseCopy = none → Completes .bonosStart s fun t => t.stage = 2 ∧ recovers t)
    ∧ (s.startingUp = true → s.chooseCopy = none → Completes .recovery s recovers)
    ∧ (¬ (s.startingUp = true ∧ s.chooseCopy = none) → Completes .recovery s fun t => t = s))
  ∧ ∀ (s : State),
    let runs := fun (n : Nat) => s.stage = n ∧ s.flag Fld.BON_STS_RECOVERY = false ∧ s.halted = false
    let img := s.activeImage
    let c := s.get Fld.BON_STS_COPY
    let failed := fun (t : State) => t.stage = 2 ∧ t.copyField c 4 1 = copyBad ∧ t.bibs = .empty
    let first := s.imageOk img = true ∧ clockOk (sectionBytes img 1) = true
    (¬ runs 2 → Completes .imagePass1Done s fun t => t = s)
    ∧ (runs 2 → first → Completes .imagePass1Done s fun t =>
      t.stage = 6 ∧ t.pcie.training = !s.pcie.perst ∧ t.rd64 Reg.BON_IMG = bytesAt img 0x10 8)
    ∧ (runs 2 → ¬ first → Completes .imagePass1Done s failed)
    ∧ (∀ he hw, (¬ runs 6 → Completes (.memoryTrainingDone he hw) s fun t => t = s)
      ∧ (runs 6 → Completes (.memoryTrainingDone he hw) s fun t =>
        t.stage = 7 ∧ t.bon.trained = true ∧ t.bon.lodgeHe = he ∧ t.bon.lodgeHw = hw))
    ∧ (¬ runs 7 → Completes .imagePass2Done s fun t => t = s)
    ∧ (runs 7 → s.sectionsPass img = true → Completes .imagePass2Done s fun t =>
      t.stage = 8 ∧ t.bon.image = some (parseImage img) ∧ t.bon.stewardsReleased = true)
    ∧ (runs 7 → s.sectionsPass img = false → Completes .imagePass2Done s failed)
    ∧ (¬ runs 8 → Completes .groomingTablesLoaded s fun t => t = s)
    ∧ (runs 8 → Completes .groomingTablesLoaded s fun t =>
      t.stage = 9 ∧ ∀ m < 64, (∃ x ∈ s.readFlash (slotRecAddr m) 64, x ≠ erased) →
        t.slotState m = 4
        ∧ t.ldr.digests.get? m = some (BitVec.ofNat 384 (bytesAt (s.readFlash (slotRecAddr m) 64) 0 48)))
    ∧ ∀ us g : Nat,
      (¬ runs 9 → Completes (.startupReady us g) s fun t => t = s)
      ∧ (runs 9 → Completes (.startupReady us g) s fun t =>
        t.stage = 11 ∧ t.get Fld.BON_STS_BOOT_US = min us (2 ^ 26 - 1) ∧ t.get Fld.EVT_CTL_MODE = 0 ∧ t.pcie.configReady = true
        ∧ t.bon.owed = [] ∧ (s.copyState c = copyTrial → t.copyState c = copyGood)
        ∧ (s.inDomain = true → t.running = s.running)
        ∧ (s.inDomain = false → t.running = true ∧ t.lap = 0 ∧ t.rd64 Reg.LAP_TIME = g % 2 ^ 64 ∧ t.pwr.mode = .active))

/-- R381, R395 to R398: Bonos answers each message with its code: an update erases the inactive copy, takes data within its length,
and leaves a TRIAL copy of the next SEQ or a BAD one; a key store index is written once; BON_CMD and LOG_READ read the persistent
log, and a flush drains into it. The telemetry target is addressed once, keeps a pointer modulo 64, and shows the map. The layout
that ID_GET answers with, and that a read leaves the pointer, are log entry 56. -/
def Obligations.bonos_answers_updates_log_and_telemetry : Prop :=
  let answers := fun (code : Nat) (bytes : List Byte) (s t : State) => t.sent = s.sent ++ [.mctp code bytes]
  let only := fun (code : Nat) (s t : State) => t.sent = s.sent ++ [.mctp code []] ∧ SameBut [.sent] s t ∧ FieldsBut [] s t
  (∀ (v : Word) (s : State) (c : Instr), c ∈ [Instr.bonCmdLogRead v, .bonCmdFlush v] →
    let op := wordBits v 0 2
    let n := s.rd64 Reg.BON_ARG
    (wordBits v 31 1 = 0 → Completes c s fun t => t.get Fld.BON_CMD_OP = op ∧ FieldsBut [Fld.BON_CMD_OP] s t)
    ∧ (wordBits v 31 1 = 1 → op = 1 → s.logHolds n = true → Completes c s fun t =>
      t.get Fld.BON_CMD_STATUS = 0 ∧ (∀ i < 16, t.rd (Reg.BON_RSP + 4 * i) = wordOf (s.readFlash (logAddr n) 64) i)
      ∧ SameBut [.win 32] s t)
    ∧ (wordBits v 31 1 = 1 → op = 1 → s.logHolds n = false → Completes c s fun t =>
      t.get Fld.BON_CMD_STATUS = 2 ∧ FieldsBut [Fld.BON_CMD_OP, Fld.BON_CMD_STATUS] s t)
    ∧ (wordBits v 31 1 = 1 → op = 2 → Completes c s fun t =>
      t.get Fld.BON_CMD_STATUS = 0 ∧ t.pat.log = .empty ∧ t.get Fld.PAT_LOG_FREE_VALUE = 4096 ∧ t.bon.flushLaps = 0))
  ∧ (∀ s : State,
    (Completes .idGet s fun t =>
      answers 0 (Config.identityKey ++ leBytes (s.occupancy 0 8) 1 ++ leBytes (s.occupancy 1 16) 2) s t ∧ SameBut [.sent] s t)
    ∧ ∀ n : DWord, Completes (.logRead n) s fun t =>
      SameBut [.sent] s t ∧ (s.logHolds n.toNat = true → answers 0 (s.readFlash (logAddr n.toNat) 64) s t)
      ∧ (s.logHolds n.toNat = false → answers 2 [] s t))
  ∧ (∀ (len off : Word) (bytes : List Byte) (s : State),
    let c := s.inactive
    let lies := fun (lo n a : Nat) => lo ≤ a ∧ a < lo + n
    let now := fun (t : State) (a : Nat) => Memory.read erased t.bon.flash a
    (s.bon.update ≠ none → Completes (.updBegin len) s (only 1 s))
    ∧ (s.bon.update = none → len = 0#32 ∨ imageMax < len.toNat → Completes (.updBegin len) s (only 2 s))
    ∧ (s.bon.update = none → len ≠ 0#32 → len.toNat ≤ imageMax → Completes (.updBegin len) s fun t =>
      answers 0 [] s t ∧ t.bon.update = some len.toNat
      ∧ (∀ a, lies (copyRecAddr c) 64 a ∨ lies (copyBase c) imageMax a → now t a = erased)
      ∧ ∀ a, ¬ lies (copyRecAddr c) 64 a → ¬ lies (copyBase c) imageMax a → now t a = now s a)
    ∧ (s.bon.update = none → Completes (.updData off bytes) s (only 2 s) ∧ Completes .updEnd s (only 2 s))
    ∧ ∀ n, s.bon.update = some n →
      let fits := bytes ≠ [] ∧ bytes.length ≤ 1024 ∧ off.toNat + bytes.length ≤ n
      (¬ fits → Completes (.updData off bytes) s (only 2 s))
      ∧ (fits → Completes (.updData off bytes) s fun t =>
        answers 0 [] s t ∧ t.bon.update = s.bon.update
        ∧ (∀ i b, bytes[i]? = some b → now t (copyBase c + off.toNat + i) = b)
        ∧ ∀ a, ¬ lies (copyBase c + off.toNat) bytes.length a → now t a = now s a)
      ∧ (s.imageOk (s.copyImage c) = true → Completes .updEnd s fun t =>
        answers 0 [] s t ∧ t.bon.update = none ∧ t.copyState c = copyTrial ∧ t.attempts c = 0
        ∧ t.copySeq c = (s.copySeq (1 - c) + 1) % 2 ^ 32)
      ∧ (s.imageOk (s.copyImage c) = false → Completes .updEnd s fun t =>
        answers 3 [] s t ∧ t.bon.update = none ∧ t.copyState c = copyBad))
  ∧ (∀ (kind i : Byte) (data : BitVec 384) (signed : Bool) (s : State),
    let c := Instr.keyPut kind i data signed
    let names := kind.toNat ≤ 1 ∧ i.toNat < (if kind = 0 then 8 else 16)
    (¬ names → Completes c s (only 2 s))
    ∧ (names → signed = false → Completes c s (only 3 s))
    ∧ (names → signed = true → s.keyWritten kind.toNat i.toNat = true → Completes c s (only 4 s))
    ∧ (names → signed = true → s.keyWritten kind.toNat i.toNat = false → Completes c s fun t =>
      answers 0 [] s t ∧ t.keyWritten kind.toNat i.toNat = true
      ∧ (kind = 0#8 → t.bon.digests.get? i.toNat = some data ∧ t.bon.wrapKeys = s.bon.wrapKeys)
      ∧ (kind = 1#8 → t.bon.wrapKeys.get? i.toNat = some (data.extractLsb' 0 256) ∧ t.bon.digests = s.bon.digests)))
  ∧ ∀ (b : Byte) (n : Nat) (fixed dyn : BitVec 7) (won : Bool) (s : State),
    let named := fixed = 0x2E#7 ∧ s.bon.telemAddr = none
    let takes := fun (t : State) => t.bon = { s.bon with telemAddr := some dyn } ∧ SameBut [.bon] s t
    Completes (.telemPointerWrite b) s (fun t => t.bon = { s.bon with telemPtr := b.toNat % 64 } ∧ SameBut [.bon] s t)
    ∧ (Completes .telemIgnoredWrite s fun t =>
      t.rd64 Reg.BON_TEL_IGN = (s.rd64 Reg.BON_TEL_IGN + 1) % 2 ^ 64 ∧ FieldsBut (Fld.dword Reg.BON_TEL_IGN) s t)
    ∧ (Completes (.telemRead n) s fun t =>
      SameBut [.sent] s t ∧ ∃ l, t.sent = s.sent ++ [.i3c l] ∧ l.length = n
        ∧ ∀ i < n, l[i]? = some (s.bon.telemMap.getD ((s.bon.telemPtr + i) % 64) 0#8))
    ∧ (s.running = true → Completes .telemMapCopy s fun t => t = s)
    ∧ (s.running = false → Completes .telemMapCopy s fun t =>
      let m := t.bon.telemMap
      SameBut [.bon] s t ∧ m.length = 64 ∧ bytesAt m 0 1 = s.get Fld.THM_STS_LEVEL ∧ bytesAt m 1 1 = s.get Fld.PWR_STS_STATE
      ∧ bytesAt m 2 2 = s.get Fld.THM_STS_HOT_T % 2 ^ 16 ∧ bytesAt m 4 4 = s.lap % 2 ^ 32 ∧ bytesAt m 12 1 = s.stage
      ∧ bytesAt m 13 1 = s.get Fld.PWR_STS_HALT_CAUSE
      ∧ ∀ i < 4, m.getD (8 + i) 0#8 = s.bon.telemMap.getD (8 + i) 0#8)
    ∧ (named → Completes (.setdasa fixed dyn) s takes) ∧ (¬ named → Completes (.setdasa fixed dyn) s fun t => t = s)
    ∧ (won = true → s.bon.telemAddr = none → Completes (.entdaa won dyn) s takes)
    ∧ (¬ (won = true ∧ s.bon.telemAddr = none) → Completes (.entdaa won dyn) s fun t => t = s)

/-! ### Identifiers, and writes by two names -/

/-- R148: an identifier is generation and index; after reset every entry is FREE with generation 1; an entry that enters FREE has the
next generation, 1 after 0xFFFF, which is never 0; and an identifier of generation 0 names no bib of a table whose generations are
not 0. -/
def Obligations.generations_follow_their_entries : Prop :=
  (∀ (i : Fin 65536) (s : State), (s.bib i).gen < 65536 →
    (s.bibId i).toNat / 65536 = (s.bib i).gen ∧ (s.bibId i).toNat % 65536 = i.val)
  ∧ (∀ i : Fin 65536, (State.reset.bib i).state = .free ∧ (State.reset.bib i).gen = 1)
  ∧ (∀ (i : Fin 65536) (s : State) (c : Instr) (st : BibState),
    (c, st) ∈ [(.ttlExpired i, .paused), (.faultHold i, .faulted), (.released i, .closing)] →
    (s.bib i).state = st → s.leavesTable (s.bib i) = true → Completes c s fun t =>
      (t.bib i).state = .free ∧ (t.bib i).gen = (if (s.bib i).gen = 0xFFFF then 1 else (s.bib i).gen + 1))
  ∧ ∀ (q : Nat) (id : Word) (s : State), (∀ j, (s.bib j).gen ≠ 0) → id.toNat < 65536 → s.bibCheck q id ≠ none

/-- R6, R184, R394: a command that is the host's write of a register is the register write of that offset and value, in every
state. Where this goes beyond the rules it is the model's choice: log entry 112. -/
def Obligations.commands_are_their_register_writes : Prop :=
  ∀ (v : Word) (d : Fin 16) (s : State) (c : Instr) (off : Nat),
    (c, off) ∈ [(.bibSel v, Reg.BIB_SEL), (.qpEnable v, Reg.QP_CFG), (.qpDisable v, Reg.QP_CFG), (.kvmQuota v, Reg.KVM_QUOTA),
      (.waxSel v, Reg.WAX_SEL), (.ldrLoad v, Reg.LDR_CTL), (.ldrReplace v, Reg.LDR_CTL), (.ldrAttach v, Reg.LDR_CTL),
      (.ldrRelease v, Reg.LDR_CTL), (.ldrAbort v, Reg.LDR_CTL), (.gopBarrier v, Reg.LNK_GOP_CTL), (.gopSnapshot v, Reg.LNK_GOP_CTL),
      (.gopBroadcast v, Reg.LNK_GOP_CTL), (.gopReset v, Reg.LNK_GOP_CTL), (.gopStretchRefused v, Reg.LNK_GOP_CTL),
      (.patOrphan v, Reg.PAT_ORPHAN), (.patTsel v, Reg.PAT_TSEL), (.patFpsel v, Reg.PAT_FPSEL), (.patLogSel v, Reg.PAT_LOG_SEL),
      (.grmTsel v, Reg.GRM_TSEL), (.grmCsel v, Reg.GRM_CSEL), (.pmcEvsel v, Reg.PMC_EVSEL), (.pmcNow v, Reg.PMC_CTL),
      (.bonCmdLogRead v, Reg.BON_CMD), (.bonCmdFlush v, Reg.BON_CMD), (.arkTestSeparate d v, arkKey Reg.ARK_TEST_CTL d),
      (.arkTestMerged d v, arkKey Reg.ARK_TEST_CTL d), (.arkTestTransposed d v, arkKey Reg.ARK_TEST_CTL d),
      (.arkTestReference d v, arkKey Reg.ARK_TEST_CTL d)] →
    exec c s = exec (.registerWrite 5 (BitVec.ofNat 26 off) 4 v) s

end
end

