-- ==== Sys2Proof/Laws/State.lean ====
section
/-!
SUPPORT. What each update of the state does to each of its fields: one equation per field per update, true by computation.
-/

namespace Sys2Proof.Machine

variable (s : State)

/-! ### modPcie -/

@[simp] theorem State.modPcie_rf (f : PcieFn → PcieFn) : (s.modPcie f).rf = s.rf := rfl
@[simp] theorem State.modPcie_pcie (f : PcieFn → PcieFn) : (s.modPcie f).pcie = f s.pcie := rfl
@[simp] theorem State.modPcie_qps (f : PcieFn → PcieFn) : (s.modPcie f).qps = s.qps := rfl
@[simp] theorem State.modPcie_bibs (f : PcieFn → PcieFn) : (s.modPcie f).bibs = s.bibs := rfl
@[simp] theorem State.modPcie_freeBibs (f : PcieFn → PcieFn) : (s.modPcie f).freeBibs = s.freeBibs := rfl
@[simp] theorem State.modPcie_kvm (f : PcieFn → PcieFn) : (s.modPcie f).kvm = s.kvm := rfl
@[simp] theorem State.modPcie_plan (f : PcieFn → PcieFn) : (s.modPcie f).plan = s.plan := rfl
@[simp] theorem State.modPcie_ledger (f : PcieFn → PcieFn) : (s.modPcie f).ledger = s.ledger := rfl
@[simp] theorem State.modPcie_fab (f : PcieFn → PcieFn) : (s.modPcie f).fab = s.fab := rfl
@[simp] theorem State.modPcie_att (f : PcieFn → PcieFn) : (s.modPcie f).att = s.att := rfl
@[simp] theorem State.modPcie_wax (f : PcieFn → PcieFn) : (s.modPcie f).wax = s.wax := rfl
@[simp] theorem State.modPcie_ldr (f : PcieFn → PcieFn) : (s.modPcie f).ldr = s.ldr := rfl
@[simp] theorem State.modPcie_lnk (f : PcieFn → PcieFn) : (s.modPcie f).lnk = s.lnk := rfl
@[simp] theorem State.modPcie_pat (f : PcieFn → PcieFn) : (s.modPcie f).pat = s.pat := rfl
@[simp] theorem State.modPcie_thm (f : PcieFn → PcieFn) : (s.modPcie f).thm = s.thm := rfl
@[simp] theorem State.modPcie_clk (f : PcieFn → PcieFn) : (s.modPcie f).clk = s.clk := rfl
@[simp] theorem State.modPcie_pwr (f : PcieFn → PcieFn) : (s.modPcie f).pwr = s.pwr := rfl
@[simp] theorem State.modPcie_evt (f : PcieFn → PcieFn) : (s.modPcie f).evt = s.evt := rfl
@[simp] theorem State.modPcie_bon (f : PcieFn → PcieFn) : (s.modPcie f).bon = s.bon := rfl
@[simp] theorem State.modPcie_pmc (f : PcieFn → PcieFn) : (s.modPcie f).pmc = s.pmc := rfl
@[simp] theorem State.modPcie_drawn (f : PcieFn → PcieFn) : (s.modPcie f).drawn = s.drawn := rfl
@[simp] theorem State.modPcie_sent (f : PcieFn → PcieFn) : (s.modPcie f).sent = s.sent := rfl
@[simp] theorem State.modPcie_pending (f : PcieFn → PcieFn) : (s.modPcie f).pending = s.pending := rfl

/-! ### modKvm -/

@[simp] theorem State.modKvm_rf (f : Kvm → Kvm) : (s.modKvm f).rf = s.rf := rfl
@[simp] theorem State.modKvm_pcie (f : Kvm → Kvm) : (s.modKvm f).pcie = s.pcie := rfl
@[simp] theorem State.modKvm_qps (f : Kvm → Kvm) : (s.modKvm f).qps = s.qps := rfl
@[simp] theorem State.modKvm_bibs (f : Kvm → Kvm) : (s.modKvm f).bibs = s.bibs := rfl
@[simp] theorem State.modKvm_freeBibs (f : Kvm → Kvm) : (s.modKvm f).freeBibs = s.freeBibs := rfl
@[simp] theorem State.modKvm_kvm (f : Kvm → Kvm) : (s.modKvm f).kvm = f s.kvm := rfl
@[simp] theorem State.modKvm_plan (f : Kvm → Kvm) : (s.modKvm f).plan = s.plan := rfl
@[simp] theorem State.modKvm_ledger (f : Kvm → Kvm) : (s.modKvm f).ledger = s.ledger := rfl
@[simp] theorem State.modKvm_fab (f : Kvm → Kvm) : (s.modKvm f).fab = s.fab := rfl
@[simp] theorem State.modKvm_att (f : Kvm → Kvm) : (s.modKvm f).att = s.att := rfl
@[simp] theorem State.modKvm_wax (f : Kvm → Kvm) : (s.modKvm f).wax = s.wax := rfl
@[simp] theorem State.modKvm_ldr (f : Kvm → Kvm) : (s.modKvm f).ldr = s.ldr := rfl
@[simp] theorem State.modKvm_lnk (f : Kvm → Kvm) : (s.modKvm f).lnk = s.lnk := rfl
@[simp] theorem State.modKvm_pat (f : Kvm → Kvm) : (s.modKvm f).pat = s.pat := rfl
@[simp] theorem State.modKvm_thm (f : Kvm → Kvm) : (s.modKvm f).thm = s.thm := rfl
@[simp] theorem State.modKvm_clk (f : Kvm → Kvm) : (s.modKvm f).clk = s.clk := rfl
@[simp] theorem State.modKvm_pwr (f : Kvm → Kvm) : (s.modKvm f).pwr = s.pwr := rfl
@[simp] theorem State.modKvm_evt (f : Kvm → Kvm) : (s.modKvm f).evt = s.evt := rfl
@[simp] theorem State.modKvm_bon (f : Kvm → Kvm) : (s.modKvm f).bon = s.bon := rfl
@[simp] theorem State.modKvm_pmc (f : Kvm → Kvm) : (s.modKvm f).pmc = s.pmc := rfl
@[simp] theorem State.modKvm_drawn (f : Kvm → Kvm) : (s.modKvm f).drawn = s.drawn := rfl
@[simp] theorem State.modKvm_sent (f : Kvm → Kvm) : (s.modKvm f).sent = s.sent := rfl
@[simp] theorem State.modKvm_pending (f : Kvm → Kvm) : (s.modKvm f).pending = s.pending := rfl

/-! ### modPlan -/

@[simp] theorem State.modPlan_rf (f : Planner → Planner) : (s.modPlan f).rf = s.rf := rfl
@[simp] theorem State.modPlan_pcie (f : Planner → Planner) : (s.modPlan f).pcie = s.pcie := rfl
@[simp] theorem State.modPlan_qps (f : Planner → Planner) : (s.modPlan f).qps = s.qps := rfl
@[simp] theorem State.modPlan_bibs (f : Planner → Planner) : (s.modPlan f).bibs = s.bibs := rfl
@[simp] theorem State.modPlan_freeBibs (f : Planner → Planner) : (s.modPlan f).freeBibs = s.freeBibs := rfl
@[simp] theorem State.modPlan_kvm (f : Planner → Planner) : (s.modPlan f).kvm = s.kvm := rfl
@[simp] theorem State.modPlan_plan (f : Planner → Planner) : (s.modPlan f).plan = f s.plan := rfl
@[simp] theorem State.modPlan_ledger (f : Planner → Planner) : (s.modPlan f).ledger = s.ledger := rfl
@[simp] theorem State.modPlan_fab (f : Planner → Planner) : (s.modPlan f).fab = s.fab := rfl
@[simp] theorem State.modPlan_att (f : Planner → Planner) : (s.modPlan f).att = s.att := rfl
@[simp] theorem State.modPlan_wax (f : Planner → Planner) : (s.modPlan f).wax = s.wax := rfl
@[simp] theorem State.modPlan_ldr (f : Planner → Planner) : (s.modPlan f).ldr = s.ldr := rfl
@[simp] theorem State.modPlan_lnk (f : Planner → Planner) : (s.modPlan f).lnk = s.lnk := rfl
@[simp] theorem State.modPlan_pat (f : Planner → Planner) : (s.modPlan f).pat = s.pat := rfl
@[simp] theorem State.modPlan_thm (f : Planner → Planner) : (s.modPlan f).thm = s.thm := rfl
@[simp] theorem State.modPlan_clk (f : Planner → Planner) : (s.modPlan f).clk = s.clk := rfl
@[simp] theorem State.modPlan_pwr (f : Planner → Planner) : (s.modPlan f).pwr = s.pwr := rfl
@[simp] theorem State.modPlan_evt (f : Planner → Planner) : (s.modPlan f).evt = s.evt := rfl
@[simp] theorem State.modPlan_bon (f : Planner → Planner) : (s.modPlan f).bon = s.bon := rfl
@[simp] theorem State.modPlan_pmc (f : Planner → Planner) : (s.modPlan f).pmc = s.pmc := rfl
@[simp] theorem State.modPlan_drawn (f : Planner → Planner) : (s.modPlan f).drawn = s.drawn := rfl
@[simp] theorem State.modPlan_sent (f : Planner → Planner) : (s.modPlan f).sent = s.sent := rfl
@[simp] theorem State.modPlan_pending (f : Planner → Planner) : (s.modPlan f).pending = s.pending := rfl

/-! ### modLedger -/

@[simp] theorem State.modLedger_rf (f : Ledger → Ledger) : (s.modLedger f).rf = s.rf := rfl
@[simp] theorem State.modLedger_pcie (f : Ledger → Ledger) : (s.modLedger f).pcie = s.pcie := rfl
@[simp] theorem State.modLedger_qps (f : Ledger → Ledger) : (s.modLedger f).qps = s.qps := rfl
@[simp] theorem State.modLedger_bibs (f : Ledger → Ledger) : (s.modLedger f).bibs = s.bibs := rfl
@[simp] theorem State.modLedger_freeBibs (f : Ledger → Ledger) : (s.modLedger f).freeBibs = s.freeBibs := rfl
@[simp] theorem State.modLedger_kvm (f : Ledger → Ledger) : (s.modLedger f).kvm = s.kvm := rfl
@[simp] theorem State.modLedger_plan (f : Ledger → Ledger) : (s.modLedger f).plan = s.plan := rfl
@[simp] theorem State.modLedger_ledger (f : Ledger → Ledger) : (s.modLedger f).ledger = f s.ledger := rfl
@[simp] theorem State.modLedger_fab (f : Ledger → Ledger) : (s.modLedger f).fab = s.fab := rfl
@[simp] theorem State.modLedger_att (f : Ledger → Ledger) : (s.modLedger f).att = s.att := rfl
@[simp] theorem State.modLedger_wax (f : Ledger → Ledger) : (s.modLedger f).wax = s.wax := rfl
@[simp] theorem State.modLedger_ldr (f : Ledger → Ledger) : (s.modLedger f).ldr = s.ldr := rfl
@[simp] theorem State.modLedger_lnk (f : Ledger → Ledger) : (s.modLedger f).lnk = s.lnk := rfl
@[simp] theorem State.modLedger_pat (f : Ledger → Ledger) : (s.modLedger f).pat = s.pat := rfl
@[simp] theorem State.modLedger_thm (f : Ledger → Ledger) : (s.modLedger f).thm = s.thm := rfl
@[simp] theorem State.modLedger_clk (f : Ledger → Ledger) : (s.modLedger f).clk = s.clk := rfl
@[simp] theorem State.modLedger_pwr (f : Ledger → Ledger) : (s.modLedger f).pwr = s.pwr := rfl
@[simp] theorem State.modLedger_evt (f : Ledger → Ledger) : (s.modLedger f).evt = s.evt := rfl
@[simp] theorem State.modLedger_bon (f : Ledger → Ledger) : (s.modLedger f).bon = s.bon := rfl
@[simp] theorem State.modLedger_pmc (f : Ledger → Ledger) : (s.modLedger f).pmc = s.pmc := rfl
@[simp] theorem State.modLedger_drawn (f : Ledger → Ledger) : (s.modLedger f).drawn = s.drawn := rfl
@[simp] theorem State.modLedger_sent (f : Ledger → Ledger) : (s.modLedger f).sent = s.sent := rfl
@[simp] theorem State.modLedger_pending (f : Ledger → Ledger) : (s.modLedger f).pending = s.pending := rfl

/-! ### modFab -/

@[simp] theorem State.modFab_rf (f : Fabric → Fabric) : (s.modFab f).rf = s.rf := rfl
@[simp] theorem State.modFab_pcie (f : Fabric → Fabric) : (s.modFab f).pcie = s.pcie := rfl
@[simp] theorem State.modFab_qps (f : Fabric → Fabric) : (s.modFab f).qps = s.qps := rfl
@[simp] theorem State.modFab_bibs (f : Fabric → Fabric) : (s.modFab f).bibs = s.bibs := rfl
@[simp] theorem State.modFab_freeBibs (f : Fabric → Fabric) : (s.modFab f).freeBibs = s.freeBibs := rfl
@[simp] theorem State.modFab_kvm (f : Fabric → Fabric) : (s.modFab f).kvm = s.kvm := rfl
@[simp] theorem State.modFab_plan (f : Fabric → Fabric) : (s.modFab f).plan = s.plan := rfl
@[simp] theorem State.modFab_ledger (f : Fabric → Fabric) : (s.modFab f).ledger = s.ledger := rfl
@[simp] theorem State.modFab_fab (f : Fabric → Fabric) : (s.modFab f).fab = f s.fab := rfl
@[simp] theorem State.modFab_att (f : Fabric → Fabric) : (s.modFab f).att = s.att := rfl
@[simp] theorem State.modFab_wax (f : Fabric → Fabric) : (s.modFab f).wax = s.wax := rfl
@[simp] theorem State.modFab_ldr (f : Fabric → Fabric) : (s.modFab f).ldr = s.ldr := rfl
@[simp] theorem State.modFab_lnk (f : Fabric → Fabric) : (s.modFab f).lnk = s.lnk := rfl
@[simp] theorem State.modFab_pat (f : Fabric → Fabric) : (s.modFab f).pat = s.pat := rfl
@[simp] theorem State.modFab_thm (f : Fabric → Fabric) : (s.modFab f).thm = s.thm := rfl
@[simp] theorem State.modFab_clk (f : Fabric → Fabric) : (s.modFab f).clk = s.clk := rfl
@[simp] theorem State.modFab_pwr (f : Fabric → Fabric) : (s.modFab f).pwr = s.pwr := rfl
@[simp] theorem State.modFab_evt (f : Fabric → Fabric) : (s.modFab f).evt = s.evt := rfl
@[simp] theorem State.modFab_bon (f : Fabric → Fabric) : (s.modFab f).bon = s.bon := rfl
@[simp] theorem State.modFab_pmc (f : Fabric → Fabric) : (s.modFab f).pmc = s.pmc := rfl
@[simp] theorem State.modFab_drawn (f : Fabric → Fabric) : (s.modFab f).drawn = s.drawn := rfl
@[simp] theorem State.modFab_sent (f : Fabric → Fabric) : (s.modFab f).sent = s.sent := rfl
@[simp] theorem State.modFab_pending (f : Fabric → Fabric) : (s.modFab f).pending = s.pending := rfl

/-! ### modAtt -/

@[simp] theorem State.modAtt_rf (f : Attention → Attention) : (s.modAtt f).rf = s.rf := rfl
@[simp] theorem State.modAtt_pcie (f : Attention → Attention) : (s.modAtt f).pcie = s.pcie := rfl
@[simp] theorem State.modAtt_qps (f : Attention → Attention) : (s.modAtt f).qps = s.qps := rfl
@[simp] theorem State.modAtt_bibs (f : Attention → Attention) : (s.modAtt f).bibs = s.bibs := rfl
@[simp] theorem State.modAtt_freeBibs (f : Attention → Attention) : (s.modAtt f).freeBibs = s.freeBibs := rfl
@[simp] theorem State.modAtt_kvm (f : Attention → Attention) : (s.modAtt f).kvm = s.kvm := rfl
@[simp] theorem State.modAtt_plan (f : Attention → Attention) : (s.modAtt f).plan = s.plan := rfl
@[simp] theorem State.modAtt_ledger (f : Attention → Attention) : (s.modAtt f).ledger = s.ledger := rfl
@[simp] theorem State.modAtt_fab (f : Attention → Attention) : (s.modAtt f).fab = s.fab := rfl
@[simp] theorem State.modAtt_att (f : Attention → Attention) : (s.modAtt f).att = f s.att := rfl
@[simp] theorem State.modAtt_wax (f : Attention → Attention) : (s.modAtt f).wax = s.wax := rfl
@[simp] theorem State.modAtt_ldr (f : Attention → Attention) : (s.modAtt f).ldr = s.ldr := rfl
@[simp] theorem State.modAtt_lnk (f : Attention → Attention) : (s.modAtt f).lnk = s.lnk := rfl
@[simp] theorem State.modAtt_pat (f : Attention → Attention) : (s.modAtt f).pat = s.pat := rfl
@[simp] theorem State.modAtt_thm (f : Attention → Attention) : (s.modAtt f).thm = s.thm := rfl
@[simp] theorem State.modAtt_clk (f : Attention → Attention) : (s.modAtt f).clk = s.clk := rfl
@[simp] theorem State.modAtt_pwr (f : Attention → Attention) : (s.modAtt f).pwr = s.pwr := rfl
@[simp] theorem State.modAtt_evt (f : Attention → Attention) : (s.modAtt f).evt = s.evt := rfl
@[simp] theorem State.modAtt_bon (f : Attention → Attention) : (s.modAtt f).bon = s.bon := rfl
@[simp] theorem State.modAtt_pmc (f : Attention → Attention) : (s.modAtt f).pmc = s.pmc := rfl
@[simp] theorem State.modAtt_drawn (f : Attention → Attention) : (s.modAtt f).drawn = s.drawn := rfl
@[simp] theorem State.modAtt_sent (f : Attention → Attention) : (s.modAtt f).sent = s.sent := rfl
@[simp] theorem State.modAtt_pending (f : Attention → Attention) : (s.modAtt f).pending = s.pending := rfl

/-! ### modLdr -/

@[simp] theorem State.modLdr_rf (f : Loader → Loader) : (s.modLdr f).rf = s.rf := rfl
@[simp] theorem State.modLdr_pcie (f : Loader → Loader) : (s.modLdr f).pcie = s.pcie := rfl
@[simp] theorem State.modLdr_qps (f : Loader → Loader) : (s.modLdr f).qps = s.qps := rfl
@[simp] theorem State.modLdr_bibs (f : Loader → Loader) : (s.modLdr f).bibs = s.bibs := rfl
@[simp] theorem State.modLdr_freeBibs (f : Loader → Loader) : (s.modLdr f).freeBibs = s.freeBibs := rfl
@[simp] theorem State.modLdr_kvm (f : Loader → Loader) : (s.modLdr f).kvm = s.kvm := rfl
@[simp] theorem State.modLdr_plan (f : Loader → Loader) : (s.modLdr f).plan = s.plan := rfl
@[simp] theorem State.modLdr_ledger (f : Loader → Loader) : (s.modLdr f).ledger = s.ledger := rfl
@[simp] theorem State.modLdr_fab (f : Loader → Loader) : (s.modLdr f).fab = s.fab := rfl
@[simp] theorem State.modLdr_att (f : Loader → Loader) : (s.modLdr f).att = s.att := rfl
@[simp] theorem State.modLdr_wax (f : Loader → Loader) : (s.modLdr f).wax = s.wax := rfl
@[simp] theorem State.modLdr_ldr (f : Loader → Loader) : (s.modLdr f).ldr = f s.ldr := rfl
@[simp] theorem State.modLdr_lnk (f : Loader → Loader) : (s.modLdr f).lnk = s.lnk := rfl
@[simp] theorem State.modLdr_pat (f : Loader → Loader) : (s.modLdr f).pat = s.pat := rfl
@[simp] theorem State.modLdr_thm (f : Loader → Loader) : (s.modLdr f).thm = s.thm := rfl
@[simp] theorem State.modLdr_clk (f : Loader → Loader) : (s.modLdr f).clk = s.clk := rfl
@[simp] theorem State.modLdr_pwr (f : Loader → Loader) : (s.modLdr f).pwr = s.pwr := rfl
@[simp] theorem State.modLdr_evt (f : Loader → Loader) : (s.modLdr f).evt = s.evt := rfl
@[simp] theorem State.modLdr_bon (f : Loader → Loader) : (s.modLdr f).bon = s.bon := rfl
@[simp] theorem State.modLdr_pmc (f : Loader → Loader) : (s.modLdr f).pmc = s.pmc := rfl
@[simp] theorem State.modLdr_drawn (f : Loader → Loader) : (s.modLdr f).drawn = s.drawn := rfl
@[simp] theorem State.modLdr_sent (f : Loader → Loader) : (s.modLdr f).sent = s.sent := rfl
@[simp] theorem State.modLdr_pending (f : Loader → Loader) : (s.modLdr f).pending = s.pending := rfl

/-! ### modLnk -/

@[simp] theorem State.modLnk_rf (f : Links → Links) : (s.modLnk f).rf = s.rf := rfl
@[simp] theorem State.modLnk_pcie (f : Links → Links) : (s.modLnk f).pcie = s.pcie := rfl
@[simp] theorem State.modLnk_qps (f : Links → Links) : (s.modLnk f).qps = s.qps := rfl
@[simp] theorem State.modLnk_bibs (f : Links → Links) : (s.modLnk f).bibs = s.bibs := rfl
@[simp] theorem State.modLnk_freeBibs (f : Links → Links) : (s.modLnk f).freeBibs = s.freeBibs := rfl
@[simp] theorem State.modLnk_kvm (f : Links → Links) : (s.modLnk f).kvm = s.kvm := rfl
@[simp] theorem State.modLnk_plan (f : Links → Links) : (s.modLnk f).plan = s.plan := rfl
@[simp] theorem State.modLnk_ledger (f : Links → Links) : (s.modLnk f).ledger = s.ledger := rfl
@[simp] theorem State.modLnk_fab (f : Links → Links) : (s.modLnk f).fab = s.fab := rfl
@[simp] theorem State.modLnk_att (f : Links → Links) : (s.modLnk f).att = s.att := rfl
@[simp] theorem State.modLnk_wax (f : Links → Links) : (s.modLnk f).wax = s.wax := rfl
@[simp] theorem State.modLnk_ldr (f : Links → Links) : (s.modLnk f).ldr = s.ldr := rfl
@[simp] theorem State.modLnk_lnk (f : Links → Links) : (s.modLnk f).lnk = f s.lnk := rfl
@[simp] theorem State.modLnk_pat (f : Links → Links) : (s.modLnk f).pat = s.pat := rfl
@[simp] theorem State.modLnk_thm (f : Links → Links) : (s.modLnk f).thm = s.thm := rfl
@[simp] theorem State.modLnk_clk (f : Links → Links) : (s.modLnk f).clk = s.clk := rfl
@[simp] theorem State.modLnk_pwr (f : Links → Links) : (s.modLnk f).pwr = s.pwr := rfl
@[simp] theorem State.modLnk_evt (f : Links → Links) : (s.modLnk f).evt = s.evt := rfl
@[simp] theorem State.modLnk_bon (f : Links → Links) : (s.modLnk f).bon = s.bon := rfl
@[simp] theorem State.modLnk_pmc (f : Links → Links) : (s.modLnk f).pmc = s.pmc := rfl
@[simp] theorem State.modLnk_drawn (f : Links → Links) : (s.modLnk f).drawn = s.drawn := rfl
@[simp] theorem State.modLnk_sent (f : Links → Links) : (s.modLnk f).sent = s.sent := rfl
@[simp] theorem State.modLnk_pending (f : Links → Links) : (s.modLnk f).pending = s.pending := rfl

/-! ### modPat -/

@[simp] theorem State.modPat_rf (f : Patrol → Patrol) : (s.modPat f).rf = s.rf := rfl
@[simp] theorem State.modPat_pcie (f : Patrol → Patrol) : (s.modPat f).pcie = s.pcie := rfl
@[simp] theorem State.modPat_qps (f : Patrol → Patrol) : (s.modPat f).qps = s.qps := rfl
@[simp] theorem State.modPat_bibs (f : Patrol → Patrol) : (s.modPat f).bibs = s.bibs := rfl
@[simp] theorem State.modPat_freeBibs (f : Patrol → Patrol) : (s.modPat f).freeBibs = s.freeBibs := rfl
@[simp] theorem State.modPat_kvm (f : Patrol → Patrol) : (s.modPat f).kvm = s.kvm := rfl
@[simp] theorem State.modPat_plan (f : Patrol → Patrol) : (s.modPat f).plan = s.plan := rfl
@[simp] theorem State.modPat_ledger (f : Patrol → Patrol) : (s.modPat f).ledger = s.ledger := rfl
@[simp] theorem State.modPat_fab (f : Patrol → Patrol) : (s.modPat f).fab = s.fab := rfl
@[simp] theorem State.modPat_att (f : Patrol → Patrol) : (s.modPat f).att = s.att := rfl
@[simp] theorem State.modPat_wax (f : Patrol → Patrol) : (s.modPat f).wax = s.wax := rfl
@[simp] theorem State.modPat_ldr (f : Patrol → Patrol) : (s.modPat f).ldr = s.ldr := rfl
@[simp] theorem State.modPat_lnk (f : Patrol → Patrol) : (s.modPat f).lnk = s.lnk := rfl
@[simp] theorem State.modPat_pat (f : Patrol → Patrol) : (s.modPat f).pat = f s.pat := rfl
@[simp] theorem State.modPat_thm (f : Patrol → Patrol) : (s.modPat f).thm = s.thm := rfl
@[simp] theorem State.modPat_clk (f : Patrol → Patrol) : (s.modPat f).clk = s.clk := rfl
@[simp] theorem State.modPat_pwr (f : Patrol → Patrol) : (s.modPat f).pwr = s.pwr := rfl
@[simp] theorem State.modPat_evt (f : Patrol → Patrol) : (s.modPat f).evt = s.evt := rfl
@[simp] theorem State.modPat_bon (f : Patrol → Patrol) : (s.modPat f).bon = s.bon := rfl
@[simp] theorem State.modPat_pmc (f : Patrol → Patrol) : (s.modPat f).pmc = s.pmc := rfl
@[simp] theorem State.modPat_drawn (f : Patrol → Patrol) : (s.modPat f).drawn = s.drawn := rfl
@[simp] theorem State.modPat_sent (f : Patrol → Patrol) : (s.modPat f).sent = s.sent := rfl
@[simp] theorem State.modPat_pending (f : Patrol → Patrol) : (s.modPat f).pending = s.pending := rfl

/-! ### modThm -/

@[simp] theorem State.modThm_rf (f : Thermal → Thermal) : (s.modThm f).rf = s.rf := rfl
@[simp] theorem State.modThm_pcie (f : Thermal → Thermal) : (s.modThm f).pcie = s.pcie := rfl
@[simp] theorem State.modThm_qps (f : Thermal → Thermal) : (s.modThm f).qps = s.qps := rfl
@[simp] theorem State.modThm_bibs (f : Thermal → Thermal) : (s.modThm f).bibs = s.bibs := rfl
@[simp] theorem State.modThm_freeBibs (f : Thermal → Thermal) : (s.modThm f).freeBibs = s.freeBibs := rfl
@[simp] theorem State.modThm_kvm (f : Thermal → Thermal) : (s.modThm f).kvm = s.kvm := rfl
@[simp] theorem State.modThm_plan (f : Thermal → Thermal) : (s.modThm f).plan = s.plan := rfl
@[simp] theorem State.modThm_ledger (f : Thermal → Thermal) : (s.modThm f).ledger = s.ledger := rfl
@[simp] theorem State.modThm_fab (f : Thermal → Thermal) : (s.modThm f).fab = s.fab := rfl
@[simp] theorem State.modThm_att (f : Thermal → Thermal) : (s.modThm f).att = s.att := rfl
@[simp] theorem State.modThm_wax (f : Thermal → Thermal) : (s.modThm f).wax = s.wax := rfl
@[simp] theorem State.modThm_ldr (f : Thermal → Thermal) : (s.modThm f).ldr = s.ldr := rfl
@[simp] theorem State.modThm_lnk (f : Thermal → Thermal) : (s.modThm f).lnk = s.lnk := rfl
@[simp] theorem State.modThm_pat (f : Thermal → Thermal) : (s.modThm f).pat = s.pat := rfl
@[simp] theorem State.modThm_thm (f : Thermal → Thermal) : (s.modThm f).thm = f s.thm := rfl
@[simp] theorem State.modThm_clk (f : Thermal → Thermal) : (s.modThm f).clk = s.clk := rfl
@[simp] theorem State.modThm_pwr (f : Thermal → Thermal) : (s.modThm f).pwr = s.pwr := rfl
@[simp] theorem State.modThm_evt (f : Thermal → Thermal) : (s.modThm f).evt = s.evt := rfl
@[simp] theorem State.modThm_bon (f : Thermal → Thermal) : (s.modThm f).bon = s.bon := rfl
@[simp] theorem State.modThm_pmc (f : Thermal → Thermal) : (s.modThm f).pmc = s.pmc := rfl
@[simp] theorem State.modThm_drawn (f : Thermal → Thermal) : (s.modThm f).drawn = s.drawn := rfl
@[simp] theorem State.modThm_sent (f : Thermal → Thermal) : (s.modThm f).sent = s.sent := rfl
@[simp] theorem State.modThm_pending (f : Thermal → Thermal) : (s.modThm f).pending = s.pending := rfl

/-! ### modClk -/

@[simp] theorem State.modClk_rf (f : Clocks → Clocks) : (s.modClk f).rf = s.rf := rfl
@[simp] theorem State.modClk_pcie (f : Clocks → Clocks) : (s.modClk f).pcie = s.pcie := rfl
@[simp] theorem State.modClk_qps (f : Clocks → Clocks) : (s.modClk f).qps = s.qps := rfl
@[simp] theorem State.modClk_bibs (f : Clocks → Clocks) : (s.modClk f).bibs = s.bibs := rfl
@[simp] theorem State.modClk_freeBibs (f : Clocks → Clocks) : (s.modClk f).freeBibs = s.freeBibs := rfl
@[simp] theorem State.modClk_kvm (f : Clocks → Clocks) : (s.modClk f).kvm = s.kvm := rfl
@[simp] theorem State.modClk_plan (f : Clocks → Clocks) : (s.modClk f).plan = s.plan := rfl
@[simp] theorem State.modClk_ledger (f : Clocks → Clocks) : (s.modClk f).ledger = s.ledger := rfl
@[simp] theorem State.modClk_fab (f : Clocks → Clocks) : (s.modClk f).fab = s.fab := rfl
@[simp] theorem State.modClk_att (f : Clocks → Clocks) : (s.modClk f).att = s.att := rfl
@[simp] theorem State.modClk_wax (f : Clocks → Clocks) : (s.modClk f).wax = s.wax := rfl
@[simp] theorem State.modClk_ldr (f : Clocks → Clocks) : (s.modClk f).ldr = s.ldr := rfl
@[simp] theorem State.modClk_lnk (f : Clocks → Clocks) : (s.modClk f).lnk = s.lnk := rfl
@[simp] theorem State.modClk_pat (f : Clocks → Clocks) : (s.modClk f).pat = s.pat := rfl
@[simp] theorem State.modClk_thm (f : Clocks → Clocks) : (s.modClk f).thm = s.thm := rfl
@[simp] theorem State.modClk_clk (f : Clocks → Clocks) : (s.modClk f).clk = f s.clk := rfl
@[simp] theorem State.modClk_pwr (f : Clocks → Clocks) : (s.modClk f).pwr = s.pwr := rfl
@[simp] theorem State.modClk_evt (f : Clocks → Clocks) : (s.modClk f).evt = s.evt := rfl
@[simp] theorem State.modClk_bon (f : Clocks → Clocks) : (s.modClk f).bon = s.bon := rfl
@[simp] theorem State.modClk_pmc (f : Clocks → Clocks) : (s.modClk f).pmc = s.pmc := rfl
@[simp] theorem State.modClk_drawn (f : Clocks → Clocks) : (s.modClk f).drawn = s.drawn := rfl
@[simp] theorem State.modClk_sent (f : Clocks → Clocks) : (s.modClk f).sent = s.sent := rfl
@[simp] theorem State.modClk_pending (f : Clocks → Clocks) : (s.modClk f).pending = s.pending := rfl

/-! ### modPwr -/

@[simp] theorem State.modPwr_rf (f : Power → Power) : (s.modPwr f).rf = s.rf := rfl
@[simp] theorem State.modPwr_pcie (f : Power → Power) : (s.modPwr f).pcie = s.pcie := rfl
@[simp] theorem State.modPwr_qps (f : Power → Power) : (s.modPwr f).qps = s.qps := rfl
@[simp] theorem State.modPwr_bibs (f : Power → Power) : (s.modPwr f).bibs = s.bibs := rfl
@[simp] theorem State.modPwr_freeBibs (f : Power → Power) : (s.modPwr f).freeBibs = s.freeBibs := rfl
@[simp] theorem State.modPwr_kvm (f : Power → Power) : (s.modPwr f).kvm = s.kvm := rfl
@[simp] theorem State.modPwr_plan (f : Power → Power) : (s.modPwr f).plan = s.plan := rfl
@[simp] theorem State.modPwr_ledger (f : Power → Power) : (s.modPwr f).ledger = s.ledger := rfl
@[simp] theorem State.modPwr_fab (f : Power → Power) : (s.modPwr f).fab = s.fab := rfl
@[simp] theorem State.modPwr_att (f : Power → Power) : (s.modPwr f).att = s.att := rfl
@[simp] theorem State.modPwr_wax (f : Power → Power) : (s.modPwr f).wax = s.wax := rfl
@[simp] theorem State.modPwr_ldr (f : Power → Power) : (s.modPwr f).ldr = s.ldr := rfl
@[simp] theorem State.modPwr_lnk (f : Power → Power) : (s.modPwr f).lnk = s.lnk := rfl
@[simp] theorem State.modPwr_pat (f : Power → Power) : (s.modPwr f).pat = s.pat := rfl
@[simp] theorem State.modPwr_thm (f : Power → Power) : (s.modPwr f).thm = s.thm := rfl
@[simp] theorem State.modPwr_clk (f : Power → Power) : (s.modPwr f).clk = s.clk := rfl
@[simp] theorem State.modPwr_pwr (f : Power → Power) : (s.modPwr f).pwr = f s.pwr := rfl
@[simp] theorem State.modPwr_evt (f : Power → Power) : (s.modPwr f).evt = s.evt := rfl
@[simp] theorem State.modPwr_bon (f : Power → Power) : (s.modPwr f).bon = s.bon := rfl
@[simp] theorem State.modPwr_pmc (f : Power → Power) : (s.modPwr f).pmc = s.pmc := rfl
@[simp] theorem State.modPwr_drawn (f : Power → Power) : (s.modPwr f).drawn = s.drawn := rfl
@[simp] theorem State.modPwr_sent (f : Power → Power) : (s.modPwr f).sent = s.sent := rfl
@[simp] theorem State.modPwr_pending (f : Power → Power) : (s.modPwr f).pending = s.pending := rfl

/-! ### modEvt -/

@[simp] theorem State.modEvt_rf (f : Events → Events) : (s.modEvt f).rf = s.rf := rfl
@[simp] theorem State.modEvt_pcie (f : Events → Events) : (s.modEvt f).pcie = s.pcie := rfl
@[simp] theorem State.modEvt_qps (f : Events → Events) : (s.modEvt f).qps = s.qps := rfl
@[simp] theorem State.modEvt_bibs (f : Events → Events) : (s.modEvt f).bibs = s.bibs := rfl
@[simp] theorem State.modEvt_freeBibs (f : Events → Events) : (s.modEvt f).freeBibs = s.freeBibs := rfl
@[simp] theorem State.modEvt_kvm (f : Events → Events) : (s.modEvt f).kvm = s.kvm := rfl
@[simp] theorem State.modEvt_plan (f : Events → Events) : (s.modEvt f).plan = s.plan := rfl
@[simp] theorem State.modEvt_ledger (f : Events → Events) : (s.modEvt f).ledger = s.ledger := rfl
@[simp] theorem State.modEvt_fab (f : Events → Events) : (s.modEvt f).fab = s.fab := rfl
@[simp] theorem State.modEvt_att (f : Events → Events) : (s.modEvt f).att = s.att := rfl
@[simp] theorem State.modEvt_wax (f : Events → Events) : (s.modEvt f).wax = s.wax := rfl
@[simp] theorem State.modEvt_ldr (f : Events → Events) : (s.modEvt f).ldr = s.ldr := rfl
@[simp] theorem State.modEvt_lnk (f : Events → Events) : (s.modEvt f).lnk = s.lnk := rfl
@[simp] theorem State.modEvt_pat (f : Events → Events) : (s.modEvt f).pat = s.pat := rfl
@[simp] theorem State.modEvt_thm (f : Events → Events) : (s.modEvt f).thm = s.thm := rfl
@[simp] theorem State.modEvt_clk (f : Events → Events) : (s.modEvt f).clk = s.clk := rfl
@[simp] theorem State.modEvt_pwr (f : Events → Events) : (s.modEvt f).pwr = s.pwr := rfl
@[simp] theorem State.modEvt_evt (f : Events → Events) : (s.modEvt f).evt = f s.evt := rfl
@[simp] theorem State.modEvt_bon (f : Events → Events) : (s.modEvt f).bon = s.bon := rfl
@[simp] theorem State.modEvt_pmc (f : Events → Events) : (s.modEvt f).pmc = s.pmc := rfl
@[simp] theorem State.modEvt_drawn (f : Events → Events) : (s.modEvt f).drawn = s.drawn := rfl
@[simp] theorem State.modEvt_sent (f : Events → Events) : (s.modEvt f).sent = s.sent := rfl
@[simp] theorem State.modEvt_pending (f : Events → Events) : (s.modEvt f).pending = s.pending := rfl

/-! ### modBon -/

@[simp] theorem State.modBon_rf (f : Bonos → Bonos) : (s.modBon f).rf = s.rf := rfl
@[simp] theorem State.modBon_pcie (f : Bonos → Bonos) : (s.modBon f).pcie = s.pcie := rfl
@[simp] theorem State.modBon_qps (f : Bonos → Bonos) : (s.modBon f).qps = s.qps := rfl
@[simp] theorem State.modBon_bibs (f : Bonos → Bonos) : (s.modBon f).bibs = s.bibs := rfl
@[simp] theorem State.modBon_freeBibs (f : Bonos → Bonos) : (s.modBon f).freeBibs = s.freeBibs := rfl
@[simp] theorem State.modBon_kvm (f : Bonos → Bonos) : (s.modBon f).kvm = s.kvm := rfl
@[simp] theorem State.modBon_plan (f : Bonos → Bonos) : (s.modBon f).plan = s.plan := rfl
@[simp] theorem State.modBon_ledger (f : Bonos → Bonos) : (s.modBon f).ledger = s.ledger := rfl
@[simp] theorem State.modBon_fab (f : Bonos → Bonos) : (s.modBon f).fab = s.fab := rfl
@[simp] theorem State.modBon_att (f : Bonos → Bonos) : (s.modBon f).att = s.att := rfl
@[simp] theorem State.modBon_wax (f : Bonos → Bonos) : (s.modBon f).wax = s.wax := rfl
@[simp] theorem State.modBon_ldr (f : Bonos → Bonos) : (s.modBon f).ldr = s.ldr := rfl
@[simp] theorem State.modBon_lnk (f : Bonos → Bonos) : (s.modBon f).lnk = s.lnk := rfl
@[simp] theorem State.modBon_pat (f : Bonos → Bonos) : (s.modBon f).pat = s.pat := rfl
@[simp] theorem State.modBon_thm (f : Bonos → Bonos) : (s.modBon f).thm = s.thm := rfl
@[simp] theorem State.modBon_clk (f : Bonos → Bonos) : (s.modBon f).clk = s.clk := rfl
@[simp] theorem State.modBon_pwr (f : Bonos → Bonos) : (s.modBon f).pwr = s.pwr := rfl
@[simp] theorem State.modBon_evt (f : Bonos → Bonos) : (s.modBon f).evt = s.evt := rfl
@[simp] theorem State.modBon_bon (f : Bonos → Bonos) : (s.modBon f).bon = f s.bon := rfl
@[simp] theorem State.modBon_pmc (f : Bonos → Bonos) : (s.modBon f).pmc = s.pmc := rfl
@[simp] theorem State.modBon_drawn (f : Bonos → Bonos) : (s.modBon f).drawn = s.drawn := rfl
@[simp] theorem State.modBon_sent (f : Bonos → Bonos) : (s.modBon f).sent = s.sent := rfl
@[simp] theorem State.modBon_pending (f : Bonos → Bonos) : (s.modBon f).pending = s.pending := rfl

/-! ### modPmc -/

@[simp] theorem State.modPmc_rf (f : Pmc → Pmc) : (s.modPmc f).rf = s.rf := rfl
@[simp] theorem State.modPmc_pcie (f : Pmc → Pmc) : (s.modPmc f).pcie = s.pcie := rfl
@[simp] theorem State.modPmc_qps (f : Pmc → Pmc) : (s.modPmc f).qps = s.qps := rfl
@[simp] theorem State.modPmc_bibs (f : Pmc → Pmc) : (s.modPmc f).bibs = s.bibs := rfl
@[simp] theorem State.modPmc_freeBibs (f : Pmc → Pmc) : (s.modPmc f).freeBibs = s.freeBibs := rfl
@[simp] theorem State.modPmc_kvm (f : Pmc → Pmc) : (s.modPmc f).kvm = s.kvm := rfl
@[simp] theorem State.modPmc_plan (f : Pmc → Pmc) : (s.modPmc f).plan = s.plan := rfl
@[simp] theorem State.modPmc_ledger (f : Pmc → Pmc) : (s.modPmc f).ledger = s.ledger := rfl
@[simp] theorem State.modPmc_fab (f : Pmc → Pmc) : (s.modPmc f).fab = s.fab := rfl
@[simp] theorem State.modPmc_att (f : Pmc → Pmc) : (s.modPmc f).att = s.att := rfl
@[simp] theorem State.modPmc_wax (f : Pmc → Pmc) : (s.modPmc f).wax = s.wax := rfl
@[simp] theorem State.modPmc_ldr (f : Pmc → Pmc) : (s.modPmc f).ldr = s.ldr := rfl
@[simp] theorem State.modPmc_lnk (f : Pmc → Pmc) : (s.modPmc f).lnk = s.lnk := rfl
@[simp] theorem State.modPmc_pat (f : Pmc → Pmc) : (s.modPmc f).pat = s.pat := rfl
@[simp] theorem State.modPmc_thm (f : Pmc → Pmc) : (s.modPmc f).thm = s.thm := rfl
@[simp] theorem State.modPmc_clk (f : Pmc → Pmc) : (s.modPmc f).clk = s.clk := rfl
@[simp] theorem State.modPmc_pwr (f : Pmc → Pmc) : (s.modPmc f).pwr = s.pwr := rfl
@[simp] theorem State.modPmc_evt (f : Pmc → Pmc) : (s.modPmc f).evt = s.evt := rfl
@[simp] theorem State.modPmc_bon (f : Pmc → Pmc) : (s.modPmc f).bon = s.bon := rfl
@[simp] theorem State.modPmc_pmc (f : Pmc → Pmc) : (s.modPmc f).pmc = f s.pmc := rfl
@[simp] theorem State.modPmc_drawn (f : Pmc → Pmc) : (s.modPmc f).drawn = s.drawn := rfl
@[simp] theorem State.modPmc_sent (f : Pmc → Pmc) : (s.modPmc f).sent = s.sent := rfl
@[simp] theorem State.modPmc_pending (f : Pmc → Pmc) : (s.modPmc f).pending = s.pending := rfl

/-! ### setBibs -/

@[simp] theorem State.setBibs_rf (b : Table Bib) : (s.setBibs b).rf = s.rf := rfl
@[simp] theorem State.setBibs_pcie (b : Table Bib) : (s.setBibs b).pcie = s.pcie := rfl
@[simp] theorem State.setBibs_qps (b : Table Bib) : (s.setBibs b).qps = s.qps := rfl
@[simp] theorem State.setBibs_bibs (b : Table Bib) : (s.setBibs b).bibs = b := rfl
@[simp] theorem State.setBibs_freeBibs (b : Table Bib) : (s.setBibs b).freeBibs = s.freeBibs := rfl
@[simp] theorem State.setBibs_kvm (b : Table Bib) : (s.setBibs b).kvm = s.kvm := rfl
@[simp] theorem State.setBibs_plan (b : Table Bib) : (s.setBibs b).plan = s.plan := rfl
@[simp] theorem State.setBibs_ledger (b : Table Bib) : (s.setBibs b).ledger = s.ledger := rfl
@[simp] theorem State.setBibs_fab (b : Table Bib) : (s.setBibs b).fab = s.fab := rfl
@[simp] theorem State.setBibs_att (b : Table Bib) : (s.setBibs b).att = s.att := rfl
@[simp] theorem State.setBibs_wax (b : Table Bib) : (s.setBibs b).wax = s.wax := rfl
@[simp] theorem State.setBibs_ldr (b : Table Bib) : (s.setBibs b).ldr = s.ldr := rfl
@[simp] theorem State.setBibs_lnk (b : Table Bib) : (s.setBibs b).lnk = s.lnk := rfl
@[simp] theorem State.setBibs_pat (b : Table Bib) : (s.setBibs b).pat = s.pat := rfl
@[simp] theorem State.setBibs_thm (b : Table Bib) : (s.setBibs b).thm = s.thm := rfl
@[simp] theorem State.setBibs_clk (b : Table Bib) : (s.setBibs b).clk = s.clk := rfl
@[simp] theorem State.setBibs_pwr (b : Table Bib) : (s.setBibs b).pwr = s.pwr := rfl
@[simp] theorem State.setBibs_evt (b : Table Bib) : (s.setBibs b).evt = s.evt := rfl
@[simp] theorem State.setBibs_bon (b : Table Bib) : (s.setBibs b).bon = s.bon := rfl
@[simp] theorem State.setBibs_pmc (b : Table Bib) : (s.setBibs b).pmc = s.pmc := rfl
@[simp] theorem State.setBibs_drawn (b : Table Bib) : (s.setBibs b).drawn = s.drawn := rfl
@[simp] theorem State.setBibs_sent (b : Table Bib) : (s.setBibs b).sent = s.sent := rfl
@[simp] theorem State.setBibs_pending (b : Table Bib) : (s.setBibs b).pending = s.pending := rfl

/-! ### setWax -/

@[simp] theorem State.setWax_rf (w : Table Wax) : (s.setWax w).rf = s.rf := rfl
@[simp] theorem State.setWax_pcie (w : Table Wax) : (s.setWax w).pcie = s.pcie := rfl
@[simp] theorem State.setWax_qps (w : Table Wax) : (s.setWax w).qps = s.qps := rfl
@[simp] theorem State.setWax_bibs (w : Table Wax) : (s.setWax w).bibs = s.bibs := rfl
@[simp] theorem State.setWax_freeBibs (w : Table Wax) : (s.setWax w).freeBibs = s.freeBibs := rfl
@[simp] theorem State.setWax_kvm (w : Table Wax) : (s.setWax w).kvm = s.kvm := rfl
@[simp] theorem State.setWax_plan (w : Table Wax) : (s.setWax w).plan = s.plan := rfl
@[simp] theorem State.setWax_ledger (w : Table Wax) : (s.setWax w).ledger = s.ledger := rfl
@[simp] theorem State.setWax_fab (w : Table Wax) : (s.setWax w).fab = s.fab := rfl
@[simp] theorem State.setWax_att (w : Table Wax) : (s.setWax w).att = s.att := rfl
@[simp] theorem State.setWax_wax (w : Table Wax) : (s.setWax w).wax = w := rfl
@[simp] theorem State.setWax_ldr (w : Table Wax) : (s.setWax w).ldr = s.ldr := rfl
@[simp] theorem State.setWax_lnk (w : Table Wax) : (s.setWax w).lnk = s.lnk := rfl
@[simp] theorem State.setWax_pat (w : Table Wax) : (s.setWax w).pat = s.pat := rfl
@[simp] theorem State.setWax_thm (w : Table Wax) : (s.setWax w).thm = s.thm := rfl
@[simp] theorem State.setWax_clk (w : Table Wax) : (s.setWax w).clk = s.clk := rfl
@[simp] theorem State.setWax_pwr (w : Table Wax) : (s.setWax w).pwr = s.pwr := rfl
@[simp] theorem State.setWax_evt (w : Table Wax) : (s.setWax w).evt = s.evt := rfl
@[simp] theorem State.setWax_bon (w : Table Wax) : (s.setWax w).bon = s.bon := rfl
@[simp] theorem State.setWax_pmc (w : Table Wax) : (s.setWax w).pmc = s.pmc := rfl
@[simp] theorem State.setWax_drawn (w : Table Wax) : (s.setWax w).drawn = s.drawn := rfl
@[simp] theorem State.setWax_sent (w : Table Wax) : (s.setWax w).sent = s.sent := rfl
@[simp] theorem State.setWax_pending (w : Table Wax) : (s.setWax w).pending = s.pending := rfl

/-! ### draw -/

@[simp] theorem State.draw_rf : (s.draw).rf = s.rf := rfl
@[simp] theorem State.draw_pcie : (s.draw).pcie = s.pcie := rfl
@[simp] theorem State.draw_qps : (s.draw).qps = s.qps := rfl
@[simp] theorem State.draw_bibs : (s.draw).bibs = s.bibs := rfl
@[simp] theorem State.draw_freeBibs : (s.draw).freeBibs = s.freeBibs := rfl
@[simp] theorem State.draw_kvm : (s.draw).kvm = s.kvm := rfl
@[simp] theorem State.draw_plan : (s.draw).plan = s.plan := rfl
@[simp] theorem State.draw_ledger : (s.draw).ledger = s.ledger := rfl
@[simp] theorem State.draw_fab : (s.draw).fab = s.fab := rfl
@[simp] theorem State.draw_att : (s.draw).att = s.att := rfl
@[simp] theorem State.draw_wax : (s.draw).wax = s.wax := rfl
@[simp] theorem State.draw_ldr : (s.draw).ldr = s.ldr := rfl
@[simp] theorem State.draw_lnk : (s.draw).lnk = s.lnk := rfl
@[simp] theorem State.draw_pat : (s.draw).pat = s.pat := rfl
@[simp] theorem State.draw_thm : (s.draw).thm = s.thm := rfl
@[simp] theorem State.draw_clk : (s.draw).clk = s.clk := rfl
@[simp] theorem State.draw_pwr : (s.draw).pwr = s.pwr := rfl
@[simp] theorem State.draw_evt : (s.draw).evt = s.evt := rfl
@[simp] theorem State.draw_bon : (s.draw).bon = s.bon := rfl
@[simp] theorem State.draw_pmc : (s.draw).pmc = s.pmc := rfl
@[simp] theorem State.draw_drawn : (s.draw).drawn = s.drawn + 1 := rfl
@[simp] theorem State.draw_sent : (s.draw).sent = s.sent := rfl
@[simp] theorem State.draw_pending : (s.draw).pending = s.pending := rfl

/-! ### send -/

@[simp] theorem State.send_rf (o : Out) : (s.send o).rf = s.rf := rfl
@[simp] theorem State.send_pcie (o : Out) : (s.send o).pcie = s.pcie := rfl
@[simp] theorem State.send_qps (o : Out) : (s.send o).qps = s.qps := rfl
@[simp] theorem State.send_bibs (o : Out) : (s.send o).bibs = s.bibs := rfl
@[simp] theorem State.send_freeBibs (o : Out) : (s.send o).freeBibs = s.freeBibs := rfl
@[simp] theorem State.send_kvm (o : Out) : (s.send o).kvm = s.kvm := rfl
@[simp] theorem State.send_plan (o : Out) : (s.send o).plan = s.plan := rfl
@[simp] theorem State.send_ledger (o : Out) : (s.send o).ledger = s.ledger := rfl
@[simp] theorem State.send_fab (o : Out) : (s.send o).fab = s.fab := rfl
@[simp] theorem State.send_att (o : Out) : (s.send o).att = s.att := rfl
@[simp] theorem State.send_wax (o : Out) : (s.send o).wax = s.wax := rfl
@[simp] theorem State.send_ldr (o : Out) : (s.send o).ldr = s.ldr := rfl
@[simp] theorem State.send_lnk (o : Out) : (s.send o).lnk = s.lnk := rfl
@[simp] theorem State.send_pat (o : Out) : (s.send o).pat = s.pat := rfl
@[simp] theorem State.send_thm (o : Out) : (s.send o).thm = s.thm := rfl
@[simp] theorem State.send_clk (o : Out) : (s.send o).clk = s.clk := rfl
@[simp] theorem State.send_pwr (o : Out) : (s.send o).pwr = s.pwr := rfl
@[simp] theorem State.send_evt (o : Out) : (s.send o).evt = s.evt := rfl
@[simp] theorem State.send_bon (o : Out) : (s.send o).bon = s.bon := rfl
@[simp] theorem State.send_pmc (o : Out) : (s.send o).pmc = s.pmc := rfl
@[simp] theorem State.send_drawn (o : Out) : (s.send o).drawn = s.drawn := rfl
@[simp] theorem State.send_sent (o : Out) : (s.send o).sent = s.sent ++ [o] := rfl
@[simp] theorem State.send_pending (o : Out) : (s.send o).pending = s.pending := rfl

/-! ### putQp -/

@[simp] theorem State.putQp_rf (q : Nat) (p : Qp) : (s.putQp q p).rf = s.rf := rfl
@[simp] theorem State.putQp_pcie (q : Nat) (p : Qp) : (s.putQp q p).pcie = s.pcie := rfl
@[simp] theorem State.putQp_qps (q : Nat) (p : Qp) : (s.putQp q p).qps = s.qps.put q p := rfl
@[simp] theorem State.putQp_bibs (q : Nat) (p : Qp) : (s.putQp q p).bibs = s.bibs := rfl
@[simp] theorem State.putQp_freeBibs (q : Nat) (p : Qp) : (s.putQp q p).freeBibs = s.freeBibs := rfl
@[simp] theorem State.putQp_kvm (q : Nat) (p : Qp) : (s.putQp q p).kvm = s.kvm := rfl
@[simp] theorem State.putQp_plan (q : Nat) (p : Qp) : (s.putQp q p).plan = s.plan := rfl
@[simp] theorem State.putQp_ledger (q : Nat) (p : Qp) : (s.putQp q p).ledger = s.ledger := rfl
@[simp] theorem State.putQp_fab (q : Nat) (p : Qp) : (s.putQp q p).fab = s.fab := rfl
@[simp] theorem State.putQp_att (q : Nat) (p : Qp) : (s.putQp q p).att = s.att := rfl
@[simp] theorem State.putQp_wax (q : Nat) (p : Qp) : (s.putQp q p).wax = s.wax := rfl
@[simp] theorem State.putQp_ldr (q : Nat) (p : Qp) : (s.putQp q p).ldr = s.ldr := rfl
@[simp] theorem State.putQp_lnk (q : Nat) (p : Qp) : (s.putQp q p).lnk = s.lnk := rfl
@[simp] theorem State.putQp_pat (q : Nat) (p : Qp) : (s.putQp q p).pat = s.pat := rfl
@[simp] theorem State.putQp_thm (q : Nat) (p : Qp) : (s.putQp q p).thm = s.thm := rfl
@[simp] theorem State.putQp_clk (q : Nat) (p : Qp) : (s.putQp q p).clk = s.clk := rfl
@[simp] theorem State.putQp_pwr (q : Nat) (p : Qp) : (s.putQp q p).pwr = s.pwr := rfl
@[simp] theorem State.putQp_evt (q : Nat) (p : Qp) : (s.putQp q p).evt = s.evt := rfl
@[simp] theorem State.putQp_bon (q : Nat) (p : Qp) : (s.putQp q p).bon = s.bon := rfl
@[simp] theorem State.putQp_pmc (q : Nat) (p : Qp) : (s.putQp q p).pmc = s.pmc := rfl
@[simp] theorem State.putQp_drawn (q : Nat) (p : Qp) : (s.putQp q p).drawn = s.drawn := rfl
@[simp] theorem State.putQp_sent (q : Nat) (p : Qp) : (s.putQp q p).sent = s.sent := rfl
@[simp] theorem State.putQp_pending (q : Nat) (p : Qp) : (s.putQp q p).pending = s.pending := rfl

/-! ### wr -/

@[simp] theorem State.wr_rf (k : Nat) (v : Word) : (s.wr k v).rf = { s.rf with regs := s.rf.regs.put k v } := rfl
@[simp] theorem State.wr_pcie (k : Nat) (v : Word) : (s.wr k v).pcie = s.pcie := rfl
@[simp] theorem State.wr_qps (k : Nat) (v : Word) : (s.wr k v).qps = s.qps := rfl
@[simp] theorem State.wr_bibs (k : Nat) (v : Word) : (s.wr k v).bibs = s.bibs := rfl
@[simp] theorem State.wr_freeBibs (k : Nat) (v : Word) : (s.wr k v).freeBibs = s.freeBibs := rfl
@[simp] theorem State.wr_kvm (k : Nat) (v : Word) : (s.wr k v).kvm = s.kvm := rfl
@[simp] theorem State.wr_plan (k : Nat) (v : Word) : (s.wr k v).plan = s.plan := rfl
@[simp] theorem State.wr_ledger (k : Nat) (v : Word) : (s.wr k v).ledger = s.ledger := rfl
@[simp] theorem State.wr_fab (k : Nat) (v : Word) : (s.wr k v).fab = s.fab := rfl
@[simp] theorem State.wr_att (k : Nat) (v : Word) : (s.wr k v).att = s.att := rfl
@[simp] theorem State.wr_wax (k : Nat) (v : Word) : (s.wr k v).wax = s.wax := rfl
@[simp] theorem State.wr_ldr (k : Nat) (v : Word) : (s.wr k v).ldr = s.ldr := rfl
@[simp] theorem State.wr_lnk (k : Nat) (v : Word) : (s.wr k v).lnk = s.lnk := rfl
@[simp] theorem State.wr_pat (k : Nat) (v : Word) : (s.wr k v).pat = s.pat := rfl
@[simp] theorem State.wr_thm (k : Nat) (v : Word) : (s.wr k v).thm = s.thm := rfl
@[simp] theorem State.wr_clk (k : Nat) (v : Word) : (s.wr k v).clk = s.clk := rfl
@[simp] theorem State.wr_pwr (k : Nat) (v : Word) : (s.wr k v).pwr = s.pwr := rfl
@[simp] theorem State.wr_evt (k : Nat) (v : Word) : (s.wr k v).evt = s.evt := rfl
@[simp] theorem State.wr_bon (k : Nat) (v : Word) : (s.wr k v).bon = s.bon := rfl
@[simp] theorem State.wr_pmc (k : Nat) (v : Word) : (s.wr k v).pmc = s.pmc := rfl
@[simp] theorem State.wr_drawn (k : Nat) (v : Word) : (s.wr k v).drawn = s.drawn := rfl
@[simp] theorem State.wr_sent (k : Nat) (v : Word) : (s.wr k v).sent = s.sent := rfl
@[simp] theorem State.wr_pending (k : Nat) (v : Word) : (s.wr k v).pending = s.pending := rfl

end Sys2Proof.Machine
end

