-- ==== Sys2Proof/Laws/Table.lean ====
section
/-!
SUPPORT. The laws of the finite maps and byte memories: reading after writing, and that every operation keeps the canonical form.
-/

namespace Sys2Proof

variable {α β : Type}

/-! ### Reading -/

theorem Table.lookup_insert_same (k : Nat) (v : α) (l : List (Nat × α)) :
    Table.lookup k (Table.insert k v l) = some v := by
  induction l with
  | nil => simp [Table.insert, Table.lookup]
  | cons e r ih =>
    simp only [Table.insert]
    split
    · simp [Table.lookup]
    · split
      · simp [Table.lookup]
      · simp [Table.lookup, *]

theorem Table.lookup_insert_other {k j : Nat} (h : j ≠ k) (v : α) (l : List (Nat × α)) :
    Table.lookup j (Table.insert k v l) = Table.lookup j l := by
  induction l with
  | nil => simp [Table.insert, Table.lookup, h]
  | cons e r ih =>
    simp only [Table.insert]
    split
    · simp [Table.lookup, h]
    · split
      · next h2 => subst h2; simp [Table.lookup, h]
      · simp only [Table.lookup, ih]

theorem Table.lookup_remove_same (k : Nat) (l : List (Nat × α)) : Table.lookup k (Table.remove k l) = none := by
  induction l with
  | nil => rfl
  | cons e r ih =>
    simp only [Table.remove]
    split
    · exact ih
    · simp [Table.lookup, *]

theorem Table.lookup_remove_other {k j : Nat} (h : j ≠ k) (l : List (Nat × α)) :
    Table.lookup j (Table.remove k l) = Table.lookup j l := by
  induction l with
  | nil => rfl
  | cons e r ih =>
    simp only [Table.remove]
    split
    · next h2 => simp only [Table.lookup, ih]; subst h2; simp [h]
    · simp only [Table.lookup, ih]

/-- A read of the key just written gives the value written. -/
@[simp] theorem Table.get?_put_same (t : Table α) (k : Nat) (v : α) : (t.put k v).get? k = some v :=
  Table.lookup_insert_same k v t.entries

/-- A write leaves every other key alone. -/
theorem Table.get?_put_other (t : Table α) {k j : Nat} (h : j ≠ k) (v : α) : (t.put k v).get? j = t.get? j :=
  Table.lookup_insert_other h v t.entries

/-- An erased key reads none. -/
@[simp] theorem Table.get?_erase_same (t : Table α) (k : Nat) : (t.erase k).get? k = none :=
  Table.lookup_remove_same k t.entries

/-- An erasure leaves every other key alone. -/
theorem Table.get?_erase_other (t : Table α) {k j : Nat} (h : j ≠ k) : (t.erase k).get? j = t.get? j :=
  Table.lookup_remove_other h t.entries

@[simp] theorem Table.get?_empty (k : Nat) : (Table.empty : Table α).get? k = none := rfl

@[simp] theorem Table.getD_put_same (t : Table α) (k : Nat) (v d : α) : (t.put k v).getD k d = v := by
  simp [Table.getD]

theorem Table.getD_put_other (t : Table α) {k j : Nat} (h : j ≠ k) (v d : α) : (t.put k v).getD j d = t.getD j d := by
  simp [Table.getD, Table.get?_put_other t h]

/-! ### The canonical form -/

theorem Table.above_mono {a b : Nat} (h : a < b) (l : List (Nat × α)) (hl : Table.above b l = true) :
    Table.above a l = true := by
  induction l with
  | nil => rfl
  | cons e r ih =>
    simp only [Table.above, Bool.and_eq_true, decide_eq_true_eq] at hl ⊢
    exact ⟨by omega, ih hl.2⟩

theorem Table.above_insert {a k : Nat} (h : a < k) (v : α) (l : List (Nat × α)) (hl : Table.above a l = true) :
    Table.above a (Table.insert k v l) = true := by
  induction l with
  | nil => simp [Table.insert, Table.above, h]
  | cons e r ih =>
    simp only [Table.above, Bool.and_eq_true, decide_eq_true_eq] at hl
    simp only [Table.insert]
    split
    · simp [Table.above, h, hl]
    · split
      · simp [Table.above, h, hl]
      · simp [Table.above, hl, ih hl.2]

theorem Table.rising_insert (k : Nat) (v : α) (l : List (Nat × α)) (hl : Table.rising l = true) :
    Table.rising (Table.insert k v l) = true := by
  induction l with
  | nil => rfl
  | cons e r ih =>
    simp only [Table.rising, Bool.and_eq_true] at hl
    simp only [Table.insert]
    split
    · next h => simp [Table.rising, Table.above, hl, h, Table.above_mono h r hl.1]
    · split
      · next h2 => subst h2; simp [Table.rising, hl]
      · next h1 h2 =>
        simp only [Table.rising, Bool.and_eq_true]
        exact ⟨Table.above_insert (by omega) v r hl.1, ih hl.2⟩

theorem Table.above_filter (p : Nat × α → Bool) {a : Nat} (l : List (Nat × α)) (hl : Table.above a l = true) :
    Table.above a (l.filter p) = true := by
  induction l with
  | nil => rfl
  | cons e r ih =>
    simp only [Table.above, Bool.and_eq_true, decide_eq_true_eq] at hl
    simp only [List.filter]
    split
    · simp [Table.above, hl, ih hl.2]
    · exact ih hl.2

theorem Table.rising_filter (p : Nat × α → Bool) (l : List (Nat × α)) (hl : Table.rising l = true) :
    Table.rising (l.filter p) = true := by
  induction l with
  | nil => rfl
  | cons e r ih =>
    simp only [Table.rising, Bool.and_eq_true] at hl
    simp only [List.filter]
    split
    · simp [Table.rising, Table.above_filter p r hl.1, ih hl.2]
    · exact ih hl.2

theorem Table.remove_eq_filter (k : Nat) (l : List (Nat × α)) : Table.remove k l = l.filter fun e => !decide (k = e.1) := by
  induction l with
  | nil => rfl
  | cons e r ih =>
    simp only [Table.remove, List.filter]
    split
    · next h => rw [ih]; simp only [h, decide_true, Bool.not_true]
    · next h => rw [ih]; simp only [h, decide_false, Bool.not_false]

theorem Table.above_map (f : Nat → α → β) {a : Nat} (l : List (Nat × α)) (hl : Table.above a l = true) :
    Table.above a (l.map fun e => (e.1, f e.1 e.2)) = true := by
  induction l with
  | nil => rfl
  | cons e r ih =>
    simp only [Table.above, Bool.and_eq_true, decide_eq_true_eq] at hl
    simp [Table.above, hl, ih hl.2]

theorem Table.rising_map (f : Nat → α → β) (l : List (Nat × α)) (hl : Table.rising l = true) :
    Table.rising (l.map fun e => (e.1, f e.1 e.2)) = true := by
  induction l with
  | nil => rfl
  | cons e r ih =>
    simp only [Table.rising, Bool.and_eq_true] at hl
    simp [Table.rising, Table.above_map f r hl.1, ih hl.2]

@[simp] theorem Table.wf_empty : (Table.empty : Table α).wf = true := rfl

@[simp] theorem Table.wf_put {t : Table α} (h : t.wf = true) (k : Nat) (v : α) : (t.put k v).wf = true :=
  Table.rising_insert k v t.entries h

@[simp] theorem Table.wf_erase {t : Table α} (h : t.wf = true) (k : Nat) : (t.erase k).wf = true := by
  unfold Table.erase Table.wf; rw [Table.remove_eq_filter]; exact Table.rising_filter _ _ h

@[simp] theorem Table.wf_set {t : Table α} (h : t.wf = true) (k : Nat) (v : Option α) : (t.set k v).wf = true := by
  cases v <;> simp [Table.set, h]

@[simp] theorem Table.wf_modify {t : Table α} (h : t.wf = true) (k : Nat) (f : α → α) : (t.modify k f).wf = true := by
  unfold Table.modify; split <;> simp [h]

@[simp] theorem Table.wf_map {t : Table α} (h : t.wf = true) (f : Nat → α → β) : (t.map f).wf = true :=
  Table.rising_map f t.entries h

@[simp] theorem Table.wf_filter {t : Table α} (h : t.wf = true) (p : Nat → α → Bool) : (t.filter p).wf = true :=
  Table.rising_filter _ t.entries h

/-- A key whose entries all pass reads as before. -/
theorem Table.get?_filter_same (t : Table α) {p : Nat → α → Bool} {k : Nat} (h : ∀ v, p k v = true) :
    (t.filter p).get? k = t.get? k := by
  unfold Table.get? Table.filter
  generalize t.entries = l
  induction l with
  | nil => rfl
  | cons e r ih =>
    simp only [List.filter]
    split
    · simp only [Table.lookup, ih]
    · next c =>
      have hk : k ≠ e.1 := by rintro rfl; rw [h] at c; cases c
      simp [Table.lookup, hk, ih]

/-- A fold that puts, erases or changes keeps the form. -/
theorem Table.wf_foldl {γ : Type} (g : Table α → γ → Table α) (hg : ∀ t x, t.wf = true → (g t x).wf = true) (l : List γ)
    (t : Table α) (h : t.wf = true) : (l.foldl g t).wf = true := by
  induction l generalizing t with
  | nil => exact h
  | cons x r ih => exact ih _ (hg t x h)

@[simp] theorem Table.wf_foldl_put {γ : Type} {t : Table α} (h : t.wf = true) (l : List γ) (k : γ → Nat) (v : γ → α) :
    (l.foldl (fun t e => t.put (k e) (v e)) t).wf = true :=
  Table.wf_foldl _ (fun _ _ h => Table.wf_put h _ _) l t h

/-! ### Byte memories -/

/-- A read of the byte just written gives it. -/
@[simp] theorem Memory.read_write_same (d : Byte) (m : Table Byte) (a : Nat) (b : Byte) :
    Memory.read d (Memory.write d m a b) a = b := by
  unfold Memory.read Memory.write Table.getD; split <;> simp [*]

/-- A write leaves every other byte alone. -/
theorem Memory.read_write_other (d : Byte) (m : Table Byte) {a c : Nat} (h : c ≠ a) (b : Byte) :
    Memory.read d (Memory.write d m a b) c = Memory.read d m c := by
  unfold Memory.read Memory.write Table.getD
  split
  · rw [Table.get?_erase_other m h]
  · rw [Table.get?_put_other m h]

theorem Table.all_insert (p : Nat × α → Bool) (k : Nat) (v : α) (l : List (Nat × α)) (hv : p (k, v) = true)
    (hl : l.all p = true) : (Table.insert k v l).all p = true := by
  induction l with
  | nil => simp [Table.insert, hv]
  | cons e r ih =>
    simp only [List.all_cons, Bool.and_eq_true] at hl
    simp only [Table.insert]
    split
    · simp [hv, hl]
    · split
      · simp [hv, hl]
      · simp [hl, ih hl.2]

@[simp] theorem Memory.wf_empty (d : Byte) : Memory.wf d Table.empty = true := rfl

/-- A write keeps the canonical form: keys rising, nothing listed that an unlisted byte reads as. -/
@[simp] theorem Memory.wf_write {d : Byte} {m : Table Byte} (h : Memory.wf d m = true) (a : Nat) (b : Byte) :
    Memory.wf d (Memory.write d m a b) = true := by
  unfold Memory.wf Memory.write at *
  simp only [Bool.and_eq_true] at h ⊢
  split
  · refine ⟨Table.wf_erase h.1 a, ?_⟩
    unfold Table.erase; rw [Table.remove_eq_filter]
    simp only [List.all_eq_true, List.mem_filter] at h ⊢
    intro x hx; exact h.2 x hx.1
  · next hb => exact ⟨Table.wf_put h.1 a b, Table.all_insert _ a b _ (by simpa using hb) h.2⟩

@[simp] theorem Memory.wf_writeAll {d : Byte} {m : Table Byte} (h : Memory.wf d m = true) (a : Nat) (l : List Byte) :
    Memory.wf d (Memory.writeAll d m a l) = true := by
  induction l generalizing m a with
  | nil => exact h
  | cons b r ih => exact ih (Memory.wf_write h a b) (a + 1)

/-- A fold of writes keeps the form. -/
theorem Memory.wf_foldl {γ : Type} {d : Byte} (g : Table Byte → γ → Table Byte)
    (hg : ∀ t x, Memory.wf d t = true → Memory.wf d (g t x) = true) (l : List γ) (m : Table Byte)
    (h : Memory.wf d m = true) : Memory.wf d (l.foldl g m) = true := by
  induction l generalizing m with
  | nil => exact h
  | cons x r ih => exact ih _ (hg m x h)

@[simp] theorem Memory.wf_foldl_write {γ : Type} {d : Byte} {m : Table Byte} (h : Memory.wf d m = true) (l : List γ)
    (k : γ → Nat) (v : γ → Byte) : Memory.wf d (l.foldl (fun m e => Memory.write d m (k e) (v e)) m) = true :=
  Memory.wf_foldl _ (fun _ _ h => Memory.wf_write h _ _) l m h

@[simp] theorem Memory.wf_filter {d : Byte} {m : Table Byte} (h : Memory.wf d m = true) (p : Nat → Byte → Bool) :
    Memory.wf d (m.filter p) = true := by
  unfold Memory.wf at *
  simp only [Bool.and_eq_true] at h ⊢
  refine ⟨Table.wf_filter h.1 p, ?_⟩
  simp only [Table.filter, List.all_eq_true, List.mem_filter] at h ⊢
  intro x hx
  exact h.2 x hx.1

end Sys2Proof
end

