-- ==== Sys2Proof/Laws/Keeps.lean ====
section
/-!
SUPPORT. What every shared operation keeps: the canonical form of each map and memory of the state, the command queue, and
every part of the state that it does not touch.

The parts that an operation may touch are a set written as a number: bit `p.bit` for part `p`.
-/

namespace Sys2Proof.Machine

/-- The bit that stands for a part. -/
def Part.bit : Part → Nat
  | .image => 0 | .latch => 1 | .pcie => 2 | .qps => 3 | .bibs => 4 | .freeBibs => 5 | .kvm => 6 | .plan => 7 | .ledger => 8
  | .fab => 9 | .att => 10 | .wax => 11 | .ldr => 12 | .lnk => 13 | .pat => 14 | .thm => 15 | .clk => 16 | .pwr => 17
  | .evt => 18 | .bon => 19 | .pmc => 20 | .drawn => 21 | .sent => 22
  | .win w => 32 + w

/-- State `t` is canonical if `s` is, has its queue, and has its parts but those of `m`; nothing sent is taken back. -/
structure Keeps (m : Nat) (s t : State) : Prop where
  canon : s.canonical = true → t.canonical = true
  queue : t.pending = s.pending
  grows : s.sent <+: t.sent
  draws : s.drawn ≤ t.drawn
  frame : ∀ p : Part, m.testBit p.bit = false → p.same s t

/-- A change of one part keeps the part's form. -/
def KeepsPart {α : Type} (c : α → Bool) (f : α → α) : Prop := ∀ x, c x = true → c (f x) = true

/-- Every next state of an outcome is kept from `s`. -/
structure KeepsOut (m : Nat) (s : State) (o : Host.Outcome State Fault Refusal) : Prop where
  /-- What holds of a next state. -/
  keeps : ∀ t, o = .next t → Keeps m s t

/-! ### Sets of parts -/

theorem bit_of {a m n : Nat} (h : a ||| m = m) (hb : a.testBit n = true) : m.testBit n = true := by
  rw [← h, Nat.testBit_or, hb, Bool.true_or]

theorem sub_of {a b m : Nat} (h : b ||| m = m) (hb : a ||| b = b) : a ||| m = m := by
  rw [← h, ← Nat.or_assoc, hb]

theorem window_keyAt (q off : Nat) : regWindow (keyAt q off) = regWindow off := by
  simp only [regWindow, keyAt, Nat.mul_add_mod_self_right]

theorem window_keyAt_add (q off n : Nat) : regWindow (keyAt q off + n) = regWindow (off + n) := by
  simp only [regWindow, keyAt, Nat.add_assoc, Nat.mul_add_mod_self_right]

theorem window_sel (f : Fld) (q : Nat) : regWindow (f.sel q).reg = regWindow f.reg := window_keyAt q f.reg

/-- The window of a key below those of the Arkor dies. -/
theorem window_near {k w : Nat} (hl : 0x100000 * w ≤ k) (hh : k < 0x100000 * w + 0x100000) (hw : w < 16) : regWindow k = w := by
  have e : k % selStride = k := Nat.mod_eq_of_lt (by unfold selStride; omega)
  have d : k / 0x100000 = w := by omega
  simp only [regWindow, e, d]
  exact if_neg (by omega)

theorem window_ark {k : Nat} (h : 0x1000000 ≤ k ∧ k < 0x2000000) : regWindow k = 16 := by
  have e : k % selStride = k := Nat.mod_eq_of_lt (by unfold selStride; omega)
  simp only [regWindow, e]
  exact if_pos (by omega)

theorem window_arkKey {off : Nat} (h : 0x1000000 ≤ off ∧ off < 0x1100000) (d : Nat) : regWindow (arkKey off d) = 16 := by
  refine window_ark ?_
  simp only [arkKey]
  omega

theorem window_arkKey_add {off n : Nat} (h : 0x1000000 ≤ off + n ∧ off + n < 0x1100000) (d : Nat) :
    regWindow (arkKey off d + n) = 16 := by
  refine window_ark ?_
  simp only [arkKey]
  omega

theorem window_die {f : Fld} (h : 0x1000000 ≤ f.reg ∧ f.reg < 0x1100000) (d : Nat) : regWindow (f.die d).reg = 16 :=
  window_arkKey h d

theorem window_lt (k : Nat) : regWindow k < 64 := by
  have h : k % selStride / 0x100000 < 64 := by unfold selStride; omega
  simp only [regWindow]
  split <;> omega

theorem window_wordAt {base n : Nat} (h : base < 0x4000000 ∧ base % 0x100000 + 4 * n ≤ 0x100000 ∧ 0 < n) (i : Nat) :
    regWindow (wordAt base n i) = regWindow base := by
  have hi : i % n < n := Nat.mod_lt i h.2.2
  have e1 : wordAt base n i % selStride = wordAt base n i := Nat.mod_eq_of_lt (by simp only [wordAt, selStride]; omega)
  have e2 : base % selStride = base := Nat.mod_eq_of_lt (by unfold selStride; omega)
  have e3 : wordAt base n i / 0x100000 = base / 0x100000 := by simp only [wordAt]; omega
  simp only [regWindow, e1, e2, e3]

theorem window_arkWord {base n : Nat} (h : 0x1000000 ≤ base ∧ base + 4 * n ≤ 0x1100000 ∧ 0 < n) (i d : Nat) :
    regWindow (arkKey (wordAt base n i) d) = 16 := by
  have hi : i % n < n := Nat.mod_lt i h.2.2
  refine window_arkKey ?_ d
  simp only [wordAt]
  omega

theorem window_drop (n : Nat) : regWindow (Reg.PAT_DROP + 8 * (n % 8)) = 13 := by
  refine window_near ?_ ?_ (by omega) <;> (simp only [Reg.PAT_DROP]; omega)

theorem window_drop_hi (n : Nat) : regWindow (Reg.PAT_DROP + 8 * (n % 8) + 4) = 13 := by
  refine window_near ?_ ?_ (by omega) <;> (simp only [Reg.PAT_DROP]; omega)

theorem window_msix (v : Nat) : regWindow (msixControl v) = 0 := by
  refine window_near ?_ ?_ (by omega) <;> (simp only [msixControl]; omega)

/-- A set with every window has any. -/
theorem bit_win {m : Nat} (h : 0xFFFFFFFFFFFFFFFF00000000 ||| m = m) (k : Nat) : m.testBit (32 + regWindow k) = true :=
  bit_of h ((by decide : ∀ w, w < 64 → Nat.testBit 0xFFFFFFFFFFFFFFFF00000000 (32 + w) = true) _ (window_lt k))

/-! ### Composition -/

theorem Part.same.refl (p : Part) (s : State) : p.same s s := by cases p <;> first | rfl | exact fun _ _ => rfl

theorem Part.same.trans {p : Part} {s t u : State} (h : p.same s t) (g : p.same t u) : p.same s u := by
  cases p <;> first
    | exact Eq.trans g h
    | exact fun k e => (g k e).trans (h k e)

theorem Keeps.refl (s : State) {m : Nat} : Keeps m s s := ⟨fun h => h, rfl, List.prefix_rfl, Nat.le_refl _, fun p _ => Part.same.refl p s⟩

theorem Keeps.trans {m : Nat} {s t u : State} (h : Keeps m s t) (g : Keeps m t u) : Keeps m s u :=
  ⟨fun c => g.canon (h.canon c), g.queue.trans h.queue, h.grows.trans g.grows, Nat.le_trans h.draws g.draws, fun p e => (h.frame p e).trans (g.frame p e)⟩

theorem Keeps.mono {m n : Nat} {s t : State} (hm : m ||| n = n) (h : Keeps m s t) : Keeps n s t :=
  ⟨h.canon, h.queue, h.grows, h.draws, fun p e => h.frame p (by
    rw [← hm, Nat.testBit_or, Bool.or_eq_false_iff] at e
    exact e.1)⟩

/-- Every part may be touched. -/
def allParts : Nat := 0xFFFFFFFFFFFFFFFF007FFFFF

theorem Keeps.all {s t : State} (hp : t.pending = s.pending) (hs : t.sent = s.sent) (hd : t.drawn = s.drawn) (hc : s.canonical = true → t.canonical = true) :
    Keeps allParts s t :=
  ⟨hc, hp, hs ▸ List.prefix_rfl, Nat.le_of_eq hd.symm, fun p e => by
    cases p with
    | win w =>
      intro k hk
      have hw : w < 64 := hk ▸ window_lt k
      have : allParts.testBit (32 + w) = true := by
        revert hw
        exact (by decide : ∀ w, w < 64 → allParts.testBit (32 + w) = true) w
      simp only [Part.bit, this] at e
      cases e
    | _ =>
      simp only [Part.bit] at e
      exact absurd e (by decide)⟩

theorem KeepsOut.next {m : Nat} {s t : State} (h : Keeps m s t) : KeepsOut m s (.next t) :=
  ⟨fun _ e => by cases e; exact h⟩

theorem KeepsOut.fault {m : Nat} (s : State) (f : Fault) : KeepsOut m s (.fault f) := ⟨fun _ e => by cases e⟩

/-- One map is in form if the other is. -/
def WfImp (a b : Bool) : Prop := a = true → b = true

theorem WfImp.intro {a b : Bool} (h : a = true → b = true) : WfImp a b := h

theorem KeepsPart.intro {α : Type} {c : α → Bool} {f : α → α} (h : ∀ x, c x = true → c (f x) = true) : KeepsPart c f := h

theorem KeepsPart.same {α : Type} (c : α → Bool) (f : α → α) (h : ∀ x, c (f x) = c x) : KeepsPart c f :=
  fun x hx => (h x).trans hx

theorem Keeps.foldl {m : Nat} {γ : Type} {s t : State} {g : State → γ → State} {l : List γ} (h : Keeps m s t)
    (hg : ∀ u x, Keeps m s u → Keeps m s (g u x)) : Keeps m s (l.foldl g t) := by
  induction l generalizing t with
  | nil => exact h
  | cons x r ih => exact ih (hg t x h)

/-- A fold with a state beside what it gathers. -/
theorem Keeps.foldl_snd {m : Nat} {γ δ : Type} {s : State} {g : δ × State → γ → δ × State} {l : List γ} {p : δ × State}
    (h : Keeps m s p.2) (hg : ∀ q x, Keeps m s q.2 → Keeps m s (g q x).2) : Keeps m s (l.foldl g p).2 := by
  induction l generalizing p with
  | nil => exact h
  | cons x r ih => exact ih (hg p x h)

theorem Keeps.foldl_fst {m : Nat} {γ δ : Type} {s : State} {g : State × δ → γ → State × δ} {l : List γ} {p : State × δ}
    (h : Keeps m s p.1) (hg : ∀ q x, Keeps m s q.1 → Keeps m s (g q x).1) : Keeps m s (l.foldl g p).1 := by
  induction l generalizing p with
  | nil => exact h
  | cons x r ih => exact ih (hg p x h)

@[simp] theorem Kvm.setPool_prefixes (k : Kvm) (h : Hub) (l : Bool) (p : Pool) : (k.setPool h l p).prefixes = k.prefixes := by
  cases h <;> cases l <;> rfl

@[simp] theorem Kvm.setPool_vectors (k : Kvm) (h : Hub) (l : Bool) (p : Pool) : (k.setPool h l p).vectors = k.vectors := by
  cases h <;> cases l <;> rfl

variable {m : Nat} {s t : State}

/-- One part changes, and the rest is what it was. -/
theorem Keeps.of_part (h : Keeps m s t) {u : State} {q : Part} (hm : m.testBit q.bit = true) (hp : u.pending = t.pending)
    (hs : t.sent <+: u.sent) (hd : t.drawn ≤ u.drawn) (hc : t.canonical = true → u.canonical = true) (hf : ∀ p, p ≠ q → p.same t u) : Keeps m s u :=
  h.trans ⟨hc, hp, hs, hd, fun p e => hf p (by rintro rfl; rw [hm] at e; cases e)⟩

/-- The parts of the register file change, and nothing else. -/
theorem Keeps.of_rf (h : Keeps m s t) {f : RegFile → RegFile} (hf : KeepsPart RegFile.canonical f)
    (hr : ∀ p : Part, m.testBit p.bit = false → p.same t (t.modRf f)) : Keeps m s (t.modRf f) :=
  h.trans ⟨fun c => by
    simp only [State.canonical, Bool.and_eq_true] at c ⊢
    have p := hf t.rf (by simp only [c])
    simp only [State.modRf, c, p, and_self], rfl, List.prefix_rfl, Nat.le_refl _, hr⟩

theorem Keeps.modKvm (hm : m.testBit 6 = true) {f : Kvm → Kvm} (h : Keeps m s t) (hf : KeepsPart Kvm.canonical f) :
    Keeps m s (t.modKvm f) := by
  refine h.of_part (q := .kvm) hm rfl List.prefix_rfl (Nat.le_refl _) (fun c => ?_) fun p e => ?_
  · simp only [State.canonical, Bool.and_eq_true] at c ⊢
    have p := hf t.kvm (by simp only [c])
    simp only [State.modKvm, c, p, and_self]
  · cases p <;> first | rfl | exact absurd rfl e | exact fun _ _ => rfl

theorem Keeps.modFab (hm : m.testBit 9 = true) {f : Fabric → Fabric} (h : Keeps m s t) (hf : KeepsPart Fabric.canonical f) :
    Keeps m s (t.modFab f) := by
  refine h.of_part (q := .fab) hm rfl List.prefix_rfl (Nat.le_refl _) (fun c => ?_) fun p e => ?_
  · simp only [State.canonical, Bool.and_eq_true] at c ⊢
    have p := hf t.fab (by simp only [c])
    simp only [State.modFab, c, p, and_self]
  · cases p <;> first | rfl | exact absurd rfl e | exact fun _ _ => rfl

theorem Keeps.modAtt (hm : m.testBit 10 = true) {f : Attention → Attention} (h : Keeps m s t) (hf : KeepsPart Attention.canonical f) :
    Keeps m s (t.modAtt f) := by
  refine h.of_part (q := .att) hm rfl List.prefix_rfl (Nat.le_refl _) (fun c => ?_) fun p e => ?_
  · simp only [State.canonical, Bool.and_eq_true] at c ⊢
    have p := hf t.att (by simp only [c])
    simp only [State.modAtt, c, p, and_self]
  · cases p <;> first | rfl | exact absurd rfl e | exact fun _ _ => rfl

theorem Keeps.modLdr (hm : m.testBit 12 = true) {f : Loader → Loader} (h : Keeps m s t) (hf : KeepsPart Loader.canonical f) :
    Keeps m s (t.modLdr f) := by
  refine h.of_part (q := .ldr) hm rfl List.prefix_rfl (Nat.le_refl _) (fun c => ?_) fun p e => ?_
  · simp only [State.canonical, Bool.and_eq_true] at c ⊢
    have p := hf t.ldr (by simp only [c])
    simp only [State.modLdr, c, p, and_self]
  · cases p <;> first | rfl | exact absurd rfl e | exact fun _ _ => rfl

theorem Keeps.modLnk (hm : m.testBit 13 = true) {f : Links → Links} (h : Keeps m s t) (hf : KeepsPart Links.canonical f) :
    Keeps m s (t.modLnk f) := by
  refine h.of_part (q := .lnk) hm rfl List.prefix_rfl (Nat.le_refl _) (fun c => ?_) fun p e => ?_
  · simp only [State.canonical, Bool.and_eq_true] at c ⊢
    have p := hf t.lnk (by simp only [c])
    simp only [State.modLnk, c, p, and_self]
  · cases p <;> first | rfl | exact absurd rfl e | exact fun _ _ => rfl

theorem Keeps.modPat (hm : m.testBit 14 = true) {f : Patrol → Patrol} (h : Keeps m s t) (hf : KeepsPart Patrol.canonical f) :
    Keeps m s (t.modPat f) := by
  refine h.of_part (q := .pat) hm rfl List.prefix_rfl (Nat.le_refl _) (fun c => ?_) fun p e => ?_
  · simp only [State.canonical, Bool.and_eq_true] at c ⊢
    have p := hf t.pat (by simp only [c])
    simp only [State.modPat, c, p, and_self]
  · cases p <;> first | rfl | exact absurd rfl e | exact fun _ _ => rfl

theorem Keeps.modThm (hm : m.testBit 15 = true) {f : Thermal → Thermal} (h : Keeps m s t) (hf : KeepsPart Thermal.canonical f) :
    Keeps m s (t.modThm f) := by
  refine h.of_part (q := .thm) hm rfl List.prefix_rfl (Nat.le_refl _) (fun c => ?_) fun p e => ?_
  · simp only [State.canonical, Bool.and_eq_true] at c ⊢
    have p := hf t.thm (by simp only [c])
    simp only [State.modThm, c, p, and_self]
  · cases p <;> first | rfl | exact absurd rfl e | exact fun _ _ => rfl

theorem Keeps.modClk (hm : m.testBit 16 = true) {f : Clocks → Clocks} (h : Keeps m s t) (hf : KeepsPart Clocks.canonical f) :
    Keeps m s (t.modClk f) := by
  refine h.of_part (q := .clk) hm rfl List.prefix_rfl (Nat.le_refl _) (fun c => ?_) fun p e => ?_
  · simp only [State.canonical, Bool.and_eq_true] at c ⊢
    have p := hf t.clk (by simp only [c])
    simp only [State.modClk, c, p, and_self]
  · cases p <;> first | rfl | exact absurd rfl e | exact fun _ _ => rfl

theorem Keeps.modEvt (hm : m.testBit 18 = true) {f : Events → Events} (h : Keeps m s t) (hf : KeepsPart Events.canonical f) :
    Keeps m s (t.modEvt f) := by
  refine h.of_part (q := .evt) hm rfl List.prefix_rfl (Nat.le_refl _) (fun c => ?_) fun p e => ?_
  · simp only [State.canonical, Bool.and_eq_true] at c ⊢
    have p := hf t.evt (by simp only [c])
    simp only [State.modEvt, c, p, and_self]
  · cases p <;> first | rfl | exact absurd rfl e | exact fun _ _ => rfl

theorem Keeps.modBon (hm : m.testBit 19 = true) {f : Bonos → Bonos} (h : Keeps m s t) (hf : KeepsPart Bonos.canonical f) :
    Keeps m s (t.modBon f) := by
  refine h.of_part (q := .bon) hm rfl List.prefix_rfl (Nat.le_refl _) (fun c => ?_) fun p e => ?_
  · simp only [State.canonical, Bool.and_eq_true] at c ⊢
    have p := hf t.bon (by simp only [c])
    simp only [State.modBon, c, p, and_self]
  · cases p <;> first | rfl | exact absurd rfl e | exact fun _ _ => rfl

theorem Keeps.modPmc (hm : m.testBit 20 = true) {f : Pmc → Pmc} (h : Keeps m s t) (hf : KeepsPart Pmc.canonical f) :
    Keeps m s (t.modPmc f) := by
  refine h.of_part (q := .pmc) hm rfl List.prefix_rfl (Nat.le_refl _) (fun c => ?_) fun p e => ?_
  · simp only [State.canonical, Bool.and_eq_true] at c ⊢
    have p := hf t.pmc (by simp only [c])
    simp only [State.modPmc, c, p, and_self]
  · cases p <;> first | rfl | exact absurd rfl e | exact fun _ _ => rfl

theorem Keeps.modPlan (hm : m.testBit 7 = true) {f : Planner → Planner} (h : Keeps m s t) : Keeps m s (t.modPlan f) :=
  h.of_part (q := .plan) hm rfl List.prefix_rfl (Nat.le_refl _) (fun c => c) fun p e => by
    cases p <;> first | rfl | exact absurd rfl e | exact fun _ _ => rfl

theorem Keeps.modLedger (hm : m.testBit 8 = true) {f : Ledger → Ledger} (h : Keeps m s t) : Keeps m s (t.modLedger f) :=
  h.of_part (q := .ledger) hm rfl List.prefix_rfl (Nat.le_refl _) (fun c => c) fun p e => by
    cases p <;> first | rfl | exact absurd rfl e | exact fun _ _ => rfl

theorem Keeps.modPcie (hm : m.testBit 2 = true) {f : PcieFn → PcieFn} (h : Keeps m s t) : Keeps m s (t.modPcie f) :=
  h.of_part (q := .pcie) hm rfl List.prefix_rfl (Nat.le_refl _) (fun c => c) fun p e => by
    cases p <;> first | rfl | exact absurd rfl e | exact fun _ _ => rfl

theorem Keeps.modPwr (hm : m.testBit 17 = true) {f : Power → Power} (h : Keeps m s t) : Keeps m s (t.modPwr f) :=
  h.of_part (q := .pwr) hm rfl List.prefix_rfl (Nat.le_refl _) (fun c => c) fun p e => by
    cases p <;> first | rfl | exact absurd rfl e | exact fun _ _ => rfl

theorem Keeps.modFree (hm : m.testBit 5 = true) {f : FreeList → FreeList} (h : Keeps m s t) : Keeps m s (t.modFree f) :=
  h.of_part (q := .freeBibs) hm rfl List.prefix_rfl (Nat.le_refl _) (fun c => c) fun p e => by
    cases p <;> first | rfl | exact absurd rfl e | exact fun _ _ => rfl

theorem Keeps.draw (hm : m.testBit 21 = true) (h : Keeps m s t) : Keeps m s t.draw :=
  h.of_part (q := .drawn) hm rfl List.prefix_rfl (Nat.le_succ _) (fun c => c) fun p e => by
    cases p <;> first | rfl | exact absurd rfl e | exact fun _ _ => rfl

theorem Keeps.send (hm : m.testBit 22 = true) {o : Out} (h : Keeps m s t) : Keeps m s (t.send o) :=
  h.of_part (q := .sent) hm rfl (List.prefix_append _ _) (Nat.le_refl _) (fun c => c) fun p e => by
    cases p <;> first | rfl | exact absurd rfl e | exact fun _ _ => rfl

theorem Keeps.setBibs (hm : m.testBit 4 = true) {b : Table Bib} (h : Keeps m s t) (hb : WfImp t.bibs.wf b.wf) :
    Keeps m s (t.setBibs b) := by
  refine h.of_part (q := .bibs) hm rfl List.prefix_rfl (Nat.le_refl _) (fun c => ?_) fun p e => ?_
  · simp only [State.canonical, Bool.and_eq_true] at c ⊢
    have p := hb (by simp only [c])
    simp only [State.setBibs, c, p, and_self]
  · cases p <;> first | rfl | exact absurd rfl e | exact fun _ _ => rfl

theorem Keeps.setWax (hm : m.testBit 11 = true) {b : Table Wax} (h : Keeps m s t) (hb : WfImp t.wax.wf b.wf) :
    Keeps m s (t.setWax b) := by
  refine h.of_part (q := .wax) hm rfl List.prefix_rfl (Nat.le_refl _) (fun c => ?_) fun p e => ?_
  · simp only [State.canonical, Bool.and_eq_true] at c ⊢
    have p := hb (by simp only [c])
    simp only [State.setWax, c, p, and_self]
  · cases p <;> first | rfl | exact absurd rfl e | exact fun _ _ => rfl

theorem Keeps.putQp (hm : m.testBit 3 = true) {q : Nat} {p : Qp} (h : Keeps m s t) : Keeps m s (t.putQp q p) := by
  refine h.of_part (q := .qps) hm rfl List.prefix_rfl (Nat.le_refl _) (fun c => ?_) fun p e => ?_
  · simp only [State.canonical, Bool.and_eq_true] at c ⊢
    simp only [State.putQp, c, Table.wf_put, and_self]
  · cases p <;> first | rfl | exact absurd rfl e | exact fun _ _ => rfl

theorem Keeps.putBib (hm : m.testBit 4 = true) {i : Nat} {b : Bib} (h : Keeps m s t) : Keeps m s (t.putBib i b) := by
  refine h.of_part (q := .bibs) hm rfl List.prefix_rfl (Nat.le_refl _) (fun c => ?_) fun p e => ?_
  · simp only [State.canonical, Bool.and_eq_true] at c ⊢
    simp only [State.putBib, c, Table.wf_put, and_self]
  · cases p <;> first | rfl | exact absurd rfl e | exact fun _ _ => rfl

theorem Keeps.wr {k : Nat} {v : Word} (hm : m.testBit (32 + regWindow k) = true) (h : Keeps m s t) : Keeps m s (t.wr k v) := by
  refine h.of_part (q := .win (regWindow k)) hm rfl List.prefix_rfl (Nat.le_refl _) (fun c => ?_) fun p e => ?_
  · simp only [State.canonical, RegFile.canonical, Bool.and_eq_true] at c ⊢
    simp only [State.wr, c, Table.wf_put, and_self]
  · cases p <;> first | rfl | skip
    rename_i w
    intro j hj
    have hk : j ≠ k := by rintro rfl; exact e (by rw [hj])
    simp [State.rd, State.wr, Table.get?_put_other _ hk]

end Sys2Proof.Machine
end

