-- ==== Sys2Proof/Laws/Regs.lean ====
section
/-!
SUPPORT. The laws of the register file: a field reads what was last put into it, and a write leaves every other field alone.
-/

namespace Sys2Proof.Machine

/-! ### Fields of a word -/

theorem bits_lt (n lo w : Nat) : bits n lo w < 2 ^ w := Nat.mod_lt _ (Nat.two_pow_pos w)

theorem wordBits_lt (v : Word) (lo w : Nat) : wordBits v lo w < 2 ^ w := bits_lt _ _ _

@[simp] theorem wordBits_mod (v : Word) (lo w : Nat) : wordBits v lo w % 2 ^ w = wordBits v lo w :=
  Nat.mod_eq_of_lt (wordBits_lt v lo w)

/-- The number that a field put leaves, before it is cut to 32 bits. -/
theorem setBits_toNat (v : Word) {lo w : Nat} (n : Nat) (h : lo + w ≤ 32) :
    (setBits v lo w n).toNat = (v.toNat / 2 ^ (lo + w) * 2 ^ w + n % 2 ^ w) * 2 ^ lo + v.toNat % 2 ^ lo := by
  unfold setBits
  rw [BitVec.toNat_ofNat]
  apply Nat.mod_eq_of_lt
  have hv : v.toNat < 2 ^ 32 := v.isLt
  have h1 : n % 2 ^ w < 2 ^ w := Nat.mod_lt _ (Nat.two_pow_pos w)
  have h2 : v.toNat % 2 ^ lo < 2 ^ lo := Nat.mod_lt _ (Nat.two_pow_pos lo)
  have h3 : v.toNat / 2 ^ (lo + w) < 2 ^ (32 - (lo + w)) := by
    rw [Nat.div_lt_iff_lt_mul (Nat.two_pow_pos _), ← Nat.pow_add]
    rwa [Nat.sub_add_cancel h]
  have h4 : v.toNat / 2 ^ (lo + w) * 2 ^ w + n % 2 ^ w < 2 ^ (32 - lo) := by
    have e : 2 ^ (32 - lo) = 2 ^ (32 - (lo + w)) * 2 ^ w := by rw [← Nat.pow_add]; congr 1; omega
    rw [e]
    calc _ < v.toNat / 2 ^ (lo + w) * 2 ^ w + 2 ^ w := by omega
      _ = (v.toNat / 2 ^ (lo + w) + 1) * 2 ^ w := by ring
      _ ≤ _ := Nat.mul_le_mul_right _ h3
  have e : (2:Nat) ^ 32 = 2 ^ (32 - lo) * 2 ^ lo := by rw [← Nat.pow_add]; congr 1; omega
  rw [e]
  calc _ < (v.toNat / 2 ^ (lo + w) * 2 ^ w + n % 2 ^ w) * 2 ^ lo + 2 ^ lo := by omega
    _ = (v.toNat / 2 ^ (lo + w) * 2 ^ w + n % 2 ^ w + 1) * 2 ^ lo := by ring
    _ ≤ _ := Nat.mul_le_mul_right _ h4

/-- A field reads the value put into it, cut to its width. -/
theorem wordBits_setBits_same (v : Word) {lo w : Nat} (n : Nat) (h : lo + w ≤ 32) :
    wordBits (setBits v lo w n) lo w = n % 2 ^ w := by
  unfold wordBits bits
  rw [setBits_toNat v n h, Nat.add_comm, Nat.add_mul_div_right _ _ (Nat.two_pow_pos lo),
    Nat.div_eq_of_lt (Nat.mod_lt _ (Nat.two_pow_pos lo)), Nat.zero_add, Nat.mul_add_mod_self_right]
  exact Nat.mod_mod _ _

/-- A field below the one put keeps its value. -/
theorem wordBits_setBits_below (v : Word) {lo w lo' w' : Nat} (n : Nat) (h : lo + w ≤ 32) (hb : lo' + w' ≤ lo) :
    wordBits (setBits v lo w n) lo' w' = wordBits v lo' w' := by
  unfold wordBits bits
  rw [setBits_toNat v n h]
  have e : (2:Nat) ^ lo = 2 ^ (lo - (lo' + w')) * 2 ^ w' * 2 ^ lo' := by
    rw [← Nat.pow_add, ← Nat.pow_add]; congr 1; omega
  have e2 : v.toNat = v.toNat / 2 ^ lo * 2 ^ lo + v.toNat % 2 ^ lo := (Nat.div_add_mod' _ _).symm
  generalize v.toNat / 2 ^ (lo + w) * 2 ^ w + n % 2 ^ w = a
  conv_rhs => rw [e2]
  generalize v.toNat / 2 ^ lo = c
  generalize v.toNat % 2 ^ lo = b
  have key : ∀ a, (a * 2 ^ lo + b) / 2 ^ lo' % 2 ^ w' = b / 2 ^ lo' % 2 ^ w' := by
    intro a
    rw [e, ← Nat.mul_assoc, Nat.add_comm, Nat.add_mul_div_right _ _ (Nat.two_pow_pos lo'), ← Nat.mul_assoc,
      Nat.add_mul_mod_self_right]
  rw [key, key]

/-- A field above the one put keeps its value. -/
theorem wordBits_setBits_above (v : Word) {lo w lo' w' : Nat} (n : Nat) (h : lo + w ≤ 32) (hb : lo + w ≤ lo') :
    wordBits (setBits v lo w n) lo' w' = wordBits v lo' w' := by
  unfold wordBits bits
  rw [setBits_toNat v n h]
  have e : (2:Nat) ^ lo' = 2 ^ lo * 2 ^ w * 2 ^ (lo' - (lo + w)) := by
    rw [← Nat.pow_add, ← Nat.pow_add]; congr 1; omega
  rw [e, ← Nat.div_div_eq_div_mul, ← Nat.div_div_eq_div_mul, ← Nat.div_div_eq_div_mul, ← Nat.div_div_eq_div_mul,
    Nat.add_comm (_ * 2 ^ lo), Nat.add_mul_div_right _ _ (Nat.two_pow_pos lo),
    Nat.div_eq_of_lt (Nat.mod_lt _ (Nat.two_pow_pos lo)), Nat.zero_add, Nat.add_comm (_ * 2 ^ w),
    Nat.add_mul_div_right _ _ (Nat.two_pow_pos w), Nat.div_eq_of_lt (Nat.mod_lt _ (Nat.two_pow_pos w)), Nat.zero_add,
    Nat.pow_add, ← Nat.div_div_eq_div_mul]

/-! ### Registers -/

variable (s : State)

@[simp] theorem State.rd_wr_same (k : Nat) (v : Word) : (s.wr k v).rd k = v := by simp [State.rd, State.wr]

theorem State.rd_wr_other {k j : Nat} (h : j ≠ k) (v : Word) : (s.wr k v).rd j = s.rd j := by
  simp [State.rd, State.wr, Table.get?_put_other _ h]

/-- What a register reads depends on the register file alone. -/
theorem State.rd_congr {s t : State} (h : s.rf = t.rf) (k : Nat) : s.rd k = t.rd k := by simp [State.rd, h]

theorem State.get_congr {s t : State} (h : s.rf = t.rf) (f : Fld) : s.get f = t.get f := by
  simp [State.get, State.rd_congr h]

theorem State.rd_put_other (f : Fld) (n : Nat) {j : Nat} (h : j ≠ f.reg) : (s.put f n).rd j = s.rd j :=
  s.rd_wr_other h _

theorem State.get_put_same (f : Fld) (n : Nat) (h : f.lo + f.width ≤ 32) : (s.put f n).get f = n % 2 ^ f.width := by
  simp [State.put, State.get, wordBits_setBits_same _ _ h]

theorem State.get_put_reg (f g : Fld) (n : Nat) (h : g.reg ≠ f.reg) : (s.put f n).get g = s.get g := by
  simp [State.get, State.rd_put_other s f n h]

theorem State.get_put_disjoint (f g : Fld) (n : Nat) (hf : f.lo + f.width ≤ 32) (hr : g.reg = f.reg)
    (h : g.lo + g.width ≤ f.lo ∨ f.lo + f.width ≤ g.lo) : (s.put f n).get g = s.get g := by
  simp only [State.put, State.get, hr, State.rd_wr_same]
  rcases h with h | h
  · exact wordBits_setBits_below _ _ hf h
  · exact wordBits_setBits_above _ _ hf h

theorem State.flag_raise (f : Fld) (h : f.lo + f.width ≤ 32) (hw : 0 < f.width) : (s.raise f).flag f = true := by
  have : 1 % 2 ^ f.width = 1 := Nat.mod_eq_of_lt (Nat.one_lt_two_pow (by omega))
  simp [State.flag, State.raise, State.get_put_same s f 1 h, this]

@[simp] theorem State.rd64_wr64_same (k n : Nat) : (s.wr64 k n).rd64 k = n % 2 ^ 64 := by
  simp only [State.wr64, State.rd64, State.rd_wr_same]
  rw [State.rd_wr_other _ (by omega), State.rd_wr_same]
  simp only [BitVec.toNat_ofNat]
  omega

theorem State.rd_wr64_other (k n : Nat) {j : Nat} (h : j ≠ k) (h4 : j ≠ k + 4) : (s.wr64 k n).rd j = s.rd j := by
  simp only [State.wr64]
  rw [State.rd_wr_other _ h4, State.rd_wr_other _ h]

@[simp] theorem State.rd64_count_same (k n : Nat) : (s.count k n).rd64 k = (s.rd64 k + n) % 2 ^ 64 := by
  simp [State.count]

theorem State.rd_count_other (k n : Nat) {j : Nat} (h : j ≠ k) (h4 : j ≠ k + 4) : (s.count k n).rd j = s.rd j :=
  s.rd_wr64_other k _ h h4

/-! ### The parts that a field update leaves -/

@[simp] theorem State.put_onlyRf (f : Fld) (n : Nat) : { s.put f n with rf := s.rf } = s := rfl

@[simp] theorem State.count_onlyRf (k n : Nat) : { s.count k n with rf := s.rf } = s := rfl

end Sys2Proof.Machine
end

