-- ==== Sys2Proof/Laws/Frames.lean ====
section
/-!
SUPPORT. The laws of the two frames that claims use: the parts that a command leaves (`SameBut`) and the register bits that it
leaves (`FieldsBut`).
-/

namespace Sys2Proof.Machine

/-! ### Parts -/

/-- The part that a bit stands for. -/
def partOf : Nat → Part
  | 0 => .image | 1 => .latch | 2 => .pcie | 3 => .qps | 4 => .bibs | 5 => .freeBibs | 6 => .kvm | 7 => .plan | 8 => .ledger
  | 9 => .fab | 10 => .att | 11 => .wax | 12 => .ldr | 13 => .lnk | 14 => .pat | 15 => .thm | 16 => .clk | 17 => .pwr
  | 18 => .evt | 19 => .bon | 20 => .pmc | 21 => .drawn | 22 => .sent
  | n => .win (n - 32)

theorem partOf_bit (p : Part) : partOf p.bit = p := by
  cases p with
  | win w =>
    have e : 32 + w = w + 9 + 23 := by omega
    simp only [Part.bit, e, partOf, Part.win.injEq]
    omega
  | _ => rfl

/-- Every part of the set is listed. -/
def covers (m : Nat) (l : List Part) : Bool := decide (m < 2 ^ 96) && (List.range 96).all fun n => !m.testBit n || decide (partOf n ∈ l)

theorem Keeps.sameBut {m : Nat} {l : List Part} {s t : State} (h : Keeps m s t) (hc : covers m l = true) : SameBut l s t := by
  intro p hp
  refine h.frame p ?_
  simp only [covers, Bool.and_eq_true, decide_eq_true_eq, List.all_eq_true, List.mem_range, Bool.or_eq_true,
    Bool.not_eq_true'] at hc
  by_cases hn : p.bit < 96
  · rcases hc.2 p.bit hn with e | e
    · exact e
    · rw [partOf_bit] at e
      exact absurd e hp
  · exact Nat.testBit_lt_two_pow (Nat.lt_of_lt_of_le hc.1 (Nat.pow_le_pow_right (by omega) (by omega)))

/-- A frame of a command, from what its meaning keeps. -/
theorem KeepsOut.sameBut {m : Nat} {l : List Part} {s t : State} {o : Host.Outcome State Fault Refusal} (h : KeepsOut m s o)
    (e : o = .next t) (hc : covers m l = true) : SameBut l s t := (h.keeps t e).sameBut hc

/-! ### Register bits -/

theorem Fld.apart_symm {f g : Fld} (h : f.apart g) : g.apart f := by
  rcases h with h | h | h
  · exact .inl fun e => h e.symm
  · exact .inr (.inr h)
  · exact .inr (.inl h)

theorem State.get_put_apart (s : State) {f g : Fld} (n : Nat) (hf : f.lo + f.width ≤ 32) (h : f.apart g) :
    (s.put f n).get g = s.get g := by
  by_cases e : g.reg = f.reg
  · refine s.get_put_disjoint f g n hf e ?_
    rcases h with h | h | h
    · exact absurd e.symm h
    · exact .inr h
    · exact .inl h
  · exact s.get_put_reg f g n e

/-- Bits above the word read 0 on both sides. -/
theorem State.get_wr_apart (s : State) {k : Nat} {g : Fld} (v : Word) (h : (Fld.word k).apart g) : (s.wr k v).get g = s.get g := by
  by_cases e : g.reg = k
  · have hlo : 32 ≤ g.lo ∨ g.width = 0 ∧ g.lo = 0 := by
      rcases h with h | h | h
      · exact absurd e.symm h
      · exact .inl (by simpa [Fld.word] using h)
      · exact .inr (by simp only [Fld.word] at h; omega)
    rcases hlo with hlo | ⟨hw, -⟩
    · simp only [State.get, e, wordBits, bits]
      have z : ∀ w : Word, w.toNat / 2 ^ g.lo = 0 := fun w =>
        Nat.div_eq_of_lt (Nat.lt_of_lt_of_le w.isLt (Nat.pow_le_pow_right (by omega) hlo))
      rw [z, z]
    · simp [State.get, wordBits, bits, hw, Nat.mod_one]
  · simp only [State.get, State.rd_wr_other s e]

variable {l : List Fld} {s t : State}

theorem FieldsBut.refl (l : List Fld) (s : State) : FieldsBut l s s := fun _ _ => rfl

theorem FieldsBut.trans {u : State} (h : FieldsBut l s t) (g : FieldsBut l t u) : FieldsBut l s u :=
  fun f hf => (g f hf).trans (h f hf)

theorem FieldsBut.mono {l' : List Fld} (h : FieldsBut l s t) (hl : ∀ f ∈ l, f ∈ l') : FieldsBut l' s t :=
  fun g hg => h g fun f hf => hg f (hl f hf)

/-- A change outside the register file. -/
theorem FieldsBut.rf (h : FieldsBut l s t) {u : State} (e : u.rf = t.rf) : FieldsBut l s u :=
  fun g hg => (State.get_congr e g).trans (h g hg)

theorem FieldsBut.put (h : FieldsBut l s t) {f : Fld} (n : Nat) (hf : f ∈ l) (hw : f.lo + f.width ≤ 32) :
    FieldsBut l s (t.put f n) :=
  fun g hg => (t.get_put_apart n hw (hg f hf)).trans (h g hg)

theorem FieldsBut.wr (h : FieldsBut l s t) {k : Nat} (v : Word) (hf : Fld.word k ∈ l) : FieldsBut l s (t.wr k v) :=
  fun g hg => (t.get_wr_apart v (hg _ hf)).trans (h g hg)

theorem FieldsBut.wr64 (h : FieldsBut l s t) {k : Nat} (n : Nat) (hf : Fld.word k ∈ l) (hf4 : Fld.word (k + 4) ∈ l) :
    FieldsBut l s (t.wr64 k n) := (h.wr _ hf).wr _ hf4

theorem FieldsBut.count (h : FieldsBut l s t) {k : Nat} (n : Nat) (hf : Fld.word k ∈ l) (hf4 : Fld.word (k + 4) ∈ l) :
    FieldsBut l s (t.count k n) := h.wr64 _ hf hf4

end Sys2Proof.Machine
end

