-- ==== Sys2Proof/Laws/KeepRegs.lean ====
section
/-!
SUPPORT. What the operations of Machine/Regs.lean keep (Laws/Keeps.lean).
-/

set_option linter.all false

namespace Sys2Proof.Machine

theorem State.put_keeps {μ : Nat} {s₀ s : State} {f : Fld} {n : Nat} (hw : μ.testBit (32 + regWindow f.reg) = true) (h : Keeps μ s₀ s) :
    Keeps μ s₀ (s.put f n) := Keeps.wr hw h

theorem State.raise_keeps {μ : Nat} {s₀ s : State} {f : Fld} (hw : μ.testBit (32 + regWindow f.reg) = true) (h : Keeps μ s₀ s) :
    Keeps μ s₀ (s.raise f) := Keeps.wr hw h

theorem State.putB_keeps {μ : Nat} {s₀ s : State} {f : Fld} {b : Bool} (hw : μ.testBit (32 + regWindow f.reg) = true) (h : Keeps μ s₀ s) :
    Keeps μ s₀ (s.putB f b) := Keeps.wr hw h

theorem State.wr64_keeps {μ : Nat} {s₀ s : State} {k n : Nat} (hw : μ.testBit (32 + regWindow k) = true)
    (hw4 : μ.testBit (32 + regWindow (k + 4)) = true) (h : Keeps μ s₀ s) :
    Keeps μ s₀ (s.wr64 k n) := Keeps.wr hw4 (Keeps.wr hw h)

theorem State.count_keeps {μ : Nat} {s₀ s : State} {k n : Nat} (hw : μ.testBit (32 + regWindow k) = true)
    (hw4 : μ.testBit (32 + regWindow (k + 4)) = true) (h : Keeps μ s₀ s) :
    Keeps μ s₀ (s.count k n) := Keeps.wr hw4 (Keeps.wr hw h)

end Sys2Proof.Machine
end

