-- ==== Sys2Proof/Laws/KeepFlags.lean ====
section
/-!
SUPPORT. What the operations of Machine/Flags.lean keep (Laws/Keeps.lean).
-/

set_option linter.all false

namespace Sys2Proof.Machine

theorem State.putSource_keeps {μ : Nat} {s₀ s : State} {base n : Nat} {b : Bool} (hw : μ.testBit 35 = true)
    (hb : 0x300000 ≤ base ∧ base < 0x3F0000) (h : Keeps μ s₀ s) : Keeps μ s₀ (s.putSource base n b) := by
  refine State.put_keeps ?_ h
  have e : regWindow (wordAt base 48 (n / 32)) = 3 :=
    window_near (by simp only [wordAt]; omega) (by simp only [wordAt]; omega) (by omega)
  simp only [e]
  exact hw

theorem Pmc.bump_canonical {p : Pmc} (h : p.canonical = true) (b c n : Nat) : (p.bump b c n).canonical = true := by
  simp only [Pmc.canonical, Bool.and_eq_true] at h ⊢
  simp only [Pmc.bump]
  split <;> simp [h]

theorem Pmc.tally_canonical {p : Pmc} (h : p.canonical = true) (b c n : Nat) (f : Option Hub) :
    (p.tally b c n f).canonical = true := by
  unfold Pmc.tally
  generalize List.range 8 = l
  induction l generalizing p with
  | nil => exact h
  | cons x r ih =>
    simp only [List.foldl_cons]
    split
    · exact ih (Pmc.bump_canonical h _ _ _)
    · exact ih h

theorem State.tally_keeps {μ : Nat} (hμ : 0x100000 ||| μ = μ) {s₀ s : State} (h : Keeps μ s₀ s) (blk code n : Nat) (f : Option Hub) :
    Keeps μ s₀ (s.tally blk code n f) :=
  Keeps.modPmc (bit_of hμ (by decide)) h fun _ c => Pmc.tally_canonical c blk code n f

end Sys2Proof.Machine
end

