-- ==== Sys2Proof/Laws/KeepOps.lean ====
section
/-!
SUPPORT. What the operations of Machine/Ops.lean keep (Laws/Keeps.lean).
-/

set_option linter.all false

namespace Sys2Proof.Machine

theorem State.logAppend_keeps {μ : Nat} (hμ : 0x200000004000 ||| μ = μ) {s₀ s : State} (h : Keeps μ s₀ s) (r : Report) :
    Keeps μ s₀ (State.logAppend s r) := by
  unfold State.logAppend
  repeat' first
    | with_reducible assumption
    | with_reducible apply Keeps.modPat (bit_of hμ (by decide))
    | with_reducible apply State.put_keeps
    | exact KeepsPart.same _ _ fun _ => rfl
    | (with_reducible refine KeepsPart.intro fun x hx => ?_; simp only [Patrol.canonical, Bool.and_eq_true] at hx ⊢; simp [hx])
    | (with_reducible refine bit_of hμ ?_; first | decide | (simp (disch := decide) only [window_sel, window_die, window_arkKey, window_arkKey_add, window_keyAt, window_keyAt_add, window_wordAt, window_arkWord, window_drop, window_drop_hi, window_msix]; decide))
    | dsimp only

theorem State.logDrop_keeps {μ : Nat} (hμ : 0x200000100000 ||| μ = μ) {s₀ s : State} (h : Keeps μ s₀ s) (r : Report) :
    Keeps μ s₀ (State.logDrop s r) := by
  unfold State.logDrop
  repeat' first
    | with_reducible assumption
    | with_reducible apply State.count_keeps
    | with_reducible apply State.raise_keeps
    | with_reducible apply State.tally_keeps (sub_of hμ (by decide))
    | (with_reducible refine bit_of hμ ?_; first | decide | (simp (disch := decide) only [window_sel, window_die, window_arkKey, window_arkKey_add, window_keyAt, window_keyAt_add, window_wordAt, window_arkWord, window_drop, window_drop_hi, window_msix]; decide))
    | dsimp only

theorem State.closeBurst_keeps {μ : Nat} (hμ : 0x200000104000 ||| μ = μ) {s₀ s : State} (h : Keeps μ s₀ s) (i : Nat) :
    Keeps μ s₀ (State.closeBurst s i) := by
  unfold State.closeBurst
  repeat' first
    | with_reducible assumption
    | with_reducible apply Keeps.modPat (bit_of hμ (by decide))
    | with_reducible apply State.count_keeps
    | with_reducible apply State.logAppend_keeps (sub_of hμ (by decide))
    | with_reducible apply State.logDrop_keeps (sub_of hμ (by decide))
    | exact KeepsPart.same _ _ fun _ => rfl
    | (with_reducible refine KeepsPart.intro fun x hx => ?_; simp only [Patrol.canonical, Bool.and_eq_true] at hx ⊢; simp [hx] <;> (repeat' split) <;> simp [hx])
    | split
    | (with_reducible refine bit_of hμ ?_; first | decide | (simp (disch := decide) only [window_sel, window_die, window_arkKey, window_arkKey_add, window_keyAt, window_keyAt_add, window_wordAt, window_arkWord, window_drop, window_drop_hi, window_msix]; decide))
    | dsimp only

theorem State.keepBurst_keeps {μ : Nat} (hμ : 0x200000104000 ||| μ = μ) {s₀ s : State} (h : Keeps μ s₀ s) (r : Report) (extra : Nat) (opens : Bool) :
    Keeps μ s₀ (State.keepBurst s r extra opens) := by
  unfold State.keepBurst
  repeat' first
    | with_reducible assumption
    | with_reducible apply Keeps.modPat (bit_of hμ (by decide))
    | with_reducible apply State.closeBurst_keeps (sub_of hμ (by decide))
    | exact KeepsPart.same _ _ fun _ => rfl
    | (with_reducible refine KeepsPart.intro fun x hx => ?_; simp only [Patrol.canonical, Bool.and_eq_true] at hx ⊢; simp [hx] <;> (repeat' split) <;> simp [hx])
    | split
    | dsimp only

theorem State.logReport_keeps {μ : Nat} (hμ : 0x200000104000 ||| μ = μ) {s₀ s : State} (h : Keeps μ s₀ s) (r : Report) :
    Keeps μ s₀ (State.logReport s r) := by
  unfold State.logReport
  repeat' first
    | with_reducible assumption
    | with_reducible apply Keeps.modPat (bit_of hμ (by decide))
    | with_reducible apply State.count_keeps
    | with_reducible apply State.keepBurst_keeps (sub_of hμ (by decide))
    | with_reducible apply State.logAppend_keeps (sub_of hμ (by decide))
    | with_reducible apply State.logDrop_keeps (sub_of hμ (by decide))
    | with_reducible apply State.tally_keeps (sub_of hμ (by decide))
    | with_reducible apply State.window_keeps (sub_of hμ (by decide))
    | exact KeepsPart.same _ _ fun _ => rfl
    | (with_reducible refine KeepsPart.intro fun x hx => ?_; simp only [Patrol.canonical, Bool.and_eq_true] at hx ⊢; simp [hx] <;> (repeat' split) <;> simp [hx])
    | split
    | (with_reducible refine bit_of hμ ?_; first | decide | (simp (disch := decide) only [window_sel, window_die, window_arkKey, window_arkKey_add, window_keyAt, window_keyAt_add, window_wordAt, window_arkWord, window_drop, window_drop_hi, window_msix]; decide))
    | dsimp only

theorem State.report_keeps {μ : Nat} (hμ : 0x200000304000 ||| μ = μ) {s₀ s : State} (h : Keeps μ s₀ s) (unit : Word) (element kind sev detail : Nat) (bib : Word) :
    Keeps μ s₀ (State.report s unit element kind sev detail bib) := by
  unfold State.report
  repeat' first
    | with_reducible assumption
    | with_reducible apply Keeps.draw (bit_of hμ (by decide))
    | with_reducible apply State.logReport_keeps (sub_of hμ (by decide))
    | dsimp only

theorem State.violation_keeps {μ : Nat} (hμ : 0x208000304000 ||| μ = μ) {s₀ s : State} (h : Keeps μ s₀ s) (sub qp index : Nat) (bib : Word) :
    Keeps μ s₀ (State.violation s sub qp index bib) := by
  unfold State.violation
  repeat' first
    | with_reducible assumption
    | with_reducible apply State.count_keeps
    | with_reducible apply State.raise_keeps
    | with_reducible apply State.report_keeps (sub_of hμ (by decide))
    | (with_reducible refine bit_of hμ ?_; first | decide | (simp (disch := decide) only [window_sel, window_die, window_arkKey, window_arkKey_add, window_keyAt, window_keyAt_add, window_wordAt, window_arkWord, window_drop, window_drop_hi, window_msix]; decide))
    | dsimp only

theorem State.undecoded_keeps {μ : Nat} (hμ : 0x208000304000 ||| μ = μ) {s₀ s : State} (h : Keeps μ s₀ s) (off : Nat) :
    Keeps μ s₀ (State.undecoded s off) := by
  unfold State.undecoded
  repeat' first
    | with_reducible assumption
    | with_reducible apply State.violation_keeps (sub_of hμ (by decide))
    | dsimp only

theorem State.modPort_keeps {μ : Nat} (hμ : 0x2000 ||| μ = μ) {s₀ s : State} (h : Keeps μ s₀ s) (p : Nat) (f : Port → Port) :
    Keeps μ s₀ (State.modPort s p f) := by
  unfold State.modPort
  repeat' first
    | with_reducible assumption
    | with_reducible apply Keeps.modLnk (bit_of hμ (by decide))
    | with_reducible apply State.put_keeps
    | exact KeepsPart.same _ _ fun _ => rfl
    | (with_reducible refine KeepsPart.intro fun x hx => ?_; simp only [Links.canonical, Bool.and_eq_true] at hx ⊢; simp [hx])
    | (with_reducible refine bit_of hμ ?_; first | decide | (simp (disch := decide) only [window_sel, window_die, window_arkKey, window_arkKey_add, window_keyAt, window_keyAt_add, window_wordAt, window_arkWord, window_drop, window_drop_hi, window_msix]; decide))
    | dsimp only

theorem State.sendData_keeps {μ : Nat} (hμ : 0x100000502000 ||| μ = μ) {s₀ s : State} (h : Keeps μ s₀ s) (p : Nat) (f : Frame) :
    Keeps μ s₀ (State.sendData s p f) := by
  unfold State.sendData
  repeat' first
    | with_reducible assumption
    | with_reducible apply Keeps.send (bit_of hμ (by decide))
    | with_reducible apply State.count_keeps
    | with_reducible apply State.modPort_keeps (sub_of hμ (by decide))
    | with_reducible apply State.tally_keeps (sub_of hμ (by decide))
    | (with_reducible refine bit_of hμ ?_; first | decide | (simp (disch := decide) only [window_sel, window_die, window_arkKey, window_arkKey_add, window_keyAt, window_keyAt_add, window_wordAt, window_arkWord, window_drop, window_drop_hi, window_msix]; decide))
    | dsimp only

theorem State.pumpList_keeps {μ : Nat} (hμ : 0x100000502000 ||| μ = μ) {s₀ s : State} (h : Keeps μ s₀ s) (p : Nat) (l : List Frame) : Keeps μ s₀ (s.pumpList p l) := by
  induction l generalizing s with
  | nil => exact State.modPort_keeps (sub_of hμ (by decide)) h p _
  | cons f r ih =>
    unfold State.pumpList
    split
    · exact ih (State.sendData_keeps (sub_of hμ (by decide)) h p f)
    · exact State.modPort_keeps (sub_of hμ (by decide)) h p _

theorem State.pump_keeps {μ : Nat} (hμ : 0x100000502000 ||| μ = μ) {s₀ s : State} (h : Keeps μ s₀ s) (p : Nat) :
    Keeps μ s₀ (State.pump s p) := by
  unfold State.pump
  repeat' first
    | with_reducible assumption
    | with_reducible apply State.pumpList_keeps (sub_of hμ (by decide))
    | dsimp only

theorem State.sendMessage_keeps {μ : Nat} (hμ : 0x100000502000 ||| μ = μ) {s₀ s : State} (h : Keeps μ s₀ s) (kind peer : Nat) (body : List Byte) :
    Keeps μ s₀ (State.sendMessage s kind peer body) := by
  unfold State.sendMessage
  repeat' first
    | with_reducible assumption
    | with_reducible apply State.modPort_keeps (sub_of hμ (by decide))
    | with_reducible apply State.pump_keeps (sub_of hμ (by decide))
    | split
    | dsimp only

theorem State.fireVector_keeps {μ : Nat} (hμ : 0x8000500004 ||| μ = μ) {s₀ s : State} (h : Keeps μ s₀ s) (vec : Nat) :
    Keeps μ s₀ (State.fireVector s vec) := by
  unfold State.fireVector
  repeat' first
    | with_reducible assumption
    | with_reducible apply Keeps.modPcie (bit_of hμ (by decide))
    | with_reducible apply Keeps.send (bit_of hμ (by decide))
    | with_reducible apply State.put_keeps
    | with_reducible apply State.tally_keeps (sub_of hμ (by decide))
    | split
    | (with_reducible refine bit_of hμ ?_; first | decide | (simp (disch := decide) only [window_sel, window_die, window_arkKey, window_arkKey_add, window_keyAt, window_keyAt_add, window_wordAt, window_arkWord, window_drop, window_drop_hi, window_msix]; decide))
    | dsimp only

theorem State.countVector_keeps {μ : Nat} (hμ : 0x8000500004 ||| μ = μ) {s₀ s : State} (h : Keeps μ s₀ s) (vec : Nat) :
    Keeps μ s₀ (State.countVector s vec) := by
  unfold State.countVector
  repeat' first
    | with_reducible assumption
    | with_reducible apply Keeps.modPcie (bit_of hμ (by decide))
    | with_reducible apply State.fireVector_keeps (sub_of hμ (by decide))
    | with_reducible apply State.put_keeps
    | split
    | (with_reducible refine bit_of hμ ?_; first | decide | (simp (disch := decide) only [window_sel, window_die, window_arkKey, window_arkKey_add, window_keyAt, window_keyAt_add, window_wordAt, window_arkWord, window_drop, window_drop_hi, window_msix]; decide))
    | dsimp only

theorem State.appendTail_keeps {μ : Nat} (hμ : 0x100000506000 ||| μ = μ) {s₀ s : State} (h : Keeps μ s₀ s) (id : Word) (toks : List Nat) :
    Keeps μ s₀ (State.appendTail s id toks) := by
  unfold State.appendTail
  repeat' first
    | with_reducible assumption
    | with_reducible apply Keeps.modPat (bit_of hμ (by decide))
    | with_reducible apply State.put_keeps
    | with_reducible apply State.sendMessage_keeps (sub_of hμ (by decide))
    | exact KeepsPart.same _ _ fun _ => rfl
    | (with_reducible refine KeepsPart.intro fun x hx => ?_; simp only [Patrol.canonical, Bool.and_eq_true] at hx ⊢; simp [hx] <;> (repeat' split) <;> simp [hx])
    | split
    | (with_reducible refine bit_of hμ ?_; first | decide | (simp (disch := decide) only [window_sel, window_die, window_arkKey, window_arkKey_add, window_keyAt, window_keyAt_add, window_wordAt, window_arkWord, window_drop, window_drop_hi, window_msix]; decide))
    | dsimp only

theorem State.modQp_keeps {μ : Nat} (hμ : 0x8 ||| μ = μ) {s₀ s : State} (h : Keeps μ s₀ s) (q : Nat) (f : Qp → Qp) :
    Keeps μ s₀ (State.modQp s q f) := by
  unfold State.modQp
  repeat' first
    | with_reducible assumption
    | with_reducible apply Keeps.putQp (bit_of hμ (by decide))
    | dsimp only

theorem State.ringWrite_keeps {μ : Nat} (hμ : 0x10800050600c ||| μ = μ) {s₀ s : State} (h : Keeps μ s₀ s) (q : Nat) (r : Record) :
    Keeps μ s₀ (State.ringWrite s q r) := by
  unfold State.ringWrite
  repeat' first
    | with_reducible assumption
    | with_reducible apply Keeps.putQp (bit_of hμ (by decide))
    | with_reducible apply Keeps.send (bit_of hμ (by decide))
    | with_reducible apply State.appendTail_keeps (sub_of hμ (by decide))
    | with_reducible apply State.countVector_keeps (sub_of hμ (by decide))
    | with_reducible apply State.put_keeps
    | with_reducible apply State.tally_keeps (sub_of hμ (by decide))
    | split
    | (with_reducible refine bit_of hμ ?_; first | decide | (simp (disch := decide) only [window_sel, window_die, window_arkKey, window_arkKey_add, window_keyAt, window_keyAt_add, window_wordAt, window_arkWord, window_drop, window_drop_hi, window_msix]; decide))
    | dsimp only

theorem State.dropRecord_keeps {μ : Nat} (hμ : 0x208000304008 ||| μ = μ) {s₀ s : State} (h : Keeps μ s₀ s) (q : Nat) (r : Record) :
    Keeps μ s₀ (State.dropRecord s q r) := by
  unfold State.dropRecord
  repeat' first
    | with_reducible assumption
    | with_reducible apply State.count_keeps
    | with_reducible apply State.modQp_keeps (sub_of hμ (by decide))
    | with_reducible apply State.raise_keeps
    | with_reducible apply State.violation_keeps (sub_of hμ (by decide))
    | split
    | (with_reducible refine bit_of hμ ?_; first | decide | (simp (disch := decide) only [window_sel, window_die, window_arkKey, window_arkKey_add, window_keyAt, window_keyAt_add, window_wordAt, window_arkWord, window_drop, window_drop_hi, window_msix]; decide))
    | dsimp only

theorem State.emit_keeps {μ : Nat} (hμ : 0x30800070600c ||| μ = μ) {s₀ s : State} (h : Keeps μ s₀ s) (q : Nat) (r0 : Record) :
    Keeps μ s₀ (State.emit s q r0) := by
  unfold State.emit
  repeat' first
    | with_reducible assumption
    | with_reducible apply State.dropRecord_keeps (sub_of hμ (by decide))
    | with_reducible apply State.modQp_keeps (sub_of hμ (by decide))
    | with_reducible apply State.ringWrite_keeps (sub_of hμ (by decide))
    | split
    | dsimp only

theorem State.drainList_keeps {μ : Nat} (hμ : 0x10800050600c ||| μ = μ) {s₀ s : State} (h : Keeps μ s₀ s) (q : Nat) (l : List Record) : Keeps μ s₀ (s.drainList q l) := by
  induction l generalizing s with
  | nil => exact State.modQp_keeps (sub_of hμ (by decide)) h q _
  | cons f r ih =>
    unfold State.drainList
    split
    · exact ih (State.ringWrite_keeps (sub_of hμ (by decide)) h q f)
    · exact State.modQp_keeps (sub_of hμ (by decide)) h q _

theorem State.drain_keeps {μ : Nat} (hμ : 0x10800050600c ||| μ = μ) {s₀ s : State} (h : Keeps μ s₀ s) (q : Nat) :
    Keeps μ s₀ (State.drain s q) := by
  unfold State.drain
  repeat' first
    | with_reducible assumption
    | with_reducible apply State.drainList_keeps (sub_of hμ (by decide))
    | dsimp only

theorem State.drainAll_keeps {μ : Nat} (hμ : 0x10800050600c ||| μ = μ) {s₀ s : State} (h : Keeps μ s₀ s) :
    Keeps μ s₀ (State.drainAll s) := by
  unfold State.drainAll
  repeat' first
    | with_reducible assumption
    | with_reducible apply State.drain_keeps (sub_of hμ (by decide))
    | with_reducible apply Keeps.foldl
    | intro _ _ _
    | dsimp only

end Sys2Proof.Machine
end

