-- ==== Sys2Proof/Laws/KeepPages.lean ====
section
/-!
SUPPORT. What the operations of Machine/Pages.lean keep (Laws/Keeps.lean).
-/

set_option linter.all false

namespace Sys2Proof.Machine

theorem State.modBib_keeps {μ : Nat} (hμ : 0x10 ||| μ = μ) {s₀ s : State} (h : Keeps μ s₀ s) (i : Nat) (f : Bib → Bib) :
    Keeps μ s₀ (State.modBib s i f) := by
  unfold State.modBib
  repeat' first
    | with_reducible assumption
    | with_reducible apply Keeps.putBib (bit_of hμ (by decide))
    | dsimp only

theorem State.releasePages_keeps {μ : Nat} (hμ : 0x100040 ||| μ = μ) {s₀ s : State} (h : Keeps μ s₀ s) (h : Hub) (lodge : Bool) (pages poisoned : List Nat) :
    Keeps μ s₀ (State.releasePages s h lodge pages poisoned) := by
  unfold State.releasePages
  repeat' first
    | with_reducible assumption
    | with_reducible apply Keeps.modKvm (bit_of hμ (by decide))
    | with_reducible apply State.release_keeps (sub_of hμ (by decide))
    | with_reducible apply State.tally_keeps (sub_of hμ (by decide))
    | exact KeepsPart.same _ _ fun _ => rfl
    | (with_reducible refine KeepsPart.intro fun x hx => ?_; simp only [Kvm.canonical, Bool.and_eq_true] at hx ⊢; simp [hx])
    | dsimp only

theorem State.takePages_keeps {μ : Nat} (hμ : 0x100040 ||| μ = μ) {s₀ s : State} (h : Keeps μ s₀ s) (h : Hub) (lodge : Bool) (pages : List Nat) :
    Keeps μ s₀ (State.takePages s h lodge pages) := by
  unfold State.takePages
  repeat' first
    | with_reducible assumption
    | with_reducible apply Keeps.modKvm (bit_of hμ (by decide))
    | with_reducible apply State.tally_keeps (sub_of hμ (by decide))
    | exact KeepsPart.same _ _ fun _ => rfl
    | (with_reducible refine KeepsPart.intro fun x hx => ?_; simp only [Kvm.canonical, Bool.and_eq_true] at hx ⊢; simp [hx])
    | dsimp only

theorem State.quotaCheck_keeps {μ : Nat} (hμ : 0x10000000000 ||| μ = μ) {s₀ s : State} (h : Keeps μ s₀ s) (t : Nat) :
    Keeps μ s₀ (State.quotaCheck s t) := by
  unfold State.quotaCheck
  repeat' first
    | with_reducible assumption
    | with_reducible apply State.raise_keeps
    | split
    | (with_reducible refine bit_of hμ ?_; first | decide | (simp (disch := decide) only [window_sel, window_die, window_arkKey, window_arkKey_add, window_keyAt, window_keyAt_add, window_wordAt, window_arkWord, window_drop, window_drop_hi, window_msix]; decide))
    | dsimp only

theorem State.poolEmpty_keeps {μ : Nat} (hμ : 0x10000000040 ||| μ = μ) {s₀ s : State} (h : Keeps μ s₀ s) (h : Hub) (lodge : Bool) :
    Keeps μ s₀ (State.poolEmpty s h lodge) := by
  unfold State.poolEmpty
  repeat' first
    | with_reducible assumption
    | with_reducible apply Keeps.modKvm (bit_of hμ (by decide))
    | with_reducible apply State.count_keeps
    | with_reducible apply State.raise_keeps
    | exact KeepsPart.same _ _ fun _ => rfl
    | (with_reducible refine KeepsPart.intro fun x hx => ?_; simp only [Kvm.canonical, Bool.and_eq_true] at hx ⊢; simp [hx] <;> (repeat' split) <;> simp [hx])
    | split
    | (with_reducible refine bit_of hμ ?_; first | decide | (simp (disch := decide) only [window_sel, window_die, window_arkKey, window_arkKey_add, window_keyAt, window_keyAt_add, window_wordAt, window_arkWord, window_drop, window_drop_hi, window_msix]; decide))
    | dsimp only

theorem State.requestHbm_keeps {μ : Nat} (hμ : 0x10000100040 ||| μ = μ) {s₀ : State} {s : State} {h : Hub} {t n lists : Nat} {out : PageAnswer × State} (hk : Keeps μ s₀ s)
    (e : State.requestHbm s h t n lists = out) : Keeps μ s₀ out.2 := by
  subst e
  unfold State.requestHbm
  repeat' first
    | with_reducible assumption
    | with_reducible apply State.count_keeps
    | with_reducible apply State.poolEmpty_keeps (sub_of hμ (by decide))
    | with_reducible apply State.takePages_keeps (sub_of hμ (by decide))
    | split
    | (with_reducible refine bit_of hμ ?_; first | decide | (simp (disch := decide) only [window_sel, window_die, window_arkKey, window_arkKey_add, window_keyAt, window_keyAt_add, window_wordAt, window_arkWord, window_drop, window_drop_hi, window_msix]; decide))
    | dsimp only

theorem State.requestHbm_keeps' {μ : Nat} (hμ : 0x10000100040 ||| μ = μ) {s₀ uu : State} {s : State} {h : Hub} {t n lists : Nat} {xx : PageAnswer} (hk : Keeps μ s₀ s)
    (e : State.requestHbm s h t n lists = (xx, uu)) : Keeps μ s₀ uu := by
  have r := State.requestHbm_keeps hμ hk e
  exact r

theorem State.requestLodge_keeps {μ : Nat} (hμ : 0x10000100040 ||| μ = μ) {s₀ : State} {s : State} {h : Hub} {n : Nat} {out : PageAnswer × State} (hk : Keeps μ s₀ s)
    (e : State.requestLodge s h n = out) : Keeps μ s₀ out.2 := by
  subst e
  unfold State.requestLodge
  repeat' first
    | with_reducible assumption
    | with_reducible apply State.poolEmpty_keeps (sub_of hμ (by decide))
    | with_reducible apply State.takePages_keeps (sub_of hμ (by decide))
    | split
    | dsimp only

theorem State.requestLodge_keeps' {μ : Nat} (hμ : 0x10000100040 ||| μ = μ) {s₀ uu : State} {s : State} {h : Hub} {n : Nat} {xx : PageAnswer} (hk : Keeps μ s₀ s)
    (e : State.requestLodge s h n = (xx, uu)) : Keeps μ s₀ uu := by
  have r := State.requestLodge_keeps hμ hk e
  exact r

theorem State.growTo_keeps {μ : Nat} (hμ : 0x10000100050 ||| μ = μ) {s₀ : State} {s : State} {i n : Nat} {out : PageAnswer × State} (hk : Keeps μ s₀ s)
    (e : State.growTo s i n = out) : Keeps μ s₀ out.2 := by
  subst e
  unfold State.growTo
  repeat' first
    | with_reducible assumption
    | with_reducible apply State.modBib_keeps (sub_of hμ (by decide))
    | with_reducible refine State.requestHbm_keeps' (sub_of hμ (by decide)) ?_ (by assumption)
    | with_reducible refine State.requestHbm_keeps (sub_of hμ (by decide)) ?_ rfl
    | split
    | dsimp only

theorem State.growTo_keeps' {μ : Nat} (hμ : 0x10000100050 ||| μ = μ) {s₀ uu : State} {s : State} {i n : Nat} {xx : PageAnswer} (hk : Keeps μ s₀ s)
    (e : State.growTo s i n = (xx, uu)) : Keeps μ s₀ uu := by
  have r := State.growTo_keeps hμ hk e
  exact r

theorem State.freeBlock_keeps {μ : Nat} (hμ : 0x100040 ||| μ = μ) {s₀ s : State} (h : Keeps μ s₀ s) (h : Hub) (k : Block) :
    Keeps μ s₀ (State.freeBlock s h k) := by
  unfold State.freeBlock
  repeat' first
    | with_reducible assumption
    | with_reducible apply State.releasePages_keeps (sub_of hμ (by decide))
    | split
    | dsimp only

theorem State.trimLists_keeps {μ : Nat} (hμ : 0x100050 ||| μ = μ) {s₀ s : State} (h : Keeps μ s₀ s) (i : Nat) :
    Keeps μ s₀ (State.trimLists s i) := by
  unfold State.trimLists
  repeat' first
    | with_reducible assumption
    | with_reducible apply State.modBib_keeps (sub_of hμ (by decide))
    | with_reducible apply State.releasePages_keeps (sub_of hμ (by decide))
    | dsimp only

theorem State.unmapEmpty_keeps {μ : Nat} (hμ : 0x100050 ||| μ = μ) {s₀ s : State} (h : Keeps μ s₀ s) (i : Nat) :
    Keeps μ s₀ (State.unmapEmpty s i) := by
  unfold State.unmapEmpty
  repeat' first
    | with_reducible assumption
    | with_reducible apply State.freeBlock_keeps (sub_of hμ (by decide))
    | with_reducible apply State.modBib_keeps (sub_of hμ (by decide))
    | with_reducible apply State.trimLists_keeps (sub_of hμ (by decide))
    | with_reducible apply Keeps.foldl
    | intro _ _ _
    | dsimp only

theorem State.freeKv_keeps {μ : Nat} (hμ : 0x100050 ||| μ = μ) {s₀ s : State} (h : Keeps μ s₀ s) (i : Nat) :
    Keeps μ s₀ (State.freeKv s i) := by
  unfold State.freeKv
  repeat' first
    | with_reducible assumption
    | with_reducible apply State.freeBlock_keeps (sub_of hμ (by decide))
    | with_reducible apply State.modBib_keeps (sub_of hμ (by decide))
    | with_reducible apply State.releasePages_keeps (sub_of hμ (by decide))
    | with_reducible apply Keeps.foldl
    | intro _ _ _
    | dsimp only

end Sys2Proof.Machine
end

