-- ==== Sys2Proof/Laws/KeepBibs.lean ====
section
/-!
SUPPORT. What the operations of Machine/Bibs.lean keep (Laws/Keeps.lean).
-/

set_option linter.all false

namespace Sys2Proof.Machine

theorem State.emitFor_keeps {μ : Nat} (hμ : 0x30800070600c ||| μ = μ) {s₀ s : State} (h : Keeps μ s₀ s) (i : Nat) (r : Record) :
    Keeps μ s₀ (State.emitFor s i r) := by
  unfold State.emitFor
  repeat' first
    | with_reducible assumption
    | with_reducible apply State.emit_keeps (sub_of hμ (by decide))
    | split
    | dsimp only

theorem State.tokenRecord_keeps {μ : Nat} (hμ : 0x30800070601c ||| μ = μ) {s₀ s : State} (h : Keeps μ s₀ s) (i : Nat) (vals : List (Nat × BitVec 16)) :
    Keeps μ s₀ (State.tokenRecord s i vals) := by
  unfold State.tokenRecord
  repeat' first
    | with_reducible assumption
    | with_reducible apply State.emitFor_keeps (sub_of hμ (by decide))
    | with_reducible apply State.modBib_keeps (sub_of hμ (by decide))
    | with_reducible apply State.modQp_keeps (sub_of hμ (by decide))
    | split
    | dsimp only

theorem State.flushTokens_keeps {μ : Nat} (hμ : 0x30800070601c ||| μ = μ) {s₀ s : State} (h : Keeps μ s₀ s) (i : Nat) :
    Keeps μ s₀ (State.flushTokens s i) := by
  unfold State.flushTokens
  repeat' first
    | with_reducible assumption
    | with_reducible apply State.tokenRecord_keeps (sub_of hμ (by decide))
    | dsimp only

theorem State.eventRecord_keeps {μ : Nat} (hμ : 0x30800070600c ||| μ = μ) {s₀ s : State} (h : Keeps μ s₀ s) (i : Nat) (cid : BitVec 16) (status : Byte) (final : Bool) (result0 : Nat) :
    Keeps μ s₀ (State.eventRecord s i cid status final result0) := by
  unfold State.eventRecord
  repeat' first
    | with_reducible assumption
    | with_reducible apply State.emitFor_keeps (sub_of hμ (by decide))
    | dsimp only

theorem State.transition_keeps {μ : Nat} (hμ : 0x100090 ||| μ = μ) {s₀ s : State} (h : Keeps μ s₀ s) (i : Nat) (st : BibState) (c : Cause) :
    Keeps μ s₀ (State.transition s i st c) := by
  unfold State.transition
  repeat' first
    | with_reducible assumption
    | with_reducible apply Keeps.modPlan (bit_of hμ (by decide))
    | with_reducible apply State.modBib_keeps (sub_of hμ (by decide))
    | with_reducible apply State.tally_keeps (sub_of hμ (by decide))
    | split
    | dsimp only

theorem State.putPfx_keeps {μ : Nat} (hμ : 0x40 ||| μ = μ) {s₀ s : State} (h : Keeps μ s₀ s) (p : Nat) (x : Prefix) :
    Keeps μ s₀ (State.putPfx s p x) := by
  unfold State.putPfx
  repeat' first
    | with_reducible assumption
    | with_reducible apply Keeps.modKvm (bit_of hμ (by decide))
    | with_reducible apply State.put_keeps
    | exact KeepsPart.same _ _ fun _ => rfl
    | (with_reducible refine KeepsPart.intro fun x hx => ?_; simp only [Kvm.canonical, Bool.and_eq_true] at hx ⊢; simp [hx])
    | (with_reducible refine bit_of hμ ?_; first | decide | (simp (disch := decide) only [window_sel, window_die, window_arkKey, window_arkKey_add, window_keyAt, window_keyAt_add, window_wordAt, window_arkWord, window_drop, window_drop_hi, window_msix]; decide))
    | dsimp only

theorem State.putWax_keeps {μ : Nat} (hμ : 0x800 ||| μ = μ) {s₀ s : State} (h : Keeps μ s₀ s) (w : Nat) (x : Wax) :
    Keeps μ s₀ (State.putWax s w x) := by
  unfold State.putWax
  repeat' first
    | with_reducible assumption
    | with_reducible apply Keeps.setWax (bit_of hμ (by decide))
    | with_reducible apply State.put_keeps
    | (with_reducible refine WfImp.intro fun hx => ?_; first | (simp [hx]; done) | (simp at hx; simp [hx]))
    | split
    | (with_reducible refine bit_of hμ ?_; first | decide | (simp (disch := decide) only [window_sel, window_die, window_arkKey, window_arkKey_add, window_keyAt, window_keyAt_add, window_wordAt, window_arkWord, window_drop, window_drop_hi, window_msix]; decide))
    | dsimp only

theorem State.waxSettle_keeps {μ : Nat} (hμ : 0x800 ||| μ = μ) {s₀ s : State} (h : Keeps μ s₀ s) (w : Nat) :
    Keeps μ s₀ (State.waxSettle s w) := by
  unfold State.waxSettle
  repeat' first
    | with_reducible assumption
    | with_reducible apply State.putWax_keeps (sub_of hμ (by decide))
    | split
    | dsimp only

theorem State.dropWax_keeps {μ : Nat} (hμ : 0x800 ||| μ = μ) {s₀ s : State} (h : Keeps μ s₀ s) (w : Option Nat) :
    Keeps μ s₀ (State.dropWax s w) := by
  unfold State.dropWax
  repeat' first
    | with_reducible assumption
    | with_reducible apply State.putWax_keeps (sub_of hμ (by decide))
    | with_reducible apply State.waxSettle_keeps (sub_of hμ (by decide))
    | split
    | dsimp only

theorem State.takeWax_keeps {μ : Nat} (hμ : 0x800 ||| μ = μ) {s₀ s : State} (h : Keeps μ s₀ s) (w : Option Nat) :
    Keeps μ s₀ (State.takeWax s w) := by
  unfold State.takeWax
  repeat' first
    | with_reducible assumption
    | with_reducible apply State.putWax_keeps (sub_of hμ (by decide))
    | split
    | dsimp only

theorem State.pfxSettle_keeps {μ : Nat} (hμ : 0x100840 ||| μ = μ) {s₀ s : State} (h : Keeps μ s₀ s) (p : Nat) :
    Keeps μ s₀ (State.pfxSettle s p) := by
  unfold State.pfxSettle
  repeat' first
    | with_reducible assumption
    | with_reducible apply Keeps.modKvm (bit_of hμ (by decide))
    | with_reducible apply State.dropWax_keeps (sub_of hμ (by decide))
    | with_reducible apply State.putPfx_keeps (sub_of hμ (by decide))
    | with_reducible apply State.releasePages_keeps (sub_of hμ (by decide))
    | with_reducible apply Keeps.foldl
    | exact KeepsPart.same _ _ fun _ => rfl
    | (with_reducible refine KeepsPart.intro fun x hx => ?_; simp only [Kvm.canonical, Bool.and_eq_true] at hx ⊢; simp [hx] <;> (repeat' split) <;> simp [hx])
    | split
    | intro _ _ _
    | dsimp only

theorem State.dropPrefix_keeps {μ : Nat} (hμ : 0x100840 ||| μ = μ) {s₀ s : State} (h : Keeps μ s₀ s) (h : Nat) :
    Keeps μ s₀ (State.dropPrefix s h) := by
  unfold State.dropPrefix
  repeat' first
    | with_reducible assumption
    | with_reducible apply State.pfxSettle_keeps (sub_of hμ (by decide))
    | with_reducible apply State.putPfx_keeps (sub_of hμ (by decide))
    | split
    | dsimp only

theorem State.dropMirror_keeps {μ : Nat} (hμ : 0x100000502010 ||| μ = μ) {s₀ s : State} (h : Keeps μ s₀ s) (i : Nat) :
    Keeps μ s₀ (State.dropMirror s i) := by
  unfold State.dropMirror
  repeat' first
    | with_reducible assumption
    | with_reducible apply State.modBib_keeps (sub_of hμ (by decide))
    | with_reducible apply State.sendMessage_keeps (sub_of hμ (by decide))
    | split
    | dsimp only

theorem State.forgetVectors_keeps {μ : Nat} (hμ : 0x40 ||| μ = μ) {s₀ s : State} (h : Keeps μ s₀ s) (o : Nat) :
    Keeps μ s₀ (State.forgetVectors s o) := by
  unfold State.forgetVectors
  repeat' first
    | with_reducible assumption
    | with_reducible apply Keeps.modKvm (bit_of hμ (by decide))
    | exact KeepsPart.same _ _ fun _ => rfl
    | (with_reducible refine KeepsPart.intro fun x hx => ?_; simp only [Kvm.canonical, Bool.and_eq_true] at hx ⊢; simp [hx])
    | dsimp only

theorem State.freeCkpt_keeps {μ : Nat} (hμ : 0x100000506050 ||| μ = μ) {s₀ s : State} (h : Keeps μ s₀ s) (i : Nat) :
    Keeps μ s₀ (State.freeCkpt s i) := by
  unfold State.freeCkpt
  repeat' first
    | with_reducible assumption
    | with_reducible apply Keeps.modPat (bit_of hμ (by decide))
    | with_reducible apply State.dropMirror_keeps (sub_of hμ (by decide))
    | with_reducible apply State.forgetVectors_keeps (sub_of hμ (by decide))
    | with_reducible apply State.releasePages_keeps (sub_of hμ (by decide))
    | exact KeepsPart.same _ _ fun _ => rfl
    | (with_reducible refine KeepsPart.intro fun x hx => ?_; simp only [Patrol.canonical, Bool.and_eq_true] at hx ⊢; simp [hx] <;> (repeat' split) <;> simp [hx])
    | split
    | dsimp only

theorem State.release_keeps {μ : Nat} (hμ : 0x100850 ||| μ = μ) {s₀ s : State} (h : Keeps μ s₀ s) (i : Nat) :
    Keeps μ s₀ (State.release s i) := by
  unfold State.release
  repeat' first
    | with_reducible assumption
    | with_reducible apply State.dropPrefix_keeps (sub_of hμ (by decide))
    | with_reducible apply State.dropWax_keeps (sub_of hμ (by decide))
    | with_reducible apply State.forgetVectors_keeps (sub_of hμ (by decide))
    | with_reducible apply State.freeKv_keeps (sub_of hμ (by decide))
    | with_reducible apply State.modBib_keeps (sub_of hμ (by decide))
    | dsimp only

theorem State.enterClosing_keeps {μ : Nat} (hμ : 0x3080007068dc ||| μ = μ) {s₀ s : State} (h : Keeps μ s₀ s) (i : Nat) (c : Cause) (cid : Option (BitVec 16)) :
    Keeps μ s₀ (State.enterClosing s i c cid) := by
  unfold State.enterClosing
  repeat' first
    | with_reducible assumption
    | with_reducible apply State.eventRecord_keeps (sub_of hμ (by decide))
    | with_reducible apply State.flushTokens_keeps (sub_of hμ (by decide))
    | with_reducible apply State.freeCkpt_keeps (sub_of hμ (by decide))
    | with_reducible apply State.modBib_keeps (sub_of hμ (by decide))
    | with_reducible apply State.release_keeps (sub_of hμ (by decide))
    | with_reducible apply State.transition_keeps (sub_of hμ (by decide))
    | split
    | dsimp only

theorem State.enterFree_keeps {μ : Nat} (hμ : 0x100000506070 ||| μ = μ) {s₀ s : State} (h : Keeps μ s₀ s) (i : Nat) :
    Keeps μ s₀ (State.enterFree s i) := by
  unfold State.enterFree
  repeat' first
    | with_reducible assumption
    | with_reducible apply Keeps.modFree (bit_of hμ (by decide))
    | with_reducible apply Keeps.putBib (bit_of hμ (by decide))
    | with_reducible apply State.freeCkpt_keeps (sub_of hμ (by decide))
    | with_reducible apply State.tally_keeps (sub_of hμ (by decide))
    | dsimp only

theorem State.finalRecord_keeps {μ : Nat} (hμ : 0x30800070600c ||| μ = μ) {s₀ s : State} (h : Keeps μ s₀ s) (i : Nat) (c : Cause) (status : Byte) :
    Keeps μ s₀ (State.finalRecord s i c status) := by
  unfold State.finalRecord
  repeat' first
    | with_reducible assumption
    | with_reducible apply State.emitFor_keeps (sub_of hμ (by decide))
    | dsimp only

theorem State.enterFaulted_keeps {μ : Nat} (hμ : 0x30c0007068dc ||| μ = μ) {s₀ s : State} (h : Keeps μ s₀ s) (i : Nat) (c : Cause) (result0 : Nat) :
    Keeps μ s₀ (State.enterFaulted s i c result0) := by
  unfold State.enterFaulted
  repeat' first
    | with_reducible assumption
    | with_reducible apply State.eventRecord_keeps (sub_of hμ (by decide))
    | with_reducible apply State.flushTokens_keeps (sub_of hμ (by decide))
    | with_reducible apply State.modBib_keeps (sub_of hμ (by decide))
    | with_reducible apply State.raise_keeps
    | with_reducible apply State.release_keeps (sub_of hμ (by decide))
    | with_reducible apply State.transition_keeps (sub_of hμ (by decide))
    | split
    | (with_reducible refine bit_of hμ ?_; first | decide | (simp (disch := decide) only [window_sel, window_die, window_arkKey, window_arkKey_add, window_keyAt, window_keyAt_add, window_wordAt, window_arkWord, window_drop, window_drop_hi, window_msix]; decide))
    | dsimp only

theorem State.dropRestore_keeps {μ : Nat} (hμ : 0x100050 ||| μ = μ) {s₀ s : State} (h : Keeps μ s₀ s) (i : Nat) :
    Keeps μ s₀ (State.dropRestore s i) := by
  unfold State.dropRestore
  repeat' first
    | with_reducible assumption
    | with_reducible apply State.modBib_keeps (sub_of hμ (by decide))
    | with_reducible apply State.releasePages_keeps (sub_of hμ (by decide))
    | dsimp only

theorem State.parkKv_keeps {μ : Nat} (hμ : 0x100050 ||| μ = μ) {s₀ s : State} (h : Keeps μ s₀ s) (i : Nat) (forPause : Bool) :
    Keeps μ s₀ (State.parkKv s i forPause) := by
  unfold State.parkKv
  repeat' first
    | with_reducible assumption
    | with_reducible apply State.dropRestore_keeps (sub_of hμ (by decide))
    | with_reducible apply State.modBib_keeps (sub_of hμ (by decide))
    | with_reducible apply State.unmapEmpty_keeps (sub_of hμ (by decide))
    | split
    | dsimp only

theorem State.enterPaused_keeps {μ : Nat} (hμ : 0x3080007060dc ||| μ = μ) {s₀ s : State} (h : Keeps μ s₀ s) (i : Nat) (cid : Option (BitVec 16)) :
    Keeps μ s₀ (State.enterPaused s i cid) := by
  unfold State.enterPaused
  repeat' first
    | with_reducible assumption
    | with_reducible apply State.eventRecord_keeps (sub_of hμ (by decide))
    | with_reducible apply State.flushTokens_keeps (sub_of hμ (by decide))
    | with_reducible apply State.modBib_keeps (sub_of hμ (by decide))
    | with_reducible apply State.parkKv_keeps (sub_of hμ (by decide))
    | with_reducible apply State.transition_keeps (sub_of hμ (by decide))
    | split
    | dsimp only

theorem State.enterLodged_keeps {μ : Nat} (hμ : 0x3080007060dc ||| μ = μ) {s₀ s : State} (h : Keeps μ s₀ s) (i : Nat) (c : Cause) :
    Keeps μ s₀ (State.enterLodged s i c) := by
  unfold State.enterLodged
  repeat' first
    | with_reducible assumption
    | with_reducible apply State.eventRecord_keeps (sub_of hμ (by decide))
    | with_reducible apply State.flushTokens_keeps (sub_of hμ (by decide))
    | with_reducible apply State.modBib_keeps (sub_of hμ (by decide))
    | with_reducible apply State.parkKv_keeps (sub_of hμ (by decide))
    | with_reducible apply State.transition_keeps (sub_of hμ (by decide))
    | dsimp only

theorem State.applyPend_keeps {μ : Nat} (hμ : 0x3080007068dc ||| μ = μ) {s₀ s : State} (h : Keeps μ s₀ s) (i : Nat) :
    Keeps μ s₀ (State.applyPend s i) := by
  unfold State.applyPend
  repeat' first
    | with_reducible assumption
    | with_reducible apply State.enterClosing_keeps (sub_of hμ (by decide))
    | with_reducible apply State.enterPaused_keeps (sub_of hμ (by decide))
    | with_reducible apply State.eventRecord_keeps (sub_of hμ (by decide))
    | with_reducible apply State.flushTokens_keeps (sub_of hμ (by decide))
    | with_reducible apply State.modBib_keeps (sub_of hμ (by decide))
    | with_reducible apply State.transition_keeps (sub_of hμ (by decide))
    | split
    | dsimp only

theorem State.requestRestore_keeps {μ : Nat} (hμ : 0x10000100050 ||| μ = μ) {s₀ s : State} (h : Keeps μ s₀ s) (i : Nat) :
    Keeps μ s₀ (State.requestRestore s i) := by
  unfold State.requestRestore
  repeat' first
    | with_reducible assumption
    | with_reducible apply State.modBib_keeps (sub_of hμ (by decide))
    | with_reducible refine State.requestHbm_keeps' (sub_of hμ (by decide)) ?_ (by assumption)
    | with_reducible refine State.requestHbm_keeps (sub_of hμ (by decide)) ?_ rfl
    | split
    | dsimp only

theorem State.countStates_keeps {μ : Nat} (hμ : 0x4000000000 ||| μ = μ) {s₀ s : State} (h : Keeps μ s₀ s) (n : Nat) :
    Keeps μ s₀ (State.countStates s n) := by
  unfold State.countStates
  repeat' first
    | with_reducible assumption
    | with_reducible apply Keeps.wr
    | with_reducible apply State.put_keeps
    | with_reducible apply Keeps.foldl
    | intro _ _ _
    | (with_reducible refine bit_of hμ ?_; first | decide | (simp (disch := decide) only [window_sel, window_die, window_arkKey, window_arkKey_add, window_keyAt, window_keyAt_add, window_wordAt, window_arkWord, window_drop, window_drop_hi, window_msix]; decide))
    | dsimp only

end Sys2Proof.Machine
end

