-- ==== Sys2Proof/Laws/KeepQueuePairs.lean ====
section
/-!
SUPPORT. What the operations of Machine/QueuePairs.lean keep (Laws/Keeps.lean).
-/

set_option linter.all false

namespace Sys2Proof.Machine

theorem State.writeSqTail_keeps {μ : Nat} (hμ : 0x208000304008 ||| μ = μ) {s₀ s : State} (h : Keeps μ s₀ s) (q v : Nat) :
    Keeps μ s₀ (State.writeSqTail s q v) := by
  unfold State.writeSqTail
  repeat' first
    | with_reducible assumption
    | with_reducible apply State.modQp_keeps (sub_of hμ (by decide))
    | with_reducible apply State.violation_keeps (sub_of hμ (by decide))
    | split
    | dsimp only

theorem State.writeCqHead_keeps {μ : Nat} (hμ : 0x30800070600c ||| μ = μ) {s₀ s : State} (h : Keeps μ s₀ s) (q h : Nat) :
    Keeps μ s₀ (State.writeCqHead s q h) := by
  unfold State.writeCqHead
  repeat' first
    | with_reducible assumption
    | with_reducible apply State.drain_keeps (sub_of hμ (by decide))
    | with_reducible apply State.modQp_keeps (sub_of hμ (by decide))
    | with_reducible apply State.violation_keeps (sub_of hμ (by decide))
    | split
    | dsimp only

theorem State.doorbell_keeps {μ : Nat} (hμ : 0x30800070600c ||| μ = μ) {s₀ s : State} (h : Keeps μ s₀ s) (q off nbytes : Nat) (v : Word) :
    Keeps μ s₀ (State.doorbell s q off nbytes v) := by
  unfold State.doorbell
  repeat' first
    | with_reducible assumption
    | with_reducible apply State.violation_keeps (sub_of hμ (by decide))
    | with_reducible apply State.writeCqHead_keeps (sub_of hμ (by decide))
    | with_reducible apply State.writeSqTail_keeps (sub_of hμ (by decide))
    | split
    | dsimp only

theorem execSqTail_keeps (q : Fin 16384) (off : BitVec 12) (nbytes : Fin 9) (v : Word) (s : State) :
    KeepsOut 0x30800070600c s (execSqTail q off nbytes v s) := by
  have hμ : 0x30800070600c ||| 0x30800070600c = 0x30800070600c := by decide
  unfold execSqTail
  repeat' first
    | with_reducible apply KeepsOut.next
    | with_reducible exact Keeps.refl _
    | with_reducible assumption
    | with_reducible apply State.doorbell_keeps (sub_of hμ (by decide))
    | dsimp only

theorem execCqHead_keeps (q : Fin 16384) (off : BitVec 12) (nbytes : Fin 9) (v : Word) (s : State) :
    KeepsOut 0x30800070600c s (execCqHead q off nbytes v s) := by
  have hμ : 0x30800070600c ||| 0x30800070600c = 0x30800070600c := by decide
  unfold execCqHead
  repeat' first
    | with_reducible apply KeepsOut.next
    | with_reducible exact Keeps.refl _
    | with_reducible assumption
    | with_reducible apply State.doorbell_keeps (sub_of hμ (by decide))
    | dsimp only

theorem State.startQp_keeps {μ : Nat} (hμ : 0x10800050600c ||| μ = μ) {s₀ s : State} (h : Keeps μ s₀ s) (q : Nat) :
    Keeps μ s₀ (State.startQp s q) := by
  unfold State.startQp
  repeat' first
    | with_reducible assumption
    | with_reducible apply State.drain_keeps (sub_of hμ (by decide))
    | with_reducible apply State.fence_keeps (sub_of hμ (by decide))
    | with_reducible apply State.modQp_keeps (sub_of hμ (by decide))
    | with_reducible apply State.put_keeps
    | (with_reducible refine bit_of hμ ?_; first | decide | (simp (disch := decide) only [window_sel, window_die, window_arkKey, window_arkKey_add, window_keyAt, window_keyAt_add, window_wordAt, window_arkWord, window_drop, window_drop_hi, window_msix]; decide))
    | dsimp only

theorem State.stopQp_keeps {μ : Nat} (hμ : 0x8000000000 ||| μ = μ) {s₀ s : State} (h : Keeps μ s₀ s) (q : Nat) :
    Keeps μ s₀ (State.stopQp s q) := by
  unfold State.stopQp
  repeat' first
    | with_reducible assumption
    | with_reducible apply State.put_keeps
    | (with_reducible refine bit_of hμ ?_; first | decide | (simp (disch := decide) only [window_sel, window_die, window_arkKey, window_arkKey_add, window_keyAt, window_keyAt_add, window_wordAt, window_arkWord, window_drop, window_drop_hi, window_msix]; decide))
    | dsimp only

theorem State.writeQpCfg_keeps {μ : Nat} (hμ : 0x30800070600c ||| μ = μ) {s₀ s : State} (h : Keeps μ s₀ s) (v : Word) :
    Keeps μ s₀ (State.writeQpCfg s v) := by
  unfold State.writeQpCfg
  repeat' first
    | with_reducible assumption
    | with_reducible apply Keeps.wr
    | with_reducible apply State.raise_keeps
    | with_reducible apply State.startQp_keeps (sub_of hμ (by decide))
    | with_reducible apply State.stopQp_keeps (sub_of hμ (by decide))
    | with_reducible apply State.violation_keeps (sub_of hμ (by decide))
    | split
    | (with_reducible refine bit_of hμ ?_; first | decide | (simp (disch := decide) only [window_sel, window_die, window_arkKey, window_arkKey_add, window_keyAt, window_keyAt_add, window_wordAt, window_arkWord, window_drop, window_drop_hi, window_msix]; decide))
    | dsimp only

theorem execQpEnable_keeps (v : Word) (s : State) :
    KeepsOut 0x30800070600c s (execQpEnable v s) := by
  have hμ : 0x30800070600c ||| 0x30800070600c = 0x30800070600c := by decide
  unfold execQpEnable
  repeat' first
    | with_reducible apply KeepsOut.next
    | with_reducible exact Keeps.refl _
    | with_reducible assumption
    | with_reducible apply State.undecoded_keeps (sub_of hμ (by decide))
    | with_reducible apply State.writeQpCfg_keeps (sub_of hμ (by decide))
    | split
    | dsimp only

theorem execQpDisable_keeps (v : Word) (s : State) :
    KeepsOut 0x30800070600c s (execQpDisable v s) := by
  have hμ : 0x30800070600c ||| 0x30800070600c = 0x30800070600c := by decide
  unfold execQpDisable
  repeat' first
    | with_reducible apply KeepsOut.next
    | with_reducible exact Keeps.refl _
    | with_reducible assumption
    | with_reducible apply State.undecoded_keeps (sub_of hμ (by decide))
    | with_reducible apply State.writeQpCfg_keeps (sub_of hμ (by decide))
    | split
    | dsimp only

theorem State.takeDesc_keeps {μ : Nat} (hμ : 0x8000000008 ||| μ = μ) {s₀ s : State} (h : Keeps μ s₀ s) (q : Nat) :
    Keeps μ s₀ (State.takeDesc s q) := by
  unfold State.takeDesc
  repeat' first
    | with_reducible assumption
    | with_reducible apply State.count_keeps
    | with_reducible apply State.modQp_keeps (sub_of hμ (by decide))
    | with_reducible apply State.put_keeps
    | (with_reducible refine bit_of hμ ?_; first | decide | (simp (disch := decide) only [window_sel, window_die, window_arkKey, window_arkKey_add, window_keyAt, window_keyAt_add, window_wordAt, window_arkWord, window_drop, window_drop_hi, window_msix]; decide))
    | dsimp only

theorem State.refuse_keeps {μ : Nat} (hμ : 0x30800070600c ||| μ = μ) {s₀ s : State} (h : Keeps μ s₀ s) (q : Nat) (d : Desc) (bib : Word) (n : Nack) :
    Keeps μ s₀ (State.refuse s q d bib n) := by
  unfold State.refuse
  repeat' first
    | with_reducible assumption
    | with_reducible apply State.count_keeps
    | with_reducible apply State.emit_keeps (sub_of hμ (by decide))
    | with_reducible apply State.modQp_keeps (sub_of hμ (by decide))
    | with_reducible apply State.takeDesc_keeps (sub_of hμ (by decide))
    | with_reducible apply State.violation_keeps (sub_of hμ (by decide))
    | split
    | (with_reducible refine bit_of hμ ?_; first | decide | (simp (disch := decide) only [window_sel, window_die, window_arkKey, window_arkKey_add, window_keyAt, window_keyAt_add, window_wordAt, window_arkWord, window_drop, window_drop_hi, window_msix]; decide))
    | dsimp only

theorem State.command_keeps {μ : Nat} (hμ : 0x30800070600c ||| μ = μ) {s₀ s : State} (h : Keeps μ s₀ s) (q op : Nat) (d : Desc) (bib : Word) (check : Option Nack)
    (accept : State → State) (ha : ∀ u, Keeps μ s₀ u → Keeps μ s₀ (accept u)) :
    Keeps μ s₀ (s.command q op d bib check accept) := by
  unfold State.command
  repeat' split
  · exact h
  · exact State.refuse_keeps (sub_of hμ (by decide)) h _ _ _ _
  · exact h
  · exact State.refuse_keeps (sub_of hμ (by decide)) h _ _ _ _
  · exact ha _ (State.tally_keeps (sub_of hμ (by decide)) (State.takeDesc_keeps (sub_of hμ (by decide)) h _) _ _ _ _)

theorem State.countStale_keeps {μ : Nat} (hμ : 0x4000100000 ||| μ = μ) {s₀ s : State} (h : Keeps μ s₀ s) (n : Option Nack) :
    Keeps μ s₀ (State.countStale s n) := by
  unfold State.countStale
  repeat' first
    | with_reducible assumption
    | with_reducible apply State.count_keeps
    | with_reducible apply State.tally_keeps (sub_of hμ (by decide))
    | split
    | (with_reducible refine bit_of hμ ?_; first | decide | (simp (disch := decide) only [window_sel, window_die, window_arkKey, window_arkKey_add, window_keyAt, window_keyAt_add, window_wordAt, window_arkWord, window_drop, window_drop_hi, window_msix]; decide))
    | dsimp only

theorem State.bibCommand_keeps {μ : Nat} (hμ : 0x30c00070600c ||| μ = μ) {s₀ s : State} (h : Keeps μ s₀ s) (q op : Nat) (d : Desc) (own : Bib → Option Nack)
    (accept : State → State) (ha : ∀ u, Keeps μ s₀ u → Keeps μ s₀ (accept u)) :
    Keeps μ s₀ (s.bibCommand q op d own accept) := by
  unfold State.bibCommand
  dsimp only
  split
  · exact State.countStale_keeps (sub_of hμ (by decide)) (State.command_keeps (sub_of hμ (by decide)) h _ _ _ _ _ _ ha) _
  · exact State.command_keeps (sub_of hμ (by decide)) h _ _ _ _ _ _ ha

theorem State.cmdRecord_keeps {μ : Nat} (hμ : 0x30800070600c ||| μ = μ) {s₀ s : State} (h : Keeps μ s₀ s) (q : Nat) (d : Desc) (id : Word) (state cause count : Nat) (final : Bool) :
    Keeps μ s₀ (State.cmdRecord s q d id state cause count final) := by
  unfold State.cmdRecord
  repeat' first
    | with_reducible assumption
    | with_reducible apply State.count_keeps
    | with_reducible apply State.emit_keeps (sub_of hμ (by decide))
    | (with_reducible refine bit_of hμ ?_; first | decide | (simp (disch := decide) only [window_sel, window_die, window_arkKey, window_arkKey_add, window_keyAt, window_keyAt_add, window_wordAt, window_arkWord, window_drop, window_drop_hi, window_msix]; decide))
    | dsimp only

theorem State.openAccept_keeps {μ : Nat} (hμ : 0x30800070687c ||| μ = μ) {s₀ s : State} (h : Keeps μ s₀ s) (q : Nat) (d : Desc) (toks : List Word) :
    Keeps μ s₀ (State.openAccept s q d toks) := by
  unfold State.openAccept
  repeat' first
    | with_reducible assumption
    | with_reducible apply Keeps.draw (bit_of hμ (by decide))
    | with_reducible apply Keeps.modFree (bit_of hμ (by decide))
    | with_reducible apply Keeps.putBib (bit_of hμ (by decide))
    | with_reducible apply State.emit_keeps (sub_of hμ (by decide))
    | with_reducible apply State.putPfx_keeps (sub_of hμ (by decide))
    | with_reducible apply State.takeWax_keeps (sub_of hμ (by decide))
    | with_reducible apply State.tally_keeps (sub_of hμ (by decide))
    | split
    | dsimp only

theorem execOpen_keeps (q : Fin 16384) (d : Desc) (prompt : Option (List Word)) (s : State) :
    KeepsOut 0x30c00070687c s (execOpen q d prompt s) := by
  have hμ : 0x30c00070687c ||| 0x30c00070687c = 0x30c00070687c := by decide
  unfold execOpen
  repeat' first
    | with_reducible apply KeepsOut.next
    | with_reducible exact Keeps.refl _
    | with_reducible assumption
    | with_reducible apply State.command_keeps (sub_of hμ (by decide))
    | with_reducible apply State.count_keeps
    | with_reducible apply State.openAccept_keeps (sub_of hμ (by decide))
    | with_reducible apply State.raise_keeps
    | split
    | intro _ _
    | (with_reducible refine bit_of hμ ?_; first | decide | (simp (disch := decide) only [window_sel, window_die, window_arkKey, window_arkKey_add, window_keyAt, window_keyAt_add, window_wordAt, window_arkWord, window_drop, window_drop_hi, window_msix]; decide))
    | dsimp only

theorem State.appendAccept_keeps {μ : Nat} (hμ : 0x30800070609c ||| μ = μ) {s₀ s : State} (h : Keeps μ s₀ s) (q i : Nat) (d : Desc) (toks : List Word) :
    Keeps μ s₀ (State.appendAccept s q i d toks) := by
  unfold State.appendAccept
  repeat' first
    | with_reducible assumption
    | with_reducible apply State.cmdRecord_keeps (sub_of hμ (by decide))
    | with_reducible apply State.done_keeps (sub_of hμ (by decide))
    | with_reducible apply State.modBib_keeps (sub_of hμ (by decide))
    | with_reducible apply State.transition_keeps (sub_of hμ (by decide))
    | split
    | dsimp only

theorem execAppend_keeps (q : Fin 16384) (d : Desc) (prompt : Option (List Word)) (s : State) :
    KeepsOut 0x30c00070609c s (execAppend q d prompt s) := by
  have hμ : 0x30c00070609c ||| 0x30c00070609c = 0x30c00070609c := by decide
  unfold execAppend
  repeat' first
    | with_reducible apply KeepsOut.next
    | with_reducible exact Keeps.refl _
    | with_reducible assumption
    | with_reducible apply State.appendAccept_keeps (sub_of hμ (by decide))
    | with_reducible apply State.bibCommand_keeps (sub_of hμ (by decide))
    | intro _ _
    | dsimp only

theorem State.pauseAccept_keeps {μ : Nat} (hμ : 0x3080007060dc ||| μ = μ) {s₀ s : State} (h : Keeps μ s₀ s) (q i : Nat) (d : Desc) :
    Keeps μ s₀ (State.pauseAccept s q i d) := by
  unfold State.pauseAccept
  repeat' first
    | with_reducible assumption
    | with_reducible apply State.cmdRecord_keeps (sub_of hμ (by decide))
    | with_reducible apply State.enterPaused_keeps (sub_of hμ (by decide))
    | with_reducible apply State.modBib_keeps (sub_of hμ (by decide))
    | split
    | dsimp only

theorem execPause_keeps (q : Fin 16384) (d : Desc) (s : State) :
    KeepsOut 0x30c0007060dc s (execPause q d s) := by
  have hμ : 0x30c0007060dc ||| 0x30c0007060dc = 0x30c0007060dc := by decide
  unfold execPause
  repeat' first
    | with_reducible apply KeepsOut.next
    | with_reducible exact Keeps.refl _
    | with_reducible assumption
    | with_reducible apply State.bibCommand_keeps (sub_of hμ (by decide))
    | with_reducible apply State.pauseAccept_keeps (sub_of hμ (by decide))
    | intro _ _
    | dsimp only

theorem State.resumeAccept_keeps {μ : Nat} (hμ : 0x3180007060dc ||| μ = μ) {s₀ s : State} (h : Keeps μ s₀ s) (q i : Nat) (d : Desc) :
    Keeps μ s₀ (State.resumeAccept s q i d) := by
  unfold State.resumeAccept
  repeat' first
    | with_reducible assumption
    | with_reducible apply State.cmdRecord_keeps (sub_of hμ (by decide))
    | with_reducible apply State.modBib_keeps (sub_of hμ (by decide))
    | with_reducible apply State.quotaCheck_keeps (sub_of hμ (by decide))
    | with_reducible apply State.requestRestore_keeps (sub_of hμ (by decide))
    | with_reducible apply State.transition_keeps (sub_of hμ (by decide))
    | split
    | dsimp only

theorem execResume_keeps (q : Fin 16384) (d : Desc) (s : State) :
    KeepsOut 0x31c0007060dc s (execResume q d s) := by
  have hμ : 0x31c0007060dc ||| 0x31c0007060dc = 0x31c0007060dc := by decide
  unfold execResume
  repeat' first
    | with_reducible apply KeepsOut.next
    | with_reducible exact Keeps.refl _
    | with_reducible assumption
    | with_reducible apply State.bibCommand_keeps (sub_of hμ (by decide))
    | with_reducible apply State.resumeAccept_keeps (sub_of hμ (by decide))
    | intro _ _
    | dsimp only

theorem State.closeAccept_keeps {μ : Nat} (hμ : 0x3080007068fc ||| μ = μ) {s₀ s : State} (h : Keeps μ s₀ s) (q i : Nat) (d : Desc) :
    Keeps μ s₀ (State.closeAccept s q i d) := by
  unfold State.closeAccept
  repeat' first
    | with_reducible assumption
    | with_reducible apply State.cmdRecord_keeps (sub_of hμ (by decide))
    | with_reducible apply State.enterClosing_keeps (sub_of hμ (by decide))
    | with_reducible apply State.enterFree_keeps (sub_of hμ (by decide))
    | with_reducible apply State.modBib_keeps (sub_of hμ (by decide))
    | split
    | dsimp only

theorem execClose_keeps (q : Fin 16384) (d : Desc) (s : State) :
    KeepsOut 0x30c0007068fc s (execClose q d s) := by
  have hμ : 0x30c0007068fc ||| 0x30c0007068fc = 0x30c0007068fc := by decide
  unfold execClose
  repeat' first
    | with_reducible apply KeepsOut.next
    | with_reducible exact Keeps.refl _
    | with_reducible assumption
    | with_reducible apply State.bibCommand_keeps (sub_of hμ (by decide))
    | with_reducible apply State.closeAccept_keeps (sub_of hμ (by decide))
    | intro _ _
    | dsimp only

theorem State.prefixAccept_keeps {μ : Nat} (hμ : 0x30800070687c ||| μ = μ) {s₀ s : State} (h : Keeps μ s₀ s) (q : Nat) (d : Desc) (toks : List Word) :
    Keeps μ s₀ (State.prefixAccept s q d toks) := by
  unfold State.prefixAccept
  repeat' first
    | with_reducible assumption
    | with_reducible apply Keeps.modFree (bit_of hμ (by decide))
    | with_reducible apply Keeps.modKvm (bit_of hμ (by decide))
    | with_reducible apply Keeps.putBib (bit_of hμ (by decide))
    | with_reducible apply State.emit_keeps (sub_of hμ (by decide))
    | with_reducible apply State.modQp_keeps (sub_of hμ (by decide))
    | with_reducible apply State.putPfx_keeps (sub_of hμ (by decide))
    | with_reducible apply State.takeWax_keeps (sub_of hμ (by decide))
    | with_reducible apply State.tally_keeps (sub_of hμ (by decide))
    | exact KeepsPart.same _ _ fun _ => rfl
    | (with_reducible refine KeepsPart.intro fun x hx => ?_; simp only [Kvm.canonical, Bool.and_eq_true] at hx ⊢; simp [hx] <;> (repeat' split) <;> simp [hx])
    | split
    | dsimp only

theorem execPrefixCreate_keeps (q : Fin 16384) (d : Desc) (prompt : Option (List Word)) (s : State) :
    KeepsOut 0x30800070687c s (execPrefixCreate q d prompt s) := by
  have hμ : 0x30800070687c ||| 0x30800070687c = 0x30800070687c := by decide
  unfold execPrefixCreate
  repeat' first
    | with_reducible apply KeepsOut.next
    | with_reducible exact Keeps.refl _
    | with_reducible assumption
    | with_reducible apply State.command_keeps (sub_of hμ (by decide))
    | with_reducible apply State.prefixAccept_keeps (sub_of hμ (by decide))
    | intro _ _
    | dsimp only

theorem State.dropAccept_keeps {μ : Nat} (hμ : 0x30800070684c ||| μ = μ) {s₀ s : State} (h : Keeps μ s₀ s) (q : Nat) (d : Desc) :
    Keeps μ s₀ (State.dropAccept s q d) := by
  unfold State.dropAccept
  repeat' first
    | with_reducible assumption
    | with_reducible apply State.emit_keeps (sub_of hμ (by decide))
    | with_reducible apply State.pfxSettle_keeps (sub_of hμ (by decide))
    | with_reducible apply State.putPfx_keeps (sub_of hμ (by decide))
    | split
    | dsimp only

theorem execPrefixDrop_keeps (q : Fin 16384) (d : Desc) (s : State) :
    KeepsOut 0x30800070684c s (execPrefixDrop q d s) := by
  have hμ : 0x30800070684c ||| 0x30800070684c = 0x30800070684c := by decide
  unfold execPrefixDrop
  repeat' first
    | with_reducible apply KeepsOut.next
    | with_reducible exact Keeps.refl _
    | with_reducible assumption
    | with_reducible apply State.command_keeps (sub_of hμ (by decide))
    | with_reducible apply State.dropAccept_keeps (sub_of hμ (by decide))
    | intro _ _
    | dsimp only

theorem State.queryAccept_keeps {μ : Nat} (hμ : 0x30800070600c ||| μ = μ) {s₀ s : State} (h : Keeps μ s₀ s) (q : Nat) (d : Desc) :
    Keeps μ s₀ (State.queryAccept s q d) := by
  unfold State.queryAccept
  repeat' first
    | with_reducible assumption
    | with_reducible apply Keeps.send (bit_of hμ (by decide))
    | with_reducible apply State.cmdRecord_keeps (sub_of hμ (by decide))
    | split
    | dsimp only

theorem execQuery_keeps (q : Fin 16384) (d : Desc) (s : State) :
    KeepsOut 0x30c00070600c s (execQuery q d s) := by
  have hμ : 0x30c00070600c ||| 0x30c00070600c = 0x30c00070600c := by decide
  unfold execQuery
  repeat' first
    | with_reducible apply KeepsOut.next
    | with_reducible exact Keeps.refl _
    | with_reducible assumption
    | with_reducible apply State.command_keeps (sub_of hμ (by decide))
    | with_reducible apply State.countStale_keeps (sub_of hμ (by decide))
    | with_reducible apply State.queryAccept_keeps (sub_of hμ (by decide))
    | split
    | intro _ _
    | dsimp only

theorem execFence_keeps (q : Fin 16384) (d : Desc) (s : State) :
    KeepsOut 0x30800070600c s (execFence q d s) := by
  have hμ : 0x30800070600c ||| 0x30800070600c = 0x30800070600c := by decide
  unfold execFence
  repeat' first
    | with_reducible apply KeepsOut.next
    | with_reducible exact Keeps.refl _
    | with_reducible assumption
    | with_reducible apply State.command_keeps (sub_of hμ (by decide))
    | with_reducible apply State.fence_keeps (sub_of hμ (by decide))
    | with_reducible apply State.modQp_keeps (sub_of hμ (by decide))
    | split
    | intro _ _
    | dsimp only

theorem execFenceComplete_keeps (q : Fin 16384) (s : State) :
    KeepsOut 0x30800070600c s (execFenceComplete q s) := by
  have hμ : 0x30800070600c ||| 0x30800070600c = 0x30800070600c := by decide
  unfold execFenceComplete
  repeat' first
    | with_reducible apply KeepsOut.next
    | with_reducible exact Keeps.refl _
    | with_reducible assumption
    | with_reducible apply State.emit_keeps (sub_of hμ (by decide))
    | with_reducible apply State.fence_keeps (sub_of hμ (by decide))
    | with_reducible apply State.modQp_keeps (sub_of hμ (by decide))
    | split
    | dsimp only

theorem execDescriptorFetchError_keeps (q : Fin 16384) (s : State) :
    KeepsOut 0x208000304000 s (execDescriptorFetchError q s) := by
  have hμ : 0x208000304000 ||| 0x208000304000 = 0x208000304000 := by decide
  unfold execDescriptorFetchError
  repeat' first
    | with_reducible apply KeepsOut.next
    | with_reducible exact Keeps.refl _
    | with_reducible assumption
    | with_reducible apply State.put_keeps
    | with_reducible apply State.violation_keeps (sub_of hμ (by decide))
    | split
    | (with_reducible refine bit_of hμ ?_; first | decide | (simp (disch := decide) only [window_sel, window_die, window_arkKey, window_arkKey_add, window_keyAt, window_keyAt_add, window_wordAt, window_arkWord, window_drop, window_drop_hi, window_msix]; decide))
    | dsimp only

theorem execMsixVectorTimer_keeps (vec : Fin 4096) (inL1 : Bool) (s : State) :
    KeepsOut 0x8000500004 s (execMsixVectorTimer vec inL1 s) := by
  have hμ : 0x8000500004 ||| 0x8000500004 = 0x8000500004 := by decide
  unfold execMsixVectorTimer
  repeat' first
    | with_reducible apply KeepsOut.next
    | with_reducible exact Keeps.refl _
    | with_reducible assumption
    | with_reducible apply Keeps.modPcie (bit_of hμ (by decide))
    | with_reducible apply State.fireVector_keeps (sub_of hμ (by decide))
    | split
    | dsimp only

theorem State.firePending_keeps {μ : Nat} (hμ : 0x8000500000 ||| μ = μ) {s₀ s : State} (h : Keeps μ s₀ s) (vecs : List Nat) :
    Keeps μ s₀ (State.firePending s vecs) := by
  unfold State.firePending
  repeat' first
    | with_reducible assumption
    | with_reducible apply Keeps.send (bit_of hμ (by decide))
    | with_reducible apply State.put_keeps
    | with_reducible apply State.tally_keeps (sub_of hμ (by decide))
    | with_reducible apply Keeps.foldl
    | split
    | intro _ _ _
    | (with_reducible refine bit_of hμ ?_; first | decide | (simp (disch := decide) only [window_sel, window_die, window_arkKey, window_arkKey_add, window_keyAt, window_keyAt_add, window_wordAt, window_arkWord, window_drop, window_drop_hi, window_msix]; decide))
    | dsimp only

theorem State.writeMask_keeps {μ : Nat} (hμ : 0x8100500000 ||| μ = μ) {s₀ s : State} (h : Keeps μ s₀ s) (vec : Nat) (v : Word) :
    Keeps μ s₀ (State.writeMask s vec v) := by
  unfold State.writeMask
  repeat' first
    | with_reducible assumption
    | with_reducible apply Keeps.wr
    | with_reducible apply State.firePending_keeps (sub_of hμ (by decide))
    | (with_reducible refine bit_of hμ ?_; first | decide | (simp (disch := decide) only [window_sel, window_die, window_arkKey, window_arkKey_add, window_keyAt, window_keyAt_add, window_wordAt, window_arkWord, window_drop, window_drop_hi, window_msix]; decide))
    | dsimp only

theorem execMsixUnmask_keeps (vec : Fin 4096) (s : State) :
    KeepsOut 0x8100500000 s (execMsixUnmask vec s) := by
  have hμ : 0x8100500000 ||| 0x8100500000 = 0x8100500000 := by decide
  unfold execMsixUnmask
  repeat' first
    | with_reducible apply KeepsOut.next
    | with_reducible exact Keeps.refl _
    | with_reducible assumption
    | with_reducible apply State.writeMask_keeps (sub_of hμ (by decide))
    | dsimp only

theorem execD3hotEntry_keeps (pmeEn : Bool) (s : State) :
    KeepsOut 0x400004 s (execD3hotEntry pmeEn s) := by
  have hμ : 0x400004 ||| 0x400004 = 0x400004 := by decide
  unfold execD3hotEntry
  repeat' first
    | with_reducible apply KeepsOut.next
    | with_reducible exact Keeps.refl _
    | with_reducible assumption
    | with_reducible apply Keeps.modPcie (bit_of hμ (by decide))
    | with_reducible apply Keeps.send (bit_of hμ (by decide))
    | split
    | dsimp only

theorem State.flushFunction_keeps {μ : Nat} (hμ : 0x10800050600c ||| μ = μ) {s₀ s : State} (h : Keeps μ s₀ s) :
    Keeps μ s₀ (State.flushFunction s) := by
  unfold State.flushFunction
  repeat' first
    | with_reducible assumption
    | with_reducible apply State.drainAll_keeps (sub_of hμ (by decide))
    | with_reducible apply State.firePending_keeps (sub_of hμ (by decide))
    | split
    | dsimp only

theorem execD0Return_keeps (busMaster : Bool) (s : State) :
    KeepsOut 0x10800050600c s (execD0Return busMaster s) := by
  have hμ : 0x10800050600c ||| 0x10800050600c = 0x10800050600c := by decide
  unfold execD0Return
  repeat' first
    | with_reducible apply KeepsOut.next
    | with_reducible exact Keeps.refl _
    | with_reducible assumption
    | with_reducible apply Keeps.modPcie (bit_of hμ (by decide))
    | with_reducible apply State.flushFunction_keeps (sub_of hμ (by decide))
    | dsimp only

theorem execBusMasterEnable_keeps (en : Bool) (s : State) :
    KeepsOut 0x10800050600c s (execBusMasterEnable en s) := by
  have hμ : 0x10800050600c ||| 0x10800050600c = 0x10800050600c := by decide
  unfold execBusMasterEnable
  repeat' first
    | with_reducible apply KeepsOut.next
    | with_reducible exact Keeps.refl _
    | with_reducible assumption
    | with_reducible apply Keeps.modPcie (bit_of hμ (by decide))
    | with_reducible apply State.flushFunction_keeps (sub_of hμ (by decide))
    | dsimp only

theorem execL1Exit_keeps (s : State) :
    KeepsOut 0x8000500004 s (execL1Exit s) := by
  have hμ : 0x8000500004 ||| 0x8000500004 = 0x8000500004 := by decide
  unfold execL1Exit
  repeat' first
    | with_reducible apply KeepsOut.next
    | with_reducible exact Keeps.refl _
    | with_reducible assumption
    | with_reducible apply Keeps.modPcie (bit_of hμ (by decide))
    | with_reducible apply State.fireVector_keeps (sub_of hμ (by decide))
    | with_reducible apply Keeps.foldl
    | intro _ _ _
    | dsimp only

theorem State.resetBib_keeps {μ : Nat} (hμ : 0x3080007068fc ||| μ = μ) {s₀ s : State} (h : Keeps μ s₀ s) (i : Nat) :
    Keeps μ s₀ (State.resetBib s i) := by
  unfold State.resetBib
  repeat' first
    | with_reducible assumption
    | with_reducible apply State.enterClosing_keeps (sub_of hμ (by decide))
    | with_reducible apply State.enterFree_keeps (sub_of hμ (by decide))
    | with_reducible apply State.modBib_keeps (sub_of hμ (by decide))
    | with_reducible apply State.putPfx_keeps (sub_of hμ (by decide))
    | split
    | dsimp only

theorem State.resetQp_keeps {μ : Nat} (hμ : 0x8000000008 ||| μ = μ) {s₀ s : State} (h : Keeps μ s₀ s) (q : Nat) :
    Keeps μ s₀ (State.resetQp s q) := by
  unfold State.resetQp
  repeat' first
    | with_reducible assumption
    | with_reducible apply State.fence_keeps (sub_of hμ (by decide))
    | with_reducible apply State.modQp_keeps (sub_of hμ (by decide))
    | with_reducible apply State.put_keeps
    | with_reducible apply State.stopQp_keeps (sub_of hμ (by decide))
    | (with_reducible refine bit_of hμ ?_; first | decide | (simp (disch := decide) only [window_sel, window_die, window_arkKey, window_arkKey_add, window_keyAt, window_keyAt_add, window_wordAt, window_arkWord, window_drop, window_drop_hi, window_msix]; decide))
    | dsimp only

theorem State.resetFunction_keeps {μ : Nat} (hμ : 0x3080007068fc ||| μ = μ) {s₀ s : State} (h : Keeps μ s₀ s) :
    Keeps μ s₀ (State.resetFunction s) := by
  unfold State.resetFunction
  repeat' first
    | with_reducible assumption
    | with_reducible apply State.resetBib_keeps (sub_of hμ (by decide))
    | with_reducible apply State.resetQp_keeps (sub_of hμ (by decide))
    | with_reducible apply Keeps.foldl
    | intro _ _ _
    | dsimp only

end Sys2Proof.Machine
end

