-- ==== Sys2Proof/Laws/KeepEvents.lean ====
section
/-!
SUPPORT. What the operations of Machine/Events.lean keep (Laws/Keeps.lean).
-/

set_option linter.all false

namespace Sys2Proof.Machine

theorem window_srcWord {f : Fld} (h : f.reg < 0x4000000 ∧ f.reg % 0x100000 + 4 * 1536 ≤ 0x100000 ∧ 0 < 1536) (n : Nat) :
    regWindow (srcWord f n).reg = regWindow f.reg := window_wordAt h n

theorem window_target {f : Fld} (h : f.reg < 0x4000000 ∧ f.reg % 0x100000 + 4 * 6 ≤ 0x100000 ∧ 0 < 6) (n : Nat) :
    regWindow (f.target n).reg = regWindow f.reg := window_wordAt h n

theorem State.sendVector_keeps {μ : Nat} (hμ : 0x8000500000 ||| μ = μ) {s₀ s : State} (h : Keeps μ s₀ s) (vec : Nat) :
    Keeps μ s₀ (State.sendVector s vec) := by
  unfold State.sendVector
  repeat' first
    | with_reducible assumption
    | with_reducible apply Keeps.send (bit_of hμ (by decide))
    | with_reducible apply State.put_keeps
    | with_reducible apply State.tally_keeps (sub_of hμ (by decide))
    | split
    | (with_reducible refine bit_of hμ ?_; first | decide | (simp (disch := decide) only [window_sel, window_die, window_arkKey, window_arkKey_add, window_keyAt, window_keyAt_add, window_wordAt, window_arkWord, window_drop, window_drop_hi, window_msix, window_srcWord, window_target]; decide))
    | dsimp only

theorem State.assertLine_keeps {μ : Nat} (hμ : 0x8800540000 ||| μ = μ) {s₀ s : State} (h : Keeps μ s₀ s) (t : Nat) :
    Keeps μ s₀ (State.assertLine s t) := by
  unfold State.assertLine
  repeat' first
    | with_reducible assumption
    | with_reducible apply Keeps.modEvt (bit_of hμ (by decide))
    | with_reducible apply State.put_keeps
    | with_reducible apply State.sendVector_keeps (sub_of hμ (by decide))
    | exact KeepsPart.same _ _ fun _ => rfl
    | (with_reducible refine KeepsPart.intro fun x hx => ?_; simp only [Events.canonical, Bool.and_eq_true] at hx ⊢; simp [hx] <;> (repeat' split) <;> simp [hx])
    | split
    | (with_reducible refine bit_of hμ ?_; first | decide | (simp (disch := decide) only [window_sel, window_die, window_arkKey, window_arkKey_add, window_keyAt, window_keyAt_add, window_wordAt, window_arkWord, window_drop, window_drop_hi, window_msix, window_srcWord, window_target]; decide))
    | dsimp only

theorem State.countTarget_keeps {μ : Nat} (hμ : 0x8800540000 ||| μ = μ) {s₀ s : State} (h : Keeps μ s₀ s) (n t : Nat) :
    Keeps μ s₀ (State.countTarget s n t) := by
  unfold State.countTarget
  repeat' first
    | with_reducible assumption
    | with_reducible apply Keeps.modEvt (bit_of hμ (by decide))
    | with_reducible apply State.assertLine_keeps (sub_of hμ (by decide))
    | with_reducible apply State.put_keeps
    | exact KeepsPart.same _ _ fun _ => rfl
    | (with_reducible refine KeepsPart.intro fun x hx => ?_; simp only [Events.canonical, Bool.and_eq_true] at hx ⊢; simp [hx] <;> (repeat' split) <;> simp [hx])
    | split
    | (with_reducible refine bit_of hμ ?_; first | decide | (simp (disch := decide) only [window_sel, window_die, window_arkKey, window_arkKey_add, window_keyAt, window_keyAt_add, window_wordAt, window_arkWord, window_drop, window_drop_hi, window_msix, window_srcWord, window_target]; decide))
    | dsimp only

theorem State.becomePending_keeps {μ : Nat} (hμ : 0x8800540000 ||| μ = μ) {s₀ s : State} (h : Keeps μ s₀ s) (n : Nat) :
    Keeps μ s₀ (State.becomePending s n) := by
  unfold State.becomePending
  repeat' first
    | with_reducible assumption
    | with_reducible apply State.countTarget_keeps (sub_of hμ (by decide))
    | with_reducible apply State.putSource_keeps
    | with_reducible apply Keeps.foldl
    | split
    | intro _ _ _
    | with_reducible exact (by decide)
    | (with_reducible refine bit_of hμ ?_; first | decide | (simp (disch := decide) only [window_sel, window_die, window_arkKey, window_arkKey_add, window_keyAt, window_keyAt_add, window_wordAt, window_arkWord, window_drop, window_drop_hi, window_msix, window_srcWord, window_target]; decide))
    | dsimp only

theorem execEvtSourcePending_keeps (src : Fin 1536) (s : State) :
    KeepsOut 0x8800540000 s (execEvtSourcePending src s) := by
  have hμ : 0x8800540000 ||| 0x8800540000 = 0x8800540000 := by decide
  unfold execEvtSourcePending
  repeat' first
    | with_reducible apply KeepsOut.next
    | with_reducible exact Keeps.refl _
    | with_reducible assumption
    | with_reducible apply Keeps.modEvt (bit_of hμ (by decide))
    | with_reducible apply State.becomePending_keeps (sub_of hμ (by decide))
    | exact KeepsPart.same _ _ fun _ => rfl
    | (with_reducible refine KeepsPart.intro fun x hx => ?_; simp only [Events.canonical, Bool.and_eq_true] at hx ⊢; simp [hx] <;> (repeat' split) <;> simp [hx])
    | split
    | dsimp only

theorem execEvtLineTimer_keeps (t : Fin 6) (s : State) :
    KeepsOut 0x8800540000 s (execEvtLineTimer t s) := by
  have hμ : 0x8800540000 ||| 0x8800540000 = 0x8800540000 := by decide
  unfold execEvtLineTimer
  repeat' first
    | with_reducible apply KeepsOut.next
    | with_reducible exact Keeps.refl _
    | with_reducible assumption
    | with_reducible apply State.assertLine_keeps (sub_of hμ (by decide))
    | split
    | dsimp only

theorem State.stormMask_keeps {μ : Nat} (hμ : 0x800040000 ||| μ = μ) {s₀ s : State} (h : Keeps μ s₀ s) (n : Nat) :
    Keeps μ s₀ (State.stormMask s n) := by
  unfold State.stormMask
  repeat' first
    | with_reducible assumption
    | with_reducible apply Keeps.modEvt (bit_of hμ (by decide))
    | with_reducible apply State.count_keeps
    | with_reducible apply State.putSource_keeps
    | with_reducible apply State.put_keeps
    | exact KeepsPart.same _ _ fun _ => rfl
    | (with_reducible refine KeepsPart.intro fun x hx => ?_; simp only [Events.canonical, Bool.and_eq_true] at hx ⊢; simp [hx] <;> (repeat' split) <;> simp [hx])
    | split
    | with_reducible exact (by decide)
    | (with_reducible refine bit_of hμ ?_; first | decide | (simp (disch := decide) only [window_sel, window_die, window_arkKey, window_arkKey_add, window_keyAt, window_keyAt_add, window_wordAt, window_arkWord, window_drop, window_drop_hi, window_msix, window_srcWord, window_target]; decide))
    | dsimp only

theorem State.countClaim_keeps {μ : Nat} (hμ : 0x800040000 ||| μ = μ) {s₀ s : State} (h : Keeps μ s₀ s) (n : Nat) :
    Keeps μ s₀ (State.countClaim s n) := by
  unfold State.countClaim
  repeat' first
    | with_reducible assumption
    | with_reducible apply Keeps.modEvt (bit_of hμ (by decide))
    | with_reducible apply State.put_keeps
    | with_reducible apply State.stormMask_keeps (sub_of hμ (by decide))
    | exact KeepsPart.same _ _ fun _ => rfl
    | (with_reducible refine KeepsPart.intro fun x hx => ?_; simp only [Events.canonical, Bool.and_eq_true] at hx ⊢; simp [hx] <;> (repeat' split) <;> simp [hx])
    | split
    | (with_reducible refine bit_of hμ ?_; first | decide | (simp (disch := decide) only [window_sel, window_die, window_arkKey, window_arkKey_add, window_keyAt, window_keyAt_add, window_wordAt, window_arkWord, window_drop, window_drop_hi, window_msix, window_srcWord, window_target]; decide))
    | dsimp only

theorem State.takeClaim_keeps {μ : Nat} (hμ : 0x800440000 ||| μ = μ) {s₀ s : State} (h : Keeps μ s₀ s) (t n : Nat) :
    Keeps μ s₀ (State.takeClaim s t n) := by
  unfold State.takeClaim
  repeat' first
    | with_reducible assumption
    | with_reducible apply Keeps.send (bit_of hμ (by decide))
    | with_reducible apply State.claim_keeps (sub_of hμ (by decide))
    | with_reducible apply State.countClaim_keeps (sub_of hμ (by decide))
    | with_reducible apply State.count_keeps
    | with_reducible apply State.putSource_keeps
    | with_reducible apply State.put_keeps
    | with_reducible exact (by decide)
    | (with_reducible refine bit_of hμ ?_; first | decide | (simp (disch := decide) only [window_sel, window_die, window_arkKey, window_arkKey_add, window_keyAt, window_keyAt_add, window_wordAt, window_arkWord, window_drop, window_drop_hi, window_msix, window_srcWord, window_target]; decide))
    | dsimp only

theorem State.missClaim_keeps {μ : Nat} (hμ : 0x800440000 ||| μ = μ) {s₀ s : State} (h : Keeps μ s₀ s) (t : Nat) :
    Keeps μ s₀ (State.missClaim s t) := by
  unfold State.missClaim
  repeat' first
    | with_reducible assumption
    | with_reducible apply Keeps.modEvt (bit_of hμ (by decide))
    | with_reducible apply Keeps.send (bit_of hμ (by decide))
    | with_reducible apply State.claim_keeps (sub_of hμ (by decide))
    | with_reducible apply State.count_keeps
    | with_reducible apply State.put_keeps
    | exact KeepsPart.same _ _ fun _ => rfl
    | (with_reducible refine KeepsPart.intro fun x hx => ?_; simp only [Events.canonical, Bool.and_eq_true] at hx ⊢; simp [hx])
    | (with_reducible refine bit_of hμ ?_; first | decide | (simp (disch := decide) only [window_sel, window_die, window_arkKey, window_arkKey_add, window_keyAt, window_keyAt_add, window_wordAt, window_arkWord, window_drop, window_drop_hi, window_msix, window_srcWord, window_target]; decide))
    | dsimp only

theorem State.claim_keeps {μ : Nat} (hμ : 0x800440000 ||| μ = μ) {s₀ s : State} (h : Keeps μ s₀ s) (req t : Nat) :
    Keeps μ s₀ (State.claim s req t) := by
  unfold State.claim
  repeat' first
    | with_reducible assumption
    | with_reducible apply Keeps.send (bit_of hμ (by decide))
    | with_reducible apply State.missClaim_keeps (sub_of hμ (by decide))
    | with_reducible apply State.takeClaim_keeps (sub_of hμ (by decide))
    | split
    | dsimp only

theorem execEvtClaim_keeps (req : Requester) (t : Fin 6) (s : State) :
    KeepsOut 0x800440000 s (execEvtClaim req t s) := by
  have hμ : 0x800440000 ||| 0x800440000 = 0x800440000 := by decide
  unfold execEvtClaim
  repeat' first
    | with_reducible apply KeepsOut.next
    | with_reducible exact Keeps.refl _
    | with_reducible assumption
    | with_reducible apply Keeps.send (bit_of hμ (by decide))
    | with_reducible apply State.claim_keeps (sub_of hμ (by decide))
    | split
    | dsimp only

theorem State.done_keeps {μ : Nat} (hμ : 0x800000000 ||| μ = μ) {s₀ s : State} (h : Keeps μ s₀ s) (req t n : Nat) :
    Keeps μ s₀ (State.done s req t n) := by
  unfold State.done
  repeat' first
    | with_reducible assumption
    | with_reducible apply State.count_keeps
    | with_reducible apply State.putSource_keeps
    | with_reducible apply State.put_keeps
    | split
    | with_reducible exact (by decide)
    | (with_reducible refine bit_of hμ ?_; first | decide | (simp (disch := decide) only [window_sel, window_die, window_arkKey, window_arkKey_add, window_keyAt, window_keyAt_add, window_wordAt, window_arkWord, window_drop, window_drop_hi, window_msix, window_srcWord, window_target]; decide))
    | dsimp only

theorem execEvtDone_keeps (req : Requester) (t : Fin 6) (v : Word) (s : State) :
    KeepsOut 0x208800304000 s (execEvtDone req t v s) := by
  have hμ : 0x208800304000 ||| 0x208800304000 = 0x208800304000 := by decide
  unfold execEvtDone
  repeat' first
    | with_reducible apply KeepsOut.next
    | with_reducible exact Keeps.refl _
    | with_reducible assumption
    | with_reducible apply State.done_keeps (sub_of hμ (by decide))
    | with_reducible apply State.undecoded_keeps (sub_of hμ (by decide))
    | split
    | dsimp only

theorem execStormIntervalEnd_keeps (s : State) :
    KeepsOut 0x40000 s (execStormIntervalEnd s) := by
  have hμ : 0x40000 ||| 0x40000 = 0x40000 := by decide
  unfold execStormIntervalEnd
  repeat' first
    | with_reducible apply KeepsOut.next
    | with_reducible exact Keeps.refl _
    | with_reducible assumption
    | with_reducible apply Keeps.modEvt (bit_of hμ (by decide))
    | exact KeepsPart.same _ _ fun _ => rfl
    | (with_reducible refine KeepsPart.intro fun x hx => ?_; simp only [Events.canonical, Bool.and_eq_true] at hx ⊢; simp [hx] <;> (repeat' split) <;> simp [hx])
    | split
    | dsimp only

theorem State.applyDeferred_keeps {μ : Nat} (hμ : 0x8800540000 ||| μ = μ) {s₀ s : State} (h : Keeps μ s₀ s) (d : Deferred) :
    Keeps μ s₀ (State.applyDeferred s d) := by
  unfold State.applyDeferred
  repeat' first
    | with_reducible assumption
    | with_reducible apply State.becomePending_keeps (sub_of hμ (by decide))
    | with_reducible apply State.putSource_keeps
    | split
    | with_reducible exact (by decide)
    | (with_reducible refine bit_of hμ ?_; first | decide | (simp (disch := decide) only [window_sel, window_die, window_arkKey, window_arkKey_add, window_keyAt, window_keyAt_add, window_wordAt, window_arkWord, window_drop, window_drop_hi, window_msix, window_srcWord, window_target]; decide))
    | dsimp only

theorem State.endHold_keeps {μ : Nat} (hμ : 0x8800540000 ||| μ = μ) {s₀ s : State} (h : Keeps μ s₀ s) :
    Keeps μ s₀ (State.endHold s) := by
  unfold State.endHold
  repeat' first
    | with_reducible assumption
    | with_reducible apply Keeps.modEvt (bit_of hμ (by decide))
    | with_reducible apply State.applyDeferred_keeps (sub_of hμ (by decide))
    | with_reducible apply Keeps.foldl
    | exact KeepsPart.same _ _ fun _ => rfl
    | (with_reducible refine KeepsPart.intro fun x hx => ?_; simp only [Events.canonical, Bool.and_eq_true] at hx ⊢; simp [hx])
    | intro _ _ _
    | dsimp only

theorem State.showHold_keeps {μ : Nat} (hμ : 0x800000000 ||| μ = μ) {s₀ s : State} (h : Keeps μ s₀ s) :
    Keeps μ s₀ (State.showHold s) := by
  unfold State.showHold
  repeat' first
    | with_reducible assumption
    | with_reducible apply State.putB_keeps
    | with_reducible apply State.put_keeps
    | split
    | (with_reducible refine bit_of hμ ?_; first | decide | (simp (disch := decide) only [window_sel, window_die, window_arkKey, window_arkKey_add, window_keyAt, window_keyAt_add, window_wordAt, window_arkWord, window_drop, window_drop_hi, window_msix, window_srcWord, window_target]; decide))
    | dsimp only

theorem State.writeHold_keeps {μ : Nat} (hμ : 0x208800744000 ||| μ = μ) {s₀ s : State} (h : Keeps μ s₀ s) (req : Nat) (v : Word) :
    Keeps μ s₀ (State.writeHold s req v) := by
  unfold State.writeHold
  repeat' first
    | with_reducible assumption
    | with_reducible apply Keeps.modEvt (bit_of hμ (by decide))
    | with_reducible apply State.endHold_keeps (sub_of hμ (by decide))
    | with_reducible apply State.showHold_keeps (sub_of hμ (by decide))
    | with_reducible apply State.violation_keeps (sub_of hμ (by decide))
    | exact KeepsPart.same _ _ fun _ => rfl
    | (with_reducible refine KeepsPart.intro fun x hx => ?_; simp only [Events.canonical, Bool.and_eq_true] at hx ⊢; simp [hx] <;> (repeat' split) <;> simp [hx])
    | split
    | dsimp only

theorem execEvtHoldTake_keeps (req : Requester) (v : Word) (s : State) :
    KeepsOut 0x208800744000 s (execEvtHoldTake req v s) := by
  have hμ : 0x208800744000 ||| 0x208800744000 = 0x208800744000 := by decide
  unfold execEvtHoldTake
  repeat' first
    | with_reducible apply KeepsOut.next
    | with_reducible exact Keeps.refl _
    | with_reducible assumption
    | with_reducible apply State.undecoded_keeps (sub_of hμ (by decide))
    | with_reducible apply State.writeHold_keeps (sub_of hμ (by decide))
    | split
    | dsimp only

theorem execEvtHoldRelease_keeps (req : Requester) (v : Word) (s : State) :
    KeepsOut 0x208800744000 s (execEvtHoldRelease req v s) := by
  have hμ : 0x208800744000 ||| 0x208800744000 = 0x208800744000 := by decide
  unfold execEvtHoldRelease
  repeat' first
    | with_reducible apply KeepsOut.next
    | with_reducible exact Keeps.refl _
    | with_reducible assumption
    | with_reducible apply State.undecoded_keeps (sub_of hμ (by decide))
    | with_reducible apply State.writeHold_keeps (sub_of hμ (by decide))
    | split
    | dsimp only

theorem execEvtHoldExpire_keeps (s : State) :
    KeepsOut 0x8800540000 s (execEvtHoldExpire s) := by
  have hμ : 0x8800540000 ||| 0x8800540000 = 0x8800540000 := by decide
  unfold execEvtHoldExpire
  repeat' first
    | with_reducible apply KeepsOut.next
    | with_reducible exact Keeps.refl _
    | with_reducible assumption
    | with_reducible apply Keeps.modEvt (bit_of hμ (by decide))
    | with_reducible apply State.count_keeps
    | with_reducible apply State.endHold_keeps (sub_of hμ (by decide))
    | with_reducible apply State.showHold_keeps (sub_of hμ (by decide))
    | exact KeepsPart.same _ _ fun _ => rfl
    | (with_reducible refine KeepsPart.intro fun x hx => ?_; simp only [Events.canonical, Bool.and_eq_true] at hx ⊢; simp [hx] <;> (repeat' split) <;> simp [hx])
    | split
    | (with_reducible refine bit_of hμ ?_; first | decide | (simp (disch := decide) only [window_sel, window_die, window_arkKey, window_arkKey_add, window_keyAt, window_keyAt_add, window_wordAt, window_arkWord, window_drop, window_drop_hi, window_msix, window_srcWord, window_target]; decide))
    | dsimp only

theorem State.writeSourceWord_keeps {μ : Nat} (hμ : 0x8800540000 ||| μ = μ) {s₀ s : State} (h : Keeps μ s₀ s) (req : Nat) (pend : Bool) (w : Nat) (v : Word) :
    Keeps μ s₀ (State.writeSourceWord s req pend w v) := by
  unfold State.writeSourceWord
  repeat' first
    | with_reducible assumption
    | with_reducible apply Keeps.modEvt (bit_of hμ (by decide))
    | with_reducible apply Keeps.wr
    | with_reducible apply State.becomePending_keeps (sub_of hμ (by decide))
    | with_reducible apply State.putSource_keeps
    | with_reducible apply Keeps.foldl
    | exact KeepsPart.same _ _ fun _ => rfl
    | (with_reducible refine KeepsPart.intro fun x hx => ?_; simp only [Events.canonical, Bool.and_eq_true] at hx ⊢; simp [hx] <;> (repeat' split) <;> simp [hx])
    | split
    | intro _ _ _
    | with_reducible exact (by decide)
    | (with_reducible refine bit_of hμ ?_; first | decide | (simp (disch := decide) only [window_sel, window_die, window_arkKey, window_arkKey_add, window_keyAt, window_keyAt_add, window_wordAt, window_arkWord, window_drop, window_drop_hi, window_msix, window_srcWord, window_target]; decide))
    | dsimp only

theorem State.writeRoute_keeps {μ : Nat} (hμ : 0x800000000 ||| μ = μ) {s₀ s : State} (h : Keeps μ s₀ s) (n : Nat) (v : Word) :
    Keeps μ s₀ (State.writeRoute s n v) := by
  unfold State.writeRoute
  repeat' first
    | with_reducible assumption
    | with_reducible apply State.put_keeps
    | split
    | (with_reducible refine bit_of hμ ?_; first | decide | (simp (disch := decide) only [window_sel, window_die, window_arkKey, window_arkKey_add, window_keyAt, window_keyAt_add, window_wordAt, window_arkWord, window_drop, window_drop_hi, window_msix, window_srcWord, window_target]; decide))
    | dsimp only

theorem State.applyRouting_keeps {μ : Nat} (hμ : 0x800000000 ||| μ = μ) {s₀ s : State} (h : Keeps μ s₀ s) (n : Nat) (r : Byte) :
    Keeps μ s₀ (State.applyRouting s n r) := by
  unfold State.applyRouting
  repeat' first
    | with_reducible assumption
    | with_reducible apply State.putSource_keeps
    | with_reducible apply State.writeRoute_keeps (sub_of hμ (by decide))
    | split
    | with_reducible exact (by decide)
    | (with_reducible refine bit_of hμ ?_; first | decide | (simp (disch := decide) only [window_sel, window_die, window_arkKey, window_arkKey_add, window_keyAt, window_keyAt_add, window_wordAt, window_arkWord, window_drop, window_drop_hi, window_msix, window_srcWord, window_target]; decide))
    | dsimp only

end Sys2Proof.Machine
end

