-- ==== Sys2Proof/Laws/KeepCounters.lean ====
section
/-!
SUPPORT. What the operations of Machine/Counters.lean keep (Laws/Keeps.lean).
-/

set_option linter.all false

namespace Sys2Proof.Machine

theorem State.writeEvsel_keeps {μ : Nat} (hμ : 0xa08000304000 ||| μ = μ) {s₀ s : State} (h : Keeps μ s₀ s) (v : Word) :
    Keeps μ s₀ (State.writeEvsel s v) := by
  unfold State.writeEvsel
  repeat' first
    | with_reducible assumption
    | with_reducible apply State.put_keeps
    | with_reducible apply State.violation_keeps (sub_of hμ (by decide))
    | split
    | (with_reducible refine bit_of hμ ?_; first | decide | (simp (disch := decide) only [window_sel, window_die, window_arkKey, window_arkKey_add, window_keyAt, window_keyAt_add, window_wordAt, window_arkWord, window_drop, window_drop_hi, window_msix, window_srcWord, window_target]; decide))
    | dsimp only

theorem execPmcEvsel_keeps (v : Word) (s : State) :
    KeepsOut 0xa08000304000 s (execPmcEvsel v s) := by
  have hμ : 0xa08000304000 ||| 0xa08000304000 = 0xa08000304000 := by decide
  unfold execPmcEvsel
  repeat' first
    | with_reducible apply KeepsOut.next
    | with_reducible exact Keeps.refl _
    | with_reducible assumption
    | with_reducible apply State.undecoded_keeps (sub_of hμ (by decide))
    | with_reducible apply State.writeEvsel_keeps (sub_of hμ (by decide))
    | split
    | dsimp only

theorem State.applySelection_keeps {μ : Nat} (hμ : 0x800000100000 ||| μ = μ) {s₀ s : State} (h : Keeps μ s₀ s) (k : Nat) :
    Keeps μ s₀ (State.applySelection s k) := by
  unfold State.applySelection
  repeat' first
    | with_reducible assumption
    | with_reducible apply Keeps.modPmc (bit_of hμ (by decide))
    | with_reducible apply State.put_keeps
    | exact KeepsPart.same _ _ fun _ => rfl
    | (with_reducible refine KeepsPart.intro fun x hx => ?_; simp only [Pmc.canonical, Bool.and_eq_true] at hx ⊢; simp [hx] <;> (repeat' split) <;> simp [hx])
    | split
    | (with_reducible refine bit_of hμ ?_; first | decide | (simp (disch := decide) only [window_sel, window_die, window_arkKey, window_arkKey_add, window_keyAt, window_keyAt_add, window_wordAt, window_arkWord, window_drop, window_drop_hi, window_msix, window_srcWord, window_target]; decide))
    | dsimp only

theorem State.snapshot_keeps {μ : Nat} (hμ : 0x800000100000 ||| μ = μ) {s₀ s : State} (h : Keeps μ s₀ s) (lap : Nat) :
    Keeps μ s₀ (State.snapshot s lap) := by
  unfold State.snapshot
  repeat' first
    | with_reducible assumption
    | with_reducible apply Keeps.modPmc (bit_of hμ (by decide))
    | with_reducible apply State.applySelection_keeps (sub_of hμ (by decide))
    | with_reducible apply Keeps.foldl
    | exact KeepsPart.same _ _ fun _ => rfl
    | (with_reducible refine KeepsPart.intro fun x hx => ?_; simp only [Pmc.canonical, Bool.and_eq_true] at hx ⊢; simp [hx])
    | intro _ _ _
    | dsimp only

theorem State.writePmcCtl_keeps {μ : Nat} (hμ : 0x800000100000 ||| μ = μ) {s₀ s : State} (h : Keeps μ s₀ s) (v : Word) :
    Keeps μ s₀ (State.writePmcCtl s v) := by
  unfold State.writePmcCtl
  repeat' first
    | with_reducible assumption
    | with_reducible apply State.put_keeps
    | with_reducible apply State.snapshot_keeps (sub_of hμ (by decide))
    | split
    | (with_reducible refine bit_of hμ ?_; first | decide | (simp (disch := decide) only [window_sel, window_die, window_arkKey, window_arkKey_add, window_keyAt, window_keyAt_add, window_wordAt, window_arkWord, window_drop, window_drop_hi, window_msix, window_srcWord, window_target]; decide))
    | dsimp only

theorem execPmcNow_keeps (v : Word) (s : State) :
    KeepsOut 0xa08000304000 s (execPmcNow v s) := by
  have hμ : 0xa08000304000 ||| 0xa08000304000 = 0xa08000304000 := by decide
  unfold execPmcNow
  repeat' first
    | with_reducible apply KeepsOut.next
    | with_reducible exact Keeps.refl _
    | with_reducible assumption
    | with_reducible apply State.undecoded_keeps (sub_of hμ (by decide))
    | with_reducible apply State.writePmcCtl_keeps (sub_of hμ (by decide))
    | split
    | dsimp only

theorem State.mirrorQp_keeps {μ : Nat} (hμ : 0x8 ||| μ = μ) {s₀ s : State} (h : Keeps μ s₀ s) (lap q : Nat) :
    Keeps μ s₀ (State.mirrorQp s lap q) := by
  unfold State.mirrorQp
  repeat' first
    | with_reducible assumption
    | with_reducible apply State.modQp_keeps (sub_of hμ (by decide))
    | dsimp only

theorem execPmcSnapshotSwap_keeps (s : State) :
    KeepsOut 0x800000100008 s (execPmcSnapshotSwap s) := by
  have hμ : 0x800000100008 ||| 0x800000100008 = 0x800000100008 := by decide
  unfold execPmcSnapshotSwap
  repeat' first
    | with_reducible apply KeepsOut.next
    | with_reducible exact Keeps.refl _
    | with_reducible assumption
    | with_reducible apply Keeps.modPmc (bit_of hμ (by decide))
    | with_reducible apply State.mirrorQp_keeps (sub_of hμ (by decide))
    | with_reducible apply State.raise_keeps
    | with_reducible apply State.wr64_keeps
    | with_reducible apply Keeps.foldl
    | exact KeepsPart.same _ _ fun _ => rfl
    | (with_reducible refine KeepsPart.intro fun x hx => ?_; simp only [Pmc.canonical, Bool.and_eq_true] at hx ⊢; simp [hx] <;> (repeat' split) <;> simp [hx])
    | split
    | intro _ _ _
    | (with_reducible refine bit_of hμ ?_; first | decide | (simp (disch := decide) only [window_sel, window_die, window_arkKey, window_arkKey_add, window_keyAt, window_keyAt_add, window_wordAt, window_arkWord, window_drop, window_drop_hi, window_msix, window_srcWord, window_target]; decide))
    | dsimp only

theorem execCounterWrap_keeps (block : Fin 30) (ctr : Fin 8) (add : BitVec 24) (s : State) :
    KeepsOut 0x100000 s (execCounterWrap block ctr add s) := by
  have hμ : 0x100000 ||| 0x100000 = 0x100000 := by decide
  unfold execCounterWrap
  split
  · exact KeepsOut.next (Keeps.refl s)
  · exact KeepsOut.next (Keeps.modPmc (bit_of hμ (by decide)) (Keeps.refl s) fun _ h => Pmc.bump_canonical h _ _ _)

theorem State.globalSnapshot_keeps {μ : Nat} (hμ : 0x800000100000 ||| μ = μ) {s₀ s : State} (h : Keeps μ s₀ s) (dlap : Nat) :
    Keeps μ s₀ (State.globalSnapshot s dlap) := by
  unfold State.globalSnapshot
  repeat' first
    | with_reducible assumption
    | with_reducible apply Keeps.modPmc (bit_of hμ (by decide))
    | with_reducible apply State.wr64_keeps
    | exact KeepsPart.same _ _ fun _ => rfl
    | (with_reducible refine KeepsPart.intro fun x hx => ?_; simp only [Pmc.canonical, Bool.and_eq_true] at hx ⊢; simp [hx])
    | (with_reducible refine bit_of hμ ?_; first | decide | (simp (disch := decide) only [window_sel, window_die, window_arkKey, window_arkKey_add, window_keyAt, window_keyAt_add, window_wordAt, window_arkWord, window_drop, window_drop_hi, window_msix, window_srcWord, window_target]; decide))
    | dsimp only

theorem State.writeOvf_keeps {μ : Nat} (hμ : 0x100000 ||| μ = μ) {s₀ s : State} (h : Keeps μ s₀ s) (v : Word) :
    Keeps μ s₀ (State.writeOvf s v) := by
  unfold State.writeOvf
  repeat' first
    | with_reducible assumption
    | with_reducible apply Keeps.modPmc (bit_of hμ (by decide))
    | with_reducible apply State.put_keeps
    | exact KeepsPart.same _ _ fun _ => rfl
    | (with_reducible refine KeepsPart.intro fun x hx => ?_; simp only [Pmc.canonical, Bool.and_eq_true] at hx ⊢; simp [hx])
    | (with_reducible refine bit_of hμ ?_; first | decide | (simp (disch := decide) only [window_sel, window_die, window_arkKey, window_arkKey_add, window_keyAt, window_keyAt_add, window_wordAt, window_arkWord, window_drop, window_drop_hi, window_msix, window_srcWord, window_target]; decide))
    | dsimp only

theorem State.writePmcEvt_keeps {μ : Nat} (hμ : 0x800000100000 ||| μ = μ) {s₀ s : State} (h : Keeps μ s₀ s) (v : Word) :
    Keeps μ s₀ (State.writePmcEvt s v) := by
  unfold State.writePmcEvt
  repeat' first
    | with_reducible assumption
    | with_reducible apply Keeps.modPmc (bit_of hμ (by decide))
    | with_reducible apply State.put_keeps
    | exact KeepsPart.same _ _ fun _ => rfl
    | (with_reducible refine KeepsPart.intro fun x hx => ?_; simp only [Pmc.canonical, Bool.and_eq_true] at hx ⊢; simp [hx] <;> (repeat' split) <;> simp [hx])
    | split
    | (with_reducible refine bit_of hμ ?_; first | decide | (simp (disch := decide) only [window_sel, window_die, window_arkKey, window_arkKey_add, window_keyAt, window_keyAt_add, window_wordAt, window_arkWord, window_drop, window_drop_hi, window_msix, window_srcWord, window_target]; decide))
    | dsimp only

end Sys2Proof.Machine
end

