-- ==== Sys2Proof/Laws/KeepTransfers.lean ====
section
/-!
SUPPORT. What the operations of Machine/Transfers.lean keep (Laws/Keeps.lean).
-/

set_option linter.all false

namespace Sys2Proof.Machine

theorem State.workRecord_keeps {μ : Nat} (hμ : 0x30800070600c ||| μ = μ) {s₀ s : State} (h : Keeps μ s₀ s) (q : Nat) (cid : BitVec 16) (status : Byte) (result0 result1 : Nat) :
    Keeps μ s₀ (State.workRecord s q cid status result0 result1) := by
  unfold State.workRecord
  repeat' first
    | with_reducible assumption
    | with_reducible apply State.emit_keeps (sub_of hμ (by decide))
    | with_reducible apply State.modQp_keeps (sub_of hμ (by decide))
    | dsimp only

theorem State.freePfx_keeps {μ : Nat} (hμ : 0x40 ||| μ = μ) {s₀ s : State} (h : Keeps μ s₀ s) (p : Nat) :
    Keeps μ s₀ (State.freePfx s p) := by
  unfold State.freePfx
  repeat' first
    | with_reducible assumption
    | with_reducible apply Keeps.modKvm (bit_of hμ (by decide))
    | with_reducible apply State.putPfx_keeps (sub_of hμ (by decide))
    | exact KeepsPart.same _ _ fun _ => rfl
    | (with_reducible refine KeepsPart.intro fun x hx => ?_; simp only [Kvm.canonical, Bool.and_eq_true] at hx ⊢; simp [hx])
    | dsimp only

theorem State.failBuild_keeps {μ : Nat} (hμ : 0x30800070604c ||| μ = μ) {s₀ s : State} (h : Keeps μ s₀ s) (p : Nat) (status : Byte) :
    Keeps μ s₀ (State.failBuild s p status) := by
  unfold State.failBuild
  repeat' first
    | with_reducible assumption
    | with_reducible apply State.freePfx_keeps (sub_of hμ (by decide))
    | with_reducible apply State.workRecord_keeps (sub_of hμ (by decide))
    | dsimp only

theorem State.endFit_keeps {μ : Nat} (hμ : 0x30800070684c ||| μ = μ) {s₀ s : State} (h : Keeps μ s₀ s) (w : Nat) (status : Byte) :
    Keeps μ s₀ (State.endFit s w status) := by
  unfold State.endFit
  repeat' first
    | with_reducible assumption
    | with_reducible apply State.done_keeps (sub_of hμ (by decide))
    | with_reducible apply State.putWax_keeps (sub_of hμ (by decide))
    | with_reducible apply State.releasePages_keeps (sub_of hμ (by decide))
    | with_reducible apply State.waxSettle_keeps (sub_of hμ (by decide))
    | with_reducible apply State.workRecord_keeps (sub_of hμ (by decide))
    | split
    | dsimp only

theorem State.endInternal_keeps {μ : Nat} (hμ : 0x100000506870 ||| μ = μ) {s₀ s : State} (h : Keeps μ s₀ s) (i : Nat) :
    Keeps μ s₀ (State.endInternal s i) := by
  unfold State.endInternal
  repeat' first
    | with_reducible assumption
    | with_reducible apply State.enterFree_keeps (sub_of hμ (by decide))
    | with_reducible apply State.release_keeps (sub_of hμ (by decide))
    | dsimp only

theorem State.faultBib_keeps {μ : Nat} (hμ : 0x30c0007068dc ||| μ = μ) {s₀ s : State} (h : Keeps μ s₀ s) (i : Nat) (c : Cause) (result0 : Nat) :
    Keeps μ s₀ (State.faultBib s i c result0) := by
  unfold State.faultBib
  repeat' first
    | with_reducible assumption
    | with_reducible apply State.endFit_keeps (sub_of hμ (by decide))
    | with_reducible apply State.enterFaulted_keeps (sub_of hμ (by decide))
    | with_reducible apply State.failBuild_keeps (sub_of hμ (by decide))
    | split
    | dsimp only

theorem State.staleInt_keeps {μ : Nat} (hμ : 0x4000100000 ||| μ = μ) {s₀ s : State} (h : Keeps μ s₀ s) :
    Keeps μ s₀ (State.staleInt s) := by
  unfold State.staleInt
  repeat' first
    | with_reducible assumption
    | with_reducible apply State.count_keeps
    | with_reducible apply State.tally_keeps (sub_of hμ (by decide))
    | (with_reducible refine bit_of hμ ?_; first | decide | (simp (disch := decide) only [window_sel, window_die, window_arkKey, window_arkKey_add, window_keyAt, window_keyAt_add, window_wordAt, window_arkWord, window_drop, window_drop_hi, window_msix, window_srcWord, window_target]; decide))
    | dsimp only

theorem State.moveOut_keeps {μ : Nat} (hμ : 0x10000100050 ||| μ = μ) {s₀ s : State} (h : Keeps μ s₀ s) (i blk : Nat) (k : Block) (forPause : Bool) :
    Keeps μ s₀ (State.moveOut s i blk k forPause) := by
  unfold State.moveOut
  repeat' first
    | with_reducible assumption
    | with_reducible apply State.modBib_keeps (sub_of hμ (by decide))
    | with_reducible apply State.raise_keeps
    | with_reducible apply State.releasePages_keeps (sub_of hμ (by decide))
    | with_reducible refine State.requestLodge_keeps' (sub_of hμ (by decide)) ?_ (by assumption)
    | with_reducible refine State.requestLodge_keeps (sub_of hμ (by decide)) ?_ rfl
    | with_reducible apply State.tally_keeps (sub_of hμ (by decide))
    | split
    | (with_reducible refine bit_of hμ ?_; first | decide | (simp (disch := decide) only [window_sel, window_die, window_arkKey, window_arkKey_add, window_keyAt, window_keyAt_add, window_wordAt, window_arkWord, window_drop, window_drop_hi, window_msix, window_srcWord, window_target]; decide))
    | dsimp only

theorem State.moveBack_keeps {μ : Nat} (hμ : 0x100050 ||| μ = μ) {s₀ s : State} (h : Keeps μ s₀ s) (i blk : Nat) (k : Block) :
    Keeps μ s₀ (State.moveBack s i blk k) := by
  unfold State.moveBack
  repeat' first
    | with_reducible assumption
    | with_reducible apply State.modBib_keeps (sub_of hμ (by decide))
    | with_reducible apply State.releasePages_keeps (sub_of hμ (by decide))
    | with_reducible apply State.tally_keeps (sub_of hμ (by decide))
    | dsimp only

theorem execTransferBlockDone_keeps (bib : Word) (blk : Nat) (s : State) :
    KeepsOut 0x14000100050 s (execTransferBlockDone bib blk s) := by
  have hμ : 0x14000100050 ||| 0x14000100050 = 0x14000100050 := by decide
  unfold execTransferBlockDone
  repeat' first
    | with_reducible apply KeepsOut.fault
    | with_reducible apply KeepsOut.next
    | with_reducible exact Keeps.refl _
    | with_reducible assumption
    | with_reducible apply State.moveBack_keeps (sub_of hμ (by decide))
    | with_reducible apply State.moveOut_keeps (sub_of hμ (by decide))
    | with_reducible apply State.staleInt_keeps (sub_of hμ (by decide))
    | split
    | dsimp only

theorem execRestoreDone_keeps (bib : Word) (s : State) :
    KeepsOut 0x30c0007060dc s (execRestoreDone bib s) := by
  have hμ : 0x30c0007060dc ||| 0x30c0007060dc = 0x30c0007060dc := by decide
  unfold execRestoreDone
  repeat' first
    | with_reducible apply KeepsOut.next
    | with_reducible exact Keeps.refl _
    | with_reducible assumption
    | with_reducible apply State.dropRestore_keeps (sub_of hμ (by decide))
    | with_reducible apply State.eventRecord_keeps (sub_of hμ (by decide))
    | with_reducible apply State.modBib_keeps (sub_of hμ (by decide))
    | with_reducible apply State.staleInt_keeps (sub_of hμ (by decide))
    | with_reducible apply State.transition_keeps (sub_of hμ (by decide))
    | split
    | dsimp only

theorem State.retryRestores_keeps {μ : Nat} (hμ : 0x10000100050 ||| μ = μ) {s₀ s : State} (h : Keeps μ s₀ s) :
    Keeps μ s₀ (State.retryRestores s) := by
  unfold State.retryRestores
  repeat' first
    | with_reducible assumption
    | with_reducible apply State.requestRestore_keeps (sub_of hμ (by decide))
    | with_reducible apply Keeps.foldl
    | intro _ _ _
    | dsimp only

theorem State.moveVectors_keeps {μ : Nat} (hμ : 0x40 ||| μ = μ) {s₀ s : State} (h : Keeps μ s₀ s) (o o' : Nat) :
    Keeps μ s₀ (State.moveVectors s o o') := by
  unfold State.moveVectors
  repeat' first
    | with_reducible assumption
    | with_reducible apply Keeps.modKvm (bit_of hμ (by decide))
    | with_reducible apply State.forgetVectors_keeps (sub_of hμ (by decide))
    | with_reducible apply State.put_keeps
    | with_reducible apply Keeps.foldl
    | exact KeepsPart.same _ _ fun _ => rfl
    | (with_reducible refine KeepsPart.intro fun x hx => ?_; simp only [Kvm.canonical, Bool.and_eq_true] at hx ⊢; simp [hx])
    | intro _ _ _
    | (with_reducible refine bit_of hμ ?_; first | decide | (simp (disch := decide) only [window_sel, window_die, window_arkKey, window_arkKey_add, window_keyAt, window_keyAt_add, window_wordAt, window_arkWord, window_drop, window_drop_hi, window_msix, window_srcWord, window_target]; decide))
    | dsimp only

theorem State.finishBuild_keeps {μ : Nat} (hμ : 0x30800070687c ||| μ = μ) {s₀ s : State} (h : Keeps μ s₀ s) (i p : Nat) :
    Keeps μ s₀ (State.finishBuild s i p) := by
  unfold State.finishBuild
  repeat' first
    | with_reducible assumption
    | with_reducible apply State.endInternal_keeps (sub_of hμ (by decide))
    | with_reducible apply State.modBib_keeps (sub_of hμ (by decide))
    | with_reducible apply State.moveVectors_keeps (sub_of hμ (by decide))
    | with_reducible apply State.putPfx_keeps (sub_of hμ (by decide))
    | with_reducible apply State.unmapEmpty_keeps (sub_of hμ (by decide))
    | with_reducible apply State.workRecord_keeps (sub_of hμ (by decide))
    | dsimp only

theorem execPrefixReady_keeps (i : Fin 65536) (s : State) :
    KeepsOut 0x30800070687c s (execPrefixReady i s) := by
  have hμ : 0x30800070687c ||| 0x30800070687c = 0x30800070687c := by decide
  unfold execPrefixReady
  repeat' first
    | with_reducible apply KeepsOut.next
    | with_reducible exact Keeps.refl _
    | with_reducible assumption
    | with_reducible apply State.finishBuild_keeps (sub_of hμ (by decide))
    | split
    | dsimp only

theorem State.endPoisoned_keeps {μ : Nat} (hμ : 0x31c000706adc ||| μ = μ) {s₀ s : State} (h : Keeps μ s₀ s) (i : Nat) :
    Keeps μ s₀ (State.endPoisoned s i) := by
  unfold State.endPoisoned
  repeat' first
    | with_reducible assumption
    | with_reducible apply Keeps.modFab (bit_of hμ (by decide))
    | with_reducible apply State.count_keeps
    | with_reducible apply State.faultBib_keeps (sub_of hμ (by decide))
    | with_reducible apply Keeps.foldl
    | exact KeepsPart.same _ _ fun _ => rfl
    | (with_reducible refine KeepsPart.intro fun x hx => ?_; simp only [Fabric.canonical, Bool.and_eq_true] at hx ⊢; simp [hx])
    | intro _ _ _
    | (with_reducible refine bit_of hμ ?_; first | decide | (simp (disch := decide) only [window_sel, window_die, window_arkKey, window_arkKey_add, window_keyAt, window_keyAt_add, window_wordAt, window_arkWord, window_drop, window_drop_hi, window_msix, window_srcWord, window_target]; decide))
    | dsimp only

theorem State.poisonPage_keeps {μ : Nat} (hμ : 0x200000304050 ||| μ = μ) {s₀ s : State} (h : Keeps μ s₀ s) (i blk pg : Nat) :
    Keeps μ s₀ (State.poisonPage s i blk pg) := by
  unfold State.poisonPage
  repeat' first
    | with_reducible assumption
    | with_reducible apply State.modBib_keeps (sub_of hμ (by decide))
    | with_reducible apply State.putPfx_keeps (sub_of hμ (by decide))
    | with_reducible apply State.report_keeps (sub_of hμ (by decide))
    | split
    | dsimp only

theorem execPoison_keeps (i : Fin 65536) (page : Option (Nat × Nat)) (s : State) :
    KeepsOut 0x31c000706adc s (execPoison i page s) := by
  have hμ : 0x31c000706adc ||| 0x31c000706adc = 0x31c000706adc := by decide
  unfold execPoison
  repeat' first
    | with_reducible apply KeepsOut.next
    | with_reducible exact Keeps.refl _
    | with_reducible assumption
    | with_reducible apply State.endPoisoned_keeps (sub_of hμ (by decide))
    | with_reducible apply State.poisonPage_keeps (sub_of hμ (by decide))
    | with_reducible apply State.raise_keeps
    | with_reducible apply State.report_keeps (sub_of hμ (by decide))
    | split
    | (with_reducible refine bit_of hμ ?_; first | decide | (simp (disch := decide) only [window_sel, window_die, window_arkKey, window_arkKey_add, window_keyAt, window_keyAt_add, window_wordAt, window_arkWord, window_drop, window_drop_hi, window_msix, window_srcWord, window_target]; decide))
    | dsimp only

end Sys2Proof.Machine
end

