-- ==== Sys2Proof/Laws/KeepFaults.lean ====
section
/-!
SUPPORT. What the operations of Machine/Faults.lean keep (Laws/Keeps.lean).
-/

set_option linter.all false

namespace Sys2Proof.Machine

theorem State.modTile_keeps {μ : Nat} (hμ : 0x200 ||| μ = μ) {s₀ s : State} (h : Keeps μ s₀ s) (d t : Nat) (f : Tile → Tile) :
    Keeps μ s₀ (State.modTile s d t f) := by
  unfold State.modTile
  repeat' first
    | with_reducible assumption
    | with_reducible apply Keeps.modFab (bit_of hμ (by decide))
    | with_reducible apply State.put_keeps
    | exact KeepsPart.same _ _ fun _ => rfl
    | (with_reducible refine KeepsPart.intro fun x hx => ?_; simp only [Fabric.canonical, Bool.and_eq_true] at hx ⊢; simp [hx])
    | (with_reducible refine bit_of hμ ?_; first | decide | (simp (disch := decide) only [window_sel, window_die, window_arkKey, window_arkKey_add, window_keyAt, window_keyAt_add, window_wordAt, window_arkWord, window_drop, window_drop_hi, window_msix, window_srcWord, window_target]; decide))
    | dsimp only

theorem State.modArr_keeps {μ : Nat} (hμ : 0x200 ||| μ = μ) {s₀ s : State} (h : Keeps μ s₀ s) (d t a : Nat) (f : Arr → Arr) :
    Keeps μ s₀ (State.modArr s d t a f) := by
  unfold State.modArr
  repeat' first
    | with_reducible assumption
    | with_reducible apply Keeps.modFab (bit_of hμ (by decide))
    | with_reducible apply State.put_keeps
    | exact KeepsPart.same _ _ fun _ => rfl
    | (with_reducible refine KeepsPart.intro fun x hx => ?_; simp only [Fabric.canonical, Bool.and_eq_true] at hx ⊢; simp [hx])
    | (with_reducible refine bit_of hμ ?_; first | decide | (simp (disch := decide) only [window_sel, window_die, window_arkKey, window_arkKey_add, window_keyAt, window_keyAt_add, window_wordAt, window_arkWord, window_drop, window_drop_hi, window_msix, window_srcWord, window_target]; decide))
    | dsimp only

theorem State.mapTiles_keeps {μ : Nat} (hμ : 0x200 ||| μ = μ) {s₀ s : State} (h : Keeps μ s₀ s) (f : Tile → Tile) :
    Keeps μ s₀ (State.mapTiles s f) := by
  unfold State.mapTiles
  repeat' first
    | with_reducible assumption
    | with_reducible apply Keeps.modFab (bit_of hμ (by decide))
    | exact KeepsPart.same _ _ fun _ => rfl
    | (with_reducible refine KeepsPart.intro fun x hx => ?_; simp only [Fabric.canonical, Bool.and_eq_true] at hx ⊢; simp [hx])
    | dsimp only

theorem State.setDies_keeps {μ : Nat} (hμ : 0x1000000000000 ||| μ = μ) {s₀ s : State} (h : Keeps μ s₀ s) (n : Nat) :
    Keeps μ s₀ (State.setDies s n) := by
  unfold State.setDies
  repeat' first
    | with_reducible assumption
    | with_reducible apply State.put_keeps
    | with_reducible apply Keeps.foldl
    | split
    | intro _ _ _
    | (with_reducible refine bit_of hμ ?_; first | decide | (simp (disch := decide) only [window_sel, window_die, window_arkKey, window_arkKey_add, window_keyAt, window_keyAt_add, window_wordAt, window_arkWord, window_drop, window_drop_hi, window_msix, window_srcWord, window_target]; decide))
    | dsimp only

theorem State.showLap_keeps {μ : Nat} (hμ : 0x1000000000000 ||| μ = μ) {s₀ s : State} (h : Keeps μ s₀ s) (n : Nat) :
    Keeps μ s₀ (State.showLap s n) := by
  unfold State.showLap
  repeat' first
    | with_reducible assumption
    | with_reducible apply State.put_keeps
    | with_reducible apply Keeps.foldl
    | split
    | intro _ _ _
    | (with_reducible refine bit_of hμ ?_; first | decide | (simp (disch := decide) only [window_sel, window_die, window_arkKey, window_arkKey_add, window_keyAt, window_keyAt_add, window_wordAt, window_arkWord, window_drop, window_drop_hi, window_msix, window_srcWord, window_target]; decide))
    | dsimp only

theorem State.eraseFlash_keeps {μ : Nat} (hμ : 0x80000 ||| μ = μ) {s₀ s : State} (h : Keeps μ s₀ s) (lo len : Nat) :
    Keeps μ s₀ (State.eraseFlash s lo len) := by
  unfold State.eraseFlash
  repeat' first
    | with_reducible assumption
    | with_reducible apply Keeps.modBon (bit_of hμ (by decide))
    | exact KeepsPart.same _ _ fun _ => rfl
    | (with_reducible refine KeepsPart.intro fun x hx => ?_; simp only [Bonos.canonical, Bool.and_eq_true] at hx ⊢; simp [hx])
    | dsimp only

theorem State.writeFlash_keeps {μ : Nat} (hμ : 0x80000 ||| μ = μ) {s₀ s : State} (h : Keeps μ s₀ s) (lo : Nat) (bytes : List Byte) :
    Keeps μ s₀ (State.writeFlash s lo bytes) := by
  unfold State.writeFlash
  repeat' first
    | with_reducible assumption
    | with_reducible apply Keeps.modBon (bit_of hμ (by decide))
    | exact KeepsPart.same _ _ fun _ => rfl
    | (with_reducible refine KeepsPart.intro fun x hx => ?_; simp only [Bonos.canonical, Bool.and_eq_true] at hx ⊢; simp [hx])
    | dsimp only

theorem State.persist_keeps {μ : Nat} (hμ : 0x80000 ||| μ = μ) {s₀ s : State} (h : Keeps μ s₀ s) (r : Report) :
    Keeps μ s₀ (State.persist s r) := by
  unfold State.persist
  repeat' first
    | with_reducible assumption
    | with_reducible apply Keeps.modBon (bit_of hμ (by decide))
    | with_reducible apply State.eraseFlash_keeps (sub_of hμ (by decide))
    | with_reducible apply State.writeFlash_keeps (sub_of hμ (by decide))
    | exact KeepsPart.same _ _ fun _ => rfl
    | (with_reducible refine KeepsPart.intro fun x hx => ?_; simp only [Bonos.canonical, Bool.and_eq_true] at hx ⊢; simp [hx] <;> (repeat' split) <;> simp [hx])
    | split
    | dsimp only

theorem State.bonosEntry_keeps {μ : Nat} (hμ : 0x280000 ||| μ = μ) {s₀ s : State} (h : Keeps μ s₀ s) (kind detail : Nat) :
    Keeps μ s₀ (State.bonosEntry s kind detail) := by
  unfold State.bonosEntry
  repeat' first
    | with_reducible assumption
    | with_reducible apply Keeps.draw (bit_of hμ (by decide))
    | with_reducible apply Keeps.modBon (bit_of hμ (by decide))
    | with_reducible apply State.persist_keeps (sub_of hμ (by decide))
    | exact KeepsPart.same _ _ fun _ => rfl
    | (with_reducible refine KeepsPart.intro fun x hx => ?_; simp only [Bonos.canonical, Bool.and_eq_true] at hx ⊢; simp [hx] <;> (repeat' split) <;> simp [hx])
    | split
    | dsimp only

theorem State.writeOwed_keeps {μ : Nat} (hμ : 0x80000 ||| μ = μ) {s₀ s : State} (h : Keeps μ s₀ s) :
    Keeps μ s₀ (State.writeOwed s) := by
  unfold State.writeOwed
  repeat' first
    | with_reducible assumption
    | with_reducible apply Keeps.modBon (bit_of hμ (by decide))
    | with_reducible apply State.persist_keeps (sub_of hμ (by decide))
    | with_reducible apply Keeps.foldl
    | exact KeepsPart.same _ _ fun _ => rfl
    | (with_reducible refine KeepsPart.intro fun x hx => ?_; simp only [Bonos.canonical, Bool.and_eq_true] at hx ⊢; simp [hx])
    | intro _ _ _
    | dsimp only

theorem State.haltLatch_keeps {μ : Nat} (hμ : 0x1002400284400 ||| μ = μ) {s₀ s : State} (h : Keeps μ s₀ s) (cause : Nat) :
    Keeps μ s₀ (State.haltLatch s cause) := by
  unfold State.haltLatch
  repeat' first
    | with_reducible assumption
    | with_reducible apply Keeps.modAtt (bit_of hμ (by decide))
    | with_reducible apply Keeps.modPat (bit_of hμ (by decide))
    | with_reducible apply State.bonosEntry_keeps (sub_of hμ (by decide))
    | with_reducible apply State.count_keeps
    | with_reducible apply State.put_keeps
    | with_reducible apply State.raise_keeps
    | with_reducible apply State.setDies_keeps (sub_of hμ (by decide))
    | exact KeepsPart.same _ _ fun _ => rfl
    | (with_reducible refine KeepsPart.intro fun x hx => ?_; simp only [Attention.canonical, Patrol.canonical, Bool.and_eq_true] at hx ⊢; simp [hx] <;> (repeat' split) <;> simp [hx])
    | split
    | (with_reducible refine bit_of hμ ?_; first | decide | (simp (disch := decide) only [window_sel, window_die, window_arkKey, window_arkKey_add, window_keyAt, window_keyAt_add, window_wordAt, window_arkWord, window_drop, window_drop_hi, window_msix, window_srcWord, window_target]; decide))
    | dsimp only

theorem State.serviceFault_keeps {μ : Nat} (hμ : 0x200000304000 ||| μ = μ) {s₀ s : State} (h : Keeps μ s₀ s) (unit : Word) (n : Nat) :
    Keeps μ s₀ (State.serviceFault s unit n) := by
  unfold State.serviceFault
  repeat' first
    | with_reducible assumption
    | with_reducible apply Keeps.modPat (bit_of hμ (by decide))
    | with_reducible apply State.report_keeps (sub_of hμ (by decide))
    | exact KeepsPart.same _ _ fun _ => rfl
    | (with_reducible refine KeepsPart.intro fun x hx => ?_; simp only [Patrol.canonical, Bool.and_eq_true] at hx ⊢; simp [hx])
    | dsimp only

theorem State.setUnit_keeps {μ : Nat} (hμ : 0x2000000000 ||| μ = μ) {s₀ s : State} (h : Keeps μ s₀ s) (u n : Nat) (addr : Word) :
    Keeps μ s₀ (State.setUnit s u n addr) := by
  unfold State.setUnit
  repeat' first
    | with_reducible assumption
    | with_reducible apply Keeps.wr
    | with_reducible apply State.put_keeps
    | (with_reducible refine bit_of hμ ?_; first | decide | (simp (disch := decide) only [window_sel, window_die, window_arkKey, window_arkKey_add, window_keyAt, window_keyAt_add, window_wordAt, window_arkWord, window_drop, window_drop_hi, window_msix, window_srcWord, window_target]; decide))
    | dsimp only

theorem State.uncover_keeps {μ : Nat} (hμ : 0x202000304080 ||| μ = μ) {s₀ s : State} (h : Keeps μ s₀ s) (h : Hub) (addr : Word) :
    Keeps μ s₀ (State.uncover s h addr) := by
  unfold State.uncover
  repeat' first
    | with_reducible assumption
    | with_reducible apply Keeps.modPat (bit_of hμ (by decide))
    | with_reducible apply Keeps.modPlan (bit_of hμ (by decide))
    | with_reducible apply State.raise_keeps
    | with_reducible apply State.report_keeps (sub_of hμ (by decide))
    | with_reducible apply State.serviceFault_keeps (sub_of hμ (by decide))
    | exact KeepsPart.same _ _ fun _ => rfl
    | (with_reducible refine KeepsPart.intro fun x hx => ?_; simp only [Patrol.canonical, Bool.and_eq_true] at hx ⊢; simp [hx] <;> (repeat' split) <;> simp [hx])
    | split
    | (with_reducible refine bit_of hμ ?_; first | decide | (simp (disch := decide) only [window_sel, window_die, window_arkKey, window_arkKey_add, window_keyAt, window_keyAt_add, window_wordAt, window_arkWord, window_drop, window_drop_hi, window_msix, window_srcWord, window_target]; decide))
    | dsimp only

theorem State.claimUnit_keeps {μ : Nat} (hμ : 0x202000304080 ||| μ = μ) {s₀ s : State} (h : Keeps μ s₀ s) (h : Hub) (n : Nat) (addr : Word) :
    Keeps μ s₀ (State.claimUnit s h n addr) := by
  unfold State.claimUnit
  repeat' first
    | with_reducible assumption
    | with_reducible apply State.setUnit_keeps (sub_of hμ (by decide))
    | with_reducible apply State.uncover_keeps (sub_of hμ (by decide))
    | split
    | dsimp only

theorem State.unitFreed_keeps {μ : Nat} (hμ : 0x2000004080 ||| μ = μ) {s₀ s : State} (h : Keeps μ s₀ s) (h : Hub) :
    Keeps μ s₀ (State.unitFreed s h) := by
  unfold State.unitFreed
  repeat' first
    | with_reducible assumption
    | with_reducible apply Keeps.modPat (bit_of hμ (by decide))
    | with_reducible apply Keeps.modPlan (bit_of hμ (by decide))
    | with_reducible apply State.setUnit_keeps (sub_of hμ (by decide))
    | exact KeepsPart.same _ _ fun _ => rfl
    | (with_reducible refine KeepsPart.intro fun x hx => ?_; simp only [Patrol.canonical, Bool.and_eq_true] at hx ⊢; simp [hx] <;> (repeat' split) <;> simp [hx])
    | split
    | dsimp only

theorem State.returnUnits_keeps {μ : Nat} (hμ : 0x2000004080 ||| μ = μ) {s₀ s : State} (h : Keeps μ s₀ s) (addr : Word) :
    Keeps μ s₀ (State.returnUnits s addr) := by
  unfold State.returnUnits
  repeat' first
    | with_reducible assumption
    | with_reducible apply Keeps.modPat (bit_of hμ (by decide))
    | with_reducible apply State.setUnit_keeps (sub_of hμ (by decide))
    | with_reducible apply State.unitFreed_keeps (sub_of hμ (by decide))
    | with_reducible apply Keeps.foldl
    | exact KeepsPart.same _ _ fun _ => rfl
    | (with_reducible refine KeepsPart.intro fun x hx => ?_; simp only [Patrol.canonical, Bool.and_eq_true] at hx ⊢; simp [hx] <;> (repeat' split) <;> simp [hx])
    | split
    | intro _ _ _
    | dsimp only

theorem State.zeroToken_keeps {μ : Nat} (hμ : 0x200 ||| μ = μ) {s₀ s : State} (h : Keeps μ s₀ s) (w token : Nat) :
    Keeps μ s₀ (State.zeroToken s w token) := by
  unfold State.zeroToken
  repeat' first
    | with_reducible assumption
    | with_reducible apply Keeps.modFab (bit_of hμ (by decide))
    | exact KeepsPart.same _ _ fun _ => rfl
    | (with_reducible refine KeepsPart.intro fun x hx => ?_; simp only [Fabric.canonical, Bool.and_eq_true] at hx ⊢; simp [hx])
    | dsimp only

theorem State.markReplay_keeps {μ : Nat} (hμ : 0x210 ||| μ = μ) {s₀ s : State} (h : Keeps μ s₀ s) (w token : Nat) :
    Keeps μ s₀ (State.markReplay s w token) := by
  unfold State.markReplay
  repeat' first
    | with_reducible assumption
    | with_reducible apply State.modBib_keeps (sub_of hμ (by decide))
    | with_reducible apply State.zeroToken_keeps (sub_of hμ (by decide))
    | split
    | dsimp only

theorem State.faultReplay_keeps {μ : Nat} (hμ : 0x200000000210 ||| μ = μ) {s₀ s : State} (h : Keeps μ s₀ s) (w token : Nat) :
    Keeps μ s₀ (State.faultReplay s w token) := by
  unfold State.faultReplay
  repeat' first
    | with_reducible assumption
    | with_reducible apply State.count_keeps
    | with_reducible apply State.markReplay_keeps (sub_of hμ (by decide))
    | split
    | (with_reducible refine bit_of hμ ?_; first | decide | (simp (disch := decide) only [window_sel, window_die, window_arkKey, window_arkKey_add, window_keyAt, window_keyAt_add, window_wordAt, window_arkWord, window_drop, window_drop_hi, window_msix, window_srcWord, window_target]; decide))
    | dsimp only

theorem State.endUncovered_keeps {μ : Nat} (hμ : 0x30c000706adc ||| μ = μ) {s₀ s : State} (h : Keeps μ s₀ s) (w token : Nat) :
    Keeps μ s₀ (State.endUncovered s w token) := by
  unfold State.endUncovered
  repeat' first
    | with_reducible assumption
    | with_reducible apply Keeps.modFab (bit_of hμ (by decide))
    | with_reducible apply State.faultBib_keeps (sub_of hμ (by decide))
    | with_reducible apply State.zeroToken_keeps (sub_of hμ (by decide))
    | exact KeepsPart.same _ _ fun _ => rfl
    | (with_reducible refine KeepsPart.intro fun x hx => ?_; simp only [Fabric.canonical, Bool.and_eq_true] at hx ⊢; simp [hx] <;> (repeat' split) <;> simp [hx])
    | split
    | dsimp only

theorem State.spareOut_keeps {μ : Nat} (hμ : 0x200000304200 ||| μ = μ) {s₀ s : State} (h : Keeps μ s₀ s) (d t : Nat) :
    Keeps μ s₀ (State.spareOut s d t) := by
  unfold State.spareOut
  repeat' first
    | with_reducible assumption
    | with_reducible apply State.modTile_keeps (sub_of hμ (by decide))
    | with_reducible apply State.raise_keeps
    | with_reducible apply State.report_keeps (sub_of hμ (by decide))
    | (with_reducible refine bit_of hμ ?_; first | decide | (simp (disch := decide) only [window_sel, window_die, window_arkKey, window_arkKey_add, window_keyAt, window_keyAt_add, window_wordAt, window_arkWord, window_drop, window_drop_hi, window_msix, window_srcWord, window_target]; decide))
    | dsimp only

theorem State.takeSpare_keeps {μ : Nat} (hμ : 0x200000304200 ||| μ = μ) {s₀ s : State} (h : Keeps μ s₀ s) (d t : Nat) :
    Keeps μ s₀ (State.takeSpare s d t) := by
  unfold State.takeSpare
  repeat' first
    | with_reducible assumption
    | with_reducible apply State.modTile_keeps (sub_of hμ (by decide))
    | with_reducible apply State.spareOut_keeps (sub_of hμ (by decide))
    | split
    | dsimp only

theorem State.fence_keeps {μ : Nat} (hμ : 0x200000304200 ||| μ = μ) {s₀ s : State} (h : Keeps μ s₀ s) (d t : Nat) :
    Keeps μ s₀ (State.fence s d t) := by
  unfold State.fence
  repeat' first
    | with_reducible assumption
    | with_reducible apply State.count_keeps
    | with_reducible apply State.modTile_keeps (sub_of hμ (by decide))
    | with_reducible apply State.raise_keeps
    | with_reducible apply State.takeSpare_keeps (sub_of hμ (by decide))
    | (with_reducible refine bit_of hμ ?_; first | decide | (simp (disch := decide) only [window_sel, window_die, window_arkKey, window_arkKey_add, window_keyAt, window_keyAt_add, window_wordAt, window_arkWord, window_drop, window_drop_hi, window_msix, window_srcWord, window_target]; decide))
    | dsimp only

theorem State.claimBoth_keeps {μ : Nat} (hμ : 0x202000304080 ||| μ = μ) {s₀ s : State} (h : Keeps μ s₀ s) (d t : Nat) :
    Keeps μ s₀ (State.claimBoth s d t) := by
  unfold State.claimBoth
  repeat' first
    | with_reducible assumption
    | with_reducible apply State.claimUnit_keeps (sub_of hμ (by decide))
    | with_reducible apply Keeps.foldl
    | split
    | intro _ _ _
    | dsimp only

theorem State.planFence_keeps {μ : Nat} (hμ : 0x200 ||| μ = μ) {s₀ s : State} (h : Keeps μ s₀ s) (d t : Nat) :
    Keeps μ s₀ (State.planFence s d t) := by
  unfold State.planFence
  repeat' first
    | with_reducible assumption
    | with_reducible apply State.modTile_keeps (sub_of hμ (by decide))
    | split
    | dsimp only

end Sys2Proof.Machine
end

