-- ==== Sys2Proof/Laws/KeepArrays.lean ====
section
/-!
SUPPORT. What the operations of Machine/Arrays.lean keep (Laws/Keeps.lean).
-/

set_option linter.all false

namespace Sys2Proof.Machine

theorem State.planFault_keeps {μ : Nat} (hμ : 0x1000000000200 ||| μ = μ) {s₀ s : State} (h : Keeps μ s₀ s) (d t : Nat) (w : Option Nat) :
    Keeps μ s₀ (State.planFault s d t w) := by
  unfold State.planFault
  repeat' first
    | with_reducible assumption
    | with_reducible apply State.modTile_keeps (sub_of hμ (by decide))
    | with_reducible apply State.raise_keeps
    | split
    | (with_reducible refine bit_of hμ ?_; first | decide | (simp (disch := decide) only [window_sel, window_die, window_arkKey, window_arkKey_add, window_keyAt, window_keyAt_add, window_wordAt, window_arkWord, window_drop, window_drop_hi, window_msix, window_srcWord, window_target]; decide))
    | dsimp only

theorem State.credit_keeps {μ : Nat} (hμ : 0x100 ||| μ = μ) {s₀ s : State} (h : Keeps μ s₀ s) (fj : Nat) :
    Keeps μ s₀ (State.credit s fj) := by
  unfold State.credit
  repeat' first
    | with_reducible assumption
    | with_reducible apply Keeps.modLedger (bit_of hμ (by decide))
    | dsimp only

theorem State.countFiring_keeps {μ : Nat} (hμ : 0x1000000100000 ||| μ = μ) {s₀ s : State} (h : Keeps μ s₀ s) (d n : Nat) (h : Hub) :
    Keeps μ s₀ (State.countFiring s d n h) := by
  unfold State.countFiring
  repeat' first
    | with_reducible assumption
    | with_reducible apply State.count_keeps
    | with_reducible apply State.tally_keeps (sub_of hμ (by decide))
    | split
    | (with_reducible refine bit_of hμ ?_; first | decide | (simp (disch := decide) only [window_sel, window_die, window_arkKey, window_arkKey_add, window_keyAt, window_keyAt_add, window_wordAt, window_arkWord, window_drop, window_drop_hi, window_msix, window_srcWord, window_target]; decide))
    | dsimp only

theorem State.fire_keeps {μ : Nat} (hμ : 0x1000000100300 ||| μ = μ) {s₀ s : State} (h : Keeps μ s₀ s) (d t w : Nat) (rec : DWord) :
    Keeps μ s₀ (State.fire s d t w rec) := by
  unfold State.fire
  repeat' first
    | with_reducible assumption
    | with_reducible apply State.countFiring_keeps (sub_of hμ (by decide))
    | with_reducible apply State.credit_keeps (sub_of hμ (by decide))
    | with_reducible apply State.modArr_keeps (sub_of hμ (by decide))
    | with_reducible apply State.planFault_keeps (sub_of hμ (by decide))
    | split
    | dsimp only

theorem execFiringIssue_keeps (die : Fin 16) (tile : Fin 8448) (wave : Fin 96) (rec : DWord) (s : State) :
    KeepsOut 0x1000000100300 s (execFiringIssue die tile wave rec s) := by
  have hμ : 0x1000000100300 ||| 0x1000000100300 = 0x1000000100300 := by decide
  unfold execFiringIssue
  repeat' first
    | with_reducible apply KeepsOut.next
    | with_reducible exact Keeps.refl _
    | with_reducible assumption
    | with_reducible apply State.fire_keeps (sub_of hμ (by decide))
    | dsimp only

theorem State.transpose_keeps {μ : Nat} (hμ : 0x1000000000300 ||| μ = μ) {s₀ s : State} (h : Keeps μ s₀ s) (d t w : Nat) (rec : DWord) (codes : List (BitVec 4)) :
    Keeps μ s₀ (State.transpose s d t w rec codes) := by
  unfold State.transpose
  repeat' first
    | with_reducible assumption
    | with_reducible apply State.count_keeps
    | with_reducible apply State.credit_keeps (sub_of hμ (by decide))
    | with_reducible apply State.modArr_keeps (sub_of hμ (by decide))
    | with_reducible apply State.planFault_keeps (sub_of hμ (by decide))
    | split
    | (with_reducible refine bit_of hμ ?_; first | decide | (simp (disch := decide) only [window_sel, window_die, window_arkKey, window_arkKey_add, window_keyAt, window_keyAt_add, window_wordAt, window_arkWord, window_drop, window_drop_hi, window_msix, window_srcWord, window_target]; decide))
    | dsimp only

theorem execTransposedRead_keeps (die : Fin 16) (tile : Fin 8448) (wave : Fin 96) (rec : DWord) (codes : List (BitVec 4)) (s : State) :
    KeepsOut 0x1000000000300 s (execTransposedRead die tile wave rec codes s) := by
  have hμ : 0x1000000000300 ||| 0x1000000000300 = 0x1000000000300 := by decide
  unfold execTransposedRead
  repeat' first
    | with_reducible apply KeepsOut.next
    | with_reducible exact Keeps.refl _
    | with_reducible assumption
    | with_reducible apply State.transpose_keeps (sub_of hμ (by decide))
    | dsimp only

theorem State.readRefs_keeps {μ : Nat} (hμ : 0x1000000000300 ||| μ = μ) {s₀ s : State} (h : Keeps μ s₀ s) (d t a : Nat) :
    Keeps μ s₀ (State.readRefs s d t a) := by
  unfold State.readRefs
  repeat' first
    | with_reducible assumption
    | with_reducible apply State.count_keeps
    | with_reducible apply State.credit_keeps (sub_of hμ (by decide))
    | with_reducible apply State.modArr_keeps (sub_of hμ (by decide))
    | with_reducible apply State.planFault_keeps (sub_of hμ (by decide))
    | split
    | (with_reducible refine bit_of hμ ?_; first | decide | (simp (disch := decide) only [window_sel, window_die, window_arkKey, window_arkKey_add, window_keyAt, window_keyAt_add, window_wordAt, window_arkWord, window_drop, window_drop_hi, window_msix, window_srcWord, window_target]; decide))
    | dsimp only

theorem execReferenceRead_keeps (die : Fin 16) (tile : Fin 8448) (array : Fin 256) (s : State) :
    KeepsOut 0x1000000000300 s (execReferenceRead die tile array s) := by
  have hμ : 0x1000000000300 ||| 0x1000000000300 = 0x1000000000300 := by decide
  unfold execReferenceRead
  repeat' first
    | with_reducible apply KeepsOut.next
    | with_reducible exact Keeps.refl _
    | with_reducible assumption
    | with_reducible apply State.readRefs_keeps (sub_of hμ (by decide))
    | dsimp only

theorem State.countCodes_keeps {μ : Nat} (hμ : 0x1000000100200 ||| μ = μ) {s₀ s : State} (h : Keeps μ s₀ s) (d t : Nat) (h : Held) (codes : List (Int × Bool)) :
    Keeps μ s₀ (State.countCodes s d t h codes) := by
  unfold State.countCodes
  repeat' first
    | with_reducible assumption
    | with_reducible apply State.count_keeps
    | with_reducible apply State.modTile_keeps (sub_of hμ (by decide))
    | with_reducible apply State.tally_keeps (sub_of hμ (by decide))
    | split
    | (with_reducible refine bit_of hμ ?_; first | decide | (simp (disch := decide) only [window_sel, window_die, window_arkKey, window_arkKey_add, window_keyAt, window_keyAt_add, window_wordAt, window_arkWord, window_drop, window_drop_hi, window_msix, window_srcWord, window_target]; decide))
    | dsimp only

theorem State.drainArray_keeps {μ : Nat} (hμ : 0x200 ||| μ = μ) {s₀ s : State} (h : Keeps μ s₀ s) (d t a : Nat) :
    Keeps μ s₀ (State.drainArray s d t a) := by
  unfold State.drainArray
  repeat' first
    | with_reducible assumption
    | with_reducible apply State.modArr_keeps (sub_of hμ (by decide))
    | dsimp only

theorem State.accumulate_keeps {μ : Nat} (hμ : 0x1000000100200 ||| μ = μ) {s₀ s : State} (h : Keeps μ s₀ s) (d t a : Nat) (h : Held) (charge : List Int) :
    Keeps μ s₀ (State.accumulate s d t a h charge) := by
  unfold State.accumulate
  repeat' first
    | with_reducible assumption
    | with_reducible apply State.charge_keeps (sub_of hμ (by decide))
    | with_reducible apply State.countCodes_keeps (sub_of hμ (by decide))
    | with_reducible apply State.count_keeps
    | with_reducible apply State.drainArray_keeps (sub_of hμ (by decide))
    | with_reducible apply State.modTile_keeps (sub_of hμ (by decide))
    | with_reducible apply State.planFault_keeps (sub_of hμ (by decide))
    | with_reducible apply State.put_keeps
    | split
    | (with_reducible refine bit_of hμ ?_; first | decide | (simp (disch := decide) only [window_sel, window_die, window_arkKey, window_arkKey_add, window_keyAt, window_keyAt_add, window_wordAt, window_arkWord, window_drop, window_drop_hi, window_msix, window_srcWord, window_target]; decide))
    | dsimp only

theorem State.addReference_keeps {μ : Nat} (hμ : 0x200 ||| μ = μ) {s₀ s : State} (h : Keeps μ s₀ s) (d t a : Nat) (charge : List Int) :
    Keeps μ s₀ (State.addReference s d t a charge) := by
  unfold State.addReference
  repeat' first
    | with_reducible assumption
    | with_reducible apply State.charge_keeps (sub_of hμ (by decide))
    | with_reducible apply State.modArr_keeps (sub_of hμ (by decide))
    | split
    | dsimp only

theorem State.convert_keeps {μ : Nat} (hμ : 0x1000000100200 ||| μ = μ) {s₀ s : State} (h : Keeps μ s₀ s) (d t w : Nat) (rec : DWord) (charge : List Int) :
    Keeps μ s₀ (State.convert s d t w rec charge) := by
  unfold State.convert
  repeat' first
    | with_reducible assumption
    | with_reducible apply State.accumulate_keeps (sub_of hμ (by decide))
    | with_reducible apply State.addReference_keeps (sub_of hμ (by decide))
    | with_reducible apply State.charge_keeps (sub_of hμ (by decide))
    | with_reducible apply State.drainArray_keeps (sub_of hμ (by decide))
    | with_reducible apply State.planFault_keeps (sub_of hμ (by decide))
    | with_reducible apply State.tally_keeps (sub_of hμ (by decide))
    | split
    | dsimp only

theorem execConversionSlot_keeps (die : Fin 16) (tile : Fin 8448) (wave : Fin 96) (rec : DWord) (charge : List Int) (s : State) :
    KeepsOut 0x1000000100200 s (execConversionSlot die tile wave rec charge s) := by
  have hμ : 0x1000000100200 ||| 0x1000000100200 = 0x1000000100200 := by decide
  unfold execConversionSlot
  repeat' first
    | with_reducible apply KeepsOut.next
    | with_reducible exact Keeps.refl _
    | with_reducible assumption
    | with_reducible apply State.charge_keeps (sub_of hμ (by decide))
    | with_reducible apply State.convert_keeps (sub_of hμ (by decide))
    | dsimp only

theorem State.sendPartial_keeps {μ : Nat} (hμ : 0x200 ||| μ = μ) {s₀ s : State} (h : Keeps μ s₀ s) (d t : Nat) (p : Accum) (valid : Bool) :
    Keeps μ s₀ (State.sendPartial s d t p valid) := by
  unfold State.sendPartial
  repeat' first
    | with_reducible assumption
    | with_reducible apply Keeps.modFab (bit_of hμ (by decide))
    | with_reducible apply State.put_keeps
    | exact KeepsPart.same _ _ fun _ => rfl
    | (with_reducible refine KeepsPart.intro fun x hx => ?_; simp only [Fabric.canonical, Bool.and_eq_true] at hx ⊢; simp [hx])
    | (with_reducible refine bit_of hμ ?_; first | decide | (simp (disch := decide) only [window_sel, window_die, window_arkKey, window_arkKey_add, window_keyAt, window_keyAt_add, window_wordAt, window_arkWord, window_drop, window_drop_hi, window_msix, window_srcWord, window_target]; decide))
    | dsimp only

theorem State.releasePartial_keeps {μ : Nat} (hμ : 0x200 ||| μ = μ) {s₀ s : State} (h : Keeps μ s₀ s) (d t pair : Nat) :
    Keeps μ s₀ (State.releasePartial s d t pair) := by
  unfold State.releasePartial
  repeat' first
    | with_reducible assumption
    | with_reducible apply State.modTile_keeps (sub_of hμ (by decide))
    | with_reducible apply State.sendPartial_keeps (sub_of hμ (by decide))
    | split
    | dsimp only

theorem execPartialRelease_keeps (die : Fin 16) (tile : Fin 8448) (pair : Fin 64) (s : State) :
    KeepsOut 0x200 s (execPartialRelease die tile pair s) := by
  have hμ : 0x200 ||| 0x200 = 0x200 := by decide
  unfold execPartialRelease
  repeat' first
    | with_reducible apply KeepsOut.next
    | with_reducible exact Keeps.refl _
    | with_reducible assumption
    | with_reducible apply State.releasePartial_keeps (sub_of hμ (by decide))
    | dsimp only

theorem State.updateGain_keeps {μ : Nat} (hμ : 0x2000000200 ||| μ = μ) {s₀ s : State} (h : Keeps μ s₀ s) (d t a : Nat) :
    Keeps μ s₀ (State.updateGain s d t a) := by
  unfold State.updateGain
  repeat' first
    | with_reducible assumption
    | with_reducible apply State.count_keeps
    | with_reducible apply State.modArr_keeps (sub_of hμ (by decide))
    | with_reducible apply State.raise_keeps
    | with_reducible apply Keeps.foldl
    | split
    | intro _ _ _
    | (with_reducible refine bit_of hμ ?_; first | decide | (simp (disch := decide) only [window_sel, window_die, window_arkKey, window_arkKey_add, window_keyAt, window_keyAt_add, window_wordAt, window_arkWord, window_drop, window_drop_hi, window_msix, window_srcWord, window_target]; decide))
    | dsimp only

theorem execDriftGainUpdate_keeps (die : Fin 16) (tile : Fin 8448) (array : Fin 256) (s : State) :
    KeepsOut 0x2000000200 s (execDriftGainUpdate die tile array s) := by
  have hμ : 0x2000000200 ||| 0x2000000200 = 0x2000000200 := by decide
  unfold execDriftGainUpdate
  repeat' first
    | with_reducible apply KeepsOut.next
    | with_reducible exact Keeps.refl _
    | with_reducible assumption
    | with_reducible apply State.updateGain_keeps (sub_of hμ (by decide))
    | dsimp only

theorem State.startTest_keeps {μ : Nat} (hμ : 0x1000000000200 ||| μ = μ) {s₀ s : State} (h : Keeps μ s₀ s) (d : Nat) :
    Keeps μ s₀ (State.startTest s d) := by
  unfold State.startTest
  repeat' first
    | with_reducible assumption
    | with_reducible apply Keeps.modFab (bit_of hμ (by decide))
    | with_reducible apply State.modTile_keeps (sub_of hμ (by decide))
    | with_reducible apply State.put_keeps
    | exact KeepsPart.same _ _ fun _ => rfl
    | (with_reducible refine KeepsPart.intro fun x hx => ?_; simp only [Fabric.canonical, Bool.and_eq_true] at hx ⊢; simp [hx] <;> (repeat' split) <;> simp [hx])
    | split
    | (with_reducible refine bit_of hμ ?_; first | decide | (simp (disch := decide) only [window_sel, window_die, window_arkKey, window_arkKey_add, window_keyAt, window_keyAt_add, window_wordAt, window_arkWord, window_drop, window_drop_hi, window_msix, window_srcWord, window_target]; decide))
    | dsimp only

theorem State.writeTestCtl_keeps {μ : Nat} (hμ : 0x1208000304200 ||| μ = μ) {s₀ s : State} (h : Keeps μ s₀ s) (req d : Nat) (v : Word) :
    Keeps μ s₀ (State.writeTestCtl s req d v) := by
  unfold State.writeTestCtl
  repeat' first
    | with_reducible assumption
    | with_reducible apply State.put_keeps
    | with_reducible apply State.startTest_keeps (sub_of hμ (by decide))
    | with_reducible apply State.violation_keeps (sub_of hμ (by decide))
    | split
    | (with_reducible refine bit_of hμ ?_; first | decide | (simp (disch := decide) only [window_sel, window_die, window_arkKey, window_arkKey_add, window_keyAt, window_keyAt_add, window_wordAt, window_arkWord, window_drop, window_drop_hi, window_msix, window_srcWord, window_target]; decide))
    | dsimp only

theorem execArkTestSeparate_keeps (die : Fin 16) (v : Word) (s : State) :
    KeepsOut 0x1208000304200 s (execArkTestSeparate die v s) := by
  have hμ : 0x1208000304200 ||| 0x1208000304200 = 0x1208000304200 := by decide
  unfold execArkTestSeparate
  repeat' first
    | with_reducible apply KeepsOut.next
    | with_reducible exact Keeps.refl _
    | with_reducible assumption
    | with_reducible apply State.undecoded_keeps (sub_of hμ (by decide))
    | with_reducible apply State.writeTestCtl_keeps (sub_of hμ (by decide))
    | split
    | dsimp only

theorem execArkTestMerged_keeps (die : Fin 16) (v : Word) (s : State) :
    KeepsOut 0x1208000304200 s (execArkTestMerged die v s) := by
  have hμ : 0x1208000304200 ||| 0x1208000304200 = 0x1208000304200 := by decide
  unfold execArkTestMerged
  repeat' first
    | with_reducible apply KeepsOut.next
    | with_reducible exact Keeps.refl _
    | with_reducible assumption
    | with_reducible apply State.undecoded_keeps (sub_of hμ (by decide))
    | with_reducible apply State.writeTestCtl_keeps (sub_of hμ (by decide))
    | split
    | dsimp only

theorem execArkTestTransposed_keeps (die : Fin 16) (v : Word) (s : State) :
    KeepsOut 0x1208000304200 s (execArkTestTransposed die v s) := by
  have hμ : 0x1208000304200 ||| 0x1208000304200 = 0x1208000304200 := by decide
  unfold execArkTestTransposed
  repeat' first
    | with_reducible apply KeepsOut.next
    | with_reducible exact Keeps.refl _
    | with_reducible assumption
    | with_reducible apply State.undecoded_keeps (sub_of hμ (by decide))
    | with_reducible apply State.writeTestCtl_keeps (sub_of hμ (by decide))
    | split
    | dsimp only

theorem execArkTestReference_keeps (die : Fin 16) (v : Word) (s : State) :
    KeepsOut 0x1208000304200 s (execArkTestReference die v s) := by
  have hμ : 0x1208000304200 ||| 0x1208000304200 = 0x1208000304200 := by decide
  unfold execArkTestReference
  repeat' first
    | with_reducible apply KeepsOut.next
    | with_reducible exact Keeps.refl _
    | with_reducible assumption
    | with_reducible apply State.undecoded_keeps (sub_of hμ (by decide))
    | with_reducible apply State.writeTestCtl_keeps (sub_of hμ (by decide))
    | split
    | dsimp only

theorem State.endTest_keeps {μ : Nat} (hμ : 0x1000000000200 ||| μ = μ) {s₀ s : State} (h : Keeps μ s₀ s) (d : Nat) (charge : List Int) :
    Keeps μ s₀ (State.endTest s d charge) := by
  unfold State.endTest
  repeat' first
    | with_reducible assumption
    | with_reducible apply Keeps.modFab (bit_of hμ (by decide))
    | with_reducible apply Keeps.wr
    | with_reducible apply State.charge_keeps (sub_of hμ (by decide))
    | with_reducible apply State.modTile_keeps (sub_of hμ (by decide))
    | with_reducible apply State.put_keeps
    | with_reducible apply Keeps.foldl
    | exact KeepsPart.same _ _ fun _ => rfl
    | (with_reducible refine KeepsPart.intro fun x hx => ?_; simp only [Fabric.canonical, Bool.and_eq_true] at hx ⊢; simp [hx] <;> (repeat' split) <;> simp [hx])
    | split
    | intro _ _ _
    | (with_reducible refine bit_of hμ ?_; first | decide | (simp (disch := decide) only [window_sel, window_die, window_arkKey, window_arkKey_add, window_keyAt, window_keyAt_add, window_wordAt, window_arkWord, window_drop, window_drop_hi, window_msix, window_srcWord, window_target]; decide))
    | dsimp only

theorem execArkTestDone_keeps (die : Fin 16) (charge : List Int) (s : State) :
    KeepsOut 0x1000000000200 s (execArkTestDone die charge s) := by
  have hμ : 0x1000000000200 ||| 0x1000000000200 = 0x1000000000200 := by decide
  unfold execArkTestDone
  repeat' first
    | with_reducible apply KeepsOut.next
    | with_reducible exact Keeps.refl _
    | with_reducible assumption
    | with_reducible apply State.charge_keeps (sub_of hμ (by decide))
    | with_reducible apply State.endTest_keeps (sub_of hμ (by decide))
    | dsimp only

theorem State.claimTile_keeps {μ : Nat} (hμ : 0x200 ||| μ = μ) {s₀ s : State} (h : Keeps μ s₀ s) (d t : Nat) (st : TileState) :
    Keeps μ s₀ (State.claimTile s d t st) := by
  unfold State.claimTile
  repeat' first
    | with_reducible assumption
    | with_reducible apply State.modTile_keeps (sub_of hμ (by decide))
    | split
    | dsimp only

end Sys2Proof.Machine
end

