-- ==== Sys2Proof/Laws/KeepQuant.lean ====
section
/-!
SUPPORT. What the operations of Machine/Quant.lean keep (Laws/Keeps.lean).
-/

set_option linter.all false

namespace Sys2Proof.Machine

theorem State.offerResidue_keeps {μ : Nat} (hμ : 0x2000000200 ||| μ = μ) {s₀ : State} {s : State} {w token l p : Nat} {out : Bool × State} (hk : Keeps μ s₀ s)
    (e : State.offerResidue s w token l p = out) : Keeps μ s₀ out.2 := by
  subst e
  unfold State.offerResidue
  repeat' first
    | with_reducible assumption
    | with_reducible apply Keeps.modFab (bit_of hμ (by decide))
    | with_reducible apply State.count_keeps
    | with_reducible apply State.put_keeps
    | exact KeepsPart.same _ _ fun _ => rfl
    | (with_reducible refine KeepsPart.intro fun x hx => ?_; simp only [Fabric.canonical, Bool.and_eq_true] at hx ⊢; simp [hx] <;> (repeat' split) <;> simp [hx])
    | split
    | (with_reducible refine bit_of hμ ?_; first | decide | (simp (disch := decide) only [window_sel, window_die, window_arkKey, window_arkKey_add, window_keyAt, window_keyAt_add, window_wordAt, window_arkWord, window_drop, window_drop_hi, window_msix, window_srcWord, window_target]; decide))
    | dsimp only

theorem State.offerResidue_keeps' {μ : Nat} (hμ : 0x2000000200 ||| μ = μ) {s₀ uu : State} {s : State} {w token l p : Nat} {xx : Bool} (hk : Keeps μ s₀ s)
    (e : State.offerResidue s w token l p = (xx, uu)) : Keeps μ s₀ uu := by
  have r := State.offerResidue_keeps hμ hk e
  exact r

theorem State.offerBlock_keeps {μ : Nat} (hμ : 0x2000000200 ||| μ = μ) {s₀ : State} {s : State} {w token l p : Nat} {b : RawBlock} {out : List (Nat × Word) × State} (hk : Keeps μ s₀ s)
    (e : State.offerBlock s w token l p b = out) : Keeps μ s₀ out.2 := by
  subst e
  unfold State.offerBlock
  repeat' first
    | with_reducible assumption
    | with_reducible refine State.offerResidue_keeps' (sub_of hμ (by decide)) ?_ (by assumption)
    | with_reducible refine State.offerResidue_keeps (sub_of hμ (by decide)) ?_ rfl
    | with_reducible apply Keeps.foldl
    | with_reducible apply Keeps.foldl_snd
    | with_reducible apply Keeps.foldl_fst
    | split
    | intro _ _ _
    | dsimp only

theorem State.offerBlock_keeps' {μ : Nat} (hμ : 0x2000000200 ||| μ = μ) {s₀ uu : State} {s : State} {w token l p : Nat} {b : RawBlock} {xx : List (Nat × Word)} (hk : Keeps μ s₀ s)
    (e : State.offerBlock s w token l p b = (xx, uu)) : Keeps μ s₀ uu := by
  have r := State.offerBlock_keeps hμ hk e
  exact r

theorem State.countBlock_keeps {μ : Nat} (hμ : 0x200 ||| μ = μ) {s₀ s : State} (h : Keeps μ s₀ s) (m l p : Nat) (bib : Word) (sat nil : Nat) :
    Keeps μ s₀ (State.countBlock s m l p bib sat nil) := by
  unfold State.countBlock
  repeat' first
    | with_reducible assumption
    | with_reducible apply Keeps.modFab (bit_of hμ (by decide))
    | with_reducible apply State.put_keeps
    | exact KeepsPart.same _ _ fun _ => rfl
    | (with_reducible refine KeepsPart.intro fun x hx => ?_; simp only [Fabric.canonical, Bool.and_eq_true] at hx ⊢; simp [hx] <;> (repeat' split) <;> simp [hx])
    | split
    | (with_reducible refine bit_of hμ ?_; first | decide | (simp (disch := decide) only [window_sel, window_die, window_arkKey, window_arkKey_add, window_keyAt, window_keyAt_add, window_wordAt, window_arkWord, window_drop, window_drop_hi, window_msix, window_srcWord, window_target]; decide))
    | dsimp only

theorem State.storeBlock_keeps {μ : Nat} (hμ : 0x2000000200 ||| μ = μ) {s₀ s : State} (h : Keeps μ s₀ s) (m w token l p c : Nat) (wide : Bool) (floor : Int) (bib : Word) (b : RawBlock) :
    Keeps μ s₀ (State.storeBlock s m w token l p c wide floor bib b) := by
  unfold State.storeBlock
  repeat' first
    | with_reducible assumption
    | with_reducible apply Keeps.modFab (bit_of hμ (by decide))
    | with_reducible apply State.countBlock_keeps (sub_of hμ (by decide))
    | with_reducible refine State.offerBlock_keeps' (sub_of hμ (by decide)) ?_ (by assumption)
    | with_reducible refine State.offerBlock_keeps (sub_of hμ (by decide)) ?_ rfl
    | with_reducible apply State.put_keeps
    | exact KeepsPart.same _ _ fun _ => rfl
    | (with_reducible refine KeepsPart.intro fun x hx => ?_; simp only [Fabric.canonical, Bool.and_eq_true] at hx ⊢; simp [hx] <;> (repeat' split) <;> simp [hx])
    | split
    | (with_reducible refine bit_of hμ ?_; first | decide | (simp (disch := decide) only [window_sel, window_die, window_arkKey, window_arkKey_add, window_keyAt, window_keyAt_add, window_wordAt, window_arkWord, window_drop, window_drop_hi, window_msix, window_srcWord, window_target]; decide))
    | dsimp only

theorem State.runHub_keeps {μ : Nat} (hμ : 0x2000000000 ||| μ = μ) {s₀ : State} {s : State} {α : Type} {x : Hubm α} {out : α × State} (hk : Keeps μ s₀ s)
    (e : State.runHub s x = out) : Keeps μ s₀ out.2 := by
  subst e
  unfold State.runHub
  repeat' first
    | with_reducible assumption
    | with_reducible apply State.count_keeps
    | (with_reducible refine bit_of hμ ?_; first | decide | (simp (disch := decide) only [window_sel, window_die, window_arkKey, window_arkKey_add, window_keyAt, window_keyAt_add, window_wordAt, window_arkWord, window_drop, window_drop_hi, window_msix, window_srcWord, window_target]; decide))
    | dsimp only

theorem State.runHub_keeps' {μ : Nat} (hμ : 0x2000000000 ||| μ = μ) {s₀ uu : State} {s : State} {α : Type} {x : Hubm α} {xx : α} (hk : Keeps μ s₀ s)
    (e : State.runHub s x = (xx, uu)) : Keeps μ s₀ uu := by
  have r := State.runHub_keeps hμ hk e
  exact r

theorem State.quantise_keeps {μ : Nat} (hμ : 0x2000000200 ||| μ = μ) {s₀ s : State} (h : Keeps μ s₀ s) (w token l p : Nat) (input : List (BitVec 16)) :
    Keeps μ s₀ (State.quantise s w token l p input) := by
  unfold State.quantise
  repeat' first
    | with_reducible assumption
    | with_reducible refine State.runHub_keeps' (sub_of hμ (by decide)) ?_ (by assumption)
    | with_reducible refine State.runHub_keeps (sub_of hμ (by decide)) ?_ rfl
    | with_reducible apply State.storeBlock_keeps (sub_of hμ (by decide))
    | with_reducible apply Keeps.foldl
    | split
    | intro _ _ _
    | dsimp only

end Sys2Proof.Machine
end

