-- ==== Sys2Proof/Laws/KeepKv.lean ====
section
/-!
SUPPORT. What the operations of Machine/Kv.lean keep (Laws/Keeps.lean).
-/

set_option linter.all false

namespace Sys2Proof.Machine

theorem State.putVector_keeps {μ : Nat} (hμ : 0x200 ||| μ = μ) {s₀ s : State} (h : Keeps μ s₀ s) (w token l st : Nat) (v : List (BitVec 16)) :
    Keeps μ s₀ (State.putVector s w token l st v) := by
  unfold State.putVector
  repeat' first
    | with_reducible assumption
    | with_reducible apply Keeps.modFab (bit_of hμ (by decide))
    | with_reducible apply State.put_keeps
    | with_reducible apply Keeps.foldl
    | exact KeepsPart.same _ _ fun _ => rfl
    | (with_reducible refine KeepsPart.intro fun x hx => ?_; simp only [Fabric.canonical, Bool.and_eq_true] at hx ⊢; simp [hx])
    | intro _ _ _
    | (with_reducible refine bit_of hμ ?_; first | decide | (simp (disch := decide) only [window_sel, window_die, window_arkKey, window_arkKey_add, window_keyAt, window_keyAt_add, window_wordAt, window_arkWord, window_drop, window_drop_hi, window_msix, window_srcWord, window_target]; decide))
    | dsimp only

theorem State.rotated_keeps {μ : Nat} (hμ : 0x2000000000 ||| μ = μ) {s₀ : State} {s : State} {kind head : Nat} {x : Model} {y : Layer} {v : List Word} {out : List Word × State} (hk : Keeps μ s₀ s)
    (e : State.rotated s kind head x y v = out) : Keeps μ s₀ out.2 := by
  subst e
  unfold State.rotated
  repeat' first
    | with_reducible assumption
    | with_reducible refine State.runHub_keeps' (sub_of hμ (by decide)) ?_ (by assumption)
    | with_reducible refine State.runHub_keeps (sub_of hμ (by decide)) ?_ rfl
    | split
    | dsimp only

theorem State.rotated_keeps' {μ : Nat} (hμ : 0x2000000000 ||| μ = μ) {s₀ uu : State} {s : State} {kind head : Nat} {x : Model} {y : Layer} {v : List Word} {xx : List Word} (hk : Keeps μ s₀ s)
    (e : State.rotated s kind head x y v = (xx, uu)) : Keeps μ s₀ uu := by
  have r := State.rotated_keeps hμ hk e
  exact r

theorem State.storeHead_keeps {μ : Nat} (hμ : 0x12000000050 ||| μ = μ) {s₀ s : State} (h : Keeps μ s₀ s) (i pos l kind head : Nat) (x : Model) (y : Layer) (v : List Word) :
    Keeps μ s₀ (State.storeHead s i pos l kind head x y v) := by
  unfold State.storeHead
  repeat' first
    | with_reducible assumption
    | with_reducible apply Keeps.modKvm (bit_of hμ (by decide))
    | with_reducible apply State.count_keeps
    | with_reducible apply State.modBib_keeps (sub_of hμ (by decide))
    | with_reducible apply State.put_keeps
    | with_reducible refine State.rotated_keeps' (sub_of hμ (by decide)) ?_ (by assumption)
    | with_reducible refine State.rotated_keeps (sub_of hμ (by decide)) ?_ rfl
    | exact KeepsPart.same _ _ fun _ => rfl
    | (with_reducible refine KeepsPart.intro fun x hx => ?_; simp only [Kvm.canonical, Bool.and_eq_true] at hx ⊢; simp [hx] <;> (repeat' split) <;> simp [hx])
    | split
    | (with_reducible refine bit_of hμ ?_; first | decide | (simp (disch := decide) only [window_sel, window_die, window_arkKey, window_arkKey_add, window_keyAt, window_keyAt_add, window_wordAt, window_arkWord, window_drop, window_drop_hi, window_msix, window_srcWord, window_target]; decide))
    | dsimp only

theorem State.storeKv_keeps {μ : Nat} (hμ : 0x12000000050 ||| μ = μ) {s₀ s : State} (h : Keeps μ s₀ s) (w token l kind : Nat) (v : List (BitVec 16)) :
    Keeps μ s₀ (State.storeKv s w token l kind v) := by
  unfold State.storeKv
  repeat' first
    | with_reducible assumption
    | with_reducible apply State.storeHead_keeps (sub_of hμ (by decide))
    | with_reducible apply Keeps.foldl
    | split
    | intro _ _ _
    | dsimp only

theorem State.commitPositions_keeps {μ : Nat} (hμ : 0x18 ||| μ = μ) {s₀ s : State} (h : Keeps μ s₀ s) (i n : Nat) :
    Keeps μ s₀ (State.commitPositions s i n) := by
  unfold State.commitPositions
  repeat' first
    | with_reducible assumption
    | with_reducible apply State.modBib_keeps (sub_of hμ (by decide))
    | with_reducible apply State.modQp_keeps (sub_of hμ (by decide))
    | split
    | dsimp only

end Sys2Proof.Machine
end

