-- ==== Sys2Proof/Laws/KeepAttention.lean ====
section
/-!
SUPPORT. What the operations of Machine/Attention.lean keep (Laws/Keeps.lean).
-/

set_option linter.all false

namespace Sys2Proof.Machine

theorem State.gather_keeps {μ : Nat} (hμ : 0x120000502400 ||| μ = μ) {s₀ s : State} (h : Keeps μ s₀ s) (w l : Nat) :
    Keeps μ s₀ (State.gather s w l) := by
  unfold State.gather
  repeat' first
    | with_reducible assumption
    | with_reducible apply Keeps.modAtt (bit_of hμ (by decide))
    | with_reducible apply State.count_keeps
    | with_reducible apply State.sendMessage_keeps (sub_of hμ (by decide))
    | with_reducible apply Keeps.foldl
    | exact KeepsPart.same _ _ fun _ => rfl
    | (with_reducible refine KeepsPart.intro fun x hx => ?_; simp only [Attention.canonical, Bool.and_eq_true] at hx ⊢; simp [hx] <;> (repeat' split) <;> simp [hx])
    | split
    | intro _ _ _
    | (with_reducible refine bit_of hμ ?_; first | decide | (simp (disch := decide) only [window_sel, window_die, window_arkKey, window_arkKey_add, window_keyAt, window_keyAt_add, window_wordAt, window_arkWord, window_drop, window_drop_hi, window_msix, window_srcWord, window_target]; decide))
    | dsimp only

theorem State.formItems_keeps {μ : Nat} (hμ : 0x120000502400 ||| μ = μ) {s₀ s : State} (h : Keeps μ s₀ s) (w l : Nat) :
    Keeps μ s₀ (State.formItems s w l) := by
  unfold State.formItems
  repeat' first
    | with_reducible assumption
    | with_reducible apply Keeps.modAtt (bit_of hμ (by decide))
    | with_reducible apply State.gather_keeps (sub_of hμ (by decide))
    | with_reducible apply Keeps.foldl
    | exact KeepsPart.same _ _ fun _ => rfl
    | (with_reducible refine KeepsPart.intro fun x hx => ?_; simp only [Attention.canonical, Bool.and_eq_true] at hx ⊢; simp [hx] <;> (repeat' split) <;> simp [hx])
    | split
    | intro _ _ _
    | dsimp only

theorem State.startItem_keeps {μ : Nat} (hμ : 0x400 ||| μ = μ) {s₀ s : State} (h : Keeps μ s₀ s) (lane : Nat) :
    Keeps μ s₀ (State.startItem s lane) := by
  unfold State.startItem
  repeat' first
    | with_reducible assumption
    | with_reducible apply Keeps.modAtt (bit_of hμ (by decide))
    | with_reducible apply State.put_keeps
    | exact KeepsPart.same _ _ fun _ => rfl
    | (with_reducible refine KeepsPart.intro fun x hx => ?_; simp only [Attention.canonical, Bool.and_eq_true] at hx ⊢; simp [hx] <;> (repeat' split) <;> simp [hx])
    | split
    | (with_reducible refine bit_of hμ ?_; first | decide | (simp (disch := decide) only [window_sel, window_die, window_arkKey, window_arkKey_add, window_keyAt, window_keyAt_add, window_wordAt, window_arkWord, window_drop, window_drop_hi, window_msix, window_srcWord, window_target]; decide))
    | dsimp only

theorem execAttItemStart_keeps (lane : Fin 64) (s : State) :
    KeepsOut 0x400 s (execAttItemStart lane s) := by
  have hμ : 0x400 ||| 0x400 = 0x400 := by decide
  unfold execAttItemStart
  repeat' first
    | with_reducible apply KeepsOut.next
    | with_reducible exact Keeps.refl _
    | with_reducible assumption
    | with_reducible apply State.startItem_keeps (sub_of hμ (by decide))
    | dsimp only

theorem State.addScores_keeps {μ : Nat} (hμ : 0x2000000010 ||| μ = μ) {s₀ s : State} (h : Keeps μ s₀ s) (i : Nat) (blocks : List Nat) (segs : List Segment) (nq : Nat) :
    Keeps μ s₀ (State.addScores s i blocks segs nq) := by
  unfold State.addScores
  repeat' first
    | with_reducible assumption
    | with_reducible apply State.modBib_keeps (sub_of hμ (by decide))
    | with_reducible refine State.runHub_keeps' (sub_of hμ (by decide)) ?_ (by assumption)
    | with_reducible refine State.runHub_keeps (sub_of hμ (by decide)) ?_ rfl
    | with_reducible apply Keeps.foldl
    | split
    | intro _ _ _
    | dsimp only

theorem State.endItem_keeps {μ : Nat} (hμ : 0x22000100410 ||| μ = μ) {s₀ s : State} (h : Keeps μ s₀ s) (lane : Nat) :
    Keeps μ s₀ (State.endItem s lane) := by
  unfold State.endItem
  repeat' first
    | with_reducible assumption
    | with_reducible apply Keeps.modAtt (bit_of hμ (by decide))
    | with_reducible apply State.addScores_keeps (sub_of hμ (by decide))
    | with_reducible apply State.count_keeps
    | with_reducible apply State.put_keeps
    | with_reducible refine State.runHub_keeps' (sub_of hμ (by decide)) ?_ (by assumption)
    | with_reducible refine State.runHub_keeps (sub_of hμ (by decide)) ?_ rfl
    | with_reducible apply State.tally_keeps (sub_of hμ (by decide))
    | exact KeepsPart.same _ _ fun _ => rfl
    | (with_reducible refine KeepsPart.intro fun x hx => ?_; simp only [Attention.canonical, Bool.and_eq_true] at hx ⊢; simp [hx] <;> (repeat' split) <;> simp [hx])
    | split
    | (with_reducible refine bit_of hμ ?_; first | decide | (simp (disch := decide) only [window_sel, window_die, window_arkKey, window_arkKey_add, window_keyAt, window_keyAt_add, window_wordAt, window_arkWord, window_drop, window_drop_hi, window_msix, window_srcWord, window_target]; decide))
    | dsimp only

theorem execAttItemDone_keeps (lane : Fin 64) (s : State) :
    KeepsOut 0x22000100410 s (execAttItemDone lane s) := by
  have hμ : 0x22000100410 ||| 0x22000100410 = 0x22000100410 := by decide
  unfold execAttItemDone
  repeat' first
    | with_reducible apply KeepsOut.next
    | with_reducible exact Keeps.refl _
    | with_reducible assumption
    | with_reducible apply State.endItem_keeps (sub_of hμ (by decide))
    | dsimp only

theorem State.putHead_keeps {μ : Nat} (hμ : 0x200 ||| μ = μ) {s₀ s : State} (h : Keeps μ s₀ s) (w token l q : Nat) (x : Model) (v : List (BitVec 16)) :
    Keeps μ s₀ (State.putHead s w token l q x v) := by
  unfold State.putHead
  repeat' first
    | with_reducible assumption
    | with_reducible apply Keeps.modFab (bit_of hμ (by decide))
    | with_reducible apply State.put_keeps
    | with_reducible apply Keeps.foldl
    | exact KeepsPart.same _ _ fun _ => rfl
    | (with_reducible refine KeepsPart.intro fun x hx => ?_; simp only [Fabric.canonical, Bool.and_eq_true] at hx ⊢; simp [hx])
    | intro _ _ _
    | (with_reducible refine bit_of hμ ?_; first | decide | (simp (disch := decide) only [window_sel, window_die, window_arkKey, window_arkKey_add, window_keyAt, window_keyAt_add, window_wordAt, window_arkWord, window_drop, window_drop_hi, window_msix, window_srcWord, window_target]; decide))
    | dsimp only

theorem State.attComplete_keeps {μ : Nat} (hμ : 0x2000000200 ||| μ = μ) {s₀ s : State} (h : Keeps μ s₀ s) (w token l : Nat) (x : Model) :
    Keeps μ s₀ (State.attComplete s w token l x) := by
  unfold State.attComplete
  repeat' first
    | with_reducible assumption
    | with_reducible apply State.quantise_keeps (sub_of hμ (by decide))
    | split
    | dsimp only

theorem State.mergeHead_keeps {μ : Nat} (hμ : 0x122000502600 ||| μ = μ) {s₀ s : State} (h : Keeps μ s₀ s) (w slot head l : Nat) :
    Keeps μ s₀ (State.mergeHead s w slot head l) := by
  unfold State.mergeHead
  repeat' first
    | with_reducible assumption
    | with_reducible apply Keeps.modAtt (bit_of hμ (by decide))
    | with_reducible apply State.attComplete_keeps (sub_of hμ (by decide))
    | with_reducible apply State.count_keeps
    | with_reducible apply State.gather_keeps (sub_of hμ (by decide))
    | with_reducible apply State.putHead_keeps (sub_of hμ (by decide))
    | with_reducible refine State.runHub_keeps' (sub_of hμ (by decide)) ?_ (by assumption)
    | with_reducible refine State.runHub_keeps (sub_of hμ (by decide)) ?_ rfl
    | with_reducible apply Keeps.foldl
    | exact KeepsPart.same _ _ fun _ => rfl
    | (with_reducible refine KeepsPart.intro fun x hx => ?_; simp only [Attention.canonical, Bool.and_eq_true] at hx ⊢; simp [hx] <;> (repeat' split) <;> simp [hx])
    | split
    | intro _ _ _
    | (with_reducible refine bit_of hμ ?_; first | decide | (simp (disch := decide) only [window_sel, window_die, window_arkKey, window_arkKey_add, window_keyAt, window_keyAt_add, window_wordAt, window_arkWord, window_drop, window_drop_hi, window_msix, window_srcWord, window_target]; decide))
    | dsimp only

theorem execAttMerge_keeps (wave : Fin 96) (slot : Fin 128) (head : Fin 256) (layer : Fin 256) (s : State) :
    KeepsOut 0x122000502600 s (execAttMerge wave slot head layer s) := by
  have hμ : 0x122000502600 ||| 0x122000502600 = 0x122000502600 := by decide
  unfold execAttMerge
  repeat' first
    | with_reducible apply KeepsOut.next
    | with_reducible exact Keeps.refl _
    | with_reducible assumption
    | with_reducible apply State.mergeHead_keeps (sub_of hμ (by decide))
    | dsimp only

theorem State.laneReplay_keeps {μ : Nat} (hμ : 0x20000000610 ||| μ = μ) {s₀ s : State} (h : Keeps μ s₀ s) (w token : Nat) :
    Keeps μ s₀ (State.laneReplay s w token) := by
  unfold State.laneReplay
  repeat' first
    | with_reducible assumption
    | with_reducible apply Keeps.modAtt (bit_of hμ (by decide))
    | with_reducible apply State.count_keeps
    | with_reducible apply State.markReplay_keeps (sub_of hμ (by decide))
    | exact KeepsPart.same _ _ fun _ => rfl
    | (with_reducible refine KeepsPart.intro fun x hx => ?_; simp only [Attention.canonical, Bool.and_eq_true] at hx ⊢; simp [hx])
    | (with_reducible refine bit_of hμ ?_; first | decide | (simp (disch := decide) only [window_sel, window_die, window_arkKey, window_arkKey_add, window_keyAt, window_keyAt_add, window_wordAt, window_arkWord, window_drop, window_drop_hi, window_msix, window_srcWord, window_target]; decide))
    | dsimp only

theorem State.spreadReplay_keeps {μ : Nat} (hμ : 0x20000000610 ||| μ = μ) {s₀ s : State} (h : Keeps μ s₀ s) (w token : Nat) :
    Keeps μ s₀ (State.spreadReplay s w token) := by
  unfold State.spreadReplay
  repeat' first
    | with_reducible assumption
    | with_reducible apply Keeps.modAtt (bit_of hμ (by decide))
    | with_reducible apply State.count_keeps
    | with_reducible apply State.markReplay_keeps (sub_of hμ (by decide))
    | exact KeepsPart.same _ _ fun _ => rfl
    | (with_reducible refine KeepsPart.intro fun x hx => ?_; simp only [Attention.canonical, Bool.and_eq_true] at hx ⊢; simp [hx])
    | (with_reducible refine bit_of hμ ?_; first | decide | (simp (disch := decide) only [window_sel, window_die, window_arkKey, window_arkKey_add, window_keyAt, window_keyAt_add, window_wordAt, window_arkWord, window_drop, window_drop_hi, window_msix, window_srcWord, window_target]; decide))
    | dsimp only

theorem State.gateHold_keeps {μ : Nat} (hμ : 0x80000100210 ||| μ = μ) {s₀ s : State} (h : Keeps μ s₀ s) (w token : Nat) :
    Keeps μ s₀ (State.gateHold s w token) := by
  unfold State.gateHold
  repeat' first
    | with_reducible assumption
    | with_reducible apply State.count_keeps
    | with_reducible apply State.markReplay_keeps (sub_of hμ (by decide))
    | with_reducible apply State.tally_keeps (sub_of hμ (by decide))
    | split
    | (with_reducible refine bit_of hμ ?_; first | decide | (simp (disch := decide) only [window_sel, window_die, window_arkKey, window_arkKey_add, window_keyAt, window_keyAt_add, window_wordAt, window_arkWord, window_drop, window_drop_hi, window_msix, window_srcWord, window_target]; decide))
    | dsimp only

theorem State.dueToken_keeps {μ : Nat} (hμ : 0xa0000100610 ||| μ = μ) {s₀ s : State} (h : Keeps μ s₀ s) (w l token : Nat) :
    Keeps μ s₀ (State.dueToken s w l token) := by
  unfold State.dueToken
  repeat' first
    | with_reducible assumption
    | with_reducible apply State.gateHold_keeps (sub_of hμ (by decide))
    | with_reducible apply State.laneReplay_keeps (sub_of hμ (by decide))
    | with_reducible apply State.markReplay_keeps (sub_of hμ (by decide))
    | with_reducible apply State.spreadReplay_keeps (sub_of hμ (by decide))
    | split
    | dsimp only

theorem State.countLate_keeps {μ : Nat} (hμ : 0x20000000000 ||| μ = μ) {s₀ s : State} (h : Keeps μ s₀ s) (w l : Nat) :
    Keeps μ s₀ (State.countLate s w l) := by
  unfold State.countLate
  repeat' first
    | with_reducible assumption
    | with_reducible apply State.count_keeps
    | with_reducible apply State.raise_keeps
    | split
    | (with_reducible refine bit_of hμ ?_; first | decide | (simp (disch := decide) only [window_sel, window_die, window_arkKey, window_arkKey_add, window_keyAt, window_keyAt_add, window_wordAt, window_arkWord, window_drop, window_drop_hi, window_msix, window_srcWord, window_target]; decide))
    | dsimp only

theorem State.attentionDue_keeps {μ : Nat} (hμ : 0xa0000100610 ||| μ = μ) {s₀ s : State} (h : Keeps μ s₀ s) (w l : Nat) :
    Keeps μ s₀ (State.attentionDue s w l) := by
  unfold State.attentionDue
  repeat' first
    | with_reducible assumption
    | with_reducible apply State.countLate_keeps (sub_of hμ (by decide))
    | with_reducible apply State.dueToken_keeps (sub_of hμ (by decide))
    | with_reducible apply Keeps.foldl
    | split
    | intro _ _ _
    | dsimp only

theorem execAttDue_keeps (wave : Fin 96) (layer : Fin 256) (s : State) :
    KeepsOut 0xa0000100610 s (execAttDue wave layer s) := by
  have hμ : 0xa0000100610 ||| 0xa0000100610 = 0xa0000100610 := by decide
  unfold execAttDue
  repeat' first
    | with_reducible apply KeepsOut.next
    | with_reducible exact Keeps.refl _
    | with_reducible assumption
    | with_reducible apply State.attentionDue_keeps (sub_of hμ (by decide))
    | dsimp only

end Sys2Proof.Machine
end

