-- ==== Sys2Proof/Laws/KeepHub.lean ====
section
/-!
SUPPORT. What the operations of Machine/Hub.lean keep (Laws/Keeps.lean).
-/

set_option linter.all false

namespace Sys2Proof.Machine

theorem State.reduceVector_keeps {μ : Nat} (hμ : 0x2000000200 ||| μ = μ) {s₀ s : State} (h : Keeps μ s₀ s) (w token l st : Nat) (β : Option Word) (v : List (BitVec 16)) :
    Keeps μ s₀ (State.reduceVector s w token l st β v) := by
  unfold State.reduceVector
  repeat' first
    | with_reducible assumption
    | with_reducible apply Keeps.modFab (bit_of hμ (by decide))
    | with_reducible apply State.put_keeps
    | with_reducible refine State.runHub_keeps' (sub_of hμ (by decide)) ?_ (by assumption)
    | with_reducible refine State.runHub_keeps (sub_of hμ (by decide)) ?_ rfl
    | exact KeepsPart.same _ _ fun _ => rfl
    | (with_reducible refine KeepsPart.intro fun x hx => ?_; simp only [Fabric.canonical, Bool.and_eq_true] at hx ⊢; simp [hx])
    | split
    | (with_reducible refine bit_of hμ ?_; first | decide | (simp (disch := decide) only [window_sel, window_die, window_arkKey, window_arkKey_add, window_keyAt, window_keyAt_add, window_wordAt, window_arkWord, window_drop, window_drop_hi, window_msix, window_srcWord, window_target]; decide))
    | dsimp only

theorem State.putResidual_keeps {μ : Nat} (hμ : 0x2000000200 ||| μ = μ) {s₀ s : State} (h : Keeps μ s₀ s) (w token : Nat) (v : List (BitVec 16)) :
    Keeps μ s₀ (State.putResidual s w token v) := by
  unfold State.putResidual
  repeat' first
    | with_reducible assumption
    | with_reducible apply State.putVector_keeps (sub_of hμ (by decide))
    | with_reducible apply State.reduceVector_keeps (sub_of hμ (by decide))
    | dsimp only

theorem State.readPoint_keeps {μ : Nat} (hμ : 0x2000000200 ||| μ = μ) {s₀ s : State} (h : Keeps μ s₀ s) (w token l p : Nat) (x : Model) :
    Keeps μ s₀ (State.readPoint s w token l p x) := by
  unfold State.readPoint
  repeat' first
    | with_reducible assumption
    | with_reducible apply State.quantise_keeps (sub_of hμ (by decide))
    | dsimp only

theorem State.enterToken_keeps {μ : Nat} (hμ : 0x2000000200 ||| μ = μ) {s₀ s : State} (h : Keeps μ s₀ s) (w token i : Nat) :
    Keeps μ s₀ (State.enterToken s w token i) := by
  unfold State.enterToken
  repeat' first
    | with_reducible assumption
    | with_reducible apply State.putResidual_keeps (sub_of hμ (by decide))
    | with_reducible apply State.readPoint_keeps (sub_of hμ (by decide))
    | split
    | dsimp only

theorem State.countWaxReads_keeps {μ : Nat} (hμ : 0x40000100000 ||| μ = μ) {s₀ s : State} (h : Keeps μ s₀ s) (w : Nat) :
    Keeps μ s₀ (State.countWaxReads s w) := by
  unfold State.countWaxReads
  repeat' first
    | with_reducible assumption
    | with_reducible apply State.count_keeps
    | with_reducible apply State.tally_keeps (sub_of hμ (by decide))
    | split
    | (with_reducible refine bit_of hμ ?_; first | decide | (simp (disch := decide) only [window_sel, window_die, window_arkKey, window_arkKey_add, window_keyAt, window_keyAt_add, window_wordAt, window_arkWord, window_drop, window_drop_hi, window_msix, window_srcWord, window_target]; decide))
    | dsimp only

theorem State.issueWave_keeps {μ : Nat} (hμ : 0x62000100690 ||| μ = μ) {s₀ s : State} (h : Keeps μ s₀ s) (w : Nat) :
    Keeps μ s₀ (State.issueWave s w) := by
  unfold State.issueWave
  repeat' first
    | with_reducible assumption
    | with_reducible apply Keeps.modAtt (bit_of hμ (by decide))
    | with_reducible apply Keeps.modPlan (bit_of hμ (by decide))
    | with_reducible apply State.countWaxReads_keeps (sub_of hμ (by decide))
    | with_reducible apply State.count_keeps
    | with_reducible apply State.enterToken_keeps (sub_of hμ (by decide))
    | with_reducible apply State.markReplay_keeps (sub_of hμ (by decide))
    | with_reducible apply State.zeroToken_keeps (sub_of hμ (by decide))
    | with_reducible apply Keeps.foldl
    | exact KeepsPart.same _ _ fun _ => rfl
    | (with_reducible refine KeepsPart.intro fun x hx => ?_; simp only [Attention.canonical, Bool.and_eq_true] at hx ⊢; simp [hx] <;> (repeat' split) <;> simp [hx])
    | split
    | intro _ _ _
    | (with_reducible refine bit_of hμ ?_; first | decide | (simp (disch := decide) only [window_sel, window_die, window_arkKey, window_arkKey_add, window_keyAt, window_keyAt_add, window_wordAt, window_arkWord, window_drop, window_drop_hi, window_msix, window_srcWord, window_target]; decide))
    | dsimp only

theorem execWaveIssue_keeps (wave : Fin 96) (s : State) :
    KeepsOut 0x62000100690 s (execWaveIssue wave s) := by
  have hμ : 0x62000100690 ||| 0x62000100690 = 0x62000100690 := by decide
  unfold execWaveIssue
  repeat' first
    | with_reducible apply KeepsOut.next
    | with_reducible exact Keeps.refl _
    | with_reducible assumption
    | with_reducible apply State.issueWave_keeps (sub_of hμ (by decide))
    | dsimp only

theorem State.stageDone_keeps {μ : Nat} (hμ : 0x132000502650 ||| μ = μ) {s₀ s : State} (h : Keeps μ s₀ s) (w token l st : Nat) (x : Model) (v : List (BitVec 16)) :
    Keeps μ s₀ (State.stageDone s w token l st x v) := by
  unfold State.stageDone
  repeat' first
    | with_reducible assumption
    | with_reducible apply State.formItems_keeps (sub_of hμ (by decide))
    | with_reducible apply State.putResidual_keeps (sub_of hμ (by decide))
    | with_reducible apply State.quantise_keeps (sub_of hμ (by decide))
    | with_reducible apply State.readPoint_keeps (sub_of hμ (by decide))
    | with_reducible apply State.reduceVector_keeps (sub_of hμ (by decide))
    | with_reducible apply State.storeKv_keeps (sub_of hμ (by decide))
    | split
    | dsimp only

theorem State.storeOut_keeps {μ : Nat} (hμ : 0x132000502650 ||| μ = μ) {s₀ s : State} (h : Keeps μ s₀ s) (w token l b : Nat) (m : Model) (x : Stage) (v : List (BitVec 16)) :
    Keeps μ s₀ (State.storeOut s w token l b m x v) := by
  unfold State.storeOut
  repeat' first
    | with_reducible assumption
    | with_reducible apply Keeps.modFab (bit_of hμ (by decide))
    | with_reducible apply State.put_keeps
    | with_reducible apply State.stageDone_keeps (sub_of hμ (by decide))
    | with_reducible apply State.tally_keeps (sub_of hμ (by decide))
    | exact KeepsPart.same _ _ fun _ => rfl
    | (with_reducible refine KeepsPart.intro fun x hx => ?_; simp only [Fabric.canonical, Bool.and_eq_true] at hx ⊢; simp [hx] <;> (repeat' split) <;> simp [hx])
    | split
    | (with_reducible refine bit_of hμ ?_; first | decide | (simp (disch := decide) only [window_sel, window_die, window_arkKey, window_arkKey_add, window_keyAt, window_keyAt_add, window_wordAt, window_arkWord, window_drop, window_drop_hi, window_msix, window_srcWord, window_target]; decide))
    | dsimp only

theorem State.sumColumn_keeps {μ : Nat} (hμ : 0x3be000706edc ||| μ = μ) {s₀ s : State} (h : Keeps μ s₀ s) (w token l st b : Nat) :
    Keeps μ s₀ (State.sumColumn s w token l st b) := by
  unfold State.sumColumn
  repeat' first
    | with_reducible assumption
    | with_reducible apply State.count_keeps
    | with_reducible apply State.endPoisoned_keeps (sub_of hμ (by decide))
    | with_reducible apply State.gateHold_keeps (sub_of hμ (by decide))
    | with_reducible refine State.runHub_keeps' (sub_of hμ (by decide)) ?_ (by assumption)
    | with_reducible refine State.runHub_keeps (sub_of hμ (by decide)) ?_ rfl
    | with_reducible apply State.storeOut_keeps (sub_of hμ (by decide))
    | with_reducible apply State.tally_keeps (sub_of hμ (by decide))
    | split
    | (with_reducible refine bit_of hμ ?_; first | decide | (simp (disch := decide) only [window_sel, window_die, window_arkKey, window_arkKey_add, window_keyAt, window_keyAt_add, window_wordAt, window_arkWord, window_drop, window_drop_hi, window_msix, window_srcWord, window_target]; decide))
    | dsimp only

theorem execColumnSum_keeps (wave : Fin 96) (token : Fin 128) (layer : Fin 256) (stage : Fin 8) (block : Fin 4096) (s : State) :
    KeepsOut 0x3be000706edc s (execColumnSum wave token layer stage block s) := by
  have hμ : 0x3be000706edc ||| 0x3be000706edc = 0x3be000706edc := by decide
  unfold execColumnSum
  repeat' first
    | with_reducible apply KeepsOut.next
    | with_reducible exact Keeps.refl _
    | with_reducible assumption
    | with_reducible apply State.sumColumn_keeps (sub_of hμ (by decide))
    | dsimp only

end Sys2Proof.Machine
end

