-- ==== Sys2Proof/Laws/KeepMogul.lean ====
section
/-!
SUPPORT. What the operations of Machine/Mogul.lean keep (Laws/Keeps.lean).
-/

set_option linter.all false

namespace Sys2Proof.Machine

theorem State.endToken_keeps {μ : Nat} (hμ : 0x31c000706adc ||| μ = μ) {s₀ s : State} (h : Keeps μ s₀ s) (w token : Nat) (poisoned : Bool) :
    Keeps μ s₀ (State.endToken s w token poisoned) := by
  unfold State.endToken
  repeat' first
    | with_reducible assumption
    | with_reducible apply State.endPoisoned_keeps (sub_of hμ (by decide))
    | with_reducible apply State.endUncovered_keeps (sub_of hμ (by decide))
    | split
    | dsimp only

theorem State.runJob_keeps {μ : Nat} (hμ : 0x31e000706adc ||| μ = μ) {s₀ s : State} (h : Keeps μ s₀ s) (j : MogulRec) :
    Keeps μ s₀ (State.runJob s j) := by
  unfold State.runJob
  repeat' first
    | with_reducible assumption
    | with_reducible apply State.count_keeps
    | with_reducible apply State.endToken_keeps (sub_of hμ (by decide))
    | with_reducible apply State.tally_keeps (sub_of hμ (by decide))
    | with_reducible apply Keeps.foldl
    | split
    | intro _ _ _
    | (with_reducible refine bit_of hμ ?_; first | decide | (simp (disch := decide) only [window_sel, window_die, window_arkKey, window_arkKey_add, window_keyAt, window_keyAt_add, window_wordAt, window_arkWord, window_drop, window_drop_hi, window_msix, window_srcWord, window_target]; decide))
    | dsimp only

theorem execMogulJob_keeps (index : Nat) (s : State) :
    KeepsOut 0x31e000706adc s (execMogulJob index s) := by
  have hμ : 0x31e000706adc ||| 0x31e000706adc = 0x31e000706adc := by decide
  unfold execMogulJob
  repeat' first
    | with_reducible apply KeepsOut.next
    | with_reducible exact Keeps.refl _
    | with_reducible assumption
    | with_reducible apply State.runJob_keeps (sub_of hμ (by decide))
    | split
    | dsimp only

theorem State.poisonShadow_keeps {μ : Nat} (hμ : 0x282000305000 ||| μ = μ) {s₀ s : State} (h : Keeps μ s₀ s) (m g : Nat) :
    Keeps μ s₀ (State.poisonShadow s m g) := by
  unfold State.poisonShadow
  repeat' first
    | with_reducible assumption
    | with_reducible apply Keeps.modLdr (bit_of hμ (by decide))
    | with_reducible apply State.put_keeps
    | with_reducible apply State.raise_keeps
    | with_reducible apply State.report_keeps (sub_of hμ (by decide))
    | exact KeepsPart.same _ _ fun _ => rfl
    | (with_reducible refine KeepsPart.intro fun x hx => ?_; simp only [Loader.canonical, Bool.and_eq_true] at hx ⊢; simp [hx] <;> (repeat' split) <;> simp [hx])
    | split
    | (with_reducible refine bit_of hμ ?_; first | decide | (simp (disch := decide) only [window_sel, window_die, window_arkKey, window_arkKey_add, window_keyAt, window_keyAt_add, window_wordAt, window_arkWord, window_drop, window_drop_hi, window_msix, window_srcWord, window_target]; decide))
    | dsimp only

theorem execShadowPoison_keeps (slot : Fin 64) (granule : Nat) (s : State) :
    KeepsOut 0x282000305000 s (execShadowPoison slot granule s) := by
  have hμ : 0x282000305000 ||| 0x282000305000 = 0x282000305000 := by decide
  unfold execShadowPoison
  repeat' first
    | with_reducible apply KeepsOut.next
    | with_reducible exact Keeps.refl _
    | with_reducible assumption
    | with_reducible apply State.poisonShadow_keeps (sub_of hμ (by decide))
    | dsimp only

end Sys2Proof.Machine
end

