-- ==== Sys2Proof/Laws/KeepSpread.lean ====
section
/-!
SUPPORT. What the operations of Machine/Spread.lean keep (Laws/Keeps.lean).
-/

set_option linter.all false

namespace Sys2Proof.Machine

theorem State.shrinkBlock_keeps {μ : Nat} (hμ : 0x100040 ||| μ = μ) {s₀ : State} {s : State} {h : Hub} {pb : Nat} {k : Block} {out : Block × State} (hk : Keeps μ s₀ s)
    (e : State.shrinkBlock s h pb k = out) : Keeps μ s₀ out.2 := by
  subst e
  unfold State.shrinkBlock
  repeat' first
    | with_reducible assumption
    | with_reducible apply State.releasePages_keeps (sub_of hμ (by decide))
    | split
    | dsimp only

theorem State.shrinkBlock_keeps' {μ : Nat} (hμ : 0x100040 ||| μ = μ) {s₀ uu : State} {s : State} {h : Hub} {pb : Nat} {k : Block} {xx : Block} (hk : Keeps μ s₀ s)
    (e : State.shrinkBlock s h pb k = (xx, uu)) : Keeps μ s₀ uu := by
  have r := State.shrinkBlock_keeps hμ hk e
  exact r

theorem State.shrinkBib_keeps {μ : Nat} (hμ : 0x100050 ||| μ = μ) {s₀ s : State} (h : Keeps μ s₀ s) (i : Nat) (guests : List Word) :
    Keeps μ s₀ (State.shrinkBib s i guests) := by
  unfold State.shrinkBib
  repeat' first
    | with_reducible assumption
    | with_reducible apply Keeps.modKvm (bit_of hμ (by decide))
    | with_reducible apply State.modBib_keeps (sub_of hμ (by decide))
    | with_reducible refine State.shrinkBlock_keeps' (sub_of hμ (by decide)) ?_ (by assumption)
    | with_reducible refine State.shrinkBlock_keeps (sub_of hμ (by decide)) ?_ rfl
    | with_reducible apply State.trimLists_keeps (sub_of hμ (by decide))
    | with_reducible apply Keeps.foldl
    | with_reducible apply Keeps.foldl_snd
    | with_reducible apply Keeps.foldl_fst
    | exact KeepsPart.same _ _ fun _ => rfl
    | (with_reducible refine KeepsPart.intro fun x hx => ?_; simp only [Kvm.canonical, Bool.and_eq_true] at hx ⊢; simp [hx] <;> (repeat' split) <;> simp [hx])
    | split
    | intro _ _ _
    | dsimp only

theorem execSpreadHandoff_keeps (bib : Word) (guests : List Word) (s : State) :
    KeepsOut 0x4000100050 s (execSpreadHandoff bib guests s) := by
  have hμ : 0x4000100050 ||| 0x4000100050 = 0x4000100050 := by decide
  unfold execSpreadHandoff
  repeat' first
    | with_reducible apply KeepsOut.next
    | with_reducible exact Keeps.refl _
    | with_reducible assumption
    | with_reducible apply State.count_keeps
    | with_reducible apply State.shrinkBib_keeps (sub_of hμ (by decide))
    | split
    | (with_reducible refine bit_of hμ ?_; first | decide | (simp (disch := decide) only [window_sel, window_die, window_arkKey, window_arkKey_add, window_keyAt, window_keyAt_add, window_wordAt, window_arkWord, window_drop, window_drop_hi, window_msix, window_srcWord, window_target]; decide))
    | dsimp only

theorem State.takeGuest_keeps {μ : Nat} (hμ : 0x10000100870 ||| μ = μ) {s₀ s : State} (h : Keeps μ s₀ s) (origin : Nat) (originBib : Word) (tenant slot : Nat) (wax : Option Nat) (home : Hub) (positions lastToken : Nat) (vectors : List (Nat × List Int)) (scales : List (List Byte)) :
    Keeps μ s₀ (State.takeGuest s origin originBib tenant slot wax home positions lastToken vectors scales) := by
  unfold State.takeGuest
  repeat' first
    | with_reducible assumption
    | with_reducible apply Keeps.modFree (bit_of hμ (by decide))
    | with_reducible apply Keeps.modKvm (bit_of hμ (by decide))
    | with_reducible apply Keeps.putBib (bit_of hμ (by decide))
    | with_reducible apply State.count_keeps
    | with_reducible refine State.growTo_keeps' (sub_of hμ (by decide)) ?_ (by assumption)
    | with_reducible refine State.growTo_keeps (sub_of hμ (by decide)) ?_ rfl
    | with_reducible apply State.modBib_keeps (sub_of hμ (by decide))
    | with_reducible apply State.poolEmpty_keeps (sub_of hμ (by decide))
    | with_reducible apply State.put_keeps
    | with_reducible apply State.takeWax_keeps (sub_of hμ (by decide))
    | with_reducible apply State.tally_keeps (sub_of hμ (by decide))
    | with_reducible apply Keeps.foldl
    | exact KeepsPart.same _ _ fun _ => rfl
    | (with_reducible refine KeepsPart.intro fun x hx => ?_; simp only [Kvm.canonical, Bool.and_eq_true] at hx ⊢; simp [hx] <;> (repeat' split) <;> simp [hx])
    | split
    | intro _ _ _
    | (with_reducible refine bit_of hμ ?_; first | decide | (simp (disch := decide) only [window_sel, window_die, window_arkKey, window_arkKey_add, window_keyAt, window_keyAt_add, window_wordAt, window_arkWord, window_drop, window_drop_hi, window_msix, window_srcWord, window_target]; decide))
    | dsimp only

theorem execGuestHandoff_keeps (origin : BitVec 16) (originBib : Word) (tenant : Fin 16384) (slot : Fin 64) (wax : Option (Fin 131072)) (home : Hub) (positions : Nat) (lastToken : BitVec 24) (vectors : List (Nat × List Int)) (scales : List (List Byte)) (s : State) :
    KeepsOut 0x10000100870 s (execGuestHandoff origin originBib tenant slot wax home positions lastToken vectors scales s) := by
  have hμ : 0x10000100870 ||| 0x10000100870 = 0x10000100870 := by decide
  unfold execGuestHandoff
  repeat' first
    | with_reducible apply KeepsOut.next
    | with_reducible exact Keeps.refl _
    | with_reducible assumption
    | with_reducible apply State.takeGuest_keeps (sub_of hμ (by decide))
    | dsimp only

theorem State.takeChange_keeps {μ : Nat} (hμ : 0x4000000400 ||| μ = μ) {s₀ s : State} (h : Keeps μ s₀ s) (origin lap : Nat) (c : SpreadChange) :
    Keeps μ s₀ (State.takeChange s origin lap c) := by
  unfold State.takeChange
  repeat' first
    | with_reducible assumption
    | with_reducible apply Keeps.modAtt (bit_of hμ (by decide))
    | with_reducible apply State.count_keeps
    | exact KeepsPart.same _ _ fun _ => rfl
    | (with_reducible refine KeepsPart.intro fun x hx => ?_; simp only [Attention.canonical, Bool.and_eq_true] at hx ⊢; simp [hx] <;> (repeat' split) <;> simp [hx])
    | split
    | (with_reducible refine bit_of hμ ?_; first | decide | (simp (disch := decide) only [window_sel, window_die, window_arkKey, window_arkKey_add, window_keyAt, window_keyAt_add, window_wordAt, window_arkWord, window_drop, window_drop_hi, window_msix, window_srcWord, window_target]; decide))
    | dsimp only

theorem execSpreadCtl_keeps (origin : BitVec 16) (lap : Nat) (changes : List SpreadChange) (s : State) :
    KeepsOut 0x4000000400 s (execSpreadCtl origin lap changes s) := by
  have hμ : 0x4000000400 ||| 0x4000000400 = 0x4000000400 := by decide
  unfold execSpreadCtl
  repeat' first
    | with_reducible apply KeepsOut.next
    | with_reducible exact Keeps.refl _
    | with_reducible assumption
    | with_reducible apply State.takeChange_keeps (sub_of hμ (by decide))
    | with_reducible apply Keeps.foldl
    | intro _ _ _
    | dsimp only

theorem State.grantGuest_keeps {μ : Nat} (hμ : 0x100490 ||| μ = μ) {s₀ s : State} (h : Keeps μ s₀ s) (i slot : Nat) :
    Keeps μ s₀ (State.grantGuest s i slot) := by
  unfold State.grantGuest
  repeat' first
    | with_reducible assumption
    | with_reducible apply Keeps.modAtt (bit_of hμ (by decide))
    | with_reducible apply State.modBib_keeps (sub_of hμ (by decide))
    | with_reducible apply State.transition_keeps (sub_of hμ (by decide))
    | exact KeepsPart.same _ _ fun _ => rfl
    | (with_reducible refine KeepsPart.intro fun x hx => ?_; simp only [Attention.canonical, Bool.and_eq_true] at hx ⊢; simp [hx] <;> (repeat' split) <;> simp [hx])
    | split
    | dsimp only

theorem State.lodgeGuest_keeps {μ : Nat} (hμ : 0x3180007060dc ||| μ = μ) {s₀ s : State} (h : Keeps μ s₀ s) (i : Nat) :
    Keeps μ s₀ (State.lodgeGuest s i) := by
  unfold State.lodgeGuest
  repeat' first
    | with_reducible assumption
    | with_reducible apply State.enterLodged_keeps (sub_of hμ (by decide))
    | with_reducible apply State.modBib_keeps (sub_of hμ (by decide))
    | with_reducible apply State.planLodge_keeps (sub_of hμ (by decide))
    | with_reducible apply State.requestRestore_keeps (sub_of hμ (by decide))
    | with_reducible apply State.transition_keeps (sub_of hμ (by decide))
    | split
    | dsimp only

theorem State.applyChange_keeps {μ : Nat} (hμ : 0x31c000706cfc ||| μ = μ) {s₀ s : State} (h : Keeps μ s₀ s) (origin : Nat) (c : SpreadChange) :
    Keeps μ s₀ (State.applyChange s origin c) := by
  unfold State.applyChange
  repeat' first
    | with_reducible assumption
    | with_reducible apply State.count_keeps
    | with_reducible apply State.enterClosing_keeps (sub_of hμ (by decide))
    | with_reducible apply State.enterFree_keeps (sub_of hμ (by decide))
    | with_reducible apply State.enterPaused_keeps (sub_of hμ (by decide))
    | with_reducible apply State.grantGuest_keeps (sub_of hμ (by decide))
    | with_reducible apply State.lodgeGuest_keeps (sub_of hμ (by decide))
    | with_reducible apply State.release_keeps (sub_of hμ (by decide))
    | split
    | (with_reducible refine bit_of hμ ?_; first | decide | (simp (disch := decide) only [window_sel, window_die, window_arkKey, window_arkKey_add, window_keyAt, window_keyAt_add, window_wordAt, window_arkWord, window_drop, window_drop_hi, window_msix, window_srcWord, window_target]; decide))
    | dsimp only

theorem State.applyChanges_keeps {μ : Nat} (hμ : 0x31c000706cfc ||| μ = μ) {s₀ s : State} (h : Keeps μ s₀ s) :
    Keeps μ s₀ (State.applyChanges s) := by
  unfold State.applyChanges
  repeat' first
    | with_reducible assumption
    | with_reducible apply Keeps.modAtt (bit_of hμ (by decide))
    | with_reducible apply State.applyChange_keeps (sub_of hμ (by decide))
    | with_reducible apply Keeps.foldl
    | exact KeepsPart.same _ _ fun _ => rfl
    | (with_reducible refine KeepsPart.intro fun x hx => ?_; simp only [Attention.canonical, Bool.and_eq_true] at hx ⊢; simp [hx])
    | intro _ _ _
    | dsimp only

theorem State.guestToken_keeps {μ : Nat} (hμ : 0x418 ||| μ = μ) {s₀ s : State} (h : Keeps μ s₀ s) (origin lap w slot : Nat) (t : Nat × Bool) :
    Keeps μ s₀ (State.guestToken s origin lap w slot t) := by
  unfold State.guestToken
  repeat' first
    | with_reducible assumption
    | with_reducible apply Keeps.modAtt (bit_of hμ (by decide))
    | with_reducible apply State.commitPositions_keeps (sub_of hμ (by decide))
    | with_reducible apply State.modBib_keeps (sub_of hμ (by decide))
    | exact KeepsPart.same _ _ fun _ => rfl
    | (with_reducible refine KeepsPart.intro fun x hx => ?_; simp only [Attention.canonical, Bool.and_eq_true] at hx ⊢; simp [hx] <;> (repeat' split) <;> simp [hx])
    | split
    | dsimp only

theorem execSpreadTok_keeps (origin : BitVec 16) (lap : Nat) (wave : Fin 32) (toks : List (Nat × Bool)) (s : State) :
    KeepsOut 0x418 s (execSpreadTok origin lap wave toks s) := by
  have hμ : 0x418 ||| 0x418 = 0x418 := by decide
  unfold execSpreadTok
  repeat' first
    | with_reducible apply KeepsOut.next
    | with_reducible exact Keeps.refl _
    | with_reducible assumption
    | with_reducible apply State.guestToken_keeps (sub_of hμ (by decide))
    | with_reducible apply Keeps.foldl
    | split
    | intro _ _ _
    | dsimp only

theorem State.putPart_keeps {μ : Nat} (hμ : 0x2000000200 ||| μ = μ) {s₀ s : State} (h : Keeps μ s₀ s) (w token l k : Nat) (x : Model) (v : List (BitVec 16)) :
    Keeps μ s₀ (State.putPart s w token l k x v) := by
  unfold State.putPart
  repeat' first
    | with_reducible assumption
    | with_reducible apply State.attComplete_keeps (sub_of hμ (by decide))
    | with_reducible apply State.putHead_keeps (sub_of hμ (by decide))
    | with_reducible apply Keeps.foldl
    | split
    | intro _ _ _
    | dsimp only

theorem State.takePart_keeps {μ : Nat} (hμ : 0x2000000600 ||| μ = μ) {s₀ s : State} (h : Keeps μ s₀ s) (lap w l k : Nat) (replay : BitVec 128) (outputs : List (List (BitVec 16))) :
    Keeps μ s₀ (State.takePart s lap w l k replay outputs) := by
  unfold State.takePart
  repeat' first
    | with_reducible assumption
    | with_reducible apply Keeps.modAtt (bit_of hμ (by decide))
    | with_reducible apply State.putPart_keeps (sub_of hμ (by decide))
    | with_reducible apply Keeps.foldl
    | exact KeepsPart.same _ _ fun _ => rfl
    | (with_reducible refine KeepsPart.intro fun x hx => ?_; simp only [Attention.canonical, Bool.and_eq_true] at hx ⊢; simp [hx] <;> (repeat' split) <;> simp [hx])
    | split
    | intro _ _ _
    | dsimp only

theorem execGatherPart_keeps (lap : Nat) (wave : Fin 32) (layer : Fin 256) (member : Fin 8) (replay : BitVec 128) (outputs : List (List (BitVec 16))) (s : State) :
    KeepsOut 0x2000000600 s (execGatherPart lap wave layer member replay outputs s) := by
  have hμ : 0x2000000600 ||| 0x2000000600 = 0x2000000600 := by decide
  unfold execGatherPart
  repeat' first
    | with_reducible apply KeepsOut.next
    | with_reducible exact Keeps.refl _
    | with_reducible assumption
    | with_reducible apply State.takePart_keeps (sub_of hμ (by decide))
    | dsimp only

end Sys2Proof.Machine
end

