-- ==== Sys2Proof/Laws/KeepSample.lean ====
section
/-!
SUPPORT. What the operations of Machine/Sample.lean keep (Laws/Keeps.lean).
-/

set_option linter.all false

namespace Sys2Proof.Machine

theorem State.deliver_keeps {μ : Nat} (hμ : 0x30800070601c ||| μ = μ) {s₀ s : State} (h : Keeps μ s₀ s) (i tok : Nat) (logits : List (BitVec 16)) :
    Keeps μ s₀ (State.deliver s i tok logits) := by
  unfold State.deliver
  repeat' first
    | with_reducible assumption
    | with_reducible apply State.flushTokens_keeps (sub_of hμ (by decide))
    | with_reducible apply State.modBib_keeps (sub_of hμ (by decide))
    | with_reducible apply State.tokenRecord_keeps (sub_of hμ (by decide))
    | split
    | dsimp only

theorem State.acceptToken_keeps {μ : Nat} (hμ : 0x3080007068dc ||| μ = μ) {s₀ s : State} (h : Keeps μ s₀ s) (i n tok : Nat) (logits : List (BitVec 16)) (last : Bool) :
    Keeps μ s₀ (State.acceptToken s i n tok logits last) := by
  unfold State.acceptToken
  repeat' first
    | with_reducible assumption
    | with_reducible apply State.applyPend_keeps (sub_of hμ (by decide))
    | with_reducible apply State.commitPositions_keeps (sub_of hμ (by decide))
    | with_reducible apply State.deliver_keeps (sub_of hμ (by decide))
    | with_reducible apply State.enterClosing_keeps (sub_of hμ (by decide))
    | with_reducible apply State.modBib_keeps (sub_of hμ (by decide))
    | with_reducible apply State.tally_keeps (sub_of hμ (by decide))
    | split
    | dsimp only

theorem State.drawToken_keeps {μ : Nat} (hμ : 0x30a0007068dc ||| μ = μ) {s₀ s : State} (h : Keeps μ s₀ s) (i w token n : Nat) (last : Bool) :
    Keeps μ s₀ (State.drawToken s i w token n last) := by
  unfold State.drawToken
  repeat' first
    | with_reducible assumption
    | with_reducible apply State.acceptToken_keeps (sub_of hμ (by decide))
    | with_reducible refine State.runHub_keeps' (sub_of hμ (by decide)) ?_ (by assumption)
    | with_reducible refine State.runHub_keeps (sub_of hμ (by decide)) ?_ rfl
    | split
    | dsimp only

theorem State.sendTokens_keeps {μ : Nat} (hμ : 0x100000502000 ||| μ = μ) {s₀ s : State} (h : Keeps μ s₀ s) (w : Nat) :
    Keeps μ s₀ (State.sendTokens s w) := by
  unfold State.sendTokens
  repeat' first
    | with_reducible assumption
    | with_reducible apply State.done_keeps (sub_of hμ (by decide))
    | with_reducible apply State.sendMessage_keeps (sub_of hμ (by decide))
    | with_reducible apply Keeps.foldl
    | split
    | intro _ _ _
    | dsimp only

theorem State.sampleSlot_keeps {μ : Nat} (hμ : 0x30a0007068dc ||| μ = μ) {s₀ s : State} (h : Keeps μ s₀ s) (w token : Nat) :
    Keeps μ s₀ (State.sampleSlot s w token) := by
  unfold State.sampleSlot
  repeat' first
    | with_reducible assumption
    | with_reducible apply State.drawToken_keeps (sub_of hμ (by decide))
    | split
    | dsimp only

theorem State.sample_keeps {μ : Nat} (hμ : 0x30a0007068dc ||| μ = μ) {s₀ s : State} (h : Keeps μ s₀ s) (w token : Nat) :
    Keeps μ s₀ (State.sample s w token) := by
  unfold State.sample
  repeat' first
    | with_reducible assumption
    | with_reducible apply Keeps.modPlan (bit_of hμ (by decide))
    | with_reducible apply State.sampleSlot_keeps (sub_of hμ (by decide))
    | with_reducible apply State.sendTokens_keeps (sub_of hμ (by decide))
    | split
    | dsimp only

theorem execSample_keeps (wave : Fin 96) (slot : Fin 128) (s : State) :
    KeepsOut 0x30a0007068dc s (execSample wave slot s) := by
  have hμ : 0x30a0007068dc ||| 0x30a0007068dc = 0x30a0007068dc := by decide
  unfold execSample
  repeat' first
    | with_reducible apply KeepsOut.next
    | with_reducible exact Keeps.refl _
    | with_reducible assumption
    | with_reducible apply State.sample_keeps (sub_of hμ (by decide))
    | dsimp only

end Sys2Proof.Machine
end

