-- ==== Sys2Proof/Laws/KeepEnergy.lean ====
section
/-!
SUPPORT. What the operations of Machine/Energy.lean keep (Laws/Keeps.lean).
-/

set_option linter.all false

namespace Sys2Proof.Machine

theorem State.putHkc_keeps {μ : Nat} (hμ : 0x8000 ||| μ = μ) {s₀ s : State} (h : Keeps μ s₀ s) (die input : Nat) (x : HkcInput) :
    Keeps μ s₀ (State.putHkc s die input x) := by
  unfold State.putHkc
  repeat' first
    | with_reducible assumption
    | with_reducible apply Keeps.modThm (bit_of hμ (by decide))
    | with_reducible apply State.put_keeps
    | exact KeepsPart.same _ _ fun _ => rfl
    | (with_reducible refine KeepsPart.intro fun x hx => ?_; simp only [Thermal.canonical, Bool.and_eq_true] at hx ⊢; simp [hx])
    | (with_reducible refine bit_of hμ ?_; first | decide | (simp (disch := decide) only [window_sel, window_die, window_arkKey, window_arkKey_add, window_keyAt, window_keyAt_add, window_wordAt, window_arkWord, window_drop, window_drop_hi, window_msix, window_srcWord, window_target]; decide))
    | dsimp only

theorem State.measurePoint_keeps {μ : Nat} (hμ : 0x8100 ||| μ = μ) {s₀ s : State} (h : Keeps μ s₀ s) (ns : Nat) :
    Keeps μ s₀ (State.measurePoint s ns) := by
  unfold State.measurePoint
  repeat' first
    | with_reducible assumption
    | with_reducible apply Keeps.modLedger (bit_of hμ (by decide))
    | with_reducible apply Keeps.modThm (bit_of hμ (by decide))
    | exact KeepsPart.same _ _ fun _ => rfl
    | (with_reducible refine KeepsPart.intro fun x hx => ?_; simp only [Thermal.canonical, Bool.and_eq_true] at hx ⊢; simp [hx])
    | dsimp only

theorem State.advanceCap_keeps {μ : Nat} (hμ : 0x100 ||| μ = μ) {s₀ s : State} (h : Keeps μ s₀ s) (ns : Nat) :
    Keeps μ s₀ (State.advanceCap s ns) := by
  unfold State.advanceCap
  repeat' first
    | with_reducible assumption
    | with_reducible apply Keeps.modLedger (bit_of hμ (by decide))
    | dsimp only

theorem State.newLedger_keeps {μ : Nat} (hμ : 0x100 ||| μ = μ) {s₀ s : State} (h : Keeps μ s₀ s) :
    Keeps μ s₀ (State.newLedger s) := by
  unfold State.newLedger
  repeat' first
    | with_reducible assumption
    | with_reducible apply Keeps.modLedger (bit_of hμ (by decide))
    | with_reducible apply State.credit_keeps (sub_of hμ (by decide))
    | dsimp only

theorem State.showWithheld_keeps {μ : Nat} (hμ : 0x2000000100 ||| μ = μ) {s₀ s : State} (h : Keeps μ s₀ s) (w : List Nat) :
    Keeps μ s₀ (State.showWithheld s w) := by
  unfold State.showWithheld
  repeat' first
    | with_reducible assumption
    | with_reducible apply Keeps.modLedger (bit_of hμ (by decide))
    | with_reducible apply State.put_keeps
    | (with_reducible refine bit_of hμ ?_; first | decide | (simp (disch := decide) only [window_sel, window_die, window_arkKey, window_arkKey_add, window_keyAt, window_keyAt_add, window_wordAt, window_arkWord, window_drop, window_drop_hi, window_msix, window_srcWord, window_target]; decide))
    | dsimp only

theorem State.ledgerWithhold_keeps {μ : Nat} (hμ : 0x2000000100 ||| μ = μ) {s₀ : State} {s : State}  {out : (Nat × Bool) × State} (hk : Keeps μ s₀ s)
    (e : State.ledgerWithhold s = out) : Keeps μ s₀ out.2 := by
  subst e
  unfold State.ledgerWithhold
  repeat' first
    | with_reducible assumption
    | with_reducible apply State.raise_keeps
    | with_reducible apply State.showWithheld_keeps (sub_of hμ (by decide))
    | split
    | (with_reducible refine bit_of hμ ?_; first | decide | (simp (disch := decide) only [window_sel, window_die, window_arkKey, window_arkKey_add, window_keyAt, window_keyAt_add, window_wordAt, window_arkWord, window_drop, window_drop_hi, window_msix, window_srcWord, window_target]; decide))
    | dsimp only

theorem State.ledgerWithhold_keeps' {μ : Nat} (hμ : 0x2000000100 ||| μ = μ) {s₀ uu : State} {s : State}  {xx : (Nat × Bool)} (hk : Keeps μ s₀ s)
    (e : State.ledgerWithhold s = (xx, uu)) : Keeps μ s₀ uu := by
  have r := State.ledgerWithhold_keeps hμ hk e
  exact r

theorem State.reWithhold_keeps {μ : Nat} (hμ : 0x2000000180 ||| μ = μ) {s₀ s : State} (h : Keeps μ s₀ s) :
    Keeps μ s₀ (State.reWithhold s) := by
  unfold State.reWithhold
  repeat' first
    | with_reducible assumption
    | with_reducible apply Keeps.modPlan (bit_of hμ (by decide))
    | with_reducible refine State.ledgerWithhold_keeps' (sub_of hμ (by decide)) ?_ (by assumption)
    | with_reducible refine State.ledgerWithhold_keeps (sub_of hμ (by decide)) ?_ rfl
    | with_reducible apply Keeps.foldl
    | split
    | intro _ _ _
    | dsimp only

theorem State.changePower_keeps {μ : Nat} (hμ : 0x2000000180 ||| μ = μ) {s₀ s : State} (h : Keeps μ s₀ s) (em ns : Nat) (f : State → State)
    (hf : ∀ u, Keeps μ s₀ u → Keeps μ s₀ (f u)) : Keeps μ s₀ (s.changePower em ns f) := by
  unfold State.changePower
  dsimp only
  repeat' first
    | with_reducible assumption
    | with_reducible apply State.reWithhold_keeps (sub_of hμ (by decide))
    | with_reducible apply Keeps.modLedger (bit_of hμ (by decide))
    | with_reducible apply hf
    | with_reducible apply State.advanceCap_keeps (sub_of hμ (by decide))
    | split

theorem State.writeEbudget_keeps {μ : Nat} (hμ : 0x20a000304180 ||| μ = μ) {s₀ s : State} (h : Keeps μ s₀ s) (req : Nat) (v : Word) (em ns : Nat) :
    Keeps μ s₀ (State.writeEbudget s req v em ns) := by
  unfold State.writeEbudget
  repeat' first
    | with_reducible assumption
    | with_reducible apply State.changePower_keeps (sub_of hμ (by decide))
    | with_reducible apply State.put_keeps
    | with_reducible apply State.violation_keeps (sub_of hμ (by decide))
    | split
    | intro _ _
    | (with_reducible refine bit_of hμ ?_; first | decide | (simp (disch := decide) only [window_sel, window_die, window_arkKey, window_arkKey_add, window_keyAt, window_keyAt_add, window_wordAt, window_arkWord, window_drop, window_drop_hi, window_msix, window_srcWord, window_target]; decide))
    | dsimp only

theorem execLapEbudget_keeps (v : Word) (em : Nat) (ns : Nat) (s : State) :
    KeepsOut 0x20a000304180 s (execLapEbudget v em ns s) := by
  have hμ : 0x20a000304180 ||| 0x20a000304180 = 0x20a000304180 := by decide
  unfold execLapEbudget
  repeat' first
    | with_reducible apply KeepsOut.next
    | with_reducible exact Keeps.refl _
    | with_reducible assumption
    | with_reducible apply State.undecoded_keeps (sub_of hμ (by decide))
    | with_reducible apply State.writeEbudget_keeps (sub_of hμ (by decide))
    | split
    | dsimp only

theorem State.beginPause_keeps {μ : Nat} (hμ : 0x2000102100 ||| μ = μ) {s₀ s : State} (h : Keeps μ s₀ s) (q0 : Nat) :
    Keeps μ s₀ (State.beginPause s q0) := by
  unfold State.beginPause
  repeat' first
    | with_reducible assumption
    | with_reducible apply Keeps.modLedger (bit_of hμ (by decide))
    | with_reducible apply Keeps.modLnk (bit_of hμ (by decide))
    | with_reducible apply State.count_keeps
    | with_reducible apply State.put_keeps
    | with_reducible apply State.raise_keeps
    | with_reducible apply State.tally_keeps (sub_of hμ (by decide))
    | exact KeepsPart.same _ _ fun _ => rfl
    | (with_reducible refine KeepsPart.intro fun x hx => ?_; simp only [Links.canonical, Bool.and_eq_true] at hx ⊢; simp [hx] <;> (repeat' split) <;> simp [hx])
    | split
    | (with_reducible refine bit_of hμ ?_; first | decide | (simp (disch := decide) only [window_sel, window_die, window_arkKey, window_arkKey_add, window_keyAt, window_keyAt_add, window_wordAt, window_arkWord, window_drop, window_drop_hi, window_msix, window_srcWord, window_target]; decide))
    | dsimp only

theorem execPausePoint_keeps (k : Nat) (ns : Nat) (s : State) :
    KeepsOut 0x200010a100 s (execPausePoint k ns s) := by
  have hμ : 0x200010a100 ||| 0x200010a100 = 0x200010a100 := by decide
  unfold execPausePoint
  repeat' first
    | with_reducible apply KeepsOut.next
    | with_reducible exact Keeps.refl _
    | with_reducible assumption
    | with_reducible apply State.advanceCap_keeps (sub_of hμ (by decide))
    | with_reducible apply State.beginPause_keeps (sub_of hμ (by decide))
    | with_reducible apply State.measurePoint_keeps (sub_of hμ (by decide))
    | split
    | dsimp only

theorem execSnowploughEnd_keeps (s : State) :
    KeepsOut 0x100 s (execSnowploughEnd s) := by
  have hμ : 0x100 ||| 0x100 = 0x100 := by decide
  unfold execSnowploughEnd
  repeat' first
    | with_reducible apply KeepsOut.next
    | with_reducible exact Keeps.refl _
    | with_reducible assumption
    | with_reducible apply Keeps.modLedger (bit_of hμ (by decide))
    | dsimp only

end Sys2Proof.Machine
end

