-- ==== Sys2Proof/Laws/KeepThermal.lean ====
section
/-!
SUPPORT. What the operations of Machine/Thermal.lean keep (Laws/Keeps.lean).
-/

set_option linter.all false

namespace Sys2Proof.Machine

theorem window_pendBit (d i : Nat) : regWindow (pendBit d i).reg = 4 := by
  simp only [pendBit, window_keyAt]
  split <;> decide

theorem State.shutdown_keeps {μ : Nat} (hμ : 0x100340028c400 ||| μ = μ) {s₀ s : State} (h : Keeps μ s₀ s) :
    Keeps μ s₀ (State.shutdown s) := by
  unfold State.shutdown
  repeat' first
    | with_reducible assumption
    | with_reducible apply Keeps.modThm (bit_of hμ (by decide))
    | with_reducible apply State.haltLatch_keeps (sub_of hμ (by decide))
    | with_reducible apply State.put_keeps
    | exact KeepsPart.same _ _ fun _ => rfl
    | (with_reducible refine KeepsPart.intro fun x hx => ?_; simp only [Thermal.canonical, Bool.and_eq_true] at hx ⊢; simp [hx])
    | (with_reducible refine bit_of hμ ?_; first | decide | (simp (disch := decide) only [window_sel, window_die, window_arkKey, window_arkKey_add, window_keyAt, window_keyAt_add, window_wordAt, window_arkWord, window_drop, window_drop_hi, window_msix, window_srcWord, window_target, window_pendBit]; decide))
    | dsimp only

theorem State.setLevel_keeps {μ : Nat} (hμ : 0x100340028c580 ||| μ = μ) {s₀ s : State} (h : Keeps μ s₀ s) (n em ns : Nat) :
    Keeps μ s₀ (State.setLevel s n em ns) := by
  unfold State.setLevel
  repeat' first
    | with_reducible assumption
    | with_reducible apply State.changePower_keeps (sub_of hμ (by decide))
    | with_reducible apply State.put_keeps
    | with_reducible apply State.raise_keeps
    | with_reducible apply State.shutdown_keeps (sub_of hμ (by decide))
    | split
    | intro _ _
    | (with_reducible refine bit_of hμ ?_; first | decide | (simp (disch := decide) only [window_sel, window_die, window_arkKey, window_arkKey_add, window_keyAt, window_keyAt_add, window_wordAt, window_arkWord, window_drop, window_drop_hi, window_msix, window_srcWord, window_target, window_pendBit]; decide))
    | dsimp only

theorem State.updateLevel_keeps {μ : Nat} (hμ : 0x100340028c580 ||| μ = μ) {s₀ s : State} (h : Keeps μ s₀ s) (em ns : Nat) :
    Keeps μ s₀ (State.updateLevel s em ns) := by
  unfold State.updateLevel
  repeat' first
    | with_reducible assumption
    | with_reducible apply State.setLevel_keeps (sub_of hμ (by decide))
    | dsimp only

theorem State.window_keeps {μ : Nat} (hμ : 0x1000008000 ||| μ = μ) {s₀ s : State} (h : Keeps μ s₀ s) (die input c : Nat) :
    Keeps μ s₀ (State.window s die input c) := by
  unfold State.window
  repeat' first
    | with_reducible assumption
    | with_reducible apply State.putHkc_keeps (sub_of hμ (by decide))
    | with_reducible apply State.put_keeps
    | split
    | (with_reducible refine bit_of hμ ?_; first | decide | (simp (disch := decide) only [window_sel, window_die, window_arkKey, window_arkKey_add, window_keyAt, window_keyAt_add, window_wordAt, window_arkWord, window_drop, window_drop_hi, window_msix, window_srcWord, window_target, window_pendBit]; decide))
    | dsimp only

theorem State.trackHottest_keeps {μ : Nat} (hμ : 0x8000 ||| μ = μ) {s₀ s : State} (h : Keeps μ s₀ s) (die input c : Nat) :
    Keeps μ s₀ (State.trackHottest s die input c) := by
  unfold State.trackHottest
  repeat' first
    | with_reducible assumption
    | with_reducible apply Keeps.modThm (bit_of hμ (by decide))
    | exact KeepsPart.same _ _ fun _ => rfl
    | (with_reducible refine KeepsPart.intro fun x hx => ?_; simp only [Thermal.canonical, Bool.and_eq_true] at hx ⊢; simp [hx] <;> (repeat' split) <;> simp [hx])
    | split
    | dsimp only

theorem State.takeReading_keeps {μ : Nat} (hμ : 0x100340028c580 ||| μ = μ) {s₀ s : State} (h : Keeps μ s₀ s) (die input c : Nat) (cls : Option Nat) (em ns : Nat) :
    Keeps μ s₀ (State.takeReading s die input c cls em ns) := by
  unfold State.takeReading
  repeat' first
    | with_reducible assumption
    | with_reducible apply State.putHkc_keeps (sub_of hμ (by decide))
    | with_reducible apply State.trackHottest_keeps (sub_of hμ (by decide))
    | with_reducible apply State.updateLevel_keeps (sub_of hμ (by decide))
    | with_reducible apply State.window_keeps (sub_of hμ (by decide))
    | split
    | dsimp only

theorem State.breakSensor_keeps {μ : Nat} (hμ : 0x20100030c000 ||| μ = μ) {s₀ s : State} (h : Keeps μ s₀ s) (die input : Nat) (code : Option Nat) :
    Keeps μ s₀ (State.breakSensor s die input code) := by
  unfold State.breakSensor
  repeat' first
    | with_reducible assumption
    | with_reducible apply State.putHkc_keeps (sub_of hμ (by decide))
    | with_reducible apply State.raise_keeps
    | with_reducible apply State.report_keeps (sub_of hμ (by decide))
    | split
    | (with_reducible refine bit_of hμ ?_; first | decide | (simp (disch := decide) only [window_sel, window_die, window_arkKey, window_arkKey_add, window_keyAt, window_keyAt_add, window_wordAt, window_arkWord, window_drop, window_drop_hi, window_msix, window_srcWord, window_target, window_pendBit]; decide))
    | dsimp only

theorem State.sampleSensor_keeps {μ : Nat} (hμ : 0x120340038c580 ||| μ = μ) {s₀ s : State} (h : Keeps μ s₀ s) (die input cls : Nat) (code : Option Nat) (em ns : Nat) :
    Keeps μ s₀ (State.sampleSensor s die input cls code em ns) := by
  unfold State.sampleSensor
  repeat' first
    | with_reducible assumption
    | with_reducible apply State.breakSensor_keeps (sub_of hμ (by decide))
    | with_reducible apply State.putHkc_keeps (sub_of hμ (by decide))
    | with_reducible apply State.takeReading_keeps (sub_of hμ (by decide))
    | split
    | dsimp only

theorem execHkcSample_keeps (die : Fin 18) (input : Fin 40) (code : BitVec 12) (em : Nat) (ns : Nat) (s : State) :
    KeepsOut 0x120340038c580 s (execHkcSample die input code em ns s) := by
  have hμ : 0x120340038c580 ||| 0x120340038c580 = 0x120340038c580 := by decide
  unfold execHkcSample
  repeat' first
    | with_reducible apply KeepsOut.next
    | with_reducible exact Keeps.refl _
    | with_reducible assumption
    | with_reducible apply State.sampleSensor_keeps (sub_of hμ (by decide))
    | with_reducible apply State.takeReading_keeps (sub_of hμ (by decide))
    | split
    | dsimp only

theorem execHbmSensorRead_keeps (stack : Fin 16) (code : Option (BitVec 12)) (em : Nat) (ns : Nat) (s : State) :
    KeepsOut 0x120340038c580 s (execHbmSensorRead stack code em ns s) := by
  have hμ : 0x120340038c580 ||| 0x120340038c580 = 0x120340038c580 := by decide
  unfold execHbmSensorRead
  repeat' first
    | with_reducible apply KeepsOut.next
    | with_reducible exact Keeps.refl _
    | with_reducible assumption
    | with_reducible apply State.sampleSensor_keeps (sub_of hμ (by decide))
    | dsimp only

theorem State.copyInterval_keeps {μ : Nat} (hμ : 0x1000008000 ||| μ = μ) {s₀ s : State} (h : Keeps μ s₀ s) (k : Nat) (x : HkcInput) :
    Keeps μ s₀ (State.copyInterval s k x) := by
  unfold State.copyInterval
  repeat' first
    | with_reducible assumption
    | with_reducible apply Keeps.modThm (bit_of hμ (by decide))
    | with_reducible apply Keeps.wr
    | with_reducible apply State.count_keeps
    | with_reducible apply State.put_keeps
    | exact KeepsPart.same _ _ fun _ => rfl
    | (with_reducible refine KeepsPart.intro fun x hx => ?_; simp only [Thermal.canonical, Bool.and_eq_true] at hx ⊢; simp [hx] <;> (repeat' split) <;> simp [hx])
    | split
    | (with_reducible refine bit_of hμ ?_; first | decide | (simp (disch := decide) only [window_sel, window_die, window_arkKey, window_arkKey_add, window_keyAt, window_keyAt_add, window_wordAt, window_arkWord, window_drop, window_drop_hi, window_msix, window_srcWord, window_target, window_pendBit]; decide))
    | dsimp only

theorem State.endInterval_keeps {μ : Nat} (hμ : 0x1000008000 ||| μ = μ) {s₀ s : State} (h : Keeps μ s₀ s) :
    Keeps μ s₀ (State.endInterval s) := by
  unfold State.endInterval
  repeat' first
    | with_reducible assumption
    | with_reducible apply State.copyInterval_keeps (sub_of hμ (by decide))
    | with_reducible apply State.put_keeps
    | with_reducible apply Keeps.foldl
    | intro _ _ _
    | (with_reducible refine bit_of hμ ?_; first | decide | (simp (disch := decide) only [window_sel, window_die, window_arkKey, window_arkKey_add, window_keyAt, window_keyAt_add, window_wordAt, window_arkWord, window_drop, window_drop_hi, window_msix, window_srcWord, window_target, window_pendBit]; decide))
    | dsimp only

theorem execHkcIntervalEnd_keeps (s : State) :
    KeepsOut 0x1000008000 s (execHkcIntervalEnd s) := by
  have hμ : 0x1000008000 ||| 0x1000008000 = 0x1000008000 := by decide
  unfold execHkcIntervalEnd
  repeat' first
    | with_reducible apply KeepsOut.next
    | with_reducible exact Keeps.refl _
    | with_reducible assumption
    | with_reducible apply State.endInterval_keeps (sub_of hμ (by decide))
    | dsimp only

theorem State.showHottest_keeps {μ : Nat} (hμ : 0x1000008000 ||| μ = μ) {s₀ s : State} (h : Keeps μ s₀ s) :
    Keeps μ s₀ (State.showHottest s) := by
  unfold State.showHottest
  repeat' first
    | with_reducible assumption
    | with_reducible apply Keeps.modThm (bit_of hμ (by decide))
    | with_reducible apply State.put_keeps
    | exact KeepsPart.same _ _ fun _ => rfl
    | (with_reducible refine KeepsPart.intro fun x hx => ?_; simp only [Thermal.canonical, Bool.and_eq_true] at hx ⊢; simp [hx] <;> (repeat' split) <;> simp [hx])
    | split
    | (with_reducible refine bit_of hμ ?_; first | decide | (simp (disch := decide) only [window_sel, window_die, window_arkKey, window_arkKey_add, window_keyAt, window_keyAt_add, window_wordAt, window_arkWord, window_drop, window_drop_hi, window_msix, window_srcWord, window_target, window_pendBit]; decide))
    | dsimp only

theorem State.writeSsts_keeps {μ : Nat} (hμ : 0x120b40038c580 ||| μ = μ) {s₀ s : State} (h : Keeps μ s₀ s) (req : Nat) (v : Word) (em ns : Nat) :
    Keeps μ s₀ (State.writeSsts s req v em ns) := by
  unfold State.writeSsts
  repeat' first
    | with_reducible assumption
    | with_reducible apply State.put_keeps
    | with_reducible apply State.updateLevel_keeps (sub_of hμ (by decide))
    | with_reducible apply State.violation_keeps (sub_of hμ (by decide))
    | split
    | (with_reducible refine bit_of hμ ?_; first | decide | (simp (disch := decide) only [window_sel, window_die, window_arkKey, window_arkKey_add, window_keyAt, window_keyAt_add, window_wordAt, window_arkWord, window_drop, window_drop_hi, window_msix, window_srcWord, window_target, window_pendBit]; decide))
    | dsimp only

theorem execThmSstsExcl_keeps (v : Word) (em : Nat) (ns : Nat) (s : State) :
    KeepsOut 0x120b40038c580 s (execThmSstsExcl v em ns s) := by
  have hμ : 0x120b40038c580 ||| 0x120b40038c580 = 0x120b40038c580 := by decide
  unfold execThmSstsExcl
  repeat' first
    | with_reducible apply KeepsOut.next
    | with_reducible exact Keeps.refl _
    | with_reducible assumption
    | with_reducible apply State.undecoded_keeps (sub_of hμ (by decide))
    | with_reducible apply State.writeSsts_keeps (sub_of hμ (by decide))
    | split
    | dsimp only

theorem execThermalComparatorTrip_keeps (die : Fin 18) (s : State) :
    KeepsOut 0x1000008000 s (execThermalComparatorTrip die s) := by
  have hμ : 0x1000008000 ||| 0x1000008000 = 0x1000008000 := by decide
  unfold execThermalComparatorTrip
  repeat' first
    | with_reducible apply KeepsOut.next
    | with_reducible exact Keeps.refl _
    | with_reducible assumption
    | with_reducible apply Keeps.modThm (bit_of hμ (by decide))
    | with_reducible apply State.put_keeps
    | exact KeepsPart.same _ _ fun _ => rfl
    | (with_reducible refine KeepsPart.intro fun x hx => ?_; simp only [Thermal.canonical, Bool.and_eq_true] at hx ⊢; simp [hx])
    | (with_reducible refine bit_of hμ ?_; first | decide | (simp (disch := decide) only [window_sel, window_die, window_arkKey, window_arkKey_add, window_keyAt, window_keyAt_add, window_wordAt, window_arkWord, window_drop, window_drop_hi, window_msix, window_srcWord, window_target, window_pendBit]; decide))
    | dsimp only

end Sys2Proof.Machine
end

