-- ==== Sys2Proof/Laws/KeepEvict.lean ====
section
/-!
SUPPORT. What the operations of Machine/Evict.lean keep (Laws/Keeps.lean).
-/

set_option linter.all false

namespace Sys2Proof.Machine

theorem State.evictBlock_keeps {μ : Nat} (hμ : 0x10000100050 ||| μ = μ) {s₀ s : State} (h : Keeps μ s₀ s) (i blk : Nat) :
    Keeps μ s₀ (State.evictBlock s i blk) := by
  unfold State.evictBlock
  repeat' first
    | with_reducible assumption
    | with_reducible apply State.count_keeps
    | with_reducible apply State.modBib_keeps (sub_of hμ (by decide))
    | with_reducible apply State.releasePages_keeps (sub_of hμ (by decide))
    | with_reducible apply State.tally_keeps (sub_of hμ (by decide))
    | split
    | (with_reducible refine bit_of hμ ?_; first | decide | (simp (disch := decide) only [window_sel, window_die, window_arkKey, window_arkKey_add, window_keyAt, window_keyAt_add, window_wordAt, window_arkWord, window_drop, window_drop_hi, window_msix, window_srcWord, window_target, window_pendBit]; decide))
    | dsimp only

theorem State.evictWhile_keeps {μ : Nat} (hμ : 0x10000100050 ||| μ = μ) {s₀ s : State} (h : Keeps μ s₀ s) (more : State → Bool) (l : List (Nat × Nat)) :
    Keeps μ s₀ (s.evictWhile more l) := by
  induction l generalizing s with
  | nil => exact h
  | cons x r ih =>
    unfold State.evictWhile
    split
    · exact ih (State.evictBlock_keeps (sub_of hμ (by decide)) h x.1 x.2)
    · exact h

theorem State.evictPass_keeps {μ : Nat} (hμ : 0x10000100050 ||| μ = μ) {s₀ s : State} (h : Keeps μ s₀ s) (h : Hub) :
    Keeps μ s₀ (State.evictPass s h) := by
  unfold State.evictPass
  repeat' first
    | with_reducible assumption
    | with_reducible apply State.evictWhile_keeps (sub_of hμ (by decide))
    | dsimp only

theorem State.quotaLodge_keeps {μ : Nat} (hμ : 0x3180007060dc ||| μ = μ) {s₀ s : State} (h : Keeps μ s₀ s) (t : Nat) (l : List Nat) : Keeps μ s₀ (s.quotaLodge t l) := by
  induction l generalizing s with
  | nil => exact h
  | cons i r ih =>
    unfold State.quotaLodge
    split
    · exact ih (State.count_keeps (bit_of hμ (by decide)) (bit_of hμ (by decide)) (State.enterLodged_keeps (sub_of hμ (by decide)) h i _))
    · exact h

theorem State.quotaTenant_keeps {μ : Nat} (hμ : 0x3180007060dc ||| μ = μ) {s₀ s : State} (h : Keeps μ s₀ s) (t : Nat) :
    Keeps μ s₀ (State.quotaTenant s t) := by
  unfold State.quotaTenant
  repeat' first
    | with_reducible assumption
    | with_reducible apply State.evictWhile_keeps (sub_of hμ (by decide))
    | with_reducible apply State.quotaCheck_keeps (sub_of hμ (by decide))
    | with_reducible apply State.quotaLodge_keeps (sub_of hμ (by decide))
    | split
    | dsimp only

theorem State.quotaSteps_keeps {μ : Nat} (hμ : 0x3180007060dc ||| μ = μ) {s₀ s : State} (h : Keeps μ s₀ s) :
    Keeps μ s₀ (State.quotaSteps s) := by
  unfold State.quotaSteps
  repeat' first
    | with_reducible assumption
    | with_reducible apply State.quotaTenant_keeps (sub_of hμ (by decide))
    | with_reducible apply Keeps.foldl
    | intro _ _ _
    | dsimp only

theorem State.topUp_keeps {μ : Nat} (hμ : 0x10000100050 ||| μ = μ) {s₀ : State} {s : State} {i : Nat} {out : Bool × State} (hk : Keeps μ s₀ s)
    (e : State.topUp s i = out) : Keeps μ s₀ out.2 := by
  subst e
  unfold State.topUp
  repeat' first
    | with_reducible assumption
    | with_reducible refine State.growTo_keeps' (sub_of hμ (by decide)) ?_ (by assumption)
    | with_reducible refine State.growTo_keeps (sub_of hμ (by decide)) ?_ rfl
    | split
    | dsimp only

theorem State.topUp_keeps' {μ : Nat} (hμ : 0x10000100050 ||| μ = μ) {s₀ uu : State} {s : State} {i : Nat} {xx : Bool} (hk : Keeps μ s₀ s)
    (e : State.topUp s i = (xx, uu)) : Keeps μ s₀ uu := by
  have r := State.topUp_keeps hμ hk e
  exact r

theorem State.topUps_keeps {μ : Nat} (hμ : 0x10000100050 ||| μ = μ) {s₀ s : State} {l : List Nat} {out : List Nat × State} (h : Keeps μ s₀ s) (e : s.topUps l = out) :
    Keeps μ s₀ out.2 := by
  subst e
  induction l generalizing s with
  | nil => exact h
  | cons i r ih =>
    unfold State.topUps
    exact ih (State.topUp_keeps (sub_of hμ (by decide)) h rfl)
theorem State.topUps_keeps' {μ : Nat} (hμ : 0x10000100050 ||| μ = μ) {s₀ uu : State} {s : State}  {l : List Nat} {xx : List Nat} (hk : Keeps μ s₀ s)
    (e : State.topUps s l = (xx, uu)) : Keeps μ s₀ uu := by
  have r := State.topUps_keeps hμ hk e
  exact r

theorem State.planLodge_keeps {μ : Nat} (hμ : 0x80 ||| μ = μ) {s₀ s : State} (h : Keeps μ s₀ s) (i : Nat) :
    Keeps μ s₀ (State.planLodge s i) := by
  unfold State.planLodge
  repeat' first
    | with_reducible assumption
    | with_reducible apply Keeps.modPlan (bit_of hμ (by decide))
    | dsimp only

theorem State.lodgeShort_keeps {μ : Nat} (hμ : 0x80 ||| μ = μ) {s₀ s : State} (h : Keeps μ s₀ s) (l : List Nat) :
    Keeps μ s₀ (State.lodgeShort s l) := by
  unfold State.lodgeShort
  repeat' first
    | with_reducible assumption
    | with_reducible apply State.planLodge_keeps (sub_of hμ (by decide))
    | with_reducible apply Keeps.foldl
    | split
    | intro _ _ _
    | dsimp only

theorem State.growHub_keeps {μ : Nat} (hμ : 0x100001000d0 ||| μ = μ) {s₀ s : State} (h : Keeps μ s₀ s) (h : Hub) :
    Keeps μ s₀ (State.growHub s h) := by
  unfold State.growHub
  repeat' first
    | with_reducible assumption
    | with_reducible apply Keeps.modKvm (bit_of hμ (by decide))
    | with_reducible apply State.evictPass_keeps (sub_of hμ (by decide))
    | with_reducible apply State.lodgeShort_keeps (sub_of hμ (by decide))
    | with_reducible refine State.topUps_keeps' (sub_of hμ (by decide)) ?_ (by assumption)
    | with_reducible refine State.topUps_keeps (sub_of hμ (by decide)) ?_ rfl
    | exact KeepsPart.same _ _ fun _ => rfl
    | (with_reducible refine KeepsPart.intro fun x hx => ?_; simp only [Kvm.canonical, Bool.and_eq_true] at hx ⊢; simp [hx] <;> (repeat' split) <;> simp [hx])
    | split
    | dsimp only

theorem State.kvSteps_keeps {μ : Nat} (hμ : 0x3180007060dc ||| μ = μ) {s₀ s : State} (h : Keeps μ s₀ s) :
    Keeps μ s₀ (State.kvSteps s) := by
  unfold State.kvSteps
  repeat' first
    | with_reducible assumption
    | with_reducible apply State.growHub_keeps (sub_of hμ (by decide))
    | with_reducible apply State.quotaSteps_keeps (sub_of hμ (by decide))
    | dsimp only

theorem State.dropLeaving_keeps {μ : Nat} (hμ : 0x100050 ||| μ = μ) {s₀ s : State} (h : Keeps μ s₀ s) (i : Nat) :
    Keeps μ s₀ (State.dropLeaving s i) := by
  unfold State.dropLeaving
  repeat' first
    | with_reducible assumption
    | with_reducible apply State.modBib_keeps (sub_of hμ (by decide))
    | with_reducible apply State.trimLists_keeps (sub_of hμ (by decide))
    | split
    | dsimp only

theorem State.writeQuota_keeps {μ : Nat} (hμ : 0x10000000000 ||| μ = μ) {s₀ s : State} (h : Keeps μ s₀ s) (v : Word) :
    Keeps μ s₀ (State.writeQuota s v) := by
  unfold State.writeQuota
  repeat' first
    | with_reducible assumption
    | with_reducible apply State.put_keeps
    | with_reducible apply State.quotaCheck_keeps (sub_of hμ (by decide))
    | (with_reducible refine bit_of hμ ?_; first | decide | (simp (disch := decide) only [window_sel, window_die, window_arkKey, window_arkKey_add, window_keyAt, window_keyAt_add, window_wordAt, window_arkWord, window_drop, window_drop_hi, window_msix, window_srcWord, window_target, window_pendBit]; decide))
    | dsimp only

theorem execKvmQuota_keeps (v : Word) (s : State) :
    KeepsOut 0x218000304000 s (execKvmQuota v s) := by
  have hμ : 0x218000304000 ||| 0x218000304000 = 0x218000304000 := by decide
  unfold execKvmQuota
  repeat' first
    | with_reducible apply KeepsOut.next
    | with_reducible exact Keeps.refl _
    | with_reducible assumption
    | with_reducible apply State.undecoded_keeps (sub_of hμ (by decide))
    | with_reducible apply State.writeQuota_keeps (sub_of hμ (by decide))
    | split
    | dsimp only

end Sys2Proof.Machine
end

