-- ==== Sys2Proof/Laws/KeepWax.lean ====
section
/-!
SUPPORT. What the operations of Machine/Wax.lean keep (Laws/Keeps.lean).
-/

set_option linter.all false

namespace Sys2Proof.Machine

theorem State.dropSet_keeps {μ : Nat} (hμ : 0x30800070680c ||| μ = μ) {s₀ s : State} (h : Keeps μ s₀ s) (q w : Nat) (d : Desc) :
    Keeps μ s₀ (State.dropSet s q w d) := by
  unfold State.dropSet
  repeat' first
    | with_reducible assumption
    | with_reducible apply State.putWax_keeps (sub_of hμ (by decide))
    | with_reducible apply State.waxSettle_keeps (sub_of hμ (by decide))
    | with_reducible apply State.workRecord_keeps (sub_of hμ (by decide))
    | split
    | dsimp only

theorem State.waxLoadAccept_keeps {μ : Nat} (hμ : 0x30800070680c ||| μ = μ) {s₀ s : State} (h : Keeps μ s₀ s) (q : Nat) (d : Desc) (data : Option (List Byte)) :
    Keeps μ s₀ (State.waxLoadAccept s q d data) := by
  unfold State.waxLoadAccept
  repeat' first
    | with_reducible assumption
    | with_reducible apply State.dropSet_keeps (sub_of hμ (by decide))
    | with_reducible apply State.emit_keeps (sub_of hμ (by decide))
    | with_reducible apply State.modQp_keeps (sub_of hμ (by decide))
    | with_reducible apply State.putWax_keeps (sub_of hμ (by decide))
    | split
    | dsimp only

theorem execWaxLoad_keeps (q : Fin 16384) (d : Desc) (data : Option (List Byte)) (s : State) :
    KeepsOut 0x30800070680c s (execWaxLoad q d data s) := by
  have hμ : 0x30800070680c ||| 0x30800070680c = 0x30800070680c := by decide
  unfold execWaxLoad
  repeat' first
    | with_reducible apply KeepsOut.next
    | with_reducible exact Keeps.refl _
    | with_reducible assumption
    | with_reducible apply State.command_keeps (sub_of hμ (by decide))
    | with_reducible apply State.waxLoadAccept_keeps (sub_of hμ (by decide))
    | intro _ _
    | dsimp only

theorem State.loadDone_keeps {μ : Nat} (hμ : 0x30800070680c ||| μ = μ) {s₀ s : State} (h : Keeps μ s₀ s) (w : Nat) :
    Keeps μ s₀ (State.loadDone s w) := by
  unfold State.loadDone
  repeat' first
    | with_reducible assumption
    | with_reducible apply State.putWax_keeps (sub_of hμ (by decide))
    | with_reducible apply State.waxSettle_keeps (sub_of hμ (by decide))
    | with_reducible apply State.workRecord_keeps (sub_of hμ (by decide))
    | split
    | dsimp only

theorem execWaxLoadDone_keeps (index : Fin 131072) (s : State) :
    KeepsOut 0x30800070680c s (execWaxLoadDone index s) := by
  have hμ : 0x30800070680c ||| 0x30800070680c = 0x30800070680c := by decide
  unfold execWaxLoadDone
  repeat' first
    | with_reducible apply KeepsOut.next
    | with_reducible exact Keeps.refl _
    | with_reducible assumption
    | with_reducible apply State.loadDone_keeps (sub_of hμ (by decide))
    | dsimp only

theorem State.beginMove_keeps {μ : Nat} (hμ : 0x800 ||| μ = μ) {s₀ s : State} (h : Keeps μ s₀ s) (w : Nat) :
    Keeps μ s₀ (State.beginMove s w) := by
  unfold State.beginMove
  repeat' first
    | with_reducible assumption
    | with_reducible apply State.putWax_keeps (sub_of hμ (by decide))
    | dsimp only

theorem State.promoWait_keeps {μ : Nat} (hμ : 0x40000000000 ||| μ = μ) {s₀ s : State} (h : Keeps μ s₀ s) :
    Keeps μ s₀ (State.promoWait s) := by
  unfold State.promoWait
  repeat' first
    | with_reducible assumption
    | with_reducible apply State.raise_keeps
    | (with_reducible refine bit_of hμ ?_; first | decide | (simp (disch := decide) only [window_sel, window_die, window_arkKey, window_arkKey_add, window_keyAt, window_keyAt_add, window_wordAt, window_arkWord, window_drop, window_drop_hi, window_msix, window_srcWord, window_target, window_pendBit]; decide))
    | dsimp only

theorem State.promote_keeps {μ : Nat} (hμ : 0x40000000800 ||| μ = μ) {s₀ s : State} (h : Keeps μ s₀ s) (busy : List Nat) (w : Nat) :
    Keeps μ s₀ (State.promote s busy w) := by
  unfold State.promote
  repeat' first
    | with_reducible assumption
    | with_reducible apply State.beginMove_keeps (sub_of hμ (by decide))
    | with_reducible apply State.promoWait_keeps (sub_of hμ (by decide))
    | split
    | dsimp only

theorem execWaxMoveDone_keeps (index : Fin 131072) (s : State) :
    KeepsOut 0x40000000800 s (execWaxMoveDone index s) := by
  have hμ : 0x40000000800 ||| 0x40000000800 = 0x40000000800 := by decide
  unfold execWaxMoveDone
  repeat' first
    | with_reducible apply KeepsOut.next
    | with_reducible exact Keeps.refl _
    | with_reducible assumption
    | with_reducible apply State.count_keeps
    | with_reducible apply State.putWax_keeps (sub_of hμ (by decide))
    | with_reducible apply State.waxSettle_keeps (sub_of hμ (by decide))
    | split
    | (with_reducible refine bit_of hμ ?_; first | decide | (simp (disch := decide) only [window_sel, window_die, window_arkKey, window_arkKey_add, window_keyAt, window_keyAt_add, window_wordAt, window_arkWord, window_drop, window_drop_hi, window_msix, window_srcWord, window_target, window_pendBit]; decide))
    | dsimp only

theorem State.waxBoundary_keeps {μ : Nat} (hμ : 0x800 ||| μ = μ) {s₀ s : State} (h : Keeps μ s₀ s) (w : Nat) :
    Keeps μ s₀ (State.waxBoundary s w) := by
  unfold State.waxBoundary
  repeat' first
    | with_reducible assumption
    | with_reducible apply State.putWax_keeps (sub_of hμ (by decide))
    | with_reducible apply State.waxSettle_keeps (sub_of hμ (by decide))
    | split
    | dsimp only

theorem State.waxFitAccept_keeps {μ : Nat} (hμ : 0x30800070683c ||| μ = μ) {s₀ s : State} (h : Keeps μ s₀ s) (q : Nat) (d : Desc) (p : List Byte) :
    Keeps μ s₀ (State.waxFitAccept s q d p) := by
  unfold State.waxFitAccept
  repeat' first
    | with_reducible assumption
    | with_reducible apply Keeps.modFree (bit_of hμ (by decide))
    | with_reducible apply Keeps.putBib (bit_of hμ (by decide))
    | with_reducible apply State.emit_keeps (sub_of hμ (by decide))
    | with_reducible apply State.modQp_keeps (sub_of hμ (by decide))
    | with_reducible apply State.putWax_keeps (sub_of hμ (by decide))
    | with_reducible apply State.takeWax_keeps (sub_of hμ (by decide))
    | with_reducible apply State.tally_keeps (sub_of hμ (by decide))
    | split
    | dsimp only

theorem execWaxFit_keeps (q : Fin 16384) (d : Desc) (data : Option (List Byte)) (s : State) :
    KeepsOut 0x30800070683c s (execWaxFit q d data s) := by
  have hμ : 0x30800070683c ||| 0x30800070683c = 0x30800070683c := by decide
  unfold execWaxFit
  repeat' first
    | with_reducible apply KeepsOut.next
    | with_reducible exact Keeps.refl _
    | with_reducible assumption
    | with_reducible apply State.command_keeps (sub_of hμ (by decide))
    | with_reducible apply State.waxFitAccept_keeps (sub_of hμ (by decide))
    | intro _ _
    | dsimp only

theorem State.fitUpdate_keeps {μ : Nat} (hμ : 0x40000100800 ||| μ = μ) {s₀ s : State} (h : Keeps μ s₀ s) (w : Nat) (grads : List (List Word)) (loss : Word) (sat : Nat) :
    Keeps μ s₀ (State.fitUpdate s w grads loss sat) := by
  unfold State.fitUpdate
  repeat' first
    | with_reducible assumption
    | with_reducible apply State.count_keeps
    | with_reducible apply State.done_keeps (sub_of hμ (by decide))
    | with_reducible apply State.putWax_keeps (sub_of hμ (by decide))
    | with_reducible apply State.tally_keeps (sub_of hμ (by decide))
    | with_reducible apply Keeps.foldl
    | split
    | intro _ _ _
    | (with_reducible refine bit_of hμ ?_; first | decide | (simp (disch := decide) only [window_sel, window_die, window_arkKey, window_arkKey_add, window_keyAt, window_keyAt_add, window_wordAt, window_arkWord, window_drop, window_drop_hi, window_msix, window_srcWord, window_target, window_pendBit]; decide))
    | dsimp only

theorem execWaxFitUpdate_keeps (index : Fin 131072) (grads : List (List Word)) (loss : Word) (sat : Nat) (s : State) :
    KeepsOut 0x40000100800 s (execWaxFitUpdate index grads loss sat s) := by
  have hμ : 0x40000100800 ||| 0x40000100800 = 0x40000100800 := by decide
  unfold execWaxFitUpdate
  repeat' first
    | with_reducible apply KeepsOut.next
    | with_reducible exact Keeps.refl _
    | with_reducible assumption
    | with_reducible apply State.fitUpdate_keeps (sub_of hμ (by decide))
    | dsimp only

theorem State.finishFit_keeps {μ : Nat} (hμ : 0x30800070687c ||| μ = μ) {s₀ s : State} (h : Keeps μ s₀ s) (w : Nat) (f : Fit) (status : Byte) :
    Keeps μ s₀ (State.finishFit s w f status) := by
  unfold State.finishFit
  repeat' first
    | with_reducible assumption
    | with_reducible apply State.endFit_keeps (sub_of hμ (by decide))
    | with_reducible apply State.endInternal_keeps (sub_of hμ (by decide))
    | dsimp only

theorem execWaxFitEnd_keeps (index : Fin 131072) (s : State) :
    KeepsOut 0x30800070687c s (execWaxFitEnd index s) := by
  have hμ : 0x30800070687c ||| 0x30800070687c = 0x30800070687c := by decide
  unfold execWaxFitEnd
  repeat' first
    | with_reducible apply KeepsOut.next
    | with_reducible exact Keeps.refl _
    | with_reducible assumption
    | with_reducible apply State.done_keeps (sub_of hμ (by decide))
    | with_reducible apply State.finishFit_keeps (sub_of hμ (by decide))
    | split
    | dsimp only

theorem State.dropFits_keeps {μ : Nat} (hμ : 0x800 ||| μ = μ) {s₀ s : State} (h : Keeps μ s₀ s) :
    Keeps μ s₀ (State.dropFits s) := by
  unfold State.dropFits
  repeat' first
    | with_reducible assumption
    | with_reducible apply Keeps.setWax (bit_of hμ (by decide))
    | (with_reducible refine WfImp.intro fun hx => ?_; first | (simp [hx]; done) | (simp at hx; simp [hx]))
    | split
    | dsimp only

theorem State.poisonWax_keeps {μ : Nat} (hμ : 0x35c000706adc ||| μ = μ) {s₀ s : State} (h : Keeps μ s₀ s) (w wave : Nat) :
    Keeps μ s₀ (State.poisonWax s w wave) := by
  unfold State.poisonWax
  repeat' first
    | with_reducible assumption
    | with_reducible apply State.endPoisoned_keeps (sub_of hμ (by decide))
    | with_reducible apply State.putWax_keeps (sub_of hμ (by decide))
    | with_reducible apply State.raise_keeps
    | with_reducible apply State.waxSettle_keeps (sub_of hμ (by decide))
    | with_reducible apply Keeps.foldl
    | split
    | intro _ _ _
    | (with_reducible refine bit_of hμ ?_; first | decide | (simp (disch := decide) only [window_sel, window_die, window_arkKey, window_arkKey_add, window_keyAt, window_keyAt_add, window_wordAt, window_arkWord, window_drop, window_drop_hi, window_msix, window_srcWord, window_target, window_pendBit]; decide))
    | dsimp only

theorem execWaxRecordPoison_keeps (index : Fin 131072) (wave : Fin 96) (s : State) :
    KeepsOut 0x35c000706adc s (execWaxRecordPoison index wave s) := by
  have hμ : 0x35c000706adc ||| 0x35c000706adc = 0x35c000706adc := by decide
  unfold execWaxRecordPoison
  repeat' first
    | with_reducible apply KeepsOut.next
    | with_reducible exact Keeps.refl _
    | with_reducible assumption
    | with_reducible apply State.poisonWax_keeps (sub_of hμ (by decide))
    | dsimp only

theorem State.selectWax_keeps {μ : Nat} (hμ : 0x40000000000 ||| μ = μ) {s₀ s : State} (h : Keeps μ s₀ s) (v : Word) :
    Keeps μ s₀ (State.selectWax s v) := by
  unfold State.selectWax
  repeat' first
    | with_reducible assumption
    | with_reducible apply State.putB_keeps
    | with_reducible apply State.put_keeps
    | with_reducible apply State.wr64_keeps
    | (with_reducible refine bit_of hμ ?_; first | decide | (simp (disch := decide) only [window_sel, window_die, window_arkKey, window_arkKey_add, window_keyAt, window_keyAt_add, window_wordAt, window_arkWord, window_drop, window_drop_hi, window_msix, window_srcWord, window_target, window_pendBit]; decide))
    | dsimp only

theorem execWaxSel_keeps (v : Word) (s : State) :
    KeepsOut 0x248000304000 s (execWaxSel v s) := by
  have hμ : 0x248000304000 ||| 0x248000304000 = 0x248000304000 := by decide
  unfold execWaxSel
  repeat' first
    | with_reducible apply KeepsOut.next
    | with_reducible exact Keeps.refl _
    | with_reducible assumption
    | with_reducible apply State.selectWax_keeps (sub_of hμ (by decide))
    | with_reducible apply State.undecoded_keeps (sub_of hμ (by decide))
    | split
    | dsimp only

end Sys2Proof.Machine
end

