-- ==== Sys2Proof/Laws/KeepPlanner.lean ====
section
/-!
SUPPORT. What the operations of Machine/Planner.lean keep (Laws/Keeps.lean).
-/

set_option linter.all false

namespace Sys2Proof.Machine

theorem State.pendAtCutoff_keeps {μ : Nat} (hμ : 0x3080007068dc ||| μ = μ) {s₀ s : State} (h : Keeps μ s₀ s) (i : Nat) :
    Keeps μ s₀ (State.pendAtCutoff s i) := by
  unfold State.pendAtCutoff
  repeat' first
    | with_reducible assumption
    | with_reducible apply Keeps.modPlan (bit_of hμ (by decide))
    | with_reducible apply State.applyPend_keeps (sub_of hμ (by decide))
    | split
    | dsimp only

theorem State.dropBuilds_keeps {μ : Nat} (hμ : 0x30800070687c ||| μ = μ) {s₀ s : State} (h : Keeps μ s₀ s) :
    Keeps μ s₀ (State.dropBuilds s) := by
  unfold State.dropBuilds
  repeat' first
    | with_reducible assumption
    | with_reducible apply State.endInternal_keeps (sub_of hμ (by decide))
    | with_reducible apply State.failBuild_keeps (sub_of hμ (by decide))
    | with_reducible apply Keeps.foldl
    | intro _ _ _
    | dsimp only

theorem State.applyVerdicts_keeps {μ : Nat} (hμ : 0x1000 ||| μ = μ) {s₀ s : State} (h : Keeps μ s₀ s) :
    Keeps μ s₀ (State.applyVerdicts s) := by
  unfold State.applyVerdicts
  repeat' first
    | with_reducible assumption
    | with_reducible apply Keeps.modLdr (bit_of hμ (by decide))
    | exact KeepsPart.same _ _ fun _ => rfl
    | (with_reducible refine KeepsPart.intro fun x hx => ?_; simp only [Loader.canonical, Bool.and_eq_true] at hx ⊢; simp [hx] <;> (repeat' split) <;> simp [hx])
    | split
    | dsimp only

theorem State.claimPlanned_keeps {μ : Nat} (hμ : 0x202000304280 ||| μ = μ) {s₀ s : State} (h : Keeps μ s₀ s) :
    Keeps μ s₀ (State.claimPlanned s) := by
  unfold State.claimPlanned
  repeat' first
    | with_reducible assumption
    | with_reducible apply State.claimBoth_keeps (sub_of hμ (by decide))
    | with_reducible apply State.modTile_keeps (sub_of hμ (by decide))
    | with_reducible apply Keeps.foldl
    | intro _ _ _
    | dsimp only

theorem State.takeSnapshot_keeps {μ : Nat} (hμ : 0x30a000707afc ||| μ = μ) {s₀ s : State} (h : Keeps μ s₀ s) :
    Keeps μ s₀ (State.takeSnapshot s) := by
  unfold State.takeSnapshot
  repeat' first
    | with_reducible assumption
    | with_reducible apply State.applyVerdicts_keeps (sub_of hμ (by decide))
    | with_reducible apply State.claimPlanned_keeps (sub_of hμ (by decide))
    | with_reducible apply State.dropBuilds_keeps (sub_of hμ (by decide))
    | with_reducible apply State.dropFits_keeps (sub_of hμ (by decide))
    | with_reducible apply State.pendAtCutoff_keeps (sub_of hμ (by decide))
    | with_reducible apply Keeps.foldl
    | intro _ _ _
    | dsimp only

theorem State.holdTow_keeps {μ : Nat} (hμ : 0x80 ||| μ = μ) {s₀ : State} {a : Pass × State} {x : Nat × Nat} {out : Pass × State} (hk : Keeps μ s₀ a.2)
    (e : State.holdTow a x = out) : Keeps μ s₀ out.2 := by
  subst e
  unfold State.holdTow
  repeat' first
    | with_reducible assumption
    | with_reducible apply Keeps.modPlan (bit_of hμ (by decide))
    | split
    | dsimp only

theorem State.holdTow_keeps' {μ : Nat} (hμ : 0x80 ||| μ = μ) {s₀ uu : State} {a : Pass × State} {x : Nat × Nat} {xx : Pass} (hk : Keeps μ s₀ a.2)
    (e : State.holdTow a x = (xx, uu)) : Keeps μ s₀ uu := by
  have r := State.holdTow_keeps hμ hk e
  exact r

theorem State.holdTows_keeps {μ : Nat} (hμ : 0x80 ||| μ = μ) {s₀ : State} {s : State}  {out : Pass × State} (hk : Keeps μ s₀ s)
    (e : State.holdTows s = out) : Keeps μ s₀ out.2 := by
  subst e
  unfold State.holdTows
  repeat' first
    | with_reducible assumption
    | with_reducible refine State.holdTow_keeps' (sub_of hμ (by decide)) ?_ (by assumption)
    | with_reducible refine State.holdTow_keeps (sub_of hμ (by decide)) ?_ rfl
    | with_reducible apply Keeps.foldl
    | with_reducible apply Keeps.foldl_snd
    | with_reducible apply Keeps.foldl_fst
    | intro _ _ _
    | dsimp only

theorem State.holdTows_keeps' {μ : Nat} (hμ : 0x80 ||| μ = μ) {s₀ uu : State} {s : State}  {xx : Pass} (hk : Keeps μ s₀ s)
    (e : State.holdTows s = (xx, uu)) : Keeps μ s₀ uu := by
  have r := State.holdTows_keeps hμ hk e
  exact r

theorem State.withholdTows_keeps {μ : Nat} (hμ : 0x80 ||| μ = μ) {s₀ : State} {a : Pass × State}  {out : Pass × State} (hk : Keeps μ s₀ a.2)
    (e : State.withholdTows a = out) : Keeps μ s₀ out.2 := by
  subst e
  unfold State.withholdTows
  repeat' first
    | with_reducible assumption
    | with_reducible apply Keeps.modPlan (bit_of hμ (by decide))
    | with_reducible apply Keeps.foldl
    | with_reducible apply Keeps.foldl_snd
    | with_reducible apply Keeps.foldl_fst
    | split
    | intro _ _ _
    | dsimp only

theorem State.withholdTows_keeps' {μ : Nat} (hμ : 0x80 ||| μ = μ) {s₀ uu : State} {a : Pass × State}  {xx : Pass} (hk : Keeps μ s₀ a.2)
    (e : State.withholdTows a = (xx, uu)) : Keeps μ s₀ uu := by
  have r := State.withholdTows_keeps hμ hk e
  exact r

theorem State.ledgerPass_keeps {μ : Nat} (hμ : 0x2000000100 ||| μ = μ) {s₀ : State} {a : Pass × State}  {out : Pass × State} (hk : Keeps μ s₀ a.2)
    (e : State.ledgerPass a = out) : Keeps μ s₀ out.2 := by
  subst e
  unfold State.ledgerPass
  repeat' first
    | with_reducible assumption
    | with_reducible refine State.ledgerWithhold_keeps' (sub_of hμ (by decide)) ?_ (by assumption)
    | with_reducible refine State.ledgerWithhold_keeps (sub_of hμ (by decide)) ?_ rfl
    | with_reducible apply State.put_keeps
    | split
    | (with_reducible refine bit_of hμ ?_; first | decide | (simp (disch := decide) only [window_sel, window_die, window_arkKey, window_arkKey_add, window_keyAt, window_keyAt_add, window_wordAt, window_arkWord, window_drop, window_drop_hi, window_msix, window_srcWord, window_target, window_pendBit]; decide))
    | dsimp only

theorem State.ledgerPass_keeps' {μ : Nat} (hμ : 0x2000000100 ||| μ = μ) {s₀ uu : State} {a : Pass × State}  {xx : Pass} (hk : Keeps μ s₀ a.2)
    (e : State.ledgerPass a = (xx, uu)) : Keeps μ s₀ uu := by
  have r := State.ledgerPass_keeps hμ hk e
  exact r

theorem State.setTenantCredit_keeps {μ : Nat} (hμ : 0x2000000000 ||| μ = μ) {s₀ s : State} (h : Keeps μ s₀ s) (t : Nat) (c : Int) :
    Keeps μ s₀ (State.setTenantCredit s t c) := by
  unfold State.setTenantCredit
  repeat' first
    | with_reducible assumption
    | with_reducible apply Keeps.wr
    | (with_reducible refine bit_of hμ ?_; first | decide | (simp (disch := decide) only [window_sel, window_die, window_arkKey, window_arkKey_add, window_keyAt, window_keyAt_add, window_wordAt, window_arkWord, window_drop, window_drop_hi, window_msix, window_srcWord, window_target, window_pendBit]; decide))
    | dsimp only

theorem State.charge_keeps {μ : Nat} (hμ : 0x2000000000 ||| μ = μ) {s₀ s : State} (h : Keeps μ s₀ s) (t cost : Nat) :
    Keeps μ s₀ (State.charge s t cost) := by
  unfold State.charge
  repeat' first
    | with_reducible assumption
    | with_reducible apply State.setTenantCredit_keeps (sub_of hμ (by decide))
    | dsimp only

theorem State.chargeHeld_keeps {μ : Nat} (hμ : 0x2000000000 ||| μ = μ) {s₀ s : State} (h : Keeps μ s₀ s) (i : Nat) :
    Keeps μ s₀ (State.chargeHeld s i) := by
  unfold State.chargeHeld
  repeat' first
    | with_reducible assumption
    | with_reducible apply State.charge_keeps (sub_of hμ (by decide))
    | split
    | dsimp only

theorem State.credits_keeps {μ : Nat} (hμ : 0x2000000080 ||| μ = μ) {s₀ s : State} (h : Keeps μ s₀ s) :
    Keeps μ s₀ (State.credits s) := by
  unfold State.credits
  repeat' first
    | with_reducible assumption
    | with_reducible apply Keeps.modPlan (bit_of hμ (by decide))
    | with_reducible apply State.chargeHeld_keeps (sub_of hμ (by decide))
    | with_reducible apply State.put_keeps
    | with_reducible apply State.setTenantCredit_keeps (sub_of hμ (by decide))
    | with_reducible apply Keeps.foldl
    | split
    | intro _ _ _
    | (with_reducible refine bit_of hμ ?_; first | decide | (simp (disch := decide) only [window_sel, window_die, window_arkKey, window_arkKey_add, window_keyAt, window_keyAt_add, window_wordAt, window_arkWord, window_drop, window_drop_hi, window_msix, window_srcWord, window_target, window_pendBit]; decide))
    | dsimp only

theorem State.copyPartial_keeps {μ : Nat} (hμ : 0x50 ||| μ = μ) {s₀ s : State} (h : Keeps μ s₀ s) (i : Nat) (x : Prefix) :
    Keeps μ s₀ (State.copyPartial s i x) := by
  unfold State.copyPartial
  repeat' first
    | with_reducible assumption
    | with_reducible apply Keeps.modKvm (bit_of hμ (by decide))
    | with_reducible apply State.modBib_keeps (sub_of hμ (by decide))
    | with_reducible apply State.put_keeps
    | with_reducible apply Keeps.foldl
    | exact KeepsPart.same _ _ fun _ => rfl
    | (with_reducible refine KeepsPart.intro fun x hx => ?_; simp only [Kvm.canonical, Bool.and_eq_true] at hx ⊢; simp [hx] <;> (repeat' split) <;> simp [hx])
    | split
    | intro _ _ _
    | (with_reducible refine bit_of hμ ?_; first | decide | (simp (disch := decide) only [window_sel, window_die, window_arkKey, window_arkKey_add, window_keyAt, window_keyAt_add, window_wordAt, window_arkWord, window_drop, window_drop_hi, window_msix, window_srcWord, window_target, window_pendBit]; decide))
    | dsimp only

theorem State.reserve_keeps {μ : Nat} (hμ : 0x10000100050 ||| μ = μ) {s₀ : State} {s : State} {i : Nat} {out : PageAnswer × State} (hk : Keeps μ s₀ s)
    (e : State.reserve s i = out) : Keeps μ s₀ out.2 := by
  subst e
  unfold State.reserve
  repeat' first
    | with_reducible assumption
    | with_reducible apply State.copyPartial_keeps (sub_of hμ (by decide))
    | with_reducible refine State.growTo_keeps' (sub_of hμ (by decide)) ?_ (by assumption)
    | with_reducible refine State.growTo_keeps (sub_of hμ (by decide)) ?_ rfl
    | with_reducible apply State.modBib_keeps (sub_of hμ (by decide))
    | split
    | dsimp only

theorem State.reserve_keeps' {μ : Nat} (hμ : 0x10000100050 ||| μ = μ) {s₀ uu : State} {s : State} {i : Nat} {xx : PageAnswer} (hk : Keeps μ s₀ s)
    (e : State.reserve s i = (xx, uu)) : Keeps μ s₀ uu := by
  have r := State.reserve_keeps hμ hk e
  exact r

theorem State.fitPages_keeps {μ : Nat} (hμ : 0x10000100850 ||| μ = μ) {s₀ : State} {s : State} {i w : Nat} {out : PageAnswer × State} (hk : Keeps μ s₀ s)
    (e : State.fitPages s i w = out) : Keeps μ s₀ out.2 := by
  subst e
  unfold State.fitPages
  repeat' first
    | with_reducible assumption
    | with_reducible refine State.growTo_keeps' (sub_of hμ (by decide)) ?_ (by assumption)
    | with_reducible refine State.growTo_keeps (sub_of hμ (by decide)) ?_ rfl
    | with_reducible apply State.modBib_keeps (sub_of hμ (by decide))
    | with_reducible apply State.putWax_keeps (sub_of hμ (by decide))
    | with_reducible refine State.requestHbm_keeps' (sub_of hμ (by decide)) ?_ (by assumption)
    | with_reducible refine State.requestHbm_keeps (sub_of hμ (by decide)) ?_ rfl
    | split
    | dsimp only

theorem State.fitPages_keeps' {μ : Nat} (hμ : 0x10000100850 ||| μ = μ) {s₀ uu : State} {s : State} {i w : Nat} {xx : PageAnswer} (hk : Keeps μ s₀ s)
    (e : State.fitPages s i w = (xx, uu)) : Keeps μ s₀ uu := by
  have r := State.fitPages_keeps hμ hk e
  exact r

theorem State.pageCondition_keeps {μ : Nat} (hμ : 0x10000100850 ||| μ = μ) {s₀ : State} {s : State} {i c : Nat} {k : SlotKind} {out : PageAnswer × State} (hk : Keeps μ s₀ s)
    (e : State.pageCondition s i c k = out) : Keeps μ s₀ out.2 := by
  subst e
  unfold State.pageCondition
  repeat' first
    | with_reducible assumption
    | with_reducible refine State.fitPages_keeps' (sub_of hμ (by decide)) ?_ (by assumption)
    | with_reducible refine State.fitPages_keeps (sub_of hμ (by decide)) ?_ rfl
    | with_reducible refine State.growTo_keeps' (sub_of hμ (by decide)) ?_ (by assumption)
    | with_reducible refine State.growTo_keeps (sub_of hμ (by decide)) ?_ rfl
    | with_reducible refine State.reserve_keeps' (sub_of hμ (by decide)) ?_ (by assumption)
    | with_reducible refine State.reserve_keeps (sub_of hμ (by decide)) ?_ rfl
    | split
    | dsimp only

theorem State.pageCondition_keeps' {μ : Nat} (hμ : 0x10000100850 ||| μ = μ) {s₀ uu : State} {s : State} {i c : Nat} {k : SlotKind} {xx : PageAnswer} (hk : Keeps μ s₀ s)
    (e : State.pageCondition s i c k = (xx, uu)) : Keeps μ s₀ uu := by
  have r := State.pageCondition_keeps hμ hk e
  exact r

theorem State.refusePages_keeps {μ : Nat} (hμ : 0x30800070687c ||| μ = μ) {s₀ s : State} (h : Keeps μ s₀ s) (i : Nat) (a : PageAnswer) :
    Keeps μ s₀ (State.refusePages s i a) := by
  unfold State.refusePages
  repeat' first
    | with_reducible assumption
    | with_reducible apply State.endInternal_keeps (sub_of hμ (by decide))
    | with_reducible apply State.failBuild_keeps (sub_of hμ (by decide))
    | split
    | dsimp only

theorem State.makeGrant_keeps {μ : Nat} (hμ : 0x2000100080 ||| μ = μ) {s₀ : State} {s : State} {p : Pass} {i slot c : Nat} {k : SlotKind} {first : Bool} {out : Pass × State} (hk : Keeps μ s₀ s)
    (e : State.makeGrant s p i slot c k first = out) : Keeps μ s₀ out.2 := by
  subst e
  unfold State.makeGrant
  repeat' first
    | with_reducible assumption
    | with_reducible apply Keeps.modPlan (bit_of hμ (by decide))
    | with_reducible apply State.charge_keeps (sub_of hμ (by decide))
    | with_reducible apply State.tally_keeps (sub_of hμ (by decide))
    | split
    | dsimp only

theorem State.makeGrant_keeps' {μ : Nat} (hμ : 0x2000100080 ||| μ = μ) {s₀ uu : State} {s : State} {p : Pass} {i slot c : Nat} {k : SlotKind} {first : Bool} {xx : Pass} (hk : Keeps μ s₀ s)
    (e : State.makeGrant s p i slot c k first = (xx, uu)) : Keeps μ s₀ uu := by
  have r := State.makeGrant_keeps hμ hk e
  exact r

theorem State.tryGrant_keeps {μ : Nat} (hμ : 0x31a0007068fc ||| μ = μ) {s₀ : State} {s : State} {p : Pass} {i : Nat} {k : SlotKind} {out : Pass × State} (hk : Keeps μ s₀ s)
    (e : State.tryGrant s p i k = out) : Keeps μ s₀ out.2 := by
  subst e
  unfold State.tryGrant
  repeat' first
    | with_reducible assumption
    | with_reducible refine State.makeGrant_keeps' (sub_of hμ (by decide)) ?_ (by assumption)
    | with_reducible refine State.makeGrant_keeps (sub_of hμ (by decide)) ?_ rfl
    | with_reducible refine State.pageCondition_keeps' (sub_of hμ (by decide)) ?_ (by assumption)
    | with_reducible refine State.pageCondition_keeps (sub_of hμ (by decide)) ?_ rfl
    | with_reducible apply State.refusePages_keeps (sub_of hμ (by decide))
    | with_reducible apply State.tally_keeps (sub_of hμ (by decide))
    | split
    | dsimp only

theorem State.tryGrant_keeps' {μ : Nat} (hμ : 0x31a0007068fc ||| μ = μ) {s₀ uu : State} {s : State} {p : Pass} {i : Nat} {k : SlotKind} {xx : Pass} (hk : Keeps μ s₀ s)
    (e : State.tryGrant s p i k = (xx, uu)) : Keeps μ s₀ uu := by
  have r := State.tryGrant_keeps hμ hk e
  exact r

theorem State.grantLoop_keeps {μ : Nat} (hμ : 0x31a0007068fc ||| μ = μ) {s₀ : State} {all : List (Nat × SlotKind)} {n : Nat} {p : Pass} {s : State}
    {out : Pass × State} (hk : Keeps μ s₀ s) (e : State.grantLoop all n p s = out) : Keeps μ s₀ out.2 := by
  subst e
  induction n generalizing p s with
  | zero => exact hk
  | succ n ih =>
    unfold State.grantLoop
    split
    · exact hk
    · exact ih (State.tryGrant_keeps (sub_of hμ (by decide)) hk rfl)
theorem State.grantLoop_keeps' {μ : Nat} (hμ : 0x31a0007068fc ||| μ = μ) {s₀ uu : State}  {all : List (Nat × SlotKind)} {n : Nat} {p : Pass} {s : State} {xx : Pass} (hk : Keeps μ s₀ s)
    (e : State.grantLoop all n p s = (xx, uu)) : Keeps μ s₀ uu := by
  have r := State.grantLoop_keeps hμ hk e
  exact r

theorem State.starve_keeps {μ : Nat} (hμ : 0x2000000010 ||| μ = μ) {s₀ s : State} (h : Keeps μ s₀ s) (p : Pass) (i : Nat) :
    Keeps μ s₀ (State.starve s p i) := by
  unfold State.starve
  repeat' first
    | with_reducible assumption
    | with_reducible apply State.modBib_keeps (sub_of hμ (by decide))
    | with_reducible apply State.raise_keeps
    | split
    | (with_reducible refine bit_of hμ ?_; first | decide | (simp (disch := decide) only [window_sel, window_die, window_arkKey, window_arkKey_add, window_keyAt, window_keyAt_add, window_wordAt, window_arkWord, window_drop, window_drop_hi, window_msix, window_srcWord, window_target, window_pendBit]; decide))
    | dsimp only

theorem State.deadlineMiss_keeps {μ : Nat} (hμ : 0x2000000010 ||| μ = μ) {s₀ s : State} (h : Keeps μ s₀ s) (i : Nat) :
    Keeps μ s₀ (State.deadlineMiss s i) := by
  unfold State.deadlineMiss
  repeat' first
    | with_reducible assumption
    | with_reducible apply State.count_keeps
    | with_reducible apply State.modBib_keeps (sub_of hμ (by decide))
    | with_reducible apply State.raise_keeps
    | split
    | (with_reducible refine bit_of hμ ?_; first | decide | (simp (disch := decide) only [window_sel, window_die, window_arkKey, window_arkKey_add, window_keyAt, window_keyAt_add, window_wordAt, window_arkWord, window_drop, window_drop_hi, window_msix, window_srcWord, window_target, window_pendBit]; decide))
    | dsimp only

theorem State.withholdHeld_keeps {μ : Nat} (hμ : 0x80 ||| μ = μ) {s₀ : State} {h : Hub} {l : List Grant} {p : Pass} {s : State} {out : Pass × State}
    (hk : Keeps μ s₀ s) (e : State.withholdHeld h l p s = out) : Keeps μ s₀ out.2 := by
  subst e
  induction l generalizing p s with
  | nil => exact hk
  | cons g r ih =>
    unfold State.withholdHeld
    split
    · exact hk
    · exact ih (Keeps.modPlan (bit_of hμ (by decide)) hk)
theorem State.withholdHeld_keeps' {μ : Nat} (hμ : 0x80 ||| μ = μ) {s₀ uu : State}  {h : Hub} {l : List Grant} {p : Pass} {s : State} {xx : Pass} (hk : Keeps μ s₀ s)
    (e : State.withholdHeld h l p s = (xx, uu)) : Keeps μ s₀ uu := by
  have r := State.withholdHeld_keeps hμ hk e
  exact r

theorem State.lodgeDecoding_keeps {μ : Nat} (hμ : 0x2000000080 ||| μ = μ) {s₀ : State} {h : Hub} {allow : Nat} {l : List Nat} {p : Pass} {s : State}
    {out : Pass × State} (hk : Keeps μ s₀ s) (e : State.lodgeDecoding h allow l p s = out) : Keeps μ s₀ out.2 := by
  subst e
  induction l generalizing p s with
  | nil => exact hk
  | cons g r ih =>
    unfold State.lodgeDecoding
    split
    · exact hk
    · exact ih (State.count_keeps (bit_of hμ (by decide)) (bit_of hμ (by decide)) (State.planLodge_keeps (sub_of hμ (by decide)) hk _))
theorem State.lodgeDecoding_keeps' {μ : Nat} (hμ : 0x2000000080 ||| μ = μ) {s₀ uu : State}  {h : Hub} {allow : Nat} {l : List Nat} {p : Pass} {s : State} {xx : Pass} (hk : Keeps μ s₀ s)
    (e : State.lodgeDecoding h allow l p s = (xx, uu)) : Keeps μ s₀ uu := by
  have r := State.lodgeDecoding_keeps hμ hk e
  exact r

theorem State.withholdReads_keeps {μ : Nat} (hμ : 0x80 ||| μ = μ) {s₀ : State} {s : State} {p : Pass} {out : Pass × State} (hk : Keeps μ s₀ s)
    (e : State.withholdReads p s = out) : Keeps μ s₀ out.2 := by
  subst e
  unfold State.withholdReads
  repeat' first
    | with_reducible assumption
    | with_reducible refine State.withholdHeld_keeps' (sub_of hμ (by decide)) ?_ (by assumption)
    | with_reducible refine State.withholdHeld_keeps (sub_of hμ (by decide)) ?_ rfl
    | dsimp only

theorem State.withholdReads_keeps' {μ : Nat} (hμ : 0x80 ||| μ = μ) {s₀ uu : State} {s : State} {p : Pass} {xx : Pass} (hk : Keeps μ s₀ s)
    (e : State.withholdReads p s = (xx, uu)) : Keeps μ s₀ uu := by
  have r := State.withholdReads_keeps hμ hk e
  exact r

theorem State.takeStretch_keeps {μ : Nat} (hμ : 0x80 ||| μ = μ) {s₀ s : State} (h : Keeps μ s₀ s) (want : Nat) :
    Keeps μ s₀ (State.takeStretch s want) := by
  unfold State.takeStretch
  repeat' first
    | with_reducible assumption
    | with_reducible apply Keeps.modPlan (bit_of hμ (by decide))
    | split
    | dsimp only

theorem State.lodgeReads_keeps {μ : Nat} (hμ : 0x2000000080 ||| μ = μ) {s₀ : State} {s : State} {most : Nat} {p : Pass} {out : Pass × State} (hk : Keeps μ s₀ s)
    (e : State.lodgeReads most p s = out) : Keeps μ s₀ out.2 := by
  subst e
  unfold State.lodgeReads
  repeat' first
    | with_reducible assumption
    | with_reducible refine State.lodgeDecoding_keeps' (sub_of hμ (by decide)) ?_ (by assumption)
    | with_reducible refine State.lodgeDecoding_keeps (sub_of hμ (by decide)) ?_ rfl
    | dsimp only

theorem State.lodgeReads_keeps' {μ : Nat} (hμ : 0x2000000080 ||| μ = μ) {s₀ uu : State} {s : State} {most : Nat} {p : Pass} {xx : Pass} (hk : Keeps μ s₀ s)
    (e : State.lodgeReads most p s = (xx, uu)) : Keeps μ s₀ uu := by
  have r := State.lodgeReads_keeps hμ hk e
  exact r

theorem State.afterLoop_keeps {μ : Nat} (hμ : 0x2000000080 ||| μ = μ) {s₀ : State} {p : Pass} {s : State} {out : Pass × State} (hk : Keeps μ s₀ s)
    (e : State.afterLoop p s = out) : Keeps μ s₀ out.2 := by
  subst e
  unfold State.afterLoop
  extract_lets a want
  have ha : Keeps μ s₀ a.2 := State.withholdReads_keeps (sub_of hμ (by decide)) hk rfl
  clear_value a want
  split
  · exact State.takeStretch_keeps (sub_of hμ (by decide)) ha want
  · exact State.lodgeReads_keeps (sub_of hμ (by decide)) (State.takeStretch_keeps (sub_of hμ (by decide)) ha want) rfl
theorem State.afterLoop_keeps' {μ : Nat} (hμ : 0x2000000080 ||| μ = μ) {s₀ uu : State} {s : State} {p : Pass} {xx : Pass} (hk : Keeps μ s₀ s)
    (e : State.afterLoop p s = (xx, uu)) : Keeps μ s₀ uu := by
  have r := State.afterLoop_keeps hμ hk e
  exact r

theorem State.promotions_keeps {μ : Nat} (hμ : 0x40000000800 ||| μ = μ) {s₀ s : State} (h : Keeps μ s₀ s) :
    Keeps μ s₀ (State.promotions s) := by
  unfold State.promotions
  repeat' first
    | with_reducible assumption
    | with_reducible apply State.promote_keeps (sub_of hμ (by decide))
    | with_reducible apply Keeps.foldl
    | split
    | intro _ _ _
    | dsimp only

theorem State.planStart_keeps {μ : Nat} (hμ : 0x35a0007069dc ||| μ = μ) {s₀ s : State} {out : Pass × State} (hk : Keeps μ s₀ s) (e : s.planStart = out) :
    Keeps μ s₀ out.2 := by
  subst e
  unfold State.planStart
  extract_lets s0 a s2
  have h0 : Keeps μ s₀ s0 := Keeps.modPlan (bit_of hμ (by decide)) hk
  have h1 := State.holdTows_keeps (sub_of hμ (by decide)) h0 rfl
  have h2 := State.ledgerPass_keeps (sub_of hμ (by decide)) h1 rfl
  have h3 := State.withholdTows_keeps (sub_of hμ (by decide)) h2 rfl
  have ha : Keeps μ s₀ a.2 := h3
  clear_value a
  have h4 : Keeps μ s₀ s2 := State.kvSteps_keeps (sub_of hμ (by decide)) (State.credits_keeps (sub_of hμ (by decide)) ha)
  clear_value s2
  exact State.promotions_keeps (sub_of hμ (by decide)) h4
theorem State.planStart_keeps' {μ : Nat} (hμ : 0x35a0007069dc ||| μ = μ) {s₀ uu : State} {s : State}  {xx : Pass} (hk : Keeps μ s₀ s)
    (e : State.planStart s = (xx, uu)) : Keeps μ s₀ uu := by
  have r := State.planStart_keeps hμ hk e
  exact r

theorem State.planLoop_keeps {μ : Nat} (hμ : 0x31a0007068fc ||| μ = μ) {s₀ : State} {a : Pass × State}  {out : Pass × State} (hk : Keeps μ s₀ a.2)
    (e : State.planLoop a = out) : Keeps μ s₀ out.2 := by
  subst e
  unfold State.planLoop
  repeat' first
    | with_reducible assumption
    | with_reducible apply State.deadlineMiss_keeps (sub_of hμ (by decide))
    | with_reducible refine State.grantLoop_keeps' (sub_of hμ (by decide)) ?_ (by assumption)
    | with_reducible refine State.grantLoop_keeps (sub_of hμ (by decide)) ?_ rfl
    | with_reducible apply State.starve_keeps (sub_of hμ (by decide))
    | with_reducible apply Keeps.foldl
    | with_reducible apply Keeps.foldl_snd
    | with_reducible apply Keeps.foldl_fst
    | intro _ _ _
    | dsimp only

theorem State.planLoop_keeps' {μ : Nat} (hμ : 0x31a0007068fc ||| μ = μ) {s₀ uu : State} {a : Pass × State}  {xx : Pass} (hk : Keeps μ s₀ a.2)
    (e : State.planLoop a = (xx, uu)) : Keeps μ s₀ uu := by
  have r := State.planLoop_keeps hμ hk e
  exact r

theorem State.planPass_keeps {μ : Nat} (hμ : 0x35a0007069fc ||| μ = μ) {s₀ s : State} (h : Keeps μ s₀ s) : Keeps μ s₀ s.planPass := by
  unfold State.planPass
  extract_lets a b s1
  have h0 := State.planStart_keeps (sub_of hμ (by decide)) h rfl
  have h1 := State.planLoop_keeps (sub_of hμ (by decide)) h0 rfl
  have ha : Keeps μ s₀ a.2 := h1
  clear_value a
  have h2 := State.afterLoop_keeps (sub_of hμ (by decide)) (p := a.1) ha rfl
  have hb : Keeps μ s₀ b.2 := h2
  clear_value b
  have h3 : Keeps μ s₀ s1 := Keeps.modPlan (bit_of hμ (by decide)) hb
  clear_value s1
  exact Keeps.modLedger (bit_of hμ (by decide)) h3

theorem State.askGate_keeps {μ : Nat} (hμ : 0x1000 ||| μ = μ) {s₀ s : State} (h : Keeps μ s₀ s) :
    Keeps μ s₀ (State.askGate s) := by
  unfold State.askGate
  repeat' first
    | with_reducible assumption
    | with_reducible apply Keeps.modLdr (bit_of hμ (by decide))
    | exact KeepsPart.same _ _ fun _ => rfl
    | (with_reducible refine KeepsPart.intro fun x hx => ?_; simp only [Loader.canonical, Bool.and_eq_true] at hx ⊢; simp [hx] <;> (repeat' split) <;> simp [hx])
    | split
    | dsimp only

theorem execPlanCutoff_keeps (s : State) :
    KeepsOut 0x35a000707bfc s (execPlanCutoff s) := by
  have hμ : 0x35a000707bfc ||| 0x35a000707bfc = 0x35a000707bfc := by decide
  unfold execPlanCutoff
  repeat' first
    | with_reducible apply KeepsOut.next
    | with_reducible exact Keeps.refl _
    | with_reducible assumption
    | with_reducible apply State.askGate_keeps (sub_of hμ (by decide))
    | with_reducible apply State.planPass_keeps (sub_of hμ (by decide))
    | with_reducible apply State.takeSnapshot_keeps (sub_of hμ (by decide))
    | split
    | dsimp only

theorem execLapTweight_keeps (v : Word) (s : State) :
    KeepsOut 0x20a000304000 s (execLapTweight v s) := by
  have hμ : 0x20a000304000 ||| 0x20a000304000 = 0x20a000304000 := by decide
  unfold execLapTweight
  repeat' first
    | with_reducible apply KeepsOut.next
    | with_reducible exact Keeps.refl _
    | with_reducible assumption
    | with_reducible apply State.put_keeps
    | with_reducible apply State.undecoded_keeps (sub_of hμ (by decide))
    | split
    | (with_reducible refine bit_of hμ ?_; first | decide | (simp (disch := decide) only [window_sel, window_die, window_arkKey, window_arkKey_add, window_keyAt, window_keyAt_add, window_wordAt, window_arkWord, window_drop, window_drop_hi, window_msix, window_srcWord, window_target, window_pendBit]; decide))
    | dsimp only

end Sys2Proof.Machine
end

