-- ==== Sys2Proof/Laws/KeepGrooming.lean ====
section
/-!
SUPPORT. What the operations of Machine/Grooming.lean keep (Laws/Keeps.lean).
-/

set_option linter.all false

namespace Sys2Proof.Machine

theorem State.trimLimit_keeps {μ : Nat} (hμ : 0x600000304000 ||| μ = μ) {s₀ s : State} (h : Keeps μ s₀ s) (d t c : Nat) (code : Nat) :
    Keeps μ s₀ (State.trimLimit s d t c code) := by
  unfold State.trimLimit
  repeat' first
    | with_reducible assumption
    | with_reducible apply State.raise_keeps
    | with_reducible apply State.report_keeps (sub_of hμ (by decide))
    | (with_reducible refine bit_of hμ ?_; first | decide | (simp (disch := decide) only [window_sel, window_die, window_arkKey, window_arkKey_add, window_keyAt, window_keyAt_add, window_wordAt, window_arkWord, window_drop, window_drop_hi, window_msix, window_srcWord, window_target, window_pendBit]; decide))
    | dsimp only

theorem State.acceptStep_keeps {μ : Nat} (hμ : 0x600000304200 ||| μ = μ) {s₀ s : State} (h : Keeps μ s₀ s) (d t step : Nat) (out : List (Nat × Nat)) :
    Keeps μ s₀ (State.acceptStep s d t step out) := by
  unfold State.acceptStep
  repeat' first
    | with_reducible assumption
    | with_reducible apply State.modTile_keeps (sub_of hμ (by decide))
    | with_reducible apply State.planFence_keeps (sub_of hμ (by decide))
    | with_reducible apply State.tally_keeps (sub_of hμ (by decide))
    | with_reducible apply State.trimLimit_keeps (sub_of hμ (by decide))
    | with_reducible apply Keeps.foldl
    | split
    | intro _ _ _
    | dsimp only

theorem State.failPass_keeps {μ : Nat} (hμ : 0x600000304200 ||| μ = μ) {s₀ s : State} (h : Keeps μ s₀ s) (d t step : Nat) :
    Keeps μ s₀ (State.failPass s d t step) := by
  unfold State.failPass
  repeat' first
    | with_reducible assumption
    | with_reducible apply State.count_keeps
    | with_reducible apply State.modTile_keeps (sub_of hμ (by decide))
    | with_reducible apply State.planFence_keeps (sub_of hμ (by decide))
    | with_reducible apply State.raise_keeps
    | with_reducible apply State.report_keeps (sub_of hμ (by decide))
    | (with_reducible refine bit_of hμ ?_; first | decide | (simp (disch := decide) only [window_sel, window_die, window_arkKey, window_arkKey_add, window_keyAt, window_keyAt_add, window_wordAt, window_arkWord, window_drop, window_drop_hi, window_msix, window_srcWord, window_target, window_pendBit]; decide))
    | dsimp only

theorem State.disagree_keeps {μ : Nat} (hμ : 0x600000304200 ||| μ = μ) {s₀ s : State} (h : Keeps μ s₀ s) (d t step : Nat) :
    Keeps μ s₀ (State.disagree s d t step) := by
  unfold State.disagree
  repeat' first
    | with_reducible assumption
    | with_reducible apply State.count_keeps
    | with_reducible apply State.failPass_keeps (sub_of hμ (by decide))
    | with_reducible apply State.modTile_keeps (sub_of hμ (by decide))
    | with_reducible apply State.tally_keeps (sub_of hμ (by decide))
    | split
    | (with_reducible refine bit_of hμ ?_; first | decide | (simp (disch := decide) only [window_sel, window_die, window_arkKey, window_arkKey_add, window_keyAt, window_keyAt_add, window_wordAt, window_arkWord, window_drop, window_drop_hi, window_msix, window_srcWord, window_target, window_pendBit]; decide))
    | dsimp only

theorem State.offsetStep_keeps {μ : Nat} (hμ : 0x600000304200 ||| μ = μ) {s₀ s : State} (h : Keeps μ s₀ s) (d t : Nat) (ms : List GroomMeasure) :
    Keeps μ s₀ (State.offsetStep s d t ms) := by
  unfold State.offsetStep
  repeat' first
    | with_reducible assumption
    | with_reducible apply State.acceptStep_keeps (sub_of hμ (by decide))
    | with_reducible apply State.disagree_keeps (sub_of hμ (by decide))
    | with_reducible apply State.modTile_keeps (sub_of hμ (by decide))
    | split
    | dsimp only

theorem State.referenceStep_keeps {μ : Nat} (hμ : 0x600000304200 ||| μ = μ) {s₀ s : State} (h : Keeps μ s₀ s) (d t : Nat) (ms : List GroomMeasure) :
    Keeps μ s₀ (State.referenceStep s d t ms) := by
  unfold State.referenceStep
  repeat' first
    | with_reducible assumption
    | with_reducible apply State.acceptStep_keeps (sub_of hμ (by decide))
    | with_reducible apply State.disagree_keeps (sub_of hμ (by decide))
    | with_reducible apply State.modTile_keeps (sub_of hμ (by decide))
    | split
    | dsimp only

theorem State.groom_keeps {μ : Nat} (hμ : 0x600000304200 ||| μ = μ) {s₀ s : State} (h : Keeps μ s₀ s) (d t : Nat) (ms : List GroomMeasure) :
    Keeps μ s₀ (State.groom s d t ms) := by
  unfold State.groom
  repeat' first
    | with_reducible assumption
    | with_reducible apply State.offsetStep_keeps (sub_of hμ (by decide))
    | with_reducible apply State.referenceStep_keeps (sub_of hμ (by decide))
    | with_reducible apply State.tally_keeps (sub_of hμ (by decide))
    | split
    | dsimp only

theorem execGroomWindow_keeps (die : Fin 16) (tile : Fin 8448) (ms : List GroomMeasure) (s : State) :
    KeepsOut 0x600000304200 s (execGroomWindow die tile ms s) := by
  have hμ : 0x600000304200 ||| 0x600000304200 = 0x600000304200 := by decide
  unfold execGroomWindow
  repeat' first
    | with_reducible apply KeepsOut.next
    | with_reducible exact Keeps.refl _
    | with_reducible assumption
    | with_reducible apply State.groom_keeps (sub_of hμ (by decide))
    | dsimp only

theorem State.columnOut_keeps {μ : Nat} (hμ : 0x600000304000 ||| μ = μ) {s₀ s : State} (h : Keeps μ s₀ s) (d t a c : Nat) :
    Keeps μ s₀ (State.columnOut s d t a c) := by
  unfold State.columnOut
  repeat' first
    | with_reducible assumption
    | with_reducible apply State.raise_keeps
    | with_reducible apply State.report_keeps (sub_of hμ (by decide))
    | split
    | (with_reducible refine bit_of hμ ?_; first | decide | (simp (disch := decide) only [window_sel, window_die, window_arkKey, window_arkKey_add, window_keyAt, window_keyAt_add, window_wordAt, window_arkWord, window_drop, window_drop_hi, window_msix, window_srcWord, window_target, window_pendBit]; decide))
    | dsimp only

theorem State.statistics_keeps {μ : Nat} (hμ : 0x600000304200 ||| μ = μ) {s₀ s : State} (h : Keeps μ s₀ s) (d t : Nat) (a b : List (Word × Word)) :
    Keeps μ s₀ (State.statistics s d t a b) := by
  unfold State.statistics
  repeat' first
    | with_reducible assumption
    | with_reducible apply State.acceptStep_keeps (sub_of hμ (by decide))
    | with_reducible apply State.disagree_keeps (sub_of hμ (by decide))
    | with_reducible apply State.modTile_keeps (sub_of hμ (by decide))
    | split
    | dsimp only

theorem State.closeHalf_keeps {μ : Nat} (hμ : 0x600000304200 ||| μ = μ) {s₀ s : State} (h : Keeps μ s₀ s) (d t : Nat) (halfB : Bool) (st : List StatHalf) (bad : List (Nat × Nat)) :
    Keeps μ s₀ (State.closeHalf s d t halfB st bad) := by
  unfold State.closeHalf
  repeat' first
    | with_reducible assumption
    | with_reducible apply State.columnOut_keeps (sub_of hμ (by decide))
    | with_reducible apply State.modTile_keeps (sub_of hμ (by decide))
    | with_reducible apply State.statistics_keeps (sub_of hμ (by decide))
    | with_reducible apply Keeps.foldl
    | split
    | intro _ _ _
    | dsimp only

theorem execGrmStatHalfClose_keeps (die : Fin 16) (tile : Fin 8448) (halfB : Bool) (st : List StatHalf) (bad : List (Fin 256 × Fin 128)) (s : State) :
    KeepsOut 0x600000304200 s (execGrmStatHalfClose die tile halfB st bad s) := by
  have hμ : 0x600000304200 ||| 0x600000304200 = 0x600000304200 := by decide
  unfold execGrmStatHalfClose
  repeat' first
    | with_reducible apply KeepsOut.next
    | with_reducible exact Keeps.refl _
    | with_reducible assumption
    | with_reducible apply State.closeHalf_keeps (sub_of hμ (by decide))
    | dsimp only

theorem State.useSpare_keeps {μ : Nat} (hμ : 0x400000000200 ||| μ = μ) {s₀ s : State} (h : Keeps μ s₀ s) (d t a c : Nat) :
    Keeps μ s₀ (State.useSpare s d t a c) := by
  unfold State.useSpare
  repeat' first
    | with_reducible assumption
    | with_reducible apply State.count_keeps
    | with_reducible apply State.modArr_keeps (sub_of hμ (by decide))
    | split
    | (with_reducible refine bit_of hμ ?_; first | decide | (simp (disch := decide) only [window_sel, window_die, window_arkKey, window_arkKey_add, window_keyAt, window_keyAt_add, window_wordAt, window_arkWord, window_drop, window_drop_hi, window_msix, window_srcWord, window_target, window_pendBit]; decide))
    | dsimp only

theorem execSpareColumnProgrammed_keeps (die : Fin 16) (tile : Fin 8448) (array : Fin 256) (col : Fin 128) (s : State) :
    KeepsOut 0x400000000200 s (execSpareColumnProgrammed die tile array col s) := by
  have hμ : 0x400000000200 ||| 0x400000000200 = 0x400000000200 := by decide
  unfold execSpareColumnProgrammed
  repeat' first
    | with_reducible apply KeepsOut.next
    | with_reducible exact Keeps.refl _
    | with_reducible assumption
    | with_reducible apply State.useSpare_keeps (sub_of hμ (by decide))
    | dsimp only

theorem State.compose_keeps {μ : Nat} (hμ : 0x400000000280 ||| μ = μ) {s₀ s : State} (h : Keeps μ s₀ s) :
    Keeps μ s₀ (State.compose s) := by
  unfold State.compose
  repeat' first
    | with_reducible assumption
    | with_reducible apply Keeps.modFab (bit_of hμ (by decide))
    | with_reducible apply Keeps.modPlan (bit_of hμ (by decide))
    | with_reducible apply State.raise_keeps
    | exact KeepsPart.same _ _ fun _ => rfl
    | (with_reducible refine KeepsPart.intro fun x hx => ?_; simp only [Fabric.canonical, Bool.and_eq_true] at hx ⊢; simp [hx] <;> (repeat' split) <;> simp [hx])
    | split
    | (with_reducible refine bit_of hμ ?_; first | decide | (simp (disch := decide) only [window_sel, window_die, window_arkKey, window_arkKey_add, window_keyAt, window_keyAt_add, window_wordAt, window_arkWord, window_drop, window_drop_hi, window_msix, window_srcWord, window_target, window_pendBit]; decide))
    | dsimp only

theorem State.bankSpares_keeps {μ : Nat} (hμ : 0x200 ||| μ = μ) {s₀ s : State} (h : Keeps μ s₀ s) :
    Keeps μ s₀ (State.bankSpares s) := by
  unfold State.bankSpares
  repeat' first
    | with_reducible assumption
    | with_reducible apply State.modTile_keeps (sub_of hμ (by decide))
    | with_reducible apply Keeps.foldl
    | split
    | intro _ _ _
    | dsimp only

theorem execTrimBankCompose_keeps (s : State) :
    KeepsOut 0x400000000280 s (execTrimBankCompose s) := by
  have hμ : 0x400000000280 ||| 0x400000000280 = 0x400000000280 := by decide
  unfold execTrimBankCompose
  repeat' first
    | with_reducible apply KeepsOut.next
    | with_reducible exact Keeps.refl _
    | with_reducible assumption
    | with_reducible apply State.bankSpares_keeps (sub_of hμ (by decide))
    | with_reducible apply State.compose_keeps (sub_of hμ (by decide))
    | split
    | dsimp only

theorem State.commitBanks_keeps {μ : Nat} (hμ : 0x400000000200 ||| μ = μ) {s₀ s : State} (h : Keeps μ s₀ s) (lap g : Nat) :
    Keeps μ s₀ (State.commitBanks s lap g) := by
  unfold State.commitBanks
  repeat' first
    | with_reducible assumption
    | with_reducible apply Keeps.modFab (bit_of hμ (by decide))
    | with_reducible apply State.count_keeps
    | exact KeepsPart.same _ _ fun _ => rfl
    | (with_reducible refine KeepsPart.intro fun x hx => ?_; simp only [Fabric.canonical, Bool.and_eq_true] at hx ⊢; simp [hx])
    | (with_reducible refine bit_of hμ ?_; first | decide | (simp (disch := decide) only [window_sel, window_die, window_arkKey, window_arkKey_add, window_keyAt, window_keyAt_add, window_wordAt, window_arkWord, window_drop, window_drop_hi, window_msix, window_srcWord, window_target, window_pendBit]; decide))
    | dsimp only

theorem State.flushTile_keeps {μ : Nat} (hμ : 0x80200 ||| μ = μ) {s₀ s : State} (h : Keeps μ s₀ s) (d t : Nat) (x : Tile) :
    Keeps μ s₀ (State.flushTile s d t x) := by
  unfold State.flushTile
  repeat' first
    | with_reducible assumption
    | with_reducible apply State.modTile_keeps (sub_of hμ (by decide))
    | with_reducible apply State.writeFlash_keeps (sub_of hμ (by decide))
    | split
    | dsimp only

theorem State.flushSets_keeps {μ : Nat} (hμ : 0x80200 ||| μ = μ) {s₀ s : State} (h : Keeps μ s₀ s) :
    Keeps μ s₀ (State.flushSets s) := by
  unfold State.flushSets
  repeat' first
    | with_reducible assumption
    | with_reducible apply Keeps.modBon (bit_of hμ (by decide))
    | with_reducible apply State.flushTile_keeps (sub_of hμ (by decide))
    | with_reducible apply Keeps.foldl
    | exact KeepsPart.same _ _ fun _ => rfl
    | (with_reducible refine KeepsPart.intro fun x hx => ?_; simp only [Bonos.canonical, Bool.and_eq_true] at hx ⊢; simp [hx])
    | intro _ _ _
    | dsimp only

theorem execGrmFlush_keeps (s : State) :
    KeepsOut 0x80200 s (execGrmFlush s) := by
  have hμ : 0x80200 ||| 0x80200 = 0x80200 := by decide
  unfold execGrmFlush
  repeat' first
    | with_reducible apply KeepsOut.next
    | with_reducible exact Keeps.refl _
    | with_reducible assumption
    | with_reducible apply State.flushSets_keeps (sub_of hμ (by decide))
    | split
    | dsimp only

theorem State.latchTrim_keeps {μ : Nat} (hμ : 0x400000000000 ||| μ = μ) {s₀ s : State} (h : Keeps μ s₀ s) :
    Keeps μ s₀ (State.latchTrim s) := by
  unfold State.latchTrim
  repeat' first
    | with_reducible assumption
    | with_reducible apply State.put_keeps
    | (with_reducible refine bit_of hμ ?_; first | decide | (simp (disch := decide) only [window_sel, window_die, window_arkKey, window_arkKey_add, window_keyAt, window_keyAt_add, window_wordAt, window_arkWord, window_drop, window_drop_hi, window_msix, window_srcWord, window_target, window_pendBit]; decide))
    | dsimp only

theorem State.writeGrmTsel_keeps {μ : Nat} (hμ : 0x608000304000 ||| μ = μ) {s₀ s : State} (h : Keeps μ s₀ s) (req : Nat) (v : Word) :
    Keeps μ s₀ (State.writeGrmTsel s req v) := by
  unfold State.writeGrmTsel
  repeat' first
    | with_reducible assumption
    | with_reducible apply State.latchTrim_keeps (sub_of hμ (by decide))
    | with_reducible apply State.putB_keeps
    | with_reducible apply State.put_keeps
    | with_reducible apply State.violation_keeps (sub_of hμ (by decide))
    | with_reducible apply State.wr64_keeps
    | split
    | (with_reducible refine bit_of hμ ?_; first | decide | (simp (disch := decide) only [window_sel, window_die, window_arkKey, window_arkKey_add, window_keyAt, window_keyAt_add, window_wordAt, window_arkWord, window_drop, window_drop_hi, window_msix, window_srcWord, window_target, window_pendBit]; decide))
    | dsimp only

theorem execGrmTsel_keeps (v : Word) (s : State) :
    KeepsOut 0x608000304000 s (execGrmTsel v s) := by
  have hμ : 0x608000304000 ||| 0x608000304000 = 0x608000304000 := by decide
  unfold execGrmTsel
  repeat' first
    | with_reducible apply KeepsOut.next
    | with_reducible exact Keeps.refl _
    | with_reducible assumption
    | with_reducible apply State.undecoded_keeps (sub_of hμ (by decide))
    | with_reducible apply State.writeGrmTsel_keeps (sub_of hμ (by decide))
    | split
    | dsimp only

theorem State.writeGrmCsel_keeps {μ : Nat} (hμ : 0x400000000000 ||| μ = μ) {s₀ s : State} (h : Keeps μ s₀ s) (v : Word) :
    Keeps μ s₀ (State.writeGrmCsel s v) := by
  unfold State.writeGrmCsel
  repeat' first
    | with_reducible assumption
    | with_reducible apply State.latchTrim_keeps (sub_of hμ (by decide))
    | with_reducible apply State.put_keeps
    | (with_reducible refine bit_of hμ ?_; first | decide | (simp (disch := decide) only [window_sel, window_die, window_arkKey, window_arkKey_add, window_keyAt, window_keyAt_add, window_wordAt, window_arkWord, window_drop, window_drop_hi, window_msix, window_srcWord, window_target, window_pendBit]; decide))
    | dsimp only

theorem execGrmCsel_keeps (v : Word) (s : State) :
    KeepsOut 0x608000304000 s (execGrmCsel v s) := by
  have hμ : 0x608000304000 ||| 0x608000304000 = 0x608000304000 := by decide
  unfold execGrmCsel
  repeat' first
    | with_reducible apply KeepsOut.next
    | with_reducible exact Keeps.refl _
    | with_reducible assumption
    | with_reducible apply State.undecoded_keeps (sub_of hμ (by decide))
    | with_reducible apply State.writeGrmCsel_keeps (sub_of hμ (by decide))
    | split
    | dsimp only

end Sys2Proof.Machine
end

