-- ==== Sys2Proof/Laws/KeepPatrol.lean ====
section
/-!
SUPPORT. What the operations of Machine/Patrol.lean keep (Laws/Keeps.lean).
-/

set_option linter.all false

namespace Sys2Proof.Machine

theorem State.voidPairs_keeps {μ : Nat} (hμ : 0x200000000210 ||| μ = μ) {s₀ s : State} (h : Keeps μ s₀ s) (d t : Nat) :
    Keeps μ s₀ (State.voidPairs s d t) := by
  unfold State.voidPairs
  repeat' first
    | with_reducible assumption
    | with_reducible apply Keeps.modFab (bit_of hμ (by decide))
    | with_reducible apply State.faultReplay_keeps (sub_of hμ (by decide))
    | with_reducible apply State.modTile_keeps (sub_of hμ (by decide))
    | with_reducible apply State.sendPartial_keeps (sub_of hμ (by decide))
    | with_reducible apply Keeps.foldl
    | exact KeepsPart.same _ _ fun _ => rfl
    | (with_reducible refine KeepsPart.intro fun x hx => ?_; simp only [Fabric.canonical, Bool.and_eq_true] at hx ⊢; simp [hx] <;> (repeat' split) <;> simp [hx])
    | split
    | intro _ _ _
    | dsimp only

theorem State.retireSpare_keeps {μ : Nat} (hμ : 0x200000304200 ||| μ = μ) {s₀ s : State} (h : Keeps μ s₀ s) (d x : Nat) :
    Keeps μ s₀ (State.retireSpare s d x) := by
  unfold State.retireSpare
  repeat' first
    | with_reducible assumption
    | with_reducible apply State.modTile_keeps (sub_of hμ (by decide))
    | with_reducible apply State.takeSpare_keeps (sub_of hμ (by decide))
    | with_reducible apply Keeps.foldl
    | intro _ _ _
    | dsimp only

theorem State.tileFault_keeps {μ : Nat} (hμ : 0x202000304290 ||| μ = μ) {s₀ s : State} (h : Keeps μ s₀ s) (d t : Nat) (det : Detector) (element : Nat) :
    Keeps μ s₀ (State.tileFault s d t det element) := by
  unfold State.tileFault
  repeat' first
    | with_reducible assumption
    | with_reducible apply State.claimBoth_keeps (sub_of hμ (by decide))
    | with_reducible apply State.fence_keeps (sub_of hμ (by decide))
    | with_reducible apply State.report_keeps (sub_of hμ (by decide))
    | with_reducible apply State.retireSpare_keeps (sub_of hμ (by decide))
    | with_reducible apply State.voidPairs_keeps (sub_of hμ (by decide))
    | split
    | dsimp only

theorem execTileFaultDetect_keeps (die : Fin 16) (tile : Fin 8448) (det : Detector) (element : BitVec 16) (s : State) :
    KeepsOut 0x202000304290 s (execTileFaultDetect die tile det element s) := by
  have hμ : 0x202000304290 ||| 0x202000304290 = 0x202000304290 := by decide
  unfold execTileFaultDetect
  repeat' first
    | with_reducible apply KeepsOut.next
    | with_reducible exact Keeps.refl _
    | with_reducible assumption
    | with_reducible apply State.tileFault_keeps (sub_of hμ (by decide))
    | dsimp only

theorem execReserveUnitBegin_keeps (unit : Fin 32) (skipped : List (Fin 96 × Fin 128)) (s : State) :
    KeepsOut 0x200000004210 s (execReserveUnitBegin unit skipped s) := by
  have hμ : 0x200000004210 ||| 0x200000004210 = 0x200000004210 := by decide
  unfold execReserveUnitBegin
  repeat' first
    | with_reducible apply KeepsOut.fault
    | with_reducible apply KeepsOut.next
    | with_reducible exact Keeps.refl _
    | with_reducible assumption
    | with_reducible apply Keeps.modPat (bit_of hμ (by decide))
    | with_reducible apply State.faultReplay_keeps (sub_of hμ (by decide))
    | with_reducible apply Keeps.foldl
    | exact KeepsPart.same _ _ fun _ => rfl
    | (with_reducible refine KeepsPart.intro fun x hx => ?_; simp only [Patrol.canonical, Bool.and_eq_true] at hx ⊢; simp [hx] <;> (repeat' split) <;> simp [hx])
    | split
    | intro _ _ _
    | dsimp only

theorem State.startSpares_keeps {μ : Nat} (hμ : 0x200 ||| μ = μ) {s₀ s : State} (h : Keeps μ s₀ s) :
    Keeps μ s₀ (State.startSpares s) := by
  unfold State.startSpares
  repeat' first
    | with_reducible assumption
    | with_reducible apply State.claimTile_keeps (sub_of hμ (by decide))
    | with_reducible apply Keeps.foldl
    | split
    | intro _ _ _
    | dsimp only

theorem State.enterSpares_keeps {μ : Nat} (hμ : 0x202000004280 ||| μ = μ) {s₀ s : State} (h : Keeps μ s₀ s) :
    Keeps μ s₀ (State.enterSpares s) := by
  unfold State.enterSpares
  repeat' first
    | with_reducible assumption
    | with_reducible apply State.count_keeps
    | with_reducible apply State.modTile_keeps (sub_of hμ (by decide))
    | with_reducible apply State.returnUnits_keeps (sub_of hμ (by decide))
    | with_reducible apply Keeps.foldl
    | split
    | intro _ _ _
    | (with_reducible refine bit_of hμ ?_; first | decide | (simp (disch := decide) only [window_sel, window_die, window_arkKey, window_arkKey_add, window_keyAt, window_keyAt_add, window_wordAt, window_arkWord, window_drop, window_drop_hi, window_msix, window_srcWord, window_target, window_pendBit]; decide))
    | dsimp only

theorem execSpareProgrammed_keeps (die : Fin 16) (tile : Fin 8448) (ok : Bool) (s : State) :
    KeepsOut 0x200000304200 s (execSpareProgrammed die tile ok s) := by
  have hμ : 0x200000304200 ||| 0x200000304200 = 0x200000304200 := by decide
  unfold execSpareProgrammed
  repeat' first
    | with_reducible apply KeepsOut.next
    | with_reducible exact Keeps.refl _
    | with_reducible assumption
    | with_reducible apply State.modTile_keeps (sub_of hμ (by decide))
    | with_reducible apply State.retireSpare_keeps (sub_of hμ (by decide))
    | split
    | dsimp only

theorem State.beginUnits_keeps {μ : Nat} (hμ : 0x4000 ||| μ = μ) {s₀ s : State} (h : Keeps μ s₀ s) (addr : Word) :
    Keeps μ s₀ (State.beginUnits s addr) := by
  unfold State.beginUnits
  repeat' first
    | with_reducible assumption
    | with_reducible apply Keeps.modPat (bit_of hμ (by decide))
    | with_reducible apply Keeps.foldl
    | exact KeepsPart.same _ _ fun _ => rfl
    | (with_reducible refine KeepsPart.intro fun x hx => ?_; simp only [Patrol.canonical, Bool.and_eq_true] at hx ⊢; simp [hx] <;> (repeat' split) <;> simp [hx])
    | split
    | intro _ _ _
    | dsimp only

theorem State.fencePlanned_keeps {μ : Nat} (hμ : 0x200000304200 ||| μ = μ) {s₀ s : State} (h : Keeps μ s₀ s) :
    Keeps μ s₀ (State.fencePlanned s) := by
  unfold State.fencePlanned
  repeat' first
    | with_reducible assumption
    | with_reducible apply State.beginUnits_keeps (sub_of hμ (by decide))
    | with_reducible apply State.fence_keeps (sub_of hμ (by decide))
    | with_reducible apply State.modTile_keeps (sub_of hμ (by decide))
    | with_reducible apply Keeps.foldl
    | split
    | intro _ _ _
    | dsimp only

theorem State.failUnit_keeps {μ : Nat} (hμ : 0x202000304080 ||| μ = μ) {s₀ s : State} (h : Keeps μ s₀ s) (u : Nat) :
    Keeps μ s₀ (State.failUnit s u) := by
  unfold State.failUnit
  repeat' first
    | with_reducible assumption
    | with_reducible apply Keeps.modPat (bit_of hμ (by decide))
    | with_reducible apply State.claimUnit_keeps (sub_of hμ (by decide))
    | with_reducible apply State.report_keeps (sub_of hμ (by decide))
    | with_reducible apply State.setUnit_keeps (sub_of hμ (by decide))
    | exact KeepsPart.same _ _ fun _ => rfl
    | (with_reducible refine KeepsPart.intro fun x hx => ?_; simp only [Patrol.canonical, Bool.and_eq_true] at hx ⊢; simp [hx] <;> (repeat' split) <;> simp [hx])
    | split
    | dsimp only

theorem execMogulUnitFail_keeps (unit : Fin 32) (s : State) :
    KeepsOut 0x202000304080 s (execMogulUnitFail unit s) := by
  have hμ : 0x202000304080 ||| 0x202000304080 = 0x202000304080 := by decide
  unfold execMogulUnitFail
  repeat' first
    | with_reducible apply KeepsOut.next
    | with_reducible exact Keeps.refl _
    | with_reducible assumption
    | with_reducible apply State.failUnit_keeps (sub_of hμ (by decide))
    | dsimp only

theorem execReserveFull_keeps (h : Hub) (u : UncoveredUnit) (s : State) :
    KeepsOut 0x202000304080 s (execReserveFull h u s) := by
  have hμ : 0x202000304080 ||| 0x202000304080 = 0x202000304080 := by decide
  unfold execReserveFull
  repeat' first
    | with_reducible apply KeepsOut.next
    | with_reducible exact Keeps.refl _
    | with_reducible assumption
    | with_reducible apply State.uncover_keeps (sub_of hμ (by decide))
    | split
    | dsimp only

theorem execLaneFail_keeps (lane : Fin 64) (s : State) :
    KeepsOut 0x220000304400 s (execLaneFail lane s) := by
  have hμ : 0x220000304400 ||| 0x220000304400 = 0x220000304400 := by decide
  unfold execLaneFail
  repeat' first
    | with_reducible apply KeepsOut.next
    | with_reducible exact Keeps.refl _
    | with_reducible assumption
    | with_reducible apply Keeps.modAtt (bit_of hμ (by decide))
    | with_reducible apply State.put_keeps
    | with_reducible apply State.report_keeps (sub_of hμ (by decide))
    | exact KeepsPart.same _ _ fun _ => rfl
    | (with_reducible refine KeepsPart.intro fun x hx => ?_; simp only [Attention.canonical, Bool.and_eq_true] at hx ⊢; simp [hx] <;> (repeat' split) <;> simp [hx])
    | split
    | (with_reducible refine bit_of hμ ?_; first | decide | (simp (disch := decide) only [window_sel, window_die, window_arkKey, window_arkKey_add, window_keyAt, window_keyAt_add, window_wordAt, window_arkWord, window_drop, window_drop_hi, window_msix, window_srcWord, window_target, window_pendBit]; decide))
    | dsimp only

theorem execJoinUnitFail_keeps (unit : Fin 64) (s : State) :
    KeepsOut 0x200000304210 s (execJoinUnitFail unit s) := by
  have hμ : 0x200000304210 ||| 0x200000304210 = 0x200000304210 := by decide
  unfold execJoinUnitFail
  repeat' first
    | with_reducible apply KeepsOut.fault
    | with_reducible apply KeepsOut.next
    | with_reducible exact Keeps.refl _
    | with_reducible assumption
    | with_reducible apply Keeps.modPat (bit_of hμ (by decide))
    | with_reducible apply State.faultReplay_keeps (sub_of hμ (by decide))
    | with_reducible apply State.report_keeps (sub_of hμ (by decide))
    | with_reducible apply Keeps.foldl
    | exact KeepsPart.same _ _ fun _ => rfl
    | (with_reducible refine KeepsPart.intro fun x hx => ?_; simp only [Patrol.canonical, Bool.and_eq_true] at hx ⊢; simp [hx] <;> (repeat' split) <;> simp [hx])
    | split
    | intro _ _ _
    | dsimp only

theorem State.voidCkpt_keeps {μ : Nat} (hμ : 0x104050 ||| μ = μ) {s₀ s : State} (h : Keeps μ s₀ s) (i : Nat) (pages : List Nat) (onHome : Bool) :
    Keeps μ s₀ (State.voidCkpt s i pages onHome) := by
  unfold State.voidCkpt
  repeat' first
    | with_reducible assumption
    | with_reducible apply Keeps.modPat (bit_of hμ (by decide))
    | with_reducible apply State.forgetVectors_keeps (sub_of hμ (by decide))
    | with_reducible apply State.modBib_keeps (sub_of hμ (by decide))
    | with_reducible apply State.releasePages_keeps (sub_of hμ (by decide))
    | exact KeepsPart.same _ _ fun _ => rfl
    | (with_reducible refine KeepsPart.intro fun x hx => ?_; simp only [Patrol.canonical, Bool.and_eq_true] at hx ⊢; simp [hx] <;> (repeat' split) <;> simp [hx])
    | split
    | dsimp only

theorem State.failLodged_keeps {μ : Nat} (hμ : 0x30c0007068dc ||| μ = μ) {s₀ s : State} (h : Keeps μ s₀ s) (i : Nat) :
    Keeps μ s₀ (State.failLodged s i) := by
  unfold State.failLodged
  repeat' first
    | with_reducible assumption
    | with_reducible apply State.faultBib_keeps (sub_of hμ (by decide))
    | split
    | dsimp only

theorem State.poisonChannel_keeps {μ : Nat} (hμ : 0x31c0007068dc ||| μ = μ) {s₀ s : State} (h : Keeps μ s₀ s) (h : Hub) (lodge : Bool) (pages : List Nat) :
    Keeps μ s₀ (State.poisonChannel s h lodge pages) := by
  unfold State.poisonChannel
  repeat' first
    | with_reducible assumption
    | with_reducible apply Keeps.modKvm (bit_of hμ (by decide))
    | with_reducible apply Keeps.modPat (bit_of hμ (by decide))
    | with_reducible apply Keeps.setBibs (bit_of hμ (by decide))
    | with_reducible apply State.failLodged_keeps (sub_of hμ (by decide))
    | with_reducible apply State.raise_keeps
    | with_reducible apply State.report_keeps (sub_of hμ (by decide))
    | with_reducible apply State.voidCkpt_keeps (sub_of hμ (by decide))
    | with_reducible apply Keeps.foldl
    | exact KeepsPart.same _ _ fun _ => rfl
    | (with_reducible refine KeepsPart.intro fun x hx => ?_; simp only [Kvm.canonical, Patrol.canonical, Bool.and_eq_true] at hx ⊢; simp [hx] <;> (repeat' split) <;> simp [hx])
    | (with_reducible refine WfImp.intro fun hx => ?_; first | (simp [hx]; done) | (simp at hx; simp [hx]))
    | split
    | intro _ _ _
    | (with_reducible refine bit_of hμ ?_; first | decide | (simp (disch := decide) only [window_sel, window_die, window_arkKey, window_arkKey_add, window_keyAt, window_keyAt_add, window_wordAt, window_arkWord, window_drop, window_drop_hi, window_msix, window_srcWord, window_target, window_pendBit]; decide))
    | dsimp only

theorem execMemoryChannelFault_keeps (ch : MemChannel) (pages : List Nat) (s : State) :
    KeepsOut 0x31c0007068dc s (execMemoryChannelFault ch pages s) := by
  have hμ : 0x31c0007068dc ||| 0x31c0007068dc = 0x31c0007068dc := by decide
  unfold execMemoryChannelFault
  repeat' first
    | with_reducible apply KeepsOut.next
    | with_reducible exact Keeps.refl _
    | with_reducible assumption
    | with_reducible apply Keeps.modPat (bit_of hμ (by decide))
    | with_reducible apply State.poisonChannel_keeps (sub_of hμ (by decide))
    | with_reducible apply State.report_keeps (sub_of hμ (by decide))
    | exact KeepsPart.same _ _ fun _ => rfl
    | (with_reducible refine KeepsPart.intro fun x hx => ?_; simp only [Patrol.canonical, Bool.and_eq_true] at hx ⊢; simp [hx] <;> (repeat' split) <;> simp [hx])
    | split
    | dsimp only

theorem State.prove_keeps {μ : Nat} (hμ : 0x200000304200 ||| μ = μ) {s₀ s : State} (h : Keeps μ s₀ s) (d t : Nat) (ps : List ProvePoint) (temp : Nat) :
    Keeps μ s₀ (State.prove s d t ps temp) := by
  unfold State.prove
  repeat' first
    | with_reducible assumption
    | with_reducible apply State.count_keeps
    | with_reducible apply State.modTile_keeps (sub_of hμ (by decide))
    | with_reducible apply State.planFence_keeps (sub_of hμ (by decide))
    | with_reducible apply State.raise_keeps
    | with_reducible apply State.report_keeps (sub_of hμ (by decide))
    | split
    | (with_reducible refine bit_of hμ ?_; first | decide | (simp (disch := decide) only [window_sel, window_die, window_arkKey, window_arkKey_add, window_keyAt, window_keyAt_add, window_wordAt, window_arkWord, window_drop, window_drop_hi, window_msix, window_srcWord, window_target, window_pendBit]; decide))
    | dsimp only

theorem execProvingWindow_keeps (die : Fin 16) (tile : Fin 8448) (points : List ProvePoint) (temp : Nat) (s : State) :
    KeepsOut 0x200000304200 s (execProvingWindow die tile points temp s) := by
  have hμ : 0x200000304200 ||| 0x200000304200 = 0x200000304200 := by decide
  unfold execProvingWindow
  repeat' first
    | with_reducible apply KeepsOut.next
    | with_reducible exact Keeps.refl _
    | with_reducible assumption
    | with_reducible apply State.prove_keeps (sub_of hμ (by decide))
    | dsimp only

theorem execErrorReport_keeps (r : Report) (s : State) :
    KeepsOut 0x200000104000 s (execErrorReport r s) := by
  have hμ : 0x200000104000 ||| 0x200000104000 = 0x200000104000 := by decide
  unfold execErrorReport
  repeat' first
    | with_reducible apply KeepsOut.next
    | with_reducible exact Keeps.refl _
    | with_reducible assumption
    | with_reducible apply State.logReport_keeps (sub_of hμ (by decide))
    | dsimp only

theorem execBurstClose_keeps (i : Fin 64) (s : State) :
    KeepsOut 0x200000104000 s (execBurstClose i s) := by
  have hμ : 0x200000104000 ||| 0x200000104000 = 0x200000104000 := by decide
  unfold execBurstClose
  repeat' first
    | with_reducible apply KeepsOut.next
    | with_reducible exact Keeps.refl _
    | with_reducible assumption
    | with_reducible apply State.closeBurst_keeps (sub_of hμ (by decide))
    | dsimp only

theorem State.writePatTsel_keeps {μ : Nat} (hμ : 0x208000304000 ||| μ = μ) {s₀ s : State} (h : Keeps μ s₀ s) (req : Nat) (v : Word) :
    Keeps μ s₀ (State.writePatTsel s req v) := by
  unfold State.writePatTsel
  repeat' first
    | with_reducible assumption
    | with_reducible apply State.prove_keeps (sub_of hμ (by decide))
    | with_reducible apply State.put_keeps
    | with_reducible apply State.violation_keeps (sub_of hμ (by decide))
    | with_reducible apply State.wr64_keeps
    | split
    | (with_reducible refine bit_of hμ ?_; first | decide | (simp (disch := decide) only [window_sel, window_die, window_arkKey, window_arkKey_add, window_keyAt, window_keyAt_add, window_wordAt, window_arkWord, window_drop, window_drop_hi, window_msix, window_srcWord, window_target, window_pendBit]; decide))
    | dsimp only

theorem execPatTsel_keeps (v : Word) (s : State) :
    KeepsOut 0x208000304000 s (execPatTsel v s) := by
  have hμ : 0x208000304000 ||| 0x208000304000 = 0x208000304000 := by decide
  unfold execPatTsel
  repeat' first
    | with_reducible apply KeepsOut.next
    | with_reducible exact Keeps.refl _
    | with_reducible assumption
    | with_reducible apply State.undecoded_keeps (sub_of hμ (by decide))
    | with_reducible apply State.writePatTsel_keeps (sub_of hμ (by decide))
    | split
    | dsimp only

theorem State.writeFpsel_keeps {μ : Nat} (hμ : 0x200000000000 ||| μ = μ) {s₀ s : State} (h : Keeps μ s₀ s) (v : Word) :
    Keeps μ s₀ (State.writeFpsel s v) := by
  unfold State.writeFpsel
  repeat' first
    | with_reducible assumption
    | with_reducible apply Keeps.wr
    | with_reducible apply State.put_keeps
    | with_reducible apply State.wr64_keeps
    | (with_reducible refine bit_of hμ ?_; first | decide | (simp (disch := decide) only [window_sel, window_die, window_arkKey, window_arkKey_add, window_keyAt, window_keyAt_add, window_wordAt, window_arkWord, window_drop, window_drop_hi, window_msix, window_srcWord, window_target, window_pendBit]; decide))
    | dsimp only

theorem execPatFpsel_keeps (v : Word) (s : State) :
    KeepsOut 0x208000304000 s (execPatFpsel v s) := by
  have hμ : 0x208000304000 ||| 0x208000304000 = 0x208000304000 := by decide
  unfold execPatFpsel
  repeat' first
    | with_reducible apply KeepsOut.next
    | with_reducible exact Keeps.refl _
    | with_reducible assumption
    | with_reducible apply State.undecoded_keeps (sub_of hμ (by decide))
    | with_reducible apply State.writeFpsel_keeps (sub_of hμ (by decide))
    | split
    | dsimp only

theorem State.writeLogSel_keeps {μ : Nat} (hμ : 0x200000000000 ||| μ = μ) {s₀ s : State} (h : Keeps μ s₀ s) (v : Word) :
    Keeps μ s₀ (State.writeLogSel s v) := by
  unfold State.writeLogSel
  repeat' first
    | with_reducible assumption
    | with_reducible apply Keeps.wr
    | with_reducible apply State.put_keeps
    | with_reducible apply Keeps.foldl
    | split
    | intro _ _ _
    | (with_reducible refine bit_of hμ ?_; first | decide | (simp (disch := decide) only [window_sel, window_die, window_arkKey, window_arkKey_add, window_keyAt, window_keyAt_add, window_wordAt, window_arkWord, window_drop, window_drop_hi, window_msix, window_srcWord, window_target, window_pendBit]; decide))
    | dsimp only

theorem execPatLogSel_keeps (v : Word) (s : State) :
    KeepsOut 0x208000304000 s (execPatLogSel v s) := by
  have hμ : 0x208000304000 ||| 0x208000304000 = 0x208000304000 := by decide
  unfold execPatLogSel
  repeat' first
    | with_reducible apply KeepsOut.next
    | with_reducible exact Keeps.refl _
    | with_reducible assumption
    | with_reducible apply State.undecoded_keeps (sub_of hμ (by decide))
    | with_reducible apply State.writeLogSel_keeps (sub_of hμ (by decide))
    | split
    | dsimp only

end Sys2Proof.Machine
end

