-- ==== Sys2Proof/Laws/KeepMirror.lean ====
section
/-!
SUPPORT. What the operations of Machine/Mirror.lean keep (Laws/Keeps.lean).
-/

set_option linter.all false

namespace Sys2Proof.Machine

theorem State.dueCkpt_keeps {μ : Nat} (hμ : 0x4000 ||| μ = μ) {s₀ s : State} (h : Keeps μ s₀ s) (i n : Nat) :
    Keeps μ s₀ (State.dueCkpt s i n) := by
  unfold State.dueCkpt
  repeat' first
    | with_reducible assumption
    | with_reducible apply Keeps.modPat (bit_of hμ (by decide))
    | with_reducible apply State.put_keeps
    | exact KeepsPart.same _ _ fun _ => rfl
    | (with_reducible refine KeepsPart.intro fun x hx => ?_; simp only [Patrol.canonical, Bool.and_eq_true] at hx ⊢; simp [hx])
    | (with_reducible refine bit_of hμ ?_; first | decide | (simp (disch := decide) only [window_sel, window_die, window_arkKey, window_arkKey_add, window_keyAt, window_keyAt_add, window_wordAt, window_arkWord, window_drop, window_drop_hi, window_msix, window_srcWord, window_target, window_pendBit]; decide))
    | dsimp only

theorem State.dueCkpts_keeps {μ : Nat} (hμ : 0x4000 ||| μ = μ) {s₀ s : State} (h : Keeps μ s₀ s) (n : Nat) (every : Bool) :
    Keeps μ s₀ (State.dueCkpts s n every) := by
  unfold State.dueCkpts
  repeat' first
    | with_reducible assumption
    | with_reducible apply State.dueCkpt_keeps (sub_of hμ (by decide))
    | with_reducible apply Keeps.foldl
    | intro _ _ _
    | dsimp only

theorem State.openCkpt_keeps {μ : Nat} (hμ : 0x10000104040 ||| μ = μ) {s₀ s : State} (h : Keeps μ s₀ s) (i : Nat) : Keeps μ s₀ (s.openCkpt i) := by
  unfold State.openCkpt
  split
  · split
    · extract_lets b need
      clear_value need b
      split
      next e1 =>
      split
      next e2 =>
      refine Keeps.modPat (bit_of hμ (by decide)) (State.requestLodge_keeps' (sub_of hμ (by decide)) (State.requestLodge_keeps' (sub_of hμ (by decide)) h e1) e2) ?_
      refine KeepsPart.intro fun x hx => ?_
      simp only [Patrol.canonical, Bool.and_eq_true] at hx ⊢
      simp [hx]
    · exact h
  · exact h

theorem execCheckpointWindow_keeps (h : Hub) (s : State) :
    KeepsOut 0x10000104040 s (execCheckpointWindow h s) := by
  have hμ : 0x10000104040 ||| 0x10000104040 = 0x10000104040 := by decide
  unfold execCheckpointWindow
  repeat' first
    | with_reducible apply KeepsOut.next
    | with_reducible exact Keeps.refl _
    | with_reducible assumption
    | with_reducible apply State.openCkpt_keeps (sub_of hμ (by decide))
    | with_reducible apply Keeps.foldl
    | split
    | intro _ _ _
    | dsimp only

theorem State.mirrorCkpt_keeps {μ : Nat} (hμ : 0x100000502010 ||| μ = μ) {s₀ s : State} (h : Keeps μ s₀ s) (i from' : Nat) (e : Bib) (lap : Nat) (tail : List Nat) :
    Keeps μ s₀ (State.mirrorCkpt s i from' e lap tail) := by
  unfold State.mirrorCkpt
  repeat' first
    | with_reducible assumption
    | with_reducible apply State.modBib_keeps (sub_of hμ (by decide))
    | with_reducible apply State.sendMessage_keeps (sub_of hμ (by decide))
    | with_reducible apply Keeps.foldl
    | split
    | intro _ _ _
    | dsimp only

theorem State.copyVectors_keeps {μ : Nat} (hμ : 0x40 ||| μ = μ) {s₀ s : State} (h : Keeps μ s₀ s) (o o' lo hi : Nat) :
    Keeps μ s₀ (State.copyVectors s o o' lo hi) := by
  unfold State.copyVectors
  repeat' first
    | with_reducible assumption
    | with_reducible apply Keeps.modKvm (bit_of hμ (by decide))
    | with_reducible apply State.put_keeps
    | with_reducible apply Keeps.foldl
    | exact KeepsPart.same _ _ fun _ => rfl
    | (with_reducible refine KeepsPart.intro fun x hx => ?_; simp only [Kvm.canonical, Bool.and_eq_true] at hx ⊢; simp [hx])
    | intro _ _ _
    | (with_reducible refine bit_of hμ ?_; first | decide | (simp (disch := decide) only [window_sel, window_die, window_arkKey, window_arkKey_add, window_keyAt, window_keyAt_add, window_wordAt, window_arkWord, window_drop, window_drop_hi, window_msix, window_srcWord, window_target, window_pendBit]; decide))
    | dsimp only

theorem State.staleCkpt_keeps {μ : Nat} (hμ : 0x4000100000 ||| μ = μ) {s₀ s : State} (h : Keeps μ s₀ s) :
    Keeps μ s₀ (State.staleCkpt s) := by
  unfold State.staleCkpt
  repeat' first
    | with_reducible assumption
    | with_reducible apply State.count_keeps
    | with_reducible apply State.tally_keeps (sub_of hμ (by decide))
    | (with_reducible refine bit_of hμ ?_; first | decide | (simp (disch := decide) only [window_sel, window_die, window_arkKey, window_arkKey_add, window_keyAt, window_keyAt_add, window_wordAt, window_arkWord, window_drop, window_drop_hi, window_msix, window_srcWord, window_target, window_pendBit]; decide))
    | dsimp only

theorem State.finishCkpt_keeps {μ : Nat} (hμ : 0x300000506050 ||| μ = μ) {s₀ s : State} (h : Keeps μ s₀ s) (i : Nat) (c : Ckpt) (e : Bib) :
    Keeps μ s₀ (State.finishCkpt s i c e) := by
  unfold State.finishCkpt
  repeat' first
    | with_reducible assumption
    | with_reducible apply Keeps.modPat (bit_of hμ (by decide))
    | with_reducible apply State.copyVectors_keeps (sub_of hμ (by decide))
    | with_reducible apply State.count_keeps
    | with_reducible apply State.mirrorCkpt_keeps (sub_of hμ (by decide))
    | with_reducible apply State.modBib_keeps (sub_of hμ (by decide))
    | with_reducible apply State.put_keeps
    | exact KeepsPart.same _ _ fun _ => rfl
    | (with_reducible refine KeepsPart.intro fun x hx => ?_; simp only [Patrol.canonical, Bool.and_eq_true] at hx ⊢; simp [hx] <;> (repeat' split) <;> simp [hx])
    | split
    | (with_reducible refine bit_of hμ ?_; first | decide | (simp (disch := decide) only [window_sel, window_die, window_arkKey, window_arkKey_add, window_keyAt, window_keyAt_add, window_wordAt, window_arkWord, window_drop, window_drop_hi, window_msix, window_srcWord, window_target, window_pendBit]; decide))
    | dsimp only

theorem execCheckpointComplete_keeps (bib : Word) (s : State) :
    KeepsOut 0x304000506050 s (execCheckpointComplete bib s) := by
  have hμ : 0x304000506050 ||| 0x304000506050 = 0x304000506050 := by decide
  unfold execCheckpointComplete
  repeat' first
    | with_reducible apply KeepsOut.fault
    | with_reducible apply KeepsOut.next
    | with_reducible exact Keeps.refl _
    | with_reducible assumption
    | with_reducible apply State.finishCkpt_keeps (sub_of hμ (by decide))
    | with_reducible apply State.staleCkpt_keeps (sub_of hμ (by decide))
    | split
    | dsimp only

theorem State.abandonCkpt_keeps {μ : Nat} (hμ : 0x200000004000 ||| μ = μ) {s₀ s : State} (h : Keeps μ s₀ s) (i : Nat) :
    Keeps μ s₀ (State.abandonCkpt s i) := by
  unfold State.abandonCkpt
  repeat' first
    | with_reducible assumption
    | with_reducible apply Keeps.modPat (bit_of hμ (by decide))
    | with_reducible apply State.count_keeps
    | with_reducible apply State.put_keeps
    | exact KeepsPart.same _ _ fun _ => rfl
    | (with_reducible refine KeepsPart.intro fun x hx => ?_; simp only [Patrol.canonical, Bool.and_eq_true] at hx ⊢; simp [hx] <;> (repeat' split) <;> simp [hx])
    | split
    | (with_reducible refine bit_of hμ ?_; first | decide | (simp (disch := decide) only [window_sel, window_die, window_arkKey, window_arkKey_add, window_keyAt, window_keyAt_add, window_wordAt, window_arkWord, window_drop, window_drop_hi, window_msix, window_srcWord, window_target, window_pendBit]; decide))
    | dsimp only

theorem execCheckpointAbandon_keeps (bib : Word) (s : State) :
    KeepsOut 0x204000104000 s (execCheckpointAbandon bib s) := by
  have hμ : 0x204000104000 ||| 0x204000104000 = 0x204000104000 := by decide
  unfold execCheckpointAbandon
  repeat' first
    | with_reducible apply KeepsOut.next
    | with_reducible exact Keeps.refl _
    | with_reducible assumption
    | with_reducible apply State.abandonCkpt_keeps (sub_of hμ (by decide))
    | with_reducible apply State.staleCkpt_keeps (sub_of hμ (by decide))
    | split
    | dsimp only

theorem State.putRebuilt_keeps {μ : Nat} (hμ : 0x30800070687c ||| μ = μ) {s₀ s : State} (h : Keeps μ s₀ s) (j : Nat) (b : Bib) (result0 : Nat) :
    Keeps μ s₀ (State.putRebuilt s j b result0) := by
  unfold State.putRebuilt
  repeat' first
    | with_reducible assumption
    | with_reducible apply Keeps.modFree (bit_of hμ (by decide))
    | with_reducible apply Keeps.putBib (bit_of hμ (by decide))
    | with_reducible apply State.count_keeps
    | with_reducible apply State.eventRecord_keeps (sub_of hμ (by decide))
    | with_reducible apply State.putPfx_keeps (sub_of hμ (by decide))
    | with_reducible apply State.raise_keeps
    | with_reducible apply State.takeWax_keeps (sub_of hμ (by decide))
    | with_reducible apply State.tally_keeps (sub_of hμ (by decide))
    | split
    | (with_reducible refine bit_of hμ ?_; first | decide | (simp (disch := decide) only [window_sel, window_die, window_arkKey, window_arkKey_add, window_keyAt, window_keyAt_add, window_wordAt, window_arkWord, window_drop, window_drop_hi, window_msix, window_srcWord, window_target, window_pendBit]; decide))
    | dsimp only

theorem State.ckptRestore_keeps {μ : Nat} (hμ : 0x30800070687c ||| μ = μ) {s₀ s : State} (h : Keeps μ s₀ s) (i : Nat) :
    Keeps μ s₀ (State.ckptRestore s i) := by
  unfold State.ckptRestore
  repeat' first
    | with_reducible assumption
    | with_reducible apply Keeps.modPat (bit_of hμ (by decide))
    | with_reducible apply State.copyVectors_keeps (sub_of hμ (by decide))
    | with_reducible apply State.dropMirror_keeps (sub_of hμ (by decide))
    | with_reducible apply State.forgetVectors_keeps (sub_of hμ (by decide))
    | with_reducible apply State.putRebuilt_keeps (sub_of hμ (by decide))
    | with_reducible apply State.put_keeps
    | exact KeepsPart.same _ _ fun _ => rfl
    | (with_reducible refine KeepsPart.intro fun x hx => ?_; simp only [Patrol.canonical, Bool.and_eq_true] at hx ⊢; simp [hx] <;> (repeat' split) <;> simp [hx])
    | split
    | (with_reducible refine bit_of hμ ?_; first | decide | (simp (disch := decide) only [window_sel, window_die, window_arkKey, window_arkKey_add, window_keyAt, window_keyAt_add, window_wordAt, window_arkWord, window_drop, window_drop_hi, window_msix, window_srcWord, window_target, window_pendBit]; decide))
    | dsimp only

theorem execCkptRestore_keeps (i : Fin 65536) (s : State) :
    KeepsOut 0x30800070687c s (execCkptRestore i s) := by
  have hμ : 0x30800070687c ||| 0x30800070687c = 0x30800070687c := by decide
  unfold execCkptRestore
  repeat' first
    | with_reducible apply KeepsOut.next
    | with_reducible exact Keeps.refl _
    | with_reducible assumption
    | with_reducible apply State.ckptRestore_keeps (sub_of hμ (by decide))
    | dsimp only

theorem State.refuseAdopt_keeps {μ : Nat} (hμ : 0x200000304000 ||| μ = μ) {s₀ s : State} (h : Keeps μ s₀ s) (origin : Nat) (id : Word) :
    Keeps μ s₀ (State.refuseAdopt s origin id) := by
  unfold State.refuseAdopt
  repeat' first
    | with_reducible assumption
    | with_reducible apply State.count_keeps
    | with_reducible apply State.report_keeps (sub_of hμ (by decide))
    | (with_reducible refine bit_of hμ ?_; first | decide | (simp (disch := decide) only [window_sel, window_die, window_arkKey, window_arkKey_add, window_keyAt, window_keyAt_add, window_wordAt, window_arkWord, window_drop, window_drop_hi, window_msix, window_srcWord, window_target, window_pendBit]; decide))
    | dsimp only

theorem State.adoptInto_keeps {μ : Nat} (hμ : 0x30800070687c ||| μ = μ) {s₀ s : State} (h : Keeps μ s₀ s) (j : Nat) (h : Hub) (x : Model) (e : Bib) (m : Mirror) :
    Keeps μ s₀ (State.adoptInto s j h x e m) := by
  unfold State.adoptInto
  repeat' first
    | with_reducible assumption
    | with_reducible apply Keeps.draw (bit_of hμ (by decide))
    | with_reducible apply Keeps.modKvm (bit_of hμ (by decide))
    | with_reducible apply Keeps.modPat (bit_of hμ (by decide))
    | with_reducible apply State.copyVectors_keeps (sub_of hμ (by decide))
    | with_reducible apply State.putRebuilt_keeps (sub_of hμ (by decide))
    | with_reducible apply State.put_keeps
    | with_reducible apply Keeps.foldl
    | exact KeepsPart.same _ _ fun _ => rfl
    | (with_reducible refine KeepsPart.intro fun x hx => ?_; simp only [Kvm.canonical, Patrol.canonical, Bool.and_eq_true] at hx ⊢; simp [hx] <;> (repeat' split) <;> simp [hx])
    | split
    | intro _ _ _
    | (with_reducible refine bit_of hμ ?_; first | decide | (simp (disch := decide) only [window_sel, window_die, window_arkKey, window_arkKey_add, window_keyAt, window_keyAt_add, window_wordAt, window_arkWord, window_drop, window_drop_hi, window_msix, window_srcWord, window_target, window_pendBit]; decide))
    | dsimp only

theorem State.adopt_keeps {μ : Nat} (hμ : 0x30800070687c ||| μ = μ) {s₀ s : State} (h : Keeps μ s₀ s) (m : Mirror) (layout : DWord) :
    Keeps μ s₀ (State.adopt s m layout) := by
  unfold State.adopt
  repeat' first
    | with_reducible assumption
    | with_reducible apply State.adoptInto_keeps (sub_of hμ (by decide))
    | with_reducible apply State.count_keeps
    | with_reducible apply State.refuseAdopt_keeps (sub_of hμ (by decide))
    | split
    | (with_reducible refine bit_of hμ ?_; first | decide | (simp (disch := decide) only [window_sel, window_die, window_arkKey, window_arkKey_add, window_keyAt, window_keyAt_add, window_wordAt, window_arkWord, window_drop, window_drop_hi, window_msix, window_srcWord, window_target, window_pendBit]; decide))
    | dsimp only

theorem State.putMirror_keeps {μ : Nat} (hμ : 0x4000 ||| μ = μ) {s₀ s : State} (h : Keeps μ s₀ s) (m : Mirror) :
    Keeps μ s₀ (State.putMirror s m) := by
  unfold State.putMirror
  repeat' first
    | with_reducible assumption
    | with_reducible apply Keeps.modPat (bit_of hμ (by decide))
    | exact KeepsPart.same _ _ fun _ => rfl
    | (with_reducible refine KeepsPart.intro fun x hx => ?_; simp only [Patrol.canonical, Bool.and_eq_true] at hx ⊢; simp [hx] <;> (repeat' split) <;> simp [hx])
    | split
    | dsimp only

theorem State.storeMirror_keeps {μ : Nat} (hμ : 0x110000506040 ||| μ = μ) {s₀ s : State} (h : Keeps μ s₀ s) (origin : Nat) (id : Word) (f : Mirror → Mirror) :
    Keeps μ s₀ (s.storeMirror origin id f) := by
  unfold State.storeMirror
  extract_lets m n
  clear_value n m
  split
  · next e => with_reducible exact State.sendMessage_keeps (sub_of hμ (by decide)) (State.putMirror_keeps (sub_of hμ (by decide)) (State.requestLodge_keeps' (sub_of hμ (by decide)) h e) _) _ _ _
  · next e => with_reducible exact State.requestLodge_keeps' (sub_of hμ (by decide)) h e

theorem execMirrorEntry_keeps (m : MirrorEntry) (s : State) :
    KeepsOut 0x110000506040 s (execMirrorEntry m s) := by
  have hμ : 0x110000506040 ||| 0x110000506040 = 0x110000506040 := by decide
  unfold execMirrorEntry
  repeat' first
    | with_reducible apply KeepsOut.next
    | with_reducible exact Keeps.refl _
    | with_reducible assumption
    | with_reducible apply State.storeMirror_keeps (sub_of hμ (by decide))
    | dsimp only

theorem execMirrorKv_keeps (origin : BitVec 16) (originBib : Word) (first : Nat) (n : Nat) (body : List Byte) (s : State) :
    KeepsOut 0x110000506040 s (execMirrorKv origin originBib first n body s) := by
  have hμ : 0x110000506040 ||| 0x110000506040 = 0x110000506040 := by decide
  unfold execMirrorKv
  repeat' first
    | with_reducible apply KeepsOut.next
    | with_reducible exact Keeps.refl _
    | with_reducible assumption
    | with_reducible apply State.storeMirror_keeps (sub_of hμ (by decide))
    | dsimp only

theorem execMirrorTail_keeps (origin : BitVec 16) (originBib : Word) (toks : List Nat) (s : State) :
    KeepsOut 0x110000506040 s (execMirrorTail origin originBib toks s) := by
  have hμ : 0x110000506040 ||| 0x110000506040 = 0x110000506040 := by decide
  unfold execMirrorTail
  repeat' first
    | with_reducible apply KeepsOut.next
    | with_reducible exact Keeps.refl _
    | with_reducible assumption
    | with_reducible apply State.storeMirror_keeps (sub_of hμ (by decide))
    | split
    | dsimp only

theorem execMirrorAck_keeps (bib : Word) (s : State) :
    KeepsOut 0x4000100000 s (execMirrorAck bib s) := by
  have hμ : 0x4000100000 ||| 0x4000100000 = 0x4000100000 := by decide
  unfold execMirrorAck
  repeat' first
    | with_reducible apply KeepsOut.next
    | with_reducible exact Keeps.refl _
    | with_reducible assumption
    | with_reducible apply State.count_keeps
    | with_reducible apply State.tally_keeps (sub_of hμ (by decide))
    | split
    | (with_reducible refine bit_of hμ ?_; first | decide | (simp (disch := decide) only [window_sel, window_die, window_arkKey, window_arkKey_add, window_keyAt, window_keyAt_add, window_wordAt, window_arkWord, window_drop, window_drop_hi, window_msix, window_srcWord, window_target, window_pendBit]; decide))
    | dsimp only

theorem execMirrorDrop_keeps (origin : BitVec 16) (originBib : Word) (s : State) :
    KeepsOut 0x104040 s (execMirrorDrop origin originBib s) := by
  have hμ : 0x104040 ||| 0x104040 = 0x104040 := by decide
  unfold execMirrorDrop
  repeat' first
    | with_reducible apply KeepsOut.next
    | with_reducible exact Keeps.refl _
    | with_reducible assumption
    | with_reducible apply Keeps.modPat (bit_of hμ (by decide))
    | with_reducible apply State.releasePages_keeps (sub_of hμ (by decide))
    | exact KeepsPart.same _ _ fun _ => rfl
    | (with_reducible refine KeepsPart.intro fun x hx => ?_; simp only [Patrol.canonical, Bool.and_eq_true] at hx ⊢; simp [hx] <;> (repeat' split) <;> simp [hx])
    | split
    | dsimp only

theorem State.adoptAll_keeps {μ : Nat} (hμ : 0x30800070687c ||| μ = μ) {s₀ s : State} (h : Keeps μ s₀ s) (origin : Nat) :
    Keeps μ s₀ (State.adoptAll s origin) := by
  unfold State.adoptAll
  repeat' first
    | with_reducible assumption
    | with_reducible apply State.adopt_keeps (sub_of hμ (by decide))
    | with_reducible apply Keeps.foldl
    | intro _ _ _
    | dsimp only

theorem execOrphan_keeps (origin : BitVec 16) (s : State) :
    KeepsOut 0x30800070687c s (execOrphan origin s) := by
  have hμ : 0x30800070687c ||| 0x30800070687c = 0x30800070687c := by decide
  unfold execOrphan
  repeat' first
    | with_reducible apply KeepsOut.next
    | with_reducible exact Keeps.refl _
    | with_reducible assumption
    | with_reducible apply State.adoptAll_keeps (sub_of hμ (by decide))
    | dsimp only

theorem State.writeOrphan_keeps {μ : Nat} (hμ : 0x30800070687c ||| μ = μ) {s₀ s : State} (h : Keeps μ s₀ s) (v : Word) :
    Keeps μ s₀ (State.writeOrphan s v) := by
  unfold State.writeOrphan
  repeat' first
    | with_reducible assumption
    | with_reducible apply State.adoptAll_keeps (sub_of hμ (by decide))
    | with_reducible apply State.put_keeps
    | split
    | (with_reducible refine bit_of hμ ?_; first | decide | (simp (disch := decide) only [window_sel, window_die, window_arkKey, window_arkKey_add, window_keyAt, window_keyAt_add, window_wordAt, window_arkWord, window_drop, window_drop_hi, window_msix, window_srcWord, window_target, window_pendBit]; decide))
    | dsimp only

theorem execPatOrphan_keeps (v : Word) (s : State) :
    KeepsOut 0x30800070687c s (execPatOrphan v s) := by
  have hμ : 0x30800070687c ||| 0x30800070687c = 0x30800070687c := by decide
  unfold execPatOrphan
  repeat' first
    | with_reducible apply KeepsOut.next
    | with_reducible exact Keeps.refl _
    | with_reducible assumption
    | with_reducible apply State.undecoded_keeps (sub_of hμ (by decide))
    | with_reducible apply State.writeOrphan_keeps (sub_of hμ (by decide))
    | split
    | dsimp only

theorem execMigration_keeps (m : MirrorEntry) (slotLayout : DWord) (kv : List (Nat × Nat × List Byte)) (s : State) :
    KeepsOut 0x31800070687c s (execMigration m slotLayout kv s) := by
  have hμ : 0x31800070687c ||| 0x31800070687c = 0x31800070687c := by decide
  unfold execMigration
  extract_lets x
  clear_value x
  split
  · exact KeepsOut.next (State.count_keeps (bit_of hμ (by decide)) (bit_of hμ (by decide)) (Keeps.refl s))
  · split
    · next e =>
      have h := State.requestLodge_keeps' (sub_of hμ (by decide)) (Keeps.refl s) e
      extract_lets s2
      have h2 : Keeps 0x31800070687c s s2 := State.adopt_keeps (sub_of hμ (by decide)) h _ _
      clear_value s2
      refine KeepsOut.next ?_
      split
      · exact h2
      · exact State.releasePages_keeps (sub_of hμ (by decide)) h2 _ _ _ _
    · next e => exact KeepsOut.next (State.refuseAdopt_keeps (sub_of hμ (by decide)) (State.requestLodge_keeps' (sub_of hμ (by decide)) (Keeps.refl s) e) _ _)

theorem State.sendOver_keeps {μ : Nat} (hμ : 0x100000502000 ||| μ = μ) {s₀ s : State} (h : Keeps μ s₀ s) (h : Hub) (kind peer : Nat) (body : List Byte) :
    Keeps μ s₀ (State.sendOver s h kind peer body) := by
  unfold State.sendOver
  repeat' first
    | with_reducible assumption
    | with_reducible apply State.modPort_keeps (sub_of hμ (by decide))
    | with_reducible apply State.pump_keeps (sub_of hμ (by decide))
    | split
    | dsimp only

theorem State.evacuate_keeps {μ : Nat} (hμ : 0x100000502000 ||| μ = μ) {s₀ s : State} (h : Keeps μ s₀ s) (h : Hub) :
    Keeps μ s₀ (State.evacuate s h) := by
  unfold State.evacuate
  repeat' first
    | with_reducible assumption
    | with_reducible apply State.sendOver_keeps (sub_of hμ (by decide))
    | with_reducible apply Keeps.foldl
    | split
    | intro _ _ _
    | dsimp only

theorem State.moduleFault_keeps {μ : Nat} (hμ : 0x1300000706000 ||| μ = μ) {s₀ s : State} (h : Keeps μ s₀ s) (c : ModuleFaultCase) :
    Keeps μ s₀ (State.moduleFault s c) := by
  unfold State.moduleFault
  repeat' first
    | with_reducible assumption
    | with_reducible apply State.evacuate_keeps (sub_of hμ (by decide))
    | with_reducible apply State.put_keeps
    | with_reducible apply State.serviceFault_keeps (sub_of hμ (by decide))
    | split
    | (with_reducible refine bit_of hμ ?_; first | decide | (simp (disch := decide) only [window_sel, window_die, window_arkKey, window_arkKey_add, window_keyAt, window_keyAt_add, window_wordAt, window_arkWord, window_drop, window_drop_hi, window_msix, window_srcWord, window_target, window_pendBit]; decide))
    | dsimp only

theorem execModuleFault_keeps (c : ModuleFaultCase) (s : State) :
    KeepsOut 0x1300000706000 s (execModuleFault c s) := by
  have hμ : 0x1300000706000 ||| 0x1300000706000 = 0x1300000706000 := by decide
  unfold execModuleFault
  repeat' first
    | with_reducible apply KeepsOut.next
    | with_reducible exact Keeps.refl _
    | with_reducible assumption
    | with_reducible apply State.moduleFault_keeps (sub_of hμ (by decide))
    | dsimp only

end Sys2Proof.Machine
end

