-- ==== Sys2Proof/Laws/KeepPrints.lean ====
section
/-!
SUPPORT. What the operations of Machine/Prints.lean keep (Laws/Keeps.lean).
-/

set_option linter.all false

namespace Sys2Proof.Machine

theorem State.takePrint_keeps {μ : Nat} (hμ : 0x100000506000 ||| μ = μ) {s₀ s : State} (h : Keeps μ s₀ s) (member slot dlap : Nat) (layout : DWord) (bytes : List Int) :
    Keeps μ s₀ (State.takePrint s member slot dlap layout bytes) := by
  unfold State.takePrint
  repeat' first
    | with_reducible assumption
    | with_reducible apply Keeps.modPat (bit_of hμ (by decide))
    | with_reducible apply State.sendMessage_keeps (sub_of hμ (by decide))
    | with_reducible apply Keeps.foldl
    | exact KeepsPart.same _ _ fun _ => rfl
    | (with_reducible refine KeepsPart.intro fun x hx => ?_; simp only [Patrol.canonical, Bool.and_eq_true] at hx ⊢; simp [hx] <;> (repeat' split) <;> simp [hx])
    | split
    | intro _ _ _
    | dsimp only

theorem execFingerprint_keeps (member : BitVec 16) (slot : Fin 64) (dlap : Nat) (layout : DWord) (bytes : List Int) (s : State) :
    KeepsOut 0x100000506000 s (execFingerprint member slot dlap layout bytes s) := by
  have hμ : 0x100000506000 ||| 0x100000506000 = 0x100000506000 := by decide
  unfold execFingerprint
  repeat' first
    | with_reducible apply KeepsOut.next
    | with_reducible exact Keeps.refl _
    | with_reducible assumption
    | with_reducible apply State.takePrint_keeps (sub_of hμ (by decide))
    | dsimp only

theorem State.putVerdict_keeps {μ : Nat} (hμ : 0x200000000000 ||| μ = μ) {s₀ s : State} (h : Keeps μ s₀ s) (slot code m dlap : Nat) (diffs : List Nat) :
    Keeps μ s₀ (State.putVerdict s slot code m dlap diffs) := by
  unfold State.putVerdict
  repeat' first
    | with_reducible assumption
    | with_reducible apply State.put_keeps
    | with_reducible apply State.wr64_keeps
    | with_reducible apply Keeps.foldl
    | intro _ _ _
    | (with_reducible refine bit_of hμ ?_; first | decide | (simp (disch := decide) only [window_sel, window_die, window_arkKey, window_arkKey_add, window_keyAt, window_keyAt_add, window_wordAt, window_arkWord, window_drop, window_drop_hi, window_msix, window_srcWord, window_target, window_pendBit]; decide))
    | dsimp only

theorem State.regroomLayer_keeps {μ : Nat} (hμ : 0x200 ||| μ = μ) {s₀ s : State} (h : Keeps μ s₀ s) (m l : Nat) :
    Keeps μ s₀ (State.regroomLayer s m l) := by
  unfold State.regroomLayer
  repeat' first
    | with_reducible assumption
    | with_reducible apply State.modTile_keeps (sub_of hμ (by decide))
    | with_reducible apply Keeps.foldl
    | intro _ _ _
    | dsimp only

theorem State.expel_keeps {μ : Nat} (hμ : 0x200000305200 ||| μ = μ) {s₀ s : State} (h : Keeps μ s₀ s) (slot : Nat) (x : Model) (own : List Int) (bad diffs : List Nat) (majority : List Nat) :
    Keeps μ s₀ (State.expel s slot x own bad diffs majority) := by
  unfold State.expel
  repeat' first
    | with_reducible assumption
    | with_reducible apply Keeps.modLdr (bit_of hμ (by decide))
    | with_reducible apply State.count_keeps
    | with_reducible apply State.drain_keeps (sub_of hμ (by decide))
    | with_reducible apply State.put_keeps
    | with_reducible apply State.raise_keeps
    | with_reducible apply State.regroomLayer_keeps (sub_of hμ (by decide))
    | with_reducible apply State.report_keeps (sub_of hμ (by decide))
    | with_reducible apply Keeps.foldl
    | exact KeepsPart.same _ _ fun _ => rfl
    | (with_reducible refine KeepsPart.intro fun x hx => ?_; simp only [Loader.canonical, Bool.and_eq_true] at hx ⊢; simp [hx] <;> (repeat' split) <;> simp [hx])
    | split
    | intro _ _ _
    | (with_reducible refine bit_of hμ ?_; first | decide | (simp (disch := decide) only [window_sel, window_die, window_arkKey, window_arkKey_add, window_keyAt, window_keyAt_add, window_wordAt, window_arkWord, window_drop, window_drop_hi, window_msix, window_srcWord, window_target, window_pendBit]; decide))
    | dsimp only

theorem State.readmit_keeps {μ : Nat} (hμ : 0x200000001000 ||| μ = μ) {s₀ s : State} (h : Keeps μ s₀ s) (slot : Nat) (x : Model) :
    Keeps μ s₀ (State.readmit s slot x) := by
  unfold State.readmit
  repeat' first
    | with_reducible assumption
    | with_reducible apply Keeps.modLdr (bit_of hμ (by decide))
    | with_reducible apply State.drain_keeps (sub_of hμ (by decide))
    | with_reducible apply State.put_keeps
    | exact KeepsPart.same _ _ fun _ => rfl
    | (with_reducible refine KeepsPart.intro fun x hx => ?_; simp only [Loader.canonical, Bool.and_eq_true] at hx ⊢; simp [hx])
    | (with_reducible refine bit_of hμ ?_; first | decide | (simp (disch := decide) only [window_sel, window_die, window_arkKey, window_arkKey_add, window_keyAt, window_keyAt_add, window_wordAt, window_arkWord, window_drop, window_drop_hi, window_msix, window_srcWord, window_target, window_pendBit]; decide))
    | dsimp only

theorem State.judge_keeps {μ : Nat} (hμ : 0x200000305200 ||| μ = μ) {s₀ s : State} (h : Keeps μ s₀ s) (slot : Nat) :
    Keeps μ s₀ (State.judge s slot) := by
  unfold State.judge
  repeat' first
    | with_reducible assumption
    | with_reducible apply Keeps.modPat (bit_of hμ (by decide))
    | with_reducible apply State.expel_keeps (sub_of hμ (by decide))
    | with_reducible apply State.putVerdict_keeps (sub_of hμ (by decide))
    | with_reducible apply State.readmit_keeps (sub_of hμ (by decide))
    | exact KeepsPart.same _ _ fun _ => rfl
    | (with_reducible refine KeepsPart.intro fun x hx => ?_; simp only [Patrol.canonical, Bool.and_eq_true] at hx ⊢; simp [hx] <;> (repeat' split) <;> simp [hx])
    | split
    | dsimp only

theorem execFingerprintVerdict_keeps (slot : Fin 64) (s : State) :
    KeepsOut 0x200000305200 s (execFingerprintVerdict slot s) := by
  have hμ : 0x200000305200 ||| 0x200000305200 = 0x200000305200 := by decide
  unfold execFingerprintVerdict
  repeat' first
    | with_reducible apply KeepsOut.next
    | with_reducible exact Keeps.refl _
    | with_reducible assumption
    | with_reducible apply State.judge_keeps (sub_of hμ (by decide))
    | dsimp only

theorem State.drainBib_keeps {μ : Nat} (hμ : 0x30c0007068dc ||| μ = μ) {s₀ s : State} (h : Keeps μ s₀ s) (i : Nat) (dest : Option Nat) :
    Keeps μ s₀ (State.drainBib s i dest) := by
  unfold State.drainBib
  repeat' first
    | with_reducible assumption
    | with_reducible apply State.faultBib_keeps (sub_of hμ (by decide))
    | with_reducible apply State.sendMessage_keeps (sub_of hμ (by decide))
    | with_reducible apply Keeps.foldl
    | split
    | intro _ _ _
    | dsimp only

theorem State.endDrain_keeps {μ : Nat} (hμ : 0x30c0007078dc ||| μ = μ) {s₀ s : State} (h : Keeps μ s₀ s) (slot : Nat) :
    Keeps μ s₀ (State.endDrain s slot) := by
  unfold State.endDrain
  repeat' first
    | with_reducible assumption
    | with_reducible apply Keeps.modLdr (bit_of hμ (by decide))
    | with_reducible apply State.drainBib_keeps (sub_of hμ (by decide))
    | with_reducible apply State.drain_keeps (sub_of hμ (by decide))
    | with_reducible apply State.put_keeps
    | with_reducible apply Keeps.foldl
    | exact KeepsPart.same _ _ fun _ => rfl
    | (with_reducible refine KeepsPart.intro fun x hx => ?_; simp only [Loader.canonical, Bool.and_eq_true] at hx ⊢; simp [hx] <;> (repeat' split) <;> simp [hx])
    | split
    | intro _ _ _
    | (with_reducible refine bit_of hμ ?_; first | decide | (simp (disch := decide) only [window_sel, window_die, window_arkKey, window_arkKey_add, window_keyAt, window_keyAt_add, window_wordAt, window_arkWord, window_drop, window_drop_hi, window_msix, window_srcWord, window_target, window_pendBit]; decide))
    | dsimp only

theorem execFpDrainExpired_keeps (slot : Fin 64) (s : State) :
    KeepsOut 0x30c0007078dc s (execFpDrainExpired slot s) := by
  have hμ : 0x30c0007078dc ||| 0x30c0007078dc = 0x30c0007078dc := by decide
  unfold execFpDrainExpired
  repeat' first
    | with_reducible apply KeepsOut.next
    | with_reducible exact Keeps.refl _
    | with_reducible assumption
    | with_reducible apply State.endDrain_keeps (sub_of hμ (by decide))
    | dsimp only

end Sys2Proof.Machine
end

