-- ==== Sys2Proof/Laws/KeepClocks.lean ====
section
/-!
SUPPORT. What the operations of Machine/Clocks.lean keep (Laws/Keeps.lean).
-/

set_option linter.all false

namespace Sys2Proof.Machine

theorem State.setClock_keeps {μ : Nat} (hμ : 0x200010000 ||| μ = μ) {s₀ s : State} (h : Keeps μ s₀ s) (d src div : Nat) :
    Keeps μ s₀ (State.setClock s d src div) := by
  unfold State.setClock
  repeat' first
    | with_reducible assumption
    | with_reducible apply Keeps.modClk (bit_of hμ (by decide))
    | with_reducible apply State.put_keeps
    | exact KeepsPart.same _ _ fun _ => rfl
    | (with_reducible refine KeepsPart.intro fun x hx => ?_; simp only [Clocks.canonical, Bool.and_eq_true] at hx ⊢; simp [hx])
    | (with_reducible refine bit_of hμ ?_; first | decide | (simp (disch := decide) only [window_sel, window_die, window_arkKey, window_arkKey_add, window_keyAt, window_keyAt_add, window_wordAt, window_arkWord, window_drop, window_drop_hi, window_msix, window_srcWord, window_target, window_pendBit]; decide))
    | dsimp only

theorem execClockSourceStable_keeps (src : ClockSource) (s : State) :
    KeepsOut 0x200010000 s (execClockSourceStable src s) := by
  have hμ : 0x200010000 ||| 0x200010000 = 0x200010000 := by decide
  unfold execClockSourceStable
  repeat' first
    | with_reducible apply KeepsOut.next
    | with_reducible exact Keeps.refl _
    | with_reducible assumption
    | with_reducible apply State.put_keeps
    | with_reducible apply State.setClock_keeps (sub_of hμ (by decide))
    | split
    | (with_reducible refine bit_of hμ ?_; first | decide | (simp (disch := decide) only [window_sel, window_die, window_arkKey, window_arkKey_add, window_keyAt, window_keyAt_add, window_wordAt, window_arkWord, window_drop, window_drop_hi, window_msix, window_srcWord, window_target, window_pendBit]; decide))
    | dsimp only

theorem State.changeSource_keeps {μ : Nat} (hμ : 0x10000 ||| μ = μ) {s₀ s : State} (h : Keeps μ s₀ s) (d src : Nat) :
    Keeps μ s₀ (State.changeSource s d src) := by
  unfold State.changeSource
  repeat' first
    | with_reducible assumption
    | with_reducible apply Keeps.modClk (bit_of hμ (by decide))
    | with_reducible apply State.put_keeps
    | exact KeepsPart.same _ _ fun _ => rfl
    | (with_reducible refine KeepsPart.intro fun x hx => ?_; simp only [Clocks.canonical, Bool.and_eq_true] at hx ⊢; simp [hx] <;> (repeat' split) <;> simp [hx])
    | split
    | (with_reducible refine bit_of hμ ?_; first | decide | (simp (disch := decide) only [window_sel, window_die, window_arkKey, window_arkKey_add, window_keyAt, window_keyAt_add, window_wordAt, window_arkWord, window_drop, window_drop_hi, window_msix, window_srcWord, window_target, window_pendBit]; decide))
    | dsimp only

theorem execClockSourceChange_keeps (d : Fin 60) (src : ClockSource) (s : State) :
    KeepsOut 0x10000 s (execClockSourceChange d src s) := by
  have hμ : 0x10000 ||| 0x10000 = 0x10000 := by decide
  unfold execClockSourceChange
  repeat' first
    | with_reducible apply KeepsOut.fault
    | with_reducible apply KeepsOut.next
    | with_reducible exact Keeps.refl _
    | with_reducible assumption
    | with_reducible apply State.changeSource_keeps (sub_of hμ (by decide))
    | split
    | dsimp only

theorem State.stepGroup_keeps {μ : Nat} (hμ : 0x200010000 ||| μ = μ) {s₀ s : State} (h : Keeps μ s₀ s) (l src div : Nat) :
    Keeps μ s₀ (State.stepGroup s l src div) := by
  unfold State.stepGroup
  repeat' first
    | with_reducible assumption
    | with_reducible apply State.put_keeps
    | with_reducible apply State.setClock_keeps (sub_of hμ (by decide))
    | with_reducible apply Keeps.foldl
    | intro _ _ _
    | (with_reducible refine bit_of hμ ?_; first | decide | (simp (disch := decide) only [window_sel, window_die, window_arkKey, window_arkKey_add, window_keyAt, window_keyAt_add, window_wordAt, window_arkWord, window_drop, window_drop_hi, window_msix, window_srcWord, window_target, window_pendBit]; decide))
    | dsimp only

theorem State.handGroup_keeps {μ : Nat} (hμ : 0x200010000 ||| μ = μ) {s₀ s : State} (h : Keeps μ s₀ s) (l src : Nat) :
    Keeps μ s₀ (State.handGroup s l src) := by
  unfold State.handGroup
  repeat' first
    | with_reducible assumption
    | with_reducible apply State.put_keeps
    | with_reducible apply State.setClock_keeps (sub_of hμ (by decide))
    | with_reducible apply Keeps.foldl
    | intro _ _ _
    | (with_reducible refine bit_of hμ ?_; first | decide | (simp (disch := decide) only [window_sel, window_die, window_arkKey, window_arkKey_add, window_keyAt, window_keyAt_add, window_wordAt, window_arkWord, window_drop, window_drop_hi, window_msix, window_srcWord, window_target, window_pendBit]; decide))
    | dsimp only

theorem State.settleGroup_keeps {μ : Nat} (hμ : 0x200010000 ||| μ = μ) {s₀ s : State} (h : Keeps μ s₀ s) (l : Nat) :
    Keeps μ s₀ (State.settleGroup s l) := by
  unfold State.settleGroup
  repeat' first
    | with_reducible assumption
    | with_reducible apply Keeps.modClk (bit_of hμ (by decide))
    | with_reducible apply State.put_keeps
    | with_reducible apply Keeps.foldl
    | exact KeepsPart.same _ _ fun _ => rfl
    | (with_reducible refine KeepsPart.intro fun x hx => ?_; simp only [Clocks.canonical, Bool.and_eq_true] at hx ⊢; simp [hx] <;> (repeat' split) <;> simp [hx])
    | split
    | intro _ _ _
    | (with_reducible refine bit_of hμ ?_; first | decide | (simp (disch := decide) only [window_sel, window_die, window_arkKey, window_arkKey_add, window_keyAt, window_keyAt_add, window_wordAt, window_arkWord, window_drop, window_drop_hi, window_msix, window_srcWord, window_target, window_pendBit]; decide))
    | dsimp only

theorem State.rampStep_keeps {μ : Nat} (hμ : 0x200010000 ||| μ = μ) {s₀ s : State} (h : Keeps μ s₀ s) (d : Nat) :
    Keeps μ s₀ (State.rampStep s d) := by
  unfold State.rampStep
  repeat' first
    | with_reducible assumption
    | with_reducible apply State.handGroup_keeps (sub_of hμ (by decide))
    | with_reducible apply State.settleGroup_keeps (sub_of hμ (by decide))
    | with_reducible apply State.stepGroup_keeps (sub_of hμ (by decide))
    | split
    | dsimp only

theorem execClockRampStep_keeps (d : Fin 60) (s : State) :
    KeepsOut 0x200010000 s (execClockRampStep d s) := by
  have hμ : 0x200010000 ||| 0x200010000 = 0x200010000 := by decide
  unfold execClockRampStep
  repeat' first
    | with_reducible apply KeepsOut.fault
    | with_reducible apply KeepsOut.next
    | with_reducible exact Keeps.refl _
    | with_reducible assumption
    | with_reducible apply State.rampStep_keeps (sub_of hμ (by decide))
    | split
    | dsimp only

theorem State.failOver_keeps {μ : Nat} (hμ : 0x200010000 ||| μ = μ) {s₀ s : State} (h : Keeps μ s₀ s) (d : Nat) :
    Keeps μ s₀ (State.failOver s d) := by
  unfold State.failOver
  repeat' first
    | with_reducible assumption
    | with_reducible apply Keeps.modClk (bit_of hμ (by decide))
    | with_reducible apply State.put_keeps
    | with_reducible apply State.setClock_keeps (sub_of hμ (by decide))
    | exact KeepsPart.same _ _ fun _ => rfl
    | (with_reducible refine KeepsPart.intro fun x hx => ?_; simp only [Clocks.canonical, Bool.and_eq_true] at hx ⊢; simp [hx])
    | (with_reducible refine bit_of hμ ?_; first | decide | (simp (disch := decide) only [window_sel, window_die, window_arkKey, window_arkKey_add, window_keyAt, window_keyAt_add, window_wordAt, window_arkWord, window_drop, window_drop_hi, window_msix, window_srcWord, window_target, window_pendBit]; decide))
    | dsimp only

theorem State.clockFailed_keeps {μ : Nat} (hμ : 0x200000000 ||| μ = μ) {s₀ s : State} (h : Keeps μ s₀ s) :
    Keeps μ s₀ (State.clockFailed s) := by
  unfold State.clockFailed
  repeat' first
    | with_reducible assumption
    | with_reducible apply State.count_keeps
    | with_reducible apply State.raise_keeps
    | (with_reducible refine bit_of hμ ?_; first | decide | (simp (disch := decide) only [window_sel, window_die, window_arkKey, window_arkKey_add, window_keyAt, window_keyAt_add, window_wordAt, window_arkWord, window_drop, window_drop_hi, window_msix, window_srcWord, window_target, window_pendBit]; decide))
    | dsimp only

theorem State.rootFault_keeps {μ : Nat} (hμ : 0x1300200716000 ||| μ = μ) {s₀ s : State} (h : Keeps μ s₀ s) :
    Keeps μ s₀ (State.rootFault s) := by
  unfold State.rootFault
  repeat' first
    | with_reducible assumption
    | with_reducible apply State.failOver_keeps (sub_of hμ (by decide))
    | with_reducible apply State.moduleFault_keeps (sub_of hμ (by decide))
    | with_reducible apply Keeps.foldl
    | intro _ _ _
    | dsimp only

theorem State.failXtal_keeps {μ : Nat} (hμ : 0x200010000 ||| μ = μ) {s₀ s : State} (h : Keeps μ s₀ s) :
    Keeps μ s₀ (State.failXtal s) := by
  unfold State.failXtal
  repeat' first
    | with_reducible assumption
    | with_reducible apply State.clockFailed_keeps (sub_of hμ (by decide))
    | with_reducible apply State.failOver_keeps (sub_of hμ (by decide))
    | with_reducible apply State.put_keeps
    | split
    | (with_reducible refine bit_of hμ ?_; first | decide | (simp (disch := decide) only [window_sel, window_die, window_arkKey, window_arkKey_add, window_keyAt, window_keyAt_add, window_wordAt, window_arkWord, window_drop, window_drop_hi, window_msix, window_srcWord, window_target, window_pendBit]; decide))
    | dsimp only

theorem State.failIosc_keeps {μ : Nat} (hμ : 0x200000000 ||| μ = μ) {s₀ s : State} (h : Keeps μ s₀ s) :
    Keeps μ s₀ (State.failIosc s) := by
  unfold State.failIosc
  repeat' first
    | with_reducible assumption
    | with_reducible apply State.clockFailed_keeps (sub_of hμ (by decide))
    | with_reducible apply State.put_keeps
    | split
    | (with_reducible refine bit_of hμ ?_; first | decide | (simp (disch := decide) only [window_sel, window_die, window_arkKey, window_arkKey_add, window_keyAt, window_keyAt_add, window_wordAt, window_arkWord, window_drop, window_drop_hi, window_msix, window_srcWord, window_target, window_pendBit]; decide))
    | dsimp only

theorem State.failRef_keeps {μ : Nat} (hμ : 0x1300200716000 ||| μ = μ) {s₀ s : State} (h : Keeps μ s₀ s) :
    Keeps μ s₀ (State.failRef s) := by
  unfold State.failRef
  repeat' first
    | with_reducible assumption
    | with_reducible apply State.clockFailed_keeps (sub_of hμ (by decide))
    | with_reducible apply State.put_keeps
    | with_reducible apply State.rootFault_keeps (sub_of hμ (by decide))
    | split
    | (with_reducible refine bit_of hμ ?_; first | decide | (simp (disch := decide) only [window_sel, window_die, window_arkKey, window_arkKey_add, window_keyAt, window_keyAt_add, window_wordAt, window_arkWord, window_drop, window_drop_hi, window_msix, window_srcWord, window_target, window_pendBit]; decide))
    | dsimp only

theorem State.failRoot_keeps {μ : Nat} (hμ : 0x1300200716000 ||| μ = μ) {s₀ s : State} (h : Keeps μ s₀ s) :
    Keeps μ s₀ (State.failRoot s) := by
  unfold State.failRoot
  repeat' first
    | with_reducible assumption
    | with_reducible apply State.clockFailed_keeps (sub_of hμ (by decide))
    | with_reducible apply State.put_keeps
    | with_reducible apply State.rootFault_keeps (sub_of hμ (by decide))
    | split
    | (with_reducible refine bit_of hμ ?_; first | decide | (simp (disch := decide) only [window_sel, window_die, window_arkKey, window_arkKey_add, window_keyAt, window_keyAt_add, window_wordAt, window_arkWord, window_drop, window_drop_hi, window_msix, window_srcWord, window_target, window_pendBit]; decide))
    | dsimp only

theorem State.failDomain_keeps {μ : Nat} (hμ : 0x1300200716000 ||| μ = μ) {s₀ s : State} (h : Keeps μ s₀ s) (d : Nat) :
    Keeps μ s₀ (State.failDomain s d) := by
  unfold State.failDomain
  repeat' first
    | with_reducible assumption
    | with_reducible apply State.clockFailed_keeps (sub_of hμ (by decide))
    | with_reducible apply State.failOver_keeps (sub_of hμ (by decide))
    | with_reducible apply State.moduleFault_keeps (sub_of hμ (by decide))
    | split
    | dsimp only

theorem execRootPllLossOfLock_keeps (s : State) :
    KeepsOut 0x1300200716000 s (execRootPllLossOfLock s) := by
  have hμ : 0x1300200716000 ||| 0x1300200716000 = 0x1300200716000 := by decide
  unfold execRootPllLossOfLock
  repeat' first
    | with_reducible apply KeepsOut.next
    | with_reducible exact Keeps.refl _
    | with_reducible assumption
    | with_reducible apply State.failRoot_keeps (sub_of hμ (by decide))
    | with_reducible apply State.put_keeps
    | (with_reducible refine bit_of hμ ?_; first | decide | (simp (disch := decide) only [window_sel, window_die, window_arkKey, window_arkKey_add, window_keyAt, window_keyAt_add, window_wordAt, window_arkWord, window_drop, window_drop_hi, window_msix, window_srcWord, window_target, window_pendBit]; decide))
    | dsimp only

theorem execInterfacePllLossOfLock_keeps (p : IfacePll) (s : State) :
    KeepsOut 0x200000304000 s (execInterfacePllLossOfLock p s) := by
  have hμ : 0x200000304000 ||| 0x200000304000 = 0x200000304000 := by decide
  unfold execInterfacePllLossOfLock
  repeat' first
    | with_reducible apply KeepsOut.next
    | with_reducible exact Keeps.refl _
    | with_reducible assumption
    | with_reducible apply State.report_keeps (sub_of hμ (by decide))
    | split
    | dsimp only

theorem State.vote_keeps {μ : Nat} (hμ : 0x1300200716000 ||| μ = μ) {s₀ s : State} (h : Keeps μ s₀ s) :
    Keeps μ s₀ (State.vote s) := by
  unfold State.vote
  repeat' first
    | with_reducible assumption
    | with_reducible apply Keeps.modClk (bit_of hμ (by decide))
    | with_reducible apply State.failIosc_keeps (sub_of hμ (by decide))
    | with_reducible apply State.failRef_keeps (sub_of hμ (by decide))
    | with_reducible apply State.failXtal_keeps (sub_of hμ (by decide))
    | exact KeepsPart.same _ _ fun _ => rfl
    | (with_reducible refine KeepsPart.intro fun x hx => ?_; simp only [Clocks.canonical, Bool.and_eq_true] at hx ⊢; simp [hx] <;> (repeat' split) <;> simp [hx])
    | split
    | dsimp only

theorem State.domainWindow_keeps {μ : Nat} (hμ : 0x1300200716000 ||| μ = μ) {s₀ s : State} (h : Keeps μ s₀ s) (d count : Nat) :
    Keeps μ s₀ (State.domainWindow s d count) := by
  unfold State.domainWindow
  repeat' first
    | with_reducible assumption
    | with_reducible apply Keeps.modClk (bit_of hμ (by decide))
    | with_reducible apply State.count_keeps
    | with_reducible apply State.failDomain_keeps (sub_of hμ (by decide))
    | with_reducible apply State.put_keeps
    | exact KeepsPart.same _ _ fun _ => rfl
    | (with_reducible refine KeepsPart.intro fun x hx => ?_; simp only [Clocks.canonical, Bool.and_eq_true] at hx ⊢; simp [hx] <;> (repeat' split) <;> simp [hx])
    | split
    | (with_reducible refine bit_of hμ ?_; first | decide | (simp (disch := decide) only [window_sel, window_die, window_arkKey, window_arkKey_add, window_keyAt, window_keyAt_add, window_wordAt, window_arkWord, window_drop, window_drop_hi, window_msix, window_srcWord, window_target, window_pendBit]; decide))
    | dsimp only

theorem execClockMonitorWindow_keeps (m : ClockMonitor) (count : Nat) (s : State) :
    KeepsOut 0x1300200716000 s (execClockMonitorWindow m count s) := by
  have hμ : 0x1300200716000 ||| 0x1300200716000 = 0x1300200716000 := by decide
  unfold execClockMonitorWindow
  repeat' first
    | with_reducible apply KeepsOut.next
    | with_reducible exact Keeps.refl _
    | with_reducible assumption
    | with_reducible apply Keeps.modClk (bit_of hμ (by decide))
    | with_reducible apply State.count_keeps
    | with_reducible apply State.domainWindow_keeps (sub_of hμ (by decide))
    | with_reducible apply State.failRoot_keeps (sub_of hμ (by decide))
    | with_reducible apply State.vote_keeps (sub_of hμ (by decide))
    | exact KeepsPart.same _ _ fun _ => rfl
    | (with_reducible refine KeepsPart.intro fun x hx => ?_; simp only [Clocks.canonical, Bool.and_eq_true] at hx ⊢; simp [hx] <;> (repeat' split) <;> simp [hx])
    | split
    | (with_reducible refine bit_of hμ ?_; first | decide | (simp (disch := decide) only [window_sel, window_die, window_arkKey, window_arkKey_add, window_keyAt, window_keyAt_add, window_wordAt, window_arkWord, window_drop, window_drop_hi, window_msix, window_srcWord, window_target, window_pendBit]; decide))
    | dsimp only

theorem State.openModule_keeps {μ : Nat} (hμ : 0x200000000 ||| μ = μ) {s₀ s : State} (h : Keeps μ s₀ s) (d : Nat) :
    Keeps μ s₀ (State.openModule s d) := by
  unfold State.openModule
  repeat' first
    | with_reducible assumption
    | with_reducible apply State.put_keeps
    | (with_reducible refine bit_of hμ ?_; first | decide | (simp (disch := decide) only [window_sel, window_die, window_arkKey, window_arkKey_add, window_keyAt, window_keyAt_add, window_wordAt, window_arkWord, window_drop, window_drop_hi, window_msix, window_srcWord, window_target, window_pendBit]; decide))
    | dsimp only

theorem State.openDie_keeps {μ : Nat} (hμ : 0x200010000 ||| μ = μ) {s₀ s : State} (h : Keeps μ s₀ s) (d : Nat) :
    Keeps μ s₀ (State.openDie s d) := by
  unfold State.openDie
  repeat' first
    | with_reducible assumption
    | with_reducible apply Keeps.modClk (bit_of hμ (by decide))
    | with_reducible apply State.openModule_keeps (sub_of hμ (by decide))
    | exact KeepsPart.same _ _ fun _ => rfl
    | (with_reducible refine KeepsPart.intro fun x hx => ?_; simp only [Clocks.canonical, Bool.and_eq_true] at hx ⊢; simp [hx] <;> (repeat' split) <;> simp [hx])
    | split
    | dsimp only

theorem State.openTile_keeps {μ : Nat} (hμ : 0x200010000 ||| μ = μ) {s₀ s : State} (h : Keeps μ s₀ s) (die tile : Nat) :
    Keeps μ s₀ (State.openTile s die tile) := by
  unfold State.openTile
  repeat' first
    | with_reducible assumption
    | with_reducible apply Keeps.modClk (bit_of hμ (by decide))
    | with_reducible apply State.openDie_keeps (sub_of hμ (by decide))
    | with_reducible apply Keeps.foldl
    | exact KeepsPart.same _ _ fun _ => rfl
    | (with_reducible refine KeepsPart.intro fun x hx => ?_; simp only [Clocks.canonical, Bool.and_eq_true] at hx ⊢; simp [hx])
    | intro _ _ _
    | dsimp only

theorem execClockGateOpen_keeps (_req : GateRequester) (g : ClockGate) (s : State) :
    KeepsOut 0x200010000 s (execClockGateOpen _req g s) := by
  have hμ : 0x200010000 ||| 0x200010000 = 0x200010000 := by decide
  unfold execClockGateOpen
  repeat' first
    | with_reducible apply KeepsOut.next
    | with_reducible exact Keeps.refl _
    | with_reducible assumption
    | with_reducible apply State.openDie_keeps (sub_of hμ (by decide))
    | with_reducible apply State.openModule_keeps (sub_of hμ (by decide))
    | with_reducible apply State.openTile_keeps (sub_of hμ (by decide))
    | split
    | dsimp only

theorem State.refuseClose_keeps {μ : Nat} (hμ : 0x200000000 ||| μ = μ) {s₀ s : State} (h : Keeps μ s₀ s) (req level d : Nat) :
    Keeps μ s₀ (State.refuseClose s req level d) := by
  unfold State.refuseClose
  repeat' first
    | with_reducible assumption
    | with_reducible apply State.count_keeps
    | with_reducible apply State.put_keeps
    | with_reducible apply State.raise_keeps
    | (with_reducible refine bit_of hμ ?_; first | decide | (simp (disch := decide) only [window_sel, window_die, window_arkKey, window_arkKey_add, window_keyAt, window_keyAt_add, window_wordAt, window_arkWord, window_drop, window_drop_hi, window_msix, window_srcWord, window_target, window_pendBit]; decide))
    | dsimp only

theorem execClockGateClose_keeps (req : GateRequester) (g : ClockGate) (s : State) :
    KeepsOut 0x200010000 s (execClockGateClose req g s) := by
  have hμ : 0x200010000 ||| 0x200010000 = 0x200010000 := by decide
  unfold execClockGateClose
  repeat' first
    | with_reducible apply KeepsOut.next
    | with_reducible exact Keeps.refl _
    | with_reducible assumption
    | with_reducible apply Keeps.modClk (bit_of hμ (by decide))
    | with_reducible apply State.put_keeps
    | with_reducible apply State.refuseClose_keeps (sub_of hμ (by decide))
    | exact KeepsPart.same _ _ fun _ => rfl
    | (with_reducible refine KeepsPart.intro fun x hx => ?_; simp only [Clocks.canonical, Bool.and_eq_true] at hx ⊢; simp [hx] <;> (repeat' split) <;> simp [hx])
    | split
    | (with_reducible refine bit_of hμ ?_; first | decide | (simp (disch := decide) only [window_sel, window_die, window_arkKey, window_arkKey_add, window_keyAt, window_keyAt_add, window_wordAt, window_arkWord, window_drop, window_drop_hi, window_msix, window_srcWord, window_target, window_pendBit]; decide))
    | dsimp only

end Sys2Proof.Machine
end

