-- ==== Sys2Proof/Laws/KeepLinks.lean ====
section
/-!
SUPPORT. What the operations of Machine/Links.lean keep (Laws/Keeps.lean).
-/

set_option linter.all false

namespace Sys2Proof.Machine

theorem State.sendCtl_keeps {μ : Nat} (hμ : 0x402000 ||| μ = μ) {s₀ s : State} (h : Keeps μ s₀ s) (p type : Nat) (payload : List Byte) :
    Keeps μ s₀ (State.sendCtl s p type payload) := by
  unfold State.sendCtl
  repeat' first
    | with_reducible assumption
    | with_reducible apply Keeps.send (bit_of hμ (by decide))
    | with_reducible apply State.modPort_keeps (sub_of hμ (by decide))
    | dsimp only

theorem State.sendNack_keeps {μ : Nat} (hμ : 0x402000 ||| μ = μ) {s₀ s : State} (h : Keeps μ s₀ s) (p reason seq : Nat) (header : List Byte) :
    Keeps μ s₀ (State.sendNack s p reason seq header) := by
  unfold State.sendNack
  repeat' first
    | with_reducible assumption
    | with_reducible apply State.sendCtl_keeps (sub_of hμ (by decide))
    | dsimp only

theorem State.nackAt_keeps {μ : Nat} (hμ : 0x100000402000 ||| μ = μ) {s₀ s : State} (h : Keeps μ s₀ s) (p reason seq : Nat) (header : List Byte) (t : Nat) :
    Keeps μ s₀ (State.nackAt s p reason seq header t) := by
  unfold State.nackAt
  repeat' first
    | with_reducible assumption
    | with_reducible apply State.count_keeps
    | with_reducible apply State.modPort_keeps (sub_of hμ (by decide))
    | with_reducible apply State.sendNack_keeps (sub_of hμ (by decide))
    | split
    | (with_reducible refine bit_of hμ ?_; first | decide | (simp (disch := decide) only [window_sel, window_die, window_arkKey, window_arkKey_add, window_keyAt, window_keyAt_add, window_wordAt, window_arkWord, window_drop, window_drop_hi, window_msix, window_srcWord, window_target, window_pendBit]; decide))
    | dsimp only

theorem State.peerViolation_keeps {μ : Nat} (hμ : 0x300000706000 ||| μ = μ) {s₀ s : State} (h : Keeps μ s₀ s) (p reason seq : Nat) (header : List Byte) (t : Nat) :
    Keeps μ s₀ (State.peerViolation s p reason seq header t) := by
  unfold State.peerViolation
  repeat' first
    | with_reducible assumption
    | with_reducible apply State.count_keeps
    | with_reducible apply State.nackAt_keeps (sub_of hμ (by decide))
    | with_reducible apply State.raise_keeps
    | with_reducible apply State.report_keeps (sub_of hμ (by decide))
    | (with_reducible refine bit_of hμ ?_; first | decide | (simp (disch := decide) only [window_sel, window_die, window_arkKey, window_arkKey_add, window_keyAt, window_keyAt_add, window_wordAt, window_arkWord, window_drop, window_drop_hi, window_msix, window_srcWord, window_target, window_pendBit]; decide))
    | dsimp only

theorem State.takeAck_keeps {μ : Nat} (hμ : 0x100000502000 ||| μ = μ) {s₀ s : State} (h : Keeps μ s₀ s) (p : Nat) (a : Nat) :
    Keeps μ s₀ (State.takeAck s p a) := by
  unfold State.takeAck
  repeat' first
    | with_reducible assumption
    | with_reducible apply State.modPort_keeps (sub_of hμ (by decide))
    | with_reducible apply State.pump_keeps (sub_of hμ (by decide))
    | dsimp only

theorem State.takeData_keeps {μ : Nat} (hμ : 0x300000706000 ||| μ = μ) {s₀ s : State} (h : Keeps μ s₀ s) (p : Nat) (f : Frame) (t : Nat) :
    Keeps μ s₀ (State.takeData s p f t) := by
  unfold State.takeData
  repeat' first
    | with_reducible assumption
    | with_reducible apply Keeps.modLnk (bit_of hμ (by decide))
    | with_reducible apply State.modPort_keeps (sub_of hμ (by decide))
    | with_reducible apply State.peerViolation_keeps (sub_of hμ (by decide))
    | with_reducible apply State.tally_keeps (sub_of hμ (by decide))
    | exact KeepsPart.same _ _ fun _ => rfl
    | (with_reducible refine KeepsPart.intro fun x hx => ?_; simp only [Links.canonical, Bool.and_eq_true] at hx ⊢; simp [hx] <;> (repeat' split) <;> simp [hx])
    | split
    | dsimp only

theorem State.receiveData_keeps {μ : Nat} (hμ : 0x300000706000 ||| μ = μ) {s₀ s : State} (h : Keeps μ s₀ s) (p : Nat) (f : Frame) (t : Nat) :
    Keeps μ s₀ (State.receiveData s p f t) := by
  unfold State.receiveData
  repeat' first
    | with_reducible assumption
    | with_reducible apply State.peerViolation_keeps (sub_of hμ (by decide))
    | with_reducible apply State.takeData_keeps (sub_of hμ (by decide))
    | split
    | dsimp only

theorem State.resend_keeps {μ : Nat} (hμ : 0x100000502000 ||| μ = μ) {s₀ s : State} (h : Keeps μ s₀ s) (p seq : Nat) :
    Keeps μ s₀ (State.resend s p seq) := by
  unfold State.resend
  repeat' first
    | with_reducible assumption
    | with_reducible apply Keeps.send (bit_of hμ (by decide))
    | with_reducible apply State.again_keeps (sub_of hμ (by decide))
    | with_reducible apply State.count_keeps
    | with_reducible apply State.modPort_keeps (sub_of hμ (by decide))
    | with_reducible apply State.tally_keeps (sub_of hμ (by decide))
    | with_reducible apply Keeps.foldl
    | intro _ _ _
    | (with_reducible refine bit_of hμ ?_; first | decide | (simp (disch := decide) only [window_sel, window_die, window_arkKey, window_arkKey_add, window_keyAt, window_keyAt_add, window_wordAt, window_arkWord, window_drop, window_drop_hi, window_msix, window_srcWord, window_target, window_pendBit]; decide))
    | dsimp only

theorem State.takeNack_keeps {μ : Nat} (hμ : 0x100000502000 ||| μ = μ) {s₀ s : State} (h : Keeps μ s₀ s) (p : Nat) (payload : List Byte) :
    Keeps μ s₀ (State.takeNack s p payload) := by
  unfold State.takeNack
  repeat' first
    | with_reducible assumption
    | with_reducible apply State.modPort_keeps (sub_of hμ (by decide))
    | with_reducible apply State.put_keeps
    | with_reducible apply State.resend_keeps (sub_of hμ (by decide))
    | split
    | (with_reducible refine bit_of hμ ?_; first | decide | (simp (disch := decide) only [window_sel, window_die, window_arkKey, window_arkKey_add, window_keyAt, window_keyAt_add, window_wordAt, window_arkWord, window_drop, window_drop_hi, window_msix, window_srcWord, window_target, window_pendBit]; decide))
    | dsimp only

theorem State.receive_keeps {μ : Nat} (hμ : 0x300000706000 ||| μ = μ) {s₀ s : State} (h : Keeps μ s₀ s) (p : Nat) (f : Frame) (t : Nat) :
    Keeps μ s₀ (State.receive s p f t) := by
  unfold State.receive
  repeat' first
    | with_reducible assumption
    | with_reducible apply State.nackAt_keeps (sub_of hμ (by decide))
    | with_reducible apply State.peerViolation_keeps (sub_of hμ (by decide))
    | with_reducible apply State.receiveData_keeps (sub_of hμ (by decide))
    | with_reducible apply State.takeAck_keeps (sub_of hμ (by decide))
    | with_reducible apply State.takeNack_keeps (sub_of hμ (by decide))
    | split
    | dsimp only

theorem execData_keeps (port : Fin 32) (f : Frame) (at' : Nat) (s : State) :
    KeepsOut 0x300000706000 s (execData port f at' s) := by
  have hμ : 0x300000706000 ||| 0x300000706000 = 0x300000706000 := by decide
  unfold execData
  repeat' first
    | with_reducible apply KeepsOut.next
    | with_reducible exact Keeps.refl _
    | with_reducible assumption
    | with_reducible apply State.receive_keeps (sub_of hμ (by decide))
    | dsimp only

theorem execAck_keeps (port : Fin 32) (f : Frame) (at' : Nat) (s : State) :
    KeepsOut 0x300000706000 s (execAck port f at' s) := by
  have hμ : 0x300000706000 ||| 0x300000706000 = 0x300000706000 := by decide
  unfold execAck
  repeat' first
    | with_reducible apply KeepsOut.next
    | with_reducible exact Keeps.refl _
    | with_reducible assumption
    | with_reducible apply State.receive_keeps (sub_of hμ (by decide))
    | dsimp only

theorem execNack_keeps (port : Fin 32) (f : Frame) (at' : Nat) (s : State) :
    KeepsOut 0x300000706000 s (execNack port f at' s) := by
  have hμ : 0x300000706000 ||| 0x300000706000 = 0x300000706000 := by decide
  unfold execNack
  repeat' first
    | with_reducible apply KeepsOut.next
    | with_reducible exact Keeps.refl _
    | with_reducible assumption
    | with_reducible apply State.receive_keeps (sub_of hμ (by decide))
    | dsimp only

theorem execBadType_keeps (port : Fin 32) (f : Frame) (at' : Nat) (s : State) :
    KeepsOut 0x300000706000 s (execBadType port f at' s) := by
  have hμ : 0x300000706000 ||| 0x300000706000 = 0x300000706000 := by decide
  unfold execBadType
  repeat' first
    | with_reducible apply KeepsOut.next
    | with_reducible exact Keeps.refl _
    | with_reducible assumption
    | with_reducible apply State.receive_keeps (sub_of hμ (by decide))
    | dsimp only

theorem execIdle_keeps (_port : Fin 32) (s : State) :
    KeepsOut 0x0 s (execIdle _port s) := by
  have hμ : 0x0 ||| 0x0 = 0x0 := by decide
  unfold execIdle
  repeat' first
    | with_reducible apply KeepsOut.next
    | with_reducible exact Keeps.refl _
    | with_reducible assumption
    | dsimp only

theorem execAckTimer_keeps (port : Fin 32) (s : State) :
    KeepsOut 0x402000 s (execAckTimer port s) := by
  have hμ : 0x402000 ||| 0x402000 = 0x402000 := by decide
  unfold execAckTimer
  repeat' first
    | with_reducible apply KeepsOut.next
    | with_reducible exact Keeps.refl _
    | with_reducible assumption
    | with_reducible apply State.sendCtl_keeps (sub_of hμ (by decide))
    | split
    | dsimp only

theorem State.portToDown_keeps {μ : Nat} (hμ : 0x300000306000 ||| μ = μ) {s₀ s : State} (h : Keeps μ s₀ s) (p : Nat) :
    Keeps μ s₀ (State.portToDown s p) := by
  unfold State.portToDown
  repeat' first
    | with_reducible assumption
    | with_reducible apply State.modPort_keeps (sub_of hμ (by decide))
    | with_reducible apply State.put_keeps
    | with_reducible apply State.raise_keeps
    | with_reducible apply State.report_keeps (sub_of hμ (by decide))
    | (with_reducible refine bit_of hμ ?_; first | decide | (simp (disch := decide) only [window_sel, window_die, window_arkKey, window_arkKey_add, window_keyAt, window_keyAt_add, window_wordAt, window_arkWord, window_drop, window_drop_hi, window_msix, window_srcWord, window_target, window_pendBit]; decide))
    | dsimp only

theorem State.sendHello_keeps {μ : Nat} (hμ : 0x402000 ||| μ = μ) {s₀ s : State} (h : Keeps μ s₀ s) (p : Nat) :
    Keeps μ s₀ (State.sendHello s p) := by
  unfold State.sendHello
  repeat' first
    | with_reducible assumption
    | with_reducible apply State.sendCtl_keeps (sub_of hμ (by decide))
    | split
    | dsimp only

theorem State.startPort_keeps {μ : Nat} (hμ : 0x100000002000 ||| μ = μ) {s₀ s : State} (h : Keeps μ s₀ s) (p : Nat) :
    Keeps μ s₀ (State.startPort s p) := by
  unfold State.startPort
  repeat' first
    | with_reducible assumption
    | with_reducible apply State.modPort_keeps (sub_of hμ (by decide))
    | with_reducible apply State.put_keeps
    | split
    | (with_reducible refine bit_of hμ ?_; first | decide | (simp (disch := decide) only [window_sel, window_die, window_arkKey, window_arkKey_add, window_keyAt, window_keyAt_add, window_wordAt, window_arkWord, window_drop, window_drop_hi, window_msix, window_srcWord, window_target, window_pendBit]; decide))
    | dsimp only

theorem State.portStage_keeps {μ : Nat} (hμ : 0x300000706000 ||| μ = μ) {s₀ s : State} (h : Keeps μ s₀ s) (p : Nat) (lanes : BitVec 5) :
    Keeps μ s₀ (State.portStage s p lanes) := by
  unfold State.portStage
  repeat' first
    | with_reducible assumption
    | with_reducible apply State.modPort_keeps (sub_of hμ (by decide))
    | with_reducible apply State.portToDown_keeps (sub_of hμ (by decide))
    | with_reducible apply State.put_keeps
    | with_reducible apply State.raise_keeps
    | with_reducible apply State.sendHello_keeps (sub_of hμ (by decide))
    | split
    | (with_reducible refine bit_of hμ ?_; first | decide | (simp (disch := decide) only [window_sel, window_die, window_arkKey, window_arkKey_add, window_keyAt, window_keyAt_add, window_wordAt, window_arkWord, window_drop, window_drop_hi, window_msix, window_srcWord, window_target, window_pendBit]; decide))
    | dsimp only

theorem execPortBringupStageDone_keeps (port : Fin 32) (lanes : BitVec 5) (s : State) :
    KeepsOut 0x300000706000 s (execPortBringupStageDone port lanes s) := by
  have hμ : 0x300000706000 ||| 0x300000706000 = 0x300000706000 := by decide
  unfold execPortBringupStageDone
  repeat' first
    | with_reducible apply KeepsOut.next
    | with_reducible exact Keeps.refl _
    | with_reducible assumption
    | with_reducible apply State.portStage_keeps (sub_of hμ (by decide))
    | dsimp only

theorem execPortBringupRetry_keeps (port : Fin 32) (s : State) :
    KeepsOut 0x100000002000 s (execPortBringupRetry port s) := by
  have hμ : 0x100000002000 ||| 0x100000002000 = 0x100000002000 := by decide
  unfold execPortBringupRetry
  repeat' first
    | with_reducible apply KeepsOut.next
    | with_reducible exact Keeps.refl _
    | with_reducible assumption
    | with_reducible apply State.startPort_keeps (sub_of hμ (by decide))
    | split
    | dsimp only

theorem State.takeHello_keeps {μ : Nat} (hμ : 0x300000706000 ||| μ = μ) {s₀ s : State} (h : Keeps μ s₀ s) (p : Nat) (h : HelloPayload) (t : Nat) :
    Keeps μ s₀ (State.takeHello s p h t) := by
  unfold State.takeHello
  repeat' first
    | with_reducible assumption
    | with_reducible apply State.modPort_keeps (sub_of hμ (by decide))
    | with_reducible apply State.peerViolation_keeps (sub_of hμ (by decide))
    | with_reducible apply State.put_keeps
    | with_reducible apply State.raise_keeps
    | split
    | (with_reducible refine bit_of hμ ?_; first | decide | (simp (disch := decide) only [window_sel, window_die, window_arkKey, window_arkKey_add, window_keyAt, window_keyAt_add, window_wordAt, window_arkWord, window_drop, window_drop_hi, window_msix, window_srcWord, window_target, window_pendBit]; decide))
    | dsimp only

theorem execHello_keeps (port : Fin 32) (p : HelloPayload) (at' : Nat) (s : State) :
    KeepsOut 0x300000706000 s (execHello port p at' s) := by
  have hμ : 0x300000706000 ||| 0x300000706000 = 0x300000706000 := by decide
  unfold execHello
  repeat' first
    | with_reducible apply KeepsOut.next
    | with_reducible exact Keeps.refl _
    | with_reducible assumption
    | with_reducible apply State.takeHello_keeps (sub_of hμ (by decide))
    | dsimp only

theorem execPortDown_keeps (port : Fin 32) (cause : PortDownCause) (s : State) :
    KeepsOut 0x300000306000 s (execPortDown port cause s) := by
  have hμ : 0x300000306000 ||| 0x300000306000 = 0x300000306000 := by decide
  unfold execPortDown
  repeat' first
    | with_reducible apply KeepsOut.next
    | with_reducible exact Keeps.refl _
    | with_reducible assumption
    | with_reducible apply State.portToDown_keeps (sub_of hμ (by decide))
    | split
    | dsimp only

theorem State.failLane_keeps {μ : Nat} (hμ : 0x200000706000 ||| μ = μ) {s₀ s : State} (h : Keeps μ s₀ s) (p w : Nat) :
    Keeps μ s₀ (State.failLane s p w) := by
  unfold State.failLane
  repeat' first
    | with_reducible assumption
    | with_reducible apply Keeps.send (bit_of hμ (by decide))
    | with_reducible apply State.modPort_keeps (sub_of hμ (by decide))
    | with_reducible apply State.report_keeps (sub_of hμ (by decide))
    | split
    | dsimp only

theorem execLaneFailure_keeps (port : Fin 32) (wavelength : Fin 5) (s : State) :
    KeepsOut 0x200000706000 s (execLaneFailure port wavelength s) := by
  have hμ : 0x200000706000 ||| 0x200000706000 = 0x200000706000 := by decide
  unfold execLaneFailure
  repeat' first
    | with_reducible apply KeepsOut.next
    | with_reducible exact Keeps.refl _
    | with_reducible assumption
    | with_reducible apply State.failLane_keeps (sub_of hμ (by decide))
    | split
    | dsimp only

theorem execLane_keeps (port : Fin 32) (map : BitVec 5) (s : State) :
    KeepsOut 0x2000 s (execLane port map s) := by
  have hμ : 0x2000 ||| 0x2000 = 0x2000 := by decide
  unfold execLane
  repeat' first
    | with_reducible apply KeepsOut.next
    | with_reducible exact Keeps.refl _
    | with_reducible assumption
    | with_reducible apply State.modPort_keeps (sub_of hμ (by decide))
    | split
    | dsimp only

theorem execDegradedLock_keeps (port : Fin 32) (s : State) :
    KeepsOut 0x100000402000 s (execDegradedLock port s) := by
  have hμ : 0x100000402000 ||| 0x100000402000 = 0x100000402000 := by decide
  unfold execDegradedLock
  repeat' first
    | with_reducible apply KeepsOut.next
    | with_reducible exact Keeps.refl _
    | with_reducible assumption
    | with_reducible apply State.put_keeps
    | with_reducible apply State.raise_keeps
    | with_reducible apply State.sendNack_keeps (sub_of hμ (by decide))
    | split
    | (with_reducible refine bit_of hμ ?_; first | decide | (simp (disch := decide) only [window_sel, window_die, window_arkKey, window_arkKey_add, window_keyAt, window_keyAt_add, window_wordAt, window_arkWord, window_drop, window_drop_hi, window_msix, window_srcWord, window_target, window_pendBit]; decide))
    | dsimp only

theorem execSpareLaneRestore_keeps (port : Fin 32) (map : BitVec 5) (s : State) :
    KeepsOut 0x100000400000 s (execSpareLaneRestore port map s) := by
  have hμ : 0x100000400000 ||| 0x100000400000 = 0x100000400000 := by decide
  unfold execSpareLaneRestore
  repeat' first
    | with_reducible apply KeepsOut.next
    | with_reducible exact Keeps.refl _
    | with_reducible assumption
    | with_reducible apply Keeps.send (bit_of hμ (by decide))
    | with_reducible apply State.put_keeps
    | split
    | (with_reducible refine bit_of hμ ?_; first | decide | (simp (disch := decide) only [window_sel, window_die, window_arkKey, window_arkKey_add, window_keyAt, window_keyAt_add, window_wordAt, window_arkWord, window_drop, window_drop_hi, window_msix, window_srcWord, window_target, window_pendBit]; decide))
    | dsimp only

theorem State.followRoot_keeps {μ : Nat} (hμ : 0x100000000000 ||| μ = μ) {s₀ s : State} (h : Keeps μ s₀ s) :
    Keeps μ s₀ (State.followRoot s) := by
  unfold State.followRoot
  repeat' first
    | with_reducible assumption
    | with_reducible apply State.put_keeps
    | split
    | (with_reducible refine bit_of hμ ?_; first | decide | (simp (disch := decide) only [window_sel, window_die, window_arkKey, window_arkKey_add, window_keyAt, window_keyAt_add, window_wordAt, window_arkWord, window_drop, window_drop_hi, window_msix, window_srcWord, window_target, window_pendBit]; decide))
    | dsimp only

theorem State.freeTrim_keeps {μ : Nat} (hμ : 0x200200000 ||| μ = μ) {s₀ s : State} (h : Keeps μ s₀ s) :
    Keeps μ s₀ (State.freeTrim s) := by
  unfold State.freeTrim
  repeat' first
    | with_reducible assumption
    | with_reducible apply Keeps.draw (bit_of hμ (by decide))
    | with_reducible apply State.put_keeps
    | (with_reducible refine bit_of hμ ?_; first | decide | (simp (disch := decide) only [window_sel, window_die, window_arkKey, window_arkKey_add, window_keyAt, window_keyAt_add, window_wordAt, window_arkWord, window_drop, window_drop_hi, window_msix, window_srcWord, window_target, window_pendBit]; decide))
    | dsimp only

theorem State.steer_keeps {μ : Nat} (hμ : 0x100200202000 ||| μ = μ) {s₀ s : State} (h : Keeps μ s₀ s) (th : Int) (t4 : Nat) :
    Keeps μ s₀ (State.steer s th t4) := by
  unfold State.steer
  repeat' first
    | with_reducible assumption
    | with_reducible apply Keeps.modLnk (bit_of hμ (by decide))
    | with_reducible apply State.freeTrim_keeps (sub_of hμ (by decide))
    | with_reducible apply State.putB_keeps
    | with_reducible apply State.put_keeps
    | with_reducible apply State.raise_keeps
    | with_reducible apply State.wr64_keeps
    | exact KeepsPart.same _ _ fun _ => rfl
    | (with_reducible refine KeepsPart.intro fun x hx => ?_; simp only [Links.canonical, Bool.and_eq_true] at hx ⊢; simp [hx] <;> (repeat' split) <;> simp [hx])
    | split
    | (with_reducible refine bit_of hμ ?_; first | decide | (simp (disch := decide) only [window_sel, window_die, window_arkKey, window_arkKey_add, window_keyAt, window_keyAt_add, window_wordAt, window_arkWord, window_drop, window_drop_hi, window_msix, window_srcWord, window_target, window_pendBit]; decide))
    | dsimp only

theorem State.takeTime_keeps {μ : Nat} (hμ : 0x100200202000 ||| μ = μ) {s₀ s : State} (h : Keeps μ s₀ s) (p : Nat) (t : TimePayload) :
    Keeps μ s₀ (State.takeTime s p t) := by
  unfold State.takeTime
  repeat' first
    | with_reducible assumption
    | with_reducible apply Keeps.wr
    | with_reducible apply State.followRoot_keeps (sub_of hμ (by decide))
    | with_reducible apply State.modPort_keeps (sub_of hμ (by decide))
    | with_reducible apply State.steer_keeps (sub_of hμ (by decide))
    | split
    | (with_reducible refine bit_of hμ ?_; first | decide | (simp (disch := decide) only [window_sel, window_die, window_arkKey, window_arkKey_add, window_keyAt, window_keyAt_add, window_wordAt, window_arkWord, window_drop, window_drop_hi, window_msix, window_srcWord, window_target, window_pendBit]; decide))
    | dsimp only

theorem execTime_keeps (port : Fin 32) (t : TimePayload) (s : State) :
    KeepsOut 0x100200202000 s (execTime port t s) := by
  have hμ : 0x100200202000 ||| 0x100200202000 = 0x100200202000 := by decide
  unfold execTime
  repeat' first
    | with_reducible apply KeepsOut.next
    | with_reducible exact Keeps.refl _
    | with_reducible assumption
    | with_reducible apply State.takeTime_keeps (sub_of hμ (by decide))
    | split
    | dsimp only

theorem execTimeFrameTimer_keeps (port : Fin 32) (s : State) :
    KeepsOut 0x402000 s (execTimeFrameTimer port s) := by
  have hμ : 0x402000 ||| 0x402000 = 0x402000 := by decide
  unfold execTimeFrameTimer
  repeat' first
    | with_reducible apply KeepsOut.next
    | with_reducible exact Keeps.refl _
    | with_reducible assumption
    | with_reducible apply State.sendCtl_keeps (sub_of hμ (by decide))
    | split
    | dsimp only

theorem State.logGop_keeps {μ : Nat} (hμ : 0x2000 ||| μ = μ) {s₀ s : State} (h : Keeps μ s₀ s) (x : GopHeld) :
    Keeps μ s₀ (State.logGop s x) := by
  unfold State.logGop
  repeat' first
    | with_reducible assumption
    | with_reducible apply Keeps.modLnk (bit_of hμ (by decide))
    | exact KeepsPart.same _ _ fun _ => rfl
    | (with_reducible refine KeepsPart.intro fun x hx => ?_; simp only [Links.canonical, Bool.and_eq_true] at hx ⊢; simp [hx])
    | dsimp only

theorem State.announce_keeps {μ : Nat} (hμ : 0x402000 ||| μ = μ) {s₀ s : State} (h : Keeps μ s₀ s) (g : GopPayload) (but : Option Nat) :
    Keeps μ s₀ (State.announce s g but) := by
  unfold State.announce
  repeat' first
    | with_reducible assumption
    | with_reducible apply State.sendCtl_keeps (sub_of hμ (by decide))
    | with_reducible apply Keeps.foldl
    | intro _ _ _
    | dsimp only

theorem State.lateGop_keeps {μ : Nat} (hμ : 0x300000306000 ||| μ = μ) {s₀ s : State} (h : Keeps μ s₀ s) (g : GopPayload) :
    Keeps μ s₀ (State.lateGop s g) := by
  unfold State.lateGop
  repeat' first
    | with_reducible assumption
    | with_reducible apply Keeps.modLnk (bit_of hμ (by decide))
    | with_reducible apply State.count_keeps
    | with_reducible apply State.logGop_keeps (sub_of hμ (by decide))
    | with_reducible apply State.raise_keeps
    | with_reducible apply State.report_keeps (sub_of hμ (by decide))
    | exact KeepsPart.same _ _ fun _ => rfl
    | (with_reducible refine KeepsPart.intro fun x hx => ?_; simp only [Links.canonical, Bool.and_eq_true] at hx ⊢; simp [hx] <;> (repeat' split) <;> simp [hx])
    | split
    | (with_reducible refine bit_of hμ ?_; first | decide | (simp (disch := decide) only [window_sel, window_die, window_arkKey, window_arkKey_add, window_keyAt, window_keyAt_add, window_wordAt, window_arkWord, window_drop, window_drop_hi, window_msix, window_srcWord, window_target, window_pendBit]; decide))
    | dsimp only

theorem State.holdGop_keeps {μ : Nat} (hμ : 0x300000306000 ||| μ = μ) {s₀ s : State} (h : Keeps μ s₀ s) (g : GopPayload) :
    Keeps μ s₀ (State.holdGop s g) := by
  unfold State.holdGop
  repeat' first
    | with_reducible assumption
    | with_reducible apply Keeps.modLnk (bit_of hμ (by decide))
    | with_reducible apply State.lateGop_keeps (sub_of hμ (by decide))
    | exact KeepsPart.same _ _ fun _ => rfl
    | (with_reducible refine KeepsPart.intro fun x hx => ?_; simp only [Links.canonical, Bool.and_eq_true] at hx ⊢; simp [hx] <;> (repeat' split) <;> simp [hx])
    | split
    | dsimp only

theorem State.takeGop_keeps {μ : Nat} (hμ : 0x300000706000 ||| μ = μ) {s₀ s : State} (h : Keeps μ s₀ s) (p : Nat) (g : GopPayload) (t : Nat) :
    Keeps μ s₀ (State.takeGop s p g t) := by
  unfold State.takeGop
  repeat' first
    | with_reducible assumption
    | with_reducible apply Keeps.modLnk (bit_of hμ (by decide))
    | with_reducible apply State.announce_keeps (sub_of hμ (by decide))
    | with_reducible apply State.count_keeps
    | with_reducible apply State.holdGop_keeps (sub_of hμ (by decide))
    | with_reducible apply State.peerViolation_keeps (sub_of hμ (by decide))
    | with_reducible apply State.put_keeps
    | exact KeepsPart.same _ _ fun _ => rfl
    | (with_reducible refine KeepsPart.intro fun x hx => ?_; simp only [Links.canonical, Bool.and_eq_true] at hx ⊢; simp [hx] <;> (repeat' split) <;> simp [hx])
    | split
    | (with_reducible refine bit_of hμ ?_; first | decide | (simp (disch := decide) only [window_sel, window_die, window_arkKey, window_arkKey_add, window_keyAt, window_keyAt_add, window_wordAt, window_arkWord, window_drop, window_drop_hi, window_msix, window_srcWord, window_target, window_pendBit]; decide))
    | dsimp only

theorem execGop_keeps (port : Fin 32) (g : GopPayload) (at' : Nat) (s : State) :
    KeepsOut 0x300000706000 s (execGop port g at' s) := by
  have hμ : 0x300000706000 ||| 0x300000706000 = 0x300000706000 := by decide
  unfold execGop
  repeat' first
    | with_reducible apply KeepsOut.next
    | with_reducible exact Keeps.refl _
    | with_reducible assumption
    | with_reducible apply State.takeGop_keeps (sub_of hμ (by decide))
    | split
    | dsimp only

theorem State.originate_keeps {μ : Nat} (hμ : 0x300000706000 ||| μ = μ) {s₀ s : State} (h : Keeps μ s₀ s) (op scope target : Nat) (arg : Nat) (data : List Byte) :
    Keeps μ s₀ (State.originate s op scope target arg data) := by
  unfold State.originate
  repeat' first
    | with_reducible assumption
    | with_reducible apply Keeps.modLnk (bit_of hμ (by decide))
    | with_reducible apply State.announce_keeps (sub_of hμ (by decide))
    | with_reducible apply State.holdGop_keeps (sub_of hμ (by decide))
    | with_reducible apply State.put_keeps
    | exact KeepsPart.same _ _ fun _ => rfl
    | (with_reducible refine KeepsPart.intro fun x hx => ?_; simp only [Links.canonical, Bool.and_eq_true] at hx ⊢; simp [hx])
    | (with_reducible refine bit_of hμ ?_; first | decide | (simp (disch := decide) only [window_sel, window_die, window_arkKey, window_arkKey_add, window_keyAt, window_keyAt_add, window_wordAt, window_arkWord, window_drop, window_drop_hi, window_msix, window_srcWord, window_target, window_pendBit]; decide))
    | dsimp only

theorem State.writeGopCtl_keeps {μ : Nat} (hμ : 0x308000706000 ||| μ = μ) {s₀ s : State} (h : Keeps μ s₀ s) (v : Word) :
    Keeps μ s₀ (State.writeGopCtl s v) := by
  unfold State.writeGopCtl
  repeat' first
    | with_reducible assumption
    | with_reducible apply State.originate_keeps (sub_of hμ (by decide))
    | with_reducible apply State.put_keeps
    | with_reducible apply State.violation_keeps (sub_of hμ (by decide))
    | split
    | (with_reducible refine bit_of hμ ?_; first | decide | (simp (disch := decide) only [window_sel, window_die, window_arkKey, window_arkKey_add, window_keyAt, window_keyAt_add, window_wordAt, window_arkWord, window_drop, window_drop_hi, window_msix, window_srcWord, window_target, window_pendBit]; decide))
    | dsimp only

theorem execGopBarrier_keeps (v : Word) (s : State) :
    KeepsOut 0x308000706000 s (execGopBarrier v s) := by
  have hμ : 0x308000706000 ||| 0x308000706000 = 0x308000706000 := by decide
  unfold execGopBarrier
  repeat' first
    | with_reducible apply KeepsOut.next
    | with_reducible exact Keeps.refl _
    | with_reducible assumption
    | with_reducible apply State.undecoded_keeps (sub_of hμ (by decide))
    | with_reducible apply State.writeGopCtl_keeps (sub_of hμ (by decide))
    | split
    | dsimp only

theorem execGopSnapshot_keeps (v : Word) (s : State) :
    KeepsOut 0x308000706000 s (execGopSnapshot v s) := by
  have hμ : 0x308000706000 ||| 0x308000706000 = 0x308000706000 := by decide
  unfold execGopSnapshot
  repeat' first
    | with_reducible apply KeepsOut.next
    | with_reducible exact Keeps.refl _
    | with_reducible assumption
    | with_reducible apply State.undecoded_keeps (sub_of hμ (by decide))
    | with_reducible apply State.writeGopCtl_keeps (sub_of hμ (by decide))
    | split
    | dsimp only

theorem execGopBroadcast_keeps (v : Word) (s : State) :
    KeepsOut 0x308000706000 s (execGopBroadcast v s) := by
  have hμ : 0x308000706000 ||| 0x308000706000 = 0x308000706000 := by decide
  unfold execGopBroadcast
  repeat' first
    | with_reducible apply KeepsOut.next
    | with_reducible exact Keeps.refl _
    | with_reducible assumption
    | with_reducible apply State.undecoded_keeps (sub_of hμ (by decide))
    | with_reducible apply State.writeGopCtl_keeps (sub_of hμ (by decide))
    | split
    | dsimp only

theorem execGopReset_keeps (v : Word) (s : State) :
    KeepsOut 0x308000706000 s (execGopReset v s) := by
  have hμ : 0x308000706000 ||| 0x308000706000 = 0x308000706000 := by decide
  unfold execGopReset
  repeat' first
    | with_reducible apply KeepsOut.next
    | with_reducible exact Keeps.refl _
    | with_reducible assumption
    | with_reducible apply State.undecoded_keeps (sub_of hμ (by decide))
    | with_reducible apply State.writeGopCtl_keeps (sub_of hμ (by decide))
    | split
    | dsimp only

theorem execGopStretchRefused_keeps (v : Word) (s : State) :
    KeepsOut 0x308000706000 s (execGopStretchRefused v s) := by
  have hμ : 0x308000706000 ||| 0x308000706000 = 0x308000706000 := by decide
  unfold execGopStretchRefused
  repeat' first
    | with_reducible apply KeepsOut.next
    | with_reducible exact Keeps.refl _
    | with_reducible assumption
    | with_reducible apply State.undecoded_keeps (sub_of hμ (by decide))
    | with_reducible apply State.writeGopCtl_keeps (sub_of hμ (by decide))
    | split
    | dsimp only

theorem State.applyReset_keeps {μ : Nat} (hμ : 0x1102400286400 ||| μ = μ) {s₀ s : State} (h : Keeps μ s₀ s) (arg : Nat) :
    Keeps μ s₀ (State.applyReset s arg) := by
  unfold State.applyReset
  repeat' first
    | with_reducible assumption
    | with_reducible apply State.haltLatch_keeps (sub_of hμ (by decide))
    | with_reducible apply State.startPort_keeps (sub_of hμ (by decide))
    | with_reducible apply Keeps.foldl
    | split
    | intro _ _ _
    | dsimp only

theorem State.applySnapshot_keeps {μ : Nat} (hμ : 0x800000104000 ||| μ = μ) {s₀ s : State} (h : Keeps μ s₀ s) (n arg : Nat) :
    Keeps μ s₀ (State.applySnapshot s n arg) := by
  unfold State.applySnapshot
  repeat' first
    | with_reducible assumption
    | with_reducible apply State.dueCkpts_keeps (sub_of hμ (by decide))
    | with_reducible apply State.globalSnapshot_keeps (sub_of hμ (by decide))
    | split
    | dsimp only

theorem State.applyGops_keeps {μ : Nat} (hμ : 0x1902400386400 ||| μ = μ) {s₀ s : State} (h : Keeps μ s₀ s) (n : Nat) :
    Keeps μ s₀ (State.applyGops s n) := by
  unfold State.applyGops
  repeat' first
    | with_reducible assumption
    | with_reducible apply Keeps.modLnk (bit_of hμ (by decide))
    | with_reducible apply State.applyReset_keeps (sub_of hμ (by decide))
    | with_reducible apply State.applySnapshot_keeps (sub_of hμ (by decide))
    | with_reducible apply State.logGop_keeps (sub_of hμ (by decide))
    | with_reducible apply State.raise_keeps
    | with_reducible apply Keeps.foldl
    | exact KeepsPart.same _ _ fun _ => rfl
    | (with_reducible refine KeepsPart.intro fun x hx => ?_; simp only [Links.canonical, Bool.and_eq_true] at hx ⊢; simp [hx] <;> (repeat' split) <;> simp [hx])
    | split
    | intro _ _ _
    | (with_reducible refine bit_of hμ ?_; first | decide | (simp (disch := decide) only [window_sel, window_die, window_arkKey, window_arkKey_add, window_keyAt, window_keyAt_add, window_wordAt, window_arkWord, window_drop, window_drop_hi, window_msix, window_srcWord, window_target, window_pendBit]; decide))
    | dsimp only

end Sys2Proof.Machine
end

