-- ==== Sys2Proof/Laws/KeepLoader.lean ====
section
/-!
SUPPORT. What the operations of Machine/Loader.lean keep (Laws/Keeps.lean).
-/

set_option linter.all false

namespace Sys2Proof.Machine

theorem State.setSlot_keeps {μ : Nat} (hμ : 0x80000000000 ||| μ = μ) {s₀ s : State} (h : Keeps μ s₀ s) (m n : Nat) :
    Keeps μ s₀ (State.setSlot s m n) := by
  unfold State.setSlot
  repeat' first
    | with_reducible assumption
    | with_reducible apply State.put_keeps
    | (with_reducible refine bit_of hμ ?_; first | decide | (simp (disch := decide) only [window_sel, window_die, window_arkKey, window_arkKey_add, window_keyAt, window_keyAt_add, window_wordAt, window_arkWord, window_drop, window_drop_hi, window_msix, window_srcWord, window_target, window_pendBit]; decide))
    | dsimp only

theorem State.modOp_keeps {μ : Nat} (hμ : 0x1000 ||| μ = μ) {s₀ s : State} (h : Keeps μ s₀ s) (f : LdrOp → LdrOp) :
    Keeps μ s₀ (State.modOp s f) := by
  unfold State.modOp
  repeat' first
    | with_reducible assumption
    | with_reducible apply Keeps.modLdr (bit_of hμ (by decide))
    | exact KeepsPart.same _ _ fun _ => rfl
    | (with_reducible refine KeepsPart.intro fun x hx => ?_; simp only [Loader.canonical, Bool.and_eq_true] at hx ⊢; simp [hx])
    | dsimp only

theorem State.endLoad_keeps {μ : Nat} (hμ : 0x80000001000 ||| μ = μ) {s₀ s : State} (h : Keeps μ s₀ s) (code : Nat) :
    Keeps μ s₀ (State.endLoad s code) := by
  unfold State.endLoad
  repeat' first
    | with_reducible assumption
    | with_reducible apply Keeps.modLdr (bit_of hμ (by decide))
    | with_reducible apply State.put_keeps
    | with_reducible apply State.raise_keeps
    | exact KeepsPart.same _ _ fun _ => rfl
    | (with_reducible refine KeepsPart.intro fun x hx => ?_; simp only [Loader.canonical, Bool.and_eq_true] at hx ⊢; simp [hx] <;> (repeat' split) <;> simp [hx])
    | split
    | (with_reducible refine bit_of hμ ?_; first | decide | (simp (disch := decide) only [window_sel, window_die, window_arkKey, window_arkKey_add, window_keyAt, window_keyAt_add, window_wordAt, window_arkWord, window_drop, window_drop_hi, window_msix, window_srcWord, window_target, window_pendBit]; decide))
    | dsimp only

theorem State.openTiles_keeps {μ : Nat} (hμ : 0x2000004280 ||| μ = μ) {s₀ s : State} (h : Keeps μ s₀ s) (ps : List (Nat × Nat)) :
    Keeps μ s₀ (State.openTiles s ps) := by
  unfold State.openTiles
  repeat' first
    | with_reducible assumption
    | with_reducible apply State.modTile_keeps (sub_of hμ (by decide))
    | with_reducible apply State.returnUnits_keeps (sub_of hμ (by decide))
    | with_reducible apply Keeps.foldl
    | split
    | intro _ _ _
    | dsimp only

theorem State.failLoad_keeps {μ : Nat} (hμ : 0x82000105ad0 ||| μ = μ) {s₀ s : State} (h : Keeps μ s₀ s) (code : Nat) :
    Keeps μ s₀ (State.failLoad s code) := by
  unfold State.failLoad
  repeat' first
    | with_reducible assumption
    | with_reducible apply Keeps.modLdr (bit_of hμ (by decide))
    | with_reducible apply State.endLoad_keeps (sub_of hμ (by decide))
    | with_reducible apply State.modOp_keeps (sub_of hμ (by decide))
    | with_reducible apply State.openTiles_keeps (sub_of hμ (by decide))
    | with_reducible apply State.put_keeps
    | with_reducible apply State.release_keeps (sub_of hμ (by decide))
    | with_reducible apply State.setSlot_keeps (sub_of hμ (by decide))
    | exact KeepsPart.same _ _ fun _ => rfl
    | (with_reducible refine KeepsPart.intro fun x hx => ?_; simp only [Loader.canonical, Bool.and_eq_true] at hx ⊢; simp [hx] <;> (repeat' split) <;> simp [hx])
    | split
    | (with_reducible refine bit_of hμ ?_; first | decide | (simp (disch := decide) only [window_sel, window_die, window_arkKey, window_arkKey_add, window_keyAt, window_keyAt_add, window_wordAt, window_arkWord, window_drop, window_drop_hi, window_msix, window_srcWord, window_target, window_pendBit]; decide))
    | dsimp only

theorem State.abortLoad_keeps {μ : Nat} (hμ : 0x82000105ad0 ||| μ = μ) {s₀ s : State} (h : Keeps μ s₀ s) :
    Keeps μ s₀ (State.abortLoad s) := by
  unfold State.abortLoad
  repeat' first
    | with_reducible assumption
    | with_reducible apply State.failLoad_keeps (sub_of hμ (by decide))
    | dsimp only

theorem State.drainSets_keeps {μ : Nat} (hμ : 0x800 ||| μ = μ) {s₀ s : State} (h : Keeps μ s₀ s) (m : Nat) :
    Keeps μ s₀ (State.drainSets s m) := by
  unfold State.drainSets
  repeat' first
    | with_reducible assumption
    | with_reducible apply State.putWax_keeps (sub_of hμ (by decide))
    | with_reducible apply State.waxSettle_keeps (sub_of hμ (by decide))
    | with_reducible apply Keeps.foldl
    | split
    | intro _ _ _
    | dsimp only

theorem State.startLoad_keeps {μ : Nat} (hμ : 0x80000101850 ||| μ = μ) {s₀ s : State} (h : Keeps μ s₀ s) :
    Keeps μ s₀ (State.startLoad s) := by
  unfold State.startLoad
  repeat' first
    | with_reducible assumption
    | with_reducible apply Keeps.modLdr (bit_of hμ (by decide))
    | with_reducible apply State.drainSets_keeps (sub_of hμ (by decide))
    | with_reducible apply State.put_keeps
    | with_reducible apply State.raise_keeps
    | with_reducible apply State.release_keeps (sub_of hμ (by decide))
    | with_reducible apply State.setSlot_keeps (sub_of hμ (by decide))
    | with_reducible apply State.wr64_keeps
    | exact KeepsPart.same _ _ fun _ => rfl
    | (with_reducible refine KeepsPart.intro fun x hx => ?_; simp only [Loader.canonical, Bool.and_eq_true] at hx ⊢; simp [hx] <;> (repeat' split) <;> simp [hx])
    | split
    | (with_reducible refine bit_of hμ ?_; first | decide | (simp (disch := decide) only [window_sel, window_die, window_arkKey, window_arkKey_add, window_keyAt, window_keyAt_add, window_wordAt, window_arkWord, window_drop, window_drop_hi, window_msix, window_srcWord, window_target, window_pendBit]; decide))
    | dsimp only

theorem State.writeLdrCtl_keeps {μ : Nat} (hμ : 0x28a000305ad0 ||| μ = μ) {s₀ s : State} (h : Keeps μ s₀ s) (req : Nat) (v : Word) :
    Keeps μ s₀ (State.writeLdrCtl s req v) := by
  unfold State.writeLdrCtl
  repeat' first
    | with_reducible assumption
    | with_reducible apply State.abortLoad_keeps (sub_of hμ (by decide))
    | with_reducible apply State.put_keeps
    | with_reducible apply State.startLoad_keeps (sub_of hμ (by decide))
    | with_reducible apply State.violation_keeps (sub_of hμ (by decide))
    | split
    | (with_reducible refine bit_of hμ ?_; first | decide | (simp (disch := decide) only [window_sel, window_die, window_arkKey, window_arkKey_add, window_keyAt, window_keyAt_add, window_wordAt, window_arkWord, window_drop, window_drop_hi, window_msix, window_srcWord, window_target, window_pendBit]; decide))
    | dsimp only

theorem execLdrLoad_keeps (v : Word) (s : State) :
    KeepsOut 0x28a000305ad0 s (execLdrLoad v s) := by
  have hμ : 0x28a000305ad0 ||| 0x28a000305ad0 = 0x28a000305ad0 := by decide
  unfold execLdrLoad
  repeat' first
    | with_reducible apply KeepsOut.next
    | with_reducible exact Keeps.refl _
    | with_reducible assumption
    | with_reducible apply State.undecoded_keeps (sub_of hμ (by decide))
    | with_reducible apply State.writeLdrCtl_keeps (sub_of hμ (by decide))
    | split
    | dsimp only

theorem execLdrReplace_keeps (v : Word) (s : State) :
    KeepsOut 0x28a000305ad0 s (execLdrReplace v s) := by
  have hμ : 0x28a000305ad0 ||| 0x28a000305ad0 = 0x28a000305ad0 := by decide
  unfold execLdrReplace
  repeat' first
    | with_reducible apply KeepsOut.next
    | with_reducible exact Keeps.refl _
    | with_reducible assumption
    | with_reducible apply State.undecoded_keeps (sub_of hμ (by decide))
    | with_reducible apply State.writeLdrCtl_keeps (sub_of hμ (by decide))
    | split
    | dsimp only

theorem execLdrAttach_keeps (v : Word) (s : State) :
    KeepsOut 0x28a000305ad0 s (execLdrAttach v s) := by
  have hμ : 0x28a000305ad0 ||| 0x28a000305ad0 = 0x28a000305ad0 := by decide
  unfold execLdrAttach
  repeat' first
    | with_reducible apply KeepsOut.next
    | with_reducible exact Keeps.refl _
    | with_reducible assumption
    | with_reducible apply State.undecoded_keeps (sub_of hμ (by decide))
    | with_reducible apply State.writeLdrCtl_keeps (sub_of hμ (by decide))
    | split
    | dsimp only

theorem execLdrRelease_keeps (v : Word) (s : State) :
    KeepsOut 0x28a000305ad0 s (execLdrRelease v s) := by
  have hμ : 0x28a000305ad0 ||| 0x28a000305ad0 = 0x28a000305ad0 := by decide
  unfold execLdrRelease
  repeat' first
    | with_reducible apply KeepsOut.next
    | with_reducible exact Keeps.refl _
    | with_reducible assumption
    | with_reducible apply State.undecoded_keeps (sub_of hμ (by decide))
    | with_reducible apply State.writeLdrCtl_keeps (sub_of hμ (by decide))
    | split
    | dsimp only

theorem execLdrAbort_keeps (v : Word) (s : State) :
    KeepsOut 0x28a000305ad0 s (execLdrAbort v s) := by
  have hμ : 0x28a000305ad0 ||| 0x28a000305ad0 = 0x28a000305ad0 := by decide
  unfold execLdrAbort
  repeat' first
    | with_reducible apply KeepsOut.next
    | with_reducible exact Keeps.refl _
    | with_reducible assumption
    | with_reducible apply State.undecoded_keeps (sub_of hμ (by decide))
    | with_reducible apply State.writeLdrCtl_keeps (sub_of hμ (by decide))
    | split
    | dsimp only

theorem State.flr_keeps {μ : Nat} (hμ : 0x38a000707afc ||| μ = μ) {s₀ s : State} (h : Keeps μ s₀ s) :
    Keeps μ s₀ (State.flr s) := by
  unfold State.flr
  repeat' first
    | with_reducible assumption
    | with_reducible apply State.abortLoad_keeps (sub_of hμ (by decide))
    | with_reducible apply State.resetFunction_keeps (sub_of hμ (by decide))
    | dsimp only

theorem execFunctionLevelReset_keeps (s : State) :
    KeepsOut 0x38a000707afc s (execFunctionLevelReset s) := by
  have hμ : 0x38a000707afc ||| 0x38a000707afc = 0x38a000707afc := by decide
  unfold execFunctionLevelReset
  repeat' first
    | with_reducible apply KeepsOut.next
    | with_reducible exact Keeps.refl _
    | with_reducible assumption
    | with_reducible apply State.flr_keeps (sub_of hμ (by decide))
    | dsimp only

theorem State.writePut_keeps {μ : Nat} (hμ : 0x82000105ad0 ||| μ = μ) {s₀ s : State} (h : Keeps μ s₀ s) (n : Nat) :
    Keeps μ s₀ (State.writePut s n) := by
  unfold State.writePut
  repeat' first
    | with_reducible assumption
    | with_reducible apply State.failLoad_keeps (sub_of hμ (by decide))
    | with_reducible apply State.wr64_keeps
    | split
    | (with_reducible refine bit_of hμ ?_; first | decide | (simp (disch := decide) only [window_sel, window_die, window_arkKey, window_arkKey_add, window_keyAt, window_keyAt_add, window_wordAt, window_arkWord, window_drop, window_drop_hi, window_msix, window_srcWord, window_target, window_pendBit]; decide))
    | dsimp only

theorem execLdrPut_keeps (v : DWord) (s : State) :
    KeepsOut 0x28a000305ad0 s (execLdrPut v s) := by
  have hμ : 0x28a000305ad0 ||| 0x28a000305ad0 = 0x28a000305ad0 := by decide
  unfold execLdrPut
  repeat' first
    | with_reducible apply KeepsOut.next
    | with_reducible exact Keeps.refl _
    | with_reducible assumption
    | with_reducible apply State.undecoded_keeps (sub_of hμ (by decide))
    | with_reducible apply State.writePut_keeps (sub_of hμ (by decide))
    | split
    | dsimp only

theorem State.writeStaging_keeps {μ : Nat} (hμ : 0x82000105ad0 ||| μ = μ) {s₀ s : State} (h : Keeps μ s₀ s) (off : Nat) (bytes : List Byte) :
    Keeps μ s₀ (State.writeStaging s off bytes) := by
  unfold State.writeStaging
  repeat' first
    | with_reducible assumption
    | with_reducible apply Keeps.modLdr (bit_of hμ (by decide))
    | with_reducible apply State.failLoad_keeps (sub_of hμ (by decide))
    | with_reducible apply State.put_keeps
    | with_reducible apply Keeps.foldl
    | exact KeepsPart.same _ _ fun _ => rfl
    | (with_reducible refine KeepsPart.intro fun x hx => ?_; simp only [Loader.canonical, Bool.and_eq_true] at hx ⊢; simp [hx] <;> (repeat' split) <;> simp [hx])
    | split
    | intro _ _ _
    | (with_reducible refine bit_of hμ ?_; first | decide | (simp (disch := decide) only [window_sel, window_die, window_arkKey, window_arkKey_add, window_keyAt, window_keyAt_add, window_wordAt, window_arkWord, window_drop, window_drop_hi, window_msix, window_srcWord, window_target, window_pendBit]; decide))
    | dsimp only

theorem execBar4Write_keeps (off : BitVec 36) (bytes : List Byte) (s : State) :
    KeepsOut 0x82000105ad0 s (execBar4Write off bytes s) := by
  have hμ : 0x82000105ad0 ||| 0x82000105ad0 = 0x82000105ad0 := by decide
  unfold execBar4Write
  repeat' first
    | with_reducible apply KeepsOut.next
    | with_reducible exact Keeps.refl _
    | with_reducible assumption
    | with_reducible apply State.writeStaging_keeps (sub_of hμ (by decide))
    | split
    | dsimp only

theorem State.takeHeader_keeps {μ : Nat} (hμ : 0x80000001000 ||| μ = μ) {s₀ s : State} (h : Keeps μ s₀ s) (o : LdrOp) (h : List Byte) :
    Keeps μ s₀ (State.takeHeader s o h) := by
  unfold State.takeHeader
  repeat' first
    | with_reducible assumption
    | with_reducible apply Keeps.modLdr (bit_of hμ (by decide))
    | with_reducible apply State.put_keeps
    | with_reducible apply State.setSlot_keeps (sub_of hμ (by decide))
    | exact KeepsPart.same _ _ fun _ => rfl
    | (with_reducible refine KeepsPart.intro fun x hx => ?_; simp only [Loader.canonical, Bool.and_eq_true] at hx ⊢; simp [hx] <;> (repeat' split) <;> simp [hx])
    | split
    | (with_reducible refine bit_of hμ ?_; first | decide | (simp (disch := decide) only [window_sel, window_die, window_arkKey, window_arkKey_add, window_keyAt, window_keyAt_add, window_wordAt, window_arkWord, window_drop, window_drop_hi, window_msix, window_srcWord, window_target, window_pendBit]; decide))
    | dsimp only

theorem State.consume_keeps {μ : Nat} (hμ : 0x80000000000 ||| μ = μ) {s₀ s : State} (h : Keeps μ s₀ s) (x : Nat) :
    Keeps μ s₀ (State.consume s x) := by
  unfold State.consume
  repeat' first
    | with_reducible assumption
    | with_reducible apply State.count_keeps
    | with_reducible apply State.wr64_keeps
    | (with_reducible refine bit_of hμ ?_; first | decide | (simp (disch := decide) only [window_sel, window_die, window_arkKey, window_arkKey_add, window_keyAt, window_keyAt_add, window_wordAt, window_arkWord, window_drop, window_drop_hi, window_msix, window_srcWord, window_target, window_pendBit]; decide))
    | dsimp only

theorem State.takeStaged_keeps {μ : Nat} (hμ : 0x82000105ad0 ||| μ = μ) {s₀ s : State} (h : Keeps μ s₀ s) (o : LdrOp) :
    Keeps μ s₀ (State.takeStaged s o) := by
  unfold State.takeStaged
  repeat' first
    | with_reducible assumption
    | with_reducible apply State.consume_keeps (sub_of hμ (by decide))
    | with_reducible apply State.failLoad_keeps (sub_of hμ (by decide))
    | with_reducible apply State.modOp_keeps (sub_of hμ (by decide))
    | with_reducible apply State.put_keeps
    | with_reducible apply State.takeHeader_keeps (sub_of hμ (by decide))
    | split
    | (with_reducible refine bit_of hμ ?_; first | decide | (simp (disch := decide) only [window_sel, window_die, window_arkKey, window_arkKey_add, window_keyAt, window_keyAt_add, window_wordAt, window_arkWord, window_drop, window_drop_hi, window_msix, window_srcWord, window_target, window_pendBit]; decide))
    | dsimp only

theorem execLdrSectionVerified_keeps (s : State) :
    KeepsOut 0x82000105ad0 s (execLdrSectionVerified s) := by
  have hμ : 0x82000105ad0 ||| 0x82000105ad0 = 0x82000105ad0 := by decide
  unfold execLdrSectionVerified
  repeat' first
    | with_reducible apply KeepsOut.next
    | with_reducible exact Keeps.refl _
    | with_reducible assumption
    | with_reducible apply State.release_keeps (sub_of hμ (by decide))
    | with_reducible apply State.takeStaged_keeps (sub_of hμ (by decide))
    | split
    | dsimp only

theorem State.claimPosition_keeps {μ : Nat} (hμ : 0x200 ||| μ = μ) {s₀ : State} {s : State} {d t : Nat} {out : State × Option Nat} (hk : Keeps μ s₀ s)
    (e : State.claimPosition s d t = out) : Keeps μ s₀ out.1 := by
  subst e
  unfold State.claimPosition
  repeat' first
    | with_reducible assumption
    | with_reducible apply State.claimTile_keeps (sub_of hμ (by decide))
    | with_reducible apply State.modTile_keeps (sub_of hμ (by decide))
    | split
    | dsimp only

theorem State.claimPosition_keeps' {μ : Nat} (hμ : 0x200 ||| μ = μ) {s₀ uu : State} {s : State} {d t : Nat} {xx : Option Nat} (hk : Keeps μ s₀ s)
    (e : State.claimPosition s d t = (uu, xx)) : Keeps μ s₀ uu := by
  have r := State.claimPosition_keeps hμ hk e
  exact r

theorem State.claimPositions_keeps {μ : Nat} (hμ : 0x1200 ||| μ = μ) {s₀ : State} {s : State} {ps : List (Nat × Nat)} {out : State × Bool} (hk : Keeps μ s₀ s)
    (e : State.claimPositions s ps = out) : Keeps μ s₀ out.1 := by
  subst e
  unfold State.claimPositions
  repeat' first
    | with_reducible assumption
    | with_reducible apply Keeps.modLdr (bit_of hμ (by decide))
    | with_reducible refine State.claimPosition_keeps' (sub_of hμ (by decide)) ?_ (by assumption)
    | with_reducible refine State.claimPosition_keeps (sub_of hμ (by decide)) ?_ rfl
    | with_reducible apply Keeps.foldl
    | with_reducible apply Keeps.foldl_snd
    | with_reducible apply Keeps.foldl_fst
    | exact KeepsPart.same _ _ fun _ => rfl
    | (with_reducible refine KeepsPart.intro fun x hx => ?_; simp only [Loader.canonical, Bool.and_eq_true] at hx ⊢; simp [hx] <;> (repeat' split) <;> simp [hx])
    | split
    | intro _ _ _
    | dsimp only

theorem State.claimPositions_keeps' {μ : Nat} (hμ : 0x1200 ||| μ = μ) {s₀ uu : State} {s : State} {ps : List (Nat × Nat)} {xx : Bool} (hk : Keeps μ s₀ s)
    (e : State.claimPositions s ps = (uu, xx)) : Keeps μ s₀ uu := by
  have r := State.claimPositions_keeps hμ hk e
  exact r

theorem State.setArray_keeps {μ : Nat} (hμ : 0x2000000200 ||| μ = μ) {s₀ s : State} (h : Keeps μ s₀ s) (d t a : Nat) (banked : Bool) (cols : List Nat) (cells : List RCell) (refs : List Int) :
    Keeps μ s₀ (State.setArray s d t a banked cols cells refs) := by
  unfold State.setArray
  repeat' first
    | with_reducible assumption
    | with_reducible apply State.count_keeps
    | with_reducible apply State.modArr_keeps (sub_of hμ (by decide))
    | with_reducible apply State.raise_keeps
    | with_reducible apply Keeps.foldl
    | split
    | intro _ _ _
    | (with_reducible refine bit_of hμ ?_; first | decide | (simp (disch := decide) only [window_sel, window_die, window_arkKey, window_arkKey_add, window_keyAt, window_keyAt_add, window_wordAt, window_arkWord, window_drop, window_drop_hi, window_msix, window_srcWord, window_target, window_pendBit]; decide))
    | dsimp only

theorem State.replaceTile_keeps {μ : Nat} (hμ : 0x282000305ad0 ||| μ = μ) {s₀ s : State} (h : Keeps μ s₀ s) (d x : Nat) :
    Keeps μ s₀ (State.replaceTile s d x) := by
  unfold State.replaceTile
  repeat' first
    | with_reducible assumption
    | with_reducible apply Keeps.modLdr (bit_of hμ (by decide))
    | with_reducible apply State.claimBoth_keeps (sub_of hμ (by decide))
    | with_reducible apply State.claimTile_keeps (sub_of hμ (by decide))
    | with_reducible apply State.failLoad_keeps (sub_of hμ (by decide))
    | with_reducible apply State.modOp_keeps (sub_of hμ (by decide))
    | with_reducible apply State.modTile_keeps (sub_of hμ (by decide))
    | with_reducible apply State.report_keeps (sub_of hμ (by decide))
    | with_reducible apply State.spareOut_keeps (sub_of hμ (by decide))
    | exact KeepsPart.same _ _ fun _ => rfl
    | (with_reducible refine KeepsPart.intro fun x hx => ?_; simp only [Loader.canonical, Bool.and_eq_true] at hx ⊢; simp [hx] <;> (repeat' split) <;> simp [hx])
    | split
    | dsimp only

theorem State.programArray_keeps {μ : Nat} (hμ : 0x282000305ad0 ||| μ = μ) {s₀ s : State} (h : Keeps μ s₀ s) (p : ArrayProgram) :
    Keeps μ s₀ (State.programArray s p) := by
  unfold State.programArray
  repeat' first
    | with_reducible assumption
    | with_reducible apply Keeps.modLdr (bit_of hμ (by decide))
    | with_reducible apply State.count_keeps
    | with_reducible apply State.modTile_keeps (sub_of hμ (by decide))
    | with_reducible apply State.replaceTile_keeps (sub_of hμ (by decide))
    | with_reducible apply State.retireSpare_keeps (sub_of hμ (by decide))
    | with_reducible apply State.setArray_keeps (sub_of hμ (by decide))
    | with_reducible apply State.tally_keeps (sub_of hμ (by decide))
    | exact KeepsPart.same _ _ fun _ => rfl
    | (with_reducible refine KeepsPart.intro fun x hx => ?_; simp only [Loader.canonical, Bool.and_eq_true] at hx ⊢; simp [hx] <;> (repeat' split) <;> simp [hx])
    | split
    | (with_reducible refine bit_of hμ ?_; first | decide | (simp (disch := decide) only [window_sel, window_die, window_arkKey, window_arkKey_add, window_keyAt, window_keyAt_add, window_wordAt, window_arkWord, window_drop, window_drop_hi, window_msix, window_srcWord, window_target, window_pendBit]; decide))
    | dsimp only

theorem State.afterRound_keeps {μ : Nat} (hμ : 0x2000005280 ||| μ = μ) {s₀ s : State} (h : Keeps μ s₀ s) :
    Keeps μ s₀ (State.afterRound s) := by
  unfold State.afterRound
  repeat' first
    | with_reducible assumption
    | with_reducible apply State.modOp_keeps (sub_of hμ (by decide))
    | with_reducible apply State.openTiles_keeps (sub_of hμ (by decide))
    | split
    | dsimp only

theorem execProgramRoundDone_keeps (arrays : List ArrayProgram) (s : State) :
    KeepsOut 0x282000305bd0 s (execProgramRoundDone arrays s) := by
  have hμ : 0x282000305bd0 ||| 0x282000305bd0 = 0x282000305bd0 := by decide
  unfold execProgramRoundDone
  repeat' first
    | with_reducible apply KeepsOut.next
    | with_reducible exact Keeps.refl _
    | with_reducible assumption
    | with_reducible apply Keeps.modLedger (bit_of hμ (by decide))
    | with_reducible apply State.afterRound_keeps (sub_of hμ (by decide))
    | with_reducible apply State.programArray_keeps (sub_of hμ (by decide))
    | with_reducible apply Keeps.foldl
    | split
    | intro _ _ _
    | dsimp only

theorem State.again_keeps {μ : Nat} (hμ : 0x1200 ||| μ = μ) {s₀ s : State} (h : Keeps μ s₀ s) (ps : List (Nat × Nat)) :
    Keeps μ s₀ (State.again s ps) := by
  unfold State.again
  repeat' first
    | with_reducible assumption
    | with_reducible apply Keeps.modLdr (bit_of hμ (by decide))
    | with_reducible apply State.claimTile_keeps (sub_of hμ (by decide))
    | with_reducible apply Keeps.foldl
    | exact KeepsPart.same _ _ fun _ => rfl
    | (with_reducible refine KeepsPart.intro fun x hx => ?_; simp only [Loader.canonical, Bool.and_eq_true] at hx ⊢; simp [hx] <;> (repeat' split) <;> simp [hx])
    | split
    | intro _ _ _
    | dsimp only

theorem State.verifyLayer_keeps {μ : Nat} (hμ : 0x1200 ||| μ = μ) {s₀ s : State} (h : Keeps μ s₀ s) (o : LdrOp) (fp : List Int) :
    Keeps μ s₀ (State.verifyLayer s o fp) := by
  unfold State.verifyLayer
  repeat' first
    | with_reducible assumption
    | with_reducible apply State.again_keeps (sub_of hμ (by decide))
    | with_reducible apply State.modOp_keeps (sub_of hμ (by decide))
    | with_reducible apply State.put_keeps
    | split
    | (with_reducible refine bit_of hμ ?_; first | decide | (simp (disch := decide) only [window_sel, window_die, window_arkKey, window_arkKey_add, window_keyAt, window_keyAt_add, window_wordAt, window_arkWord, window_drop, window_drop_hi, window_msix, window_srcWord, window_target, window_pendBit]; decide))
    | dsimp only

theorem execLdrLayerVerified_keeps (fp : List Int) (s : State) :
    KeepsOut 0x1200 s (execLdrLayerVerified fp s) := by
  have hμ : 0x1200 ||| 0x1200 = 0x1200 := by decide
  unfold execLdrLayerVerified
  repeat' first
    | with_reducible apply KeepsOut.next
    | with_reducible exact Keeps.refl _
    | with_reducible assumption
    | with_reducible apply State.verifyLayer_keeps (sub_of hμ (by decide))
    | split
    | dsimp only

theorem State.closeGate267_keeps {μ : Nat} (hμ : 0x80000001200 ||| μ = μ) {s₀ s : State} (h : Keeps μ s₀ s) (o : LdrOp) :
    Keeps μ s₀ (State.closeGate267 s o) := by
  unfold State.closeGate267
  repeat' first
    | with_reducible assumption
    | with_reducible refine State.claimPositions_keeps' (sub_of hμ (by decide)) ?_ (by assumption)
    | with_reducible refine State.claimPositions_keeps (sub_of hμ (by decide)) ?_ rfl
    | with_reducible apply State.modOp_keeps (sub_of hμ (by decide))
    | with_reducible apply State.put_keeps
    | split
    | (with_reducible refine bit_of hμ ?_; first | decide | (simp (disch := decide) only [window_sel, window_die, window_arkKey, window_arkKey_add, window_keyAt, window_keyAt_add, window_wordAt, window_arkWord, window_drop, window_drop_hi, window_msix, window_srcWord, window_target, window_pendBit]; decide))
    | dsimp only

theorem State.openGate267_keeps {μ : Nat} (hμ : 0x82000105ad0 ||| μ = μ) {s₀ s : State} (h : Keeps μ s₀ s) (o : LdrOp) (l : Nat) :
    Keeps μ s₀ (State.openGate267 s o l) := by
  unfold State.openGate267
  repeat' first
    | with_reducible assumption
    | with_reducible apply Keeps.modLdr (bit_of hμ (by decide))
    | with_reducible apply State.done_keeps (sub_of hμ (by decide))
    | with_reducible apply State.failLoad_keeps (sub_of hμ (by decide))
    | with_reducible apply State.modOp_keeps (sub_of hμ (by decide))
    | with_reducible apply State.openTiles_keeps (sub_of hμ (by decide))
    | with_reducible apply State.put_keeps
    | exact KeepsPart.same _ _ fun _ => rfl
    | (with_reducible refine KeepsPart.intro fun x hx => ?_; simp only [Loader.canonical, Bool.and_eq_true] at hx ⊢; simp [hx] <;> (repeat' split) <;> simp [hx])
    | split
    | (with_reducible refine bit_of hμ ?_; first | decide | (simp (disch := decide) only [window_sel, window_die, window_arkKey, window_arkKey_add, window_keyAt, window_keyAt_add, window_wordAt, window_arkWord, window_drop, window_drop_hi, window_msix, window_srcWord, window_target, window_pendBit]; decide))
    | dsimp only

theorem State.gateBoundary_keeps {μ : Nat} (hμ : 0x82000105ad0 ||| μ = μ) {s₀ s : State} (h : Keeps μ s₀ s) :
    Keeps μ s₀ (State.gateBoundary s) := by
  unfold State.gateBoundary
  repeat' first
    | with_reducible assumption
    | with_reducible apply Keeps.modLdr (bit_of hμ (by decide))
    | with_reducible apply State.closeGate267_keeps (sub_of hμ (by decide))
    | with_reducible apply State.modOp_keeps (sub_of hμ (by decide))
    | with_reducible apply State.openGate267_keeps (sub_of hμ (by decide))
    | exact KeepsPart.same _ _ fun _ => rfl
    | (with_reducible refine KeepsPart.intro fun x hx => ?_; simp only [Loader.canonical, Bool.and_eq_true] at hx ⊢; simp [hx] <;> (repeat' split) <;> simp [hx])
    | split
    | dsimp only

theorem State.putFormat_keeps {μ : Nat} (hμ : 0x10000000000 ||| μ = μ) {s₀ s : State} (h : Keeps μ s₀ s) (m : Nat) (x : Model) :
    Keeps μ s₀ (State.putFormat s m x) := by
  unfold State.putFormat
  repeat' first
    | with_reducible assumption
    | with_reducible apply State.putB_keeps
    | with_reducible apply State.put_keeps
    | split
    | (with_reducible refine bit_of hμ ?_; first | decide | (simp (disch := decide) only [window_sel, window_die, window_arkKey, window_arkKey_add, window_keyAt, window_keyAt_add, window_wordAt, window_arkWord, window_drop, window_drop_hi, window_msix, window_srcWord, window_target, window_pendBit]; decide))
    | dsimp only

theorem State.putRecord_keeps {μ : Nat} (hμ : 0x80000 ||| μ = μ) {s₀ s : State} (h : Keeps μ s₀ s) (m : Nat) (digest : BitVec 384) (layout : DWord) (state : Nat) :
    Keeps μ s₀ (State.putRecord s m digest layout state) := by
  unfold State.putRecord
  repeat' first
    | with_reducible assumption
    | with_reducible apply State.writeFlash_keeps (sub_of hμ (by decide))
    | dsimp only

theorem State.completeLoad_keeps {μ : Nat} (hμ : 0x92000085280 ||| μ = μ) {s₀ s : State} (h : Keeps μ s₀ s) (o : LdrOp) :
    Keeps μ s₀ (State.completeLoad s o) := by
  unfold State.completeLoad
  repeat' first
    | with_reducible assumption
    | with_reducible apply Keeps.modLdr (bit_of hμ (by decide))
    | with_reducible apply State.endLoad_keeps (sub_of hμ (by decide))
    | with_reducible apply State.openTiles_keeps (sub_of hμ (by decide))
    | with_reducible apply State.putFormat_keeps (sub_of hμ (by decide))
    | with_reducible apply State.putRecord_keeps (sub_of hμ (by decide))
    | with_reducible apply State.put_keeps
    | with_reducible apply State.setSlot_keeps (sub_of hμ (by decide))
    | exact KeepsPart.same _ _ fun _ => rfl
    | (with_reducible refine KeepsPart.intro fun x hx => ?_; simp only [Loader.canonical, Bool.and_eq_true] at hx ⊢; simp [hx])
    | (with_reducible refine bit_of hμ ?_; first | decide | (simp (disch := decide) only [window_sel, window_die, window_arkKey, window_arkKey_add, window_keyAt, window_keyAt_add, window_wordAt, window_arkWord, window_drop, window_drop_hi, window_msix, window_srcWord, window_target, window_pendBit]; decide))
    | dsimp only

theorem State.freeSlot_keeps {μ : Nat} (hμ : 0x90000081000 ||| μ = μ) {s₀ s : State} (h : Keeps μ s₀ s) (m : Nat) :
    Keeps μ s₀ (State.freeSlot s m) := by
  unfold State.freeSlot
  repeat' first
    | with_reducible assumption
    | with_reducible apply Keeps.modLdr (bit_of hμ (by decide))
    | with_reducible apply State.endLoad_keeps (sub_of hμ (by decide))
    | with_reducible apply State.put_keeps
    | with_reducible apply State.setSlot_keeps (sub_of hμ (by decide))
    | with_reducible apply State.writeFlash_keeps (sub_of hμ (by decide))
    | exact KeepsPart.same _ _ fun _ => rfl
    | (with_reducible refine KeepsPart.intro fun x hx => ?_; simp only [Loader.canonical, Bool.and_eq_true] at hx ⊢; simp [hx])
    | (with_reducible refine bit_of hμ ?_; first | decide | (simp (disch := decide) only [window_sel, window_die, window_arkKey, window_arkKey_add, window_keyAt, window_keyAt_add, window_wordAt, window_arkWord, window_drop, window_drop_hi, window_msix, window_srcWord, window_target, window_pendBit]; decide))
    | dsimp only

theorem State.advanceLoad_keeps {μ : Nat} (hμ : 0x92000185ad0 ||| μ = μ) {s₀ s : State} (h : Keeps μ s₀ s) (o : LdrOp) :
    Keeps μ s₀ (State.advanceLoad s o) := by
  unfold State.advanceLoad
  repeat' first
    | with_reducible assumption
    | with_reducible refine State.claimPositions_keeps' (sub_of hμ (by decide)) ?_ (by assumption)
    | with_reducible refine State.claimPositions_keeps (sub_of hμ (by decide)) ?_ rfl
    | with_reducible apply State.completeLoad_keeps (sub_of hμ (by decide))
    | with_reducible apply State.failLoad_keeps (sub_of hμ (by decide))
    | with_reducible apply State.freeSlot_keeps (sub_of hμ (by decide))
    | with_reducible apply State.modOp_keeps (sub_of hμ (by decide))
    | with_reducible apply State.put_keeps
    | with_reducible apply State.release_keeps (sub_of hμ (by decide))
    | split
    | (with_reducible refine bit_of hμ ?_; first | decide | (simp (disch := decide) only [window_sel, window_die, window_arkKey, window_arkKey_add, window_keyAt, window_keyAt_add, window_wordAt, window_arkWord, window_drop, window_drop_hi, window_msix, window_srcWord, window_target, window_pendBit]; decide))
    | dsimp only

theorem execLdrOperationDone_keeps (s : State) :
    KeepsOut 0x92000185ad0 s (execLdrOperationDone s) := by
  have hμ : 0x92000185ad0 ||| 0x92000185ad0 = 0x92000185ad0 := by decide
  unfold execLdrOperationDone
  repeat' first
    | with_reducible apply KeepsOut.next
    | with_reducible exact Keeps.refl _
    | with_reducible assumption
    | with_reducible apply State.advanceLoad_keeps (sub_of hμ (by decide))
    | split
    | dsimp only

theorem State.fixBoundary_keeps {μ : Nat} (hμ : 0x2000005280 ||| μ = μ) {s₀ s : State} (h : Keeps μ s₀ s) :
    Keeps μ s₀ (State.fixBoundary s) := by
  unfold State.fixBoundary
  repeat' first
    | with_reducible assumption
    | with_reducible apply Keeps.modLdr (bit_of hμ (by decide))
    | with_reducible refine State.claimPositions_keeps' (sub_of hμ (by decide)) ?_ (by assumption)
    | with_reducible refine State.claimPositions_keeps (sub_of hμ (by decide)) ?_ rfl
    | with_reducible apply State.openTiles_keeps (sub_of hμ (by decide))
    | exact KeepsPart.same _ _ fun _ => rfl
    | (with_reducible refine KeepsPart.intro fun x hx => ?_; simp only [Loader.canonical, Bool.and_eq_true] at hx ⊢; simp [hx] <;> (repeat' split) <;> simp [hx])
    | split
    | dsimp only

end Sys2Proof.Machine
end

