-- ==== Sys2Proof/Laws/KeepImage.lean ====
section
/-!
SUPPORT. What the operations of Machine/Image.lean keep (Laws/Keeps.lean).
-/

set_option linter.all false

namespace Sys2Proof.Machine

theorem State.imagePut_keeps {μ : Nat} (hμ : 0xffffffffffffffff00000001 ||| μ = μ) {s₀ s : State} (h : Keeps μ s₀ s) (sel : Option Nat) (off mask v : Nat) :
    Keeps μ s₀ (s.imagePut sel off mask v) := by
  have same : ∀ f : RegFile → RegFile, (∀ r, (f r).latch = r.latch) → ∀ p : Part, μ.testBit p.bit = false →
      p.same s (s.modRf f) := by
    intro f hf p e
    cases p with
    | image =>
      have b : μ.testBit 0 = true := (bit_of hμ (by decide))
      simp only [Part.bit, b] at e
      cases e
    | latch => exact hf s.rf
    | win w =>
      intro k hk
      exact absurd (bit_win (sub_of hμ (by decide)) k) (by rw [hk]; simp only [Part.bit] at e; rw [e]; decide)
    | _ => rfl
  unfold State.imagePut
  split <;>
    exact h.of_rf (KeepsPart.intro fun x hx => by
      simp only [RegFile.canonical, Bool.and_eq_true] at hx ⊢
      simp [hx]) (same _ fun r => rfl)

theorem State.imageField_keeps {μ : Nat} (hμ : 0xffffffffffffffff00000001 ||| μ = μ) {s₀ s : State} (h : Keeps μ s₀ s) (f : Fld) (n : Nat) :
    Keeps μ s₀ (State.imageField s f n) := by
  unfold State.imageField
  repeat' first
    | with_reducible assumption
    | with_reducible apply State.imagePut_keeps (sub_of hμ (by decide))
    | dsimp only

theorem State.putParam_keeps {μ : Nat} (hμ : 0xffffffffffffffff00000001 ||| μ = μ) {s₀ s : State} (h : Keeps μ s₀ s) (n sel v : Nat) :
    Keeps μ s₀ (s.putParam n sel v) := by
  refine h.of_rf (KeepsPart.intro fun x hx => ?_) fun p e => ?_
  · simp only [RegFile.canonical, Bool.and_eq_true] at hx ⊢
    simp [hx]
  · cases p with
    | image =>
      have b : μ.testBit 0 = true := (bit_of hμ (by decide))
      simp only [Part.bit, b] at e
      cases e
    | win w => 
      intro k hk
      exact absurd (bit_win (sub_of hμ (by decide)) k) (by rw [hk]; simp only [Part.bit] at e; rw [e]; decide)
    | _ => rfl

theorem State.applyThresh_keeps {μ : Nat} (hμ : 0xffffffffffffffff00000001 ||| μ = μ) {s₀ s : State} (h : Keeps μ s₀ s) (e : Thresh) :
    Keeps μ s₀ (State.applyThresh s e) := by
  unfold State.applyThresh
  repeat' first
    | with_reducible assumption
    | with_reducible apply State.imagePut_keeps (sub_of hμ (by decide))
    | with_reducible apply State.putParam_keeps (sub_of hμ (by decide))
    | split
    | dsimp only

theorem State.applyThreshes_keeps {μ : Nat} (hμ : 0xffffffffffffffff00000001 ||| μ = μ) {s₀ s : State} (h : Keeps μ s₀ s) (es : List Thresh) :
    Keeps μ s₀ (State.applyThreshes s es) := by
  unfold State.applyThreshes
  repeat' first
    | with_reducible assumption
    | with_reducible apply State.applyThresh_keeps (sub_of hμ (by decide))
    | with_reducible apply Keeps.foldl
    | intro _ _ _
    | dsimp only

theorem State.applyClock_keeps {μ : Nat} (hμ : 0xffffffffffffffff00010001 ||| μ = μ) {s₀ s : State} (h : Keeps μ s₀ s) (l : List (Nat × Nat)) :
    Keeps μ s₀ (State.applyClock s l) := by
  unfold State.applyClock
  repeat' first
    | with_reducible assumption
    | with_reducible apply Keeps.modClk (bit_of hμ (by decide))
    | with_reducible apply State.imageField_keeps (sub_of hμ (by decide))
    | with_reducible apply Keeps.foldl
    | exact KeepsPart.same _ _ fun _ => rfl
    | (with_reducible refine KeepsPart.intro fun x hx => ?_; simp only [Clocks.canonical, Bool.and_eq_true] at hx ⊢; simp [hx])
    | intro _ _ _
    | dsimp only

end Sys2Proof.Machine
end

