-- ==== Sys2Proof/Laws/KeepPower.lean ====
section
/-!
SUPPORT. What the operations of Machine/Power.lean keep (Laws/Keeps.lean).
-/

set_option linter.all false

namespace Sys2Proof.Machine

theorem State.openGroupClocks_keeps {μ : Nat} (hμ : 0x200010000 ||| μ = μ) {s₀ s : State} (h : Keeps μ s₀ s) (n : Nat) :
    Keeps μ s₀ (State.openGroupClocks s n) := by
  unfold State.openGroupClocks
  repeat' first
    | with_reducible assumption
    | with_reducible apply State.openTile_keeps (sub_of hμ (by decide))
    | with_reducible apply Keeps.foldl
    | split
    | intro _ _ _
    | dsimp only

theorem State.closeGroupClocks_keeps {μ : Nat} (hμ : 0x10000 ||| μ = μ) {s₀ s : State} (h : Keeps μ s₀ s) (n : Nat) :
    Keeps μ s₀ (State.closeGroupClocks s n) := by
  unfold State.closeGroupClocks
  repeat' first
    | with_reducible assumption
    | with_reducible apply Keeps.modClk (bit_of hμ (by decide))
    | exact KeepsPart.same _ _ fun _ => rfl
    | (with_reducible refine KeepsPart.intro fun x hx => ?_; simp only [Clocks.canonical, Bool.and_eq_true] at hx ⊢; simp [hx])
    | dsimp only

theorem State.startRamp_keeps {μ : Nat} (hμ : 0x400020000 ||| μ = μ) {s₀ s : State} (h : Keeps μ s₀ s) (n : Nat) :
    Keeps μ s₀ (State.startRamp s n) := by
  unfold State.startRamp
  repeat' first
    | with_reducible assumption
    | with_reducible apply Keeps.modPwr (bit_of hμ (by decide))
    | with_reducible apply State.put_keeps
    | (with_reducible refine bit_of hμ ?_; first | decide | (simp (disch := decide) only [window_sel, window_die, window_arkKey, window_arkKey_add, window_keyAt, window_keyAt_add, window_wordAt, window_arkWord, window_drop, window_drop_hi, window_msix, window_srcWord, window_target, window_pendBit]; decide))
    | dsimp only

theorem State.startWaiting_keeps {μ : Nat} (hμ : 0x400020000 ||| μ = μ) {s₀ s : State} (h : Keeps μ s₀ s) (d : Nat) :
    Keeps μ s₀ (State.startWaiting s d) := by
  unfold State.startWaiting
  repeat' first
    | with_reducible assumption
    | with_reducible apply State.startRamp_keeps (sub_of hμ (by decide))
    | with_reducible apply Keeps.foldl
    | intro _ _ _
    | dsimp only

theorem State.closeGate_keeps {μ : Nat} (hμ : 0x400020000 ||| μ = μ) {s₀ s : State} (h : Keeps μ s₀ s) (n : Nat) :
    Keeps μ s₀ (State.closeGate s n) := by
  unfold State.closeGate
  repeat' first
    | with_reducible assumption
    | with_reducible apply Keeps.modPwr (bit_of hμ (by decide))
    | with_reducible apply State.startWaiting_keeps (sub_of hμ (by decide))
    | split
    | dsimp only

theorem execGateCloseRequest_keeps (die : Fin 16) (group : Fin 256) (s : State) :
    KeepsOut 0x400020000 s (execGateCloseRequest die group s) := by
  have hμ : 0x400020000 ||| 0x400020000 = 0x400020000 := by decide
  unfold execGateCloseRequest
  repeat' first
    | with_reducible apply KeepsOut.next
    | with_reducible exact Keeps.refl _
    | with_reducible assumption
    | with_reducible apply State.closeGate_keeps (sub_of hμ (by decide))
    | dsimp only

theorem State.shortGroup_keeps {μ : Nat} (hμ : 0x200400324200 ||| μ = μ) {s₀ s : State} (h : Keeps μ s₀ s) (n k : Nat) :
    Keeps μ s₀ (State.shortGroup s n k) := by
  unfold State.shortGroup
  repeat' first
    | with_reducible assumption
    | with_reducible apply Keeps.modPwr (bit_of hμ (by decide))
    | with_reducible apply State.count_keeps
    | with_reducible apply State.planFence_keeps (sub_of hμ (by decide))
    | with_reducible apply State.put_keeps
    | with_reducible apply State.raise_keeps
    | with_reducible apply State.report_keeps (sub_of hμ (by decide))
    | with_reducible apply State.retireSpare_keeps (sub_of hμ (by decide))
    | with_reducible apply Keeps.foldl
    | split
    | intro _ _ _
    | (with_reducible refine bit_of hμ ?_; first | decide | (simp (disch := decide) only [window_sel, window_die, window_arkKey, window_arkKey_add, window_keyAt, window_keyAt_add, window_wordAt, window_arkWord, window_drop, window_drop_hi, window_msix, window_srcWord, window_target, window_pendBit]; decide))
    | dsimp only

theorem State.rampStepEnd_keeps {μ : Nat} (hμ : 0x200600334200 ||| μ = μ) {s₀ s : State} (h : Keeps μ s₀ s) (n ma : Nat) :
    Keeps μ s₀ (State.rampStepEnd s n ma) := by
  unfold State.rampStepEnd
  repeat' first
    | with_reducible assumption
    | with_reducible apply Keeps.modPwr (bit_of hμ (by decide))
    | with_reducible apply State.count_keeps
    | with_reducible apply State.openGroupClocks_keeps (sub_of hμ (by decide))
    | with_reducible apply State.put_keeps
    | with_reducible apply State.shortGroup_keeps (sub_of hμ (by decide))
    | with_reducible apply State.startWaiting_keeps (sub_of hμ (by decide))
    | split
    | (with_reducible refine bit_of hμ ?_; first | decide | (simp (disch := decide) only [window_sel, window_die, window_arkKey, window_arkKey_add, window_keyAt, window_keyAt_add, window_wordAt, window_arkWord, window_drop, window_drop_hi, window_msix, window_srcWord, window_target, window_pendBit]; decide))
    | dsimp only

theorem execGateRampStep_keeps (die : Fin 16) (group : Fin 256) (ma : BitVec 16) (s : State) :
    KeepsOut 0x200600334200 s (execGateRampStep die group ma s) := by
  have hμ : 0x200600334200 ||| 0x200600334200 = 0x200600334200 := by decide
  unfold execGateRampStep
  repeat' first
    | with_reducible apply KeepsOut.next
    | with_reducible exact Keeps.refl _
    | with_reducible assumption
    | with_reducible apply State.rampStepEnd_keeps (sub_of hμ (by decide))
    | split
    | dsimp only

theorem State.openGate_keeps {μ : Nat} (hμ : 0x400030000 ||| μ = μ) {s₀ s : State} (h : Keeps μ s₀ s) (n : Nat) :
    Keeps μ s₀ (State.openGate s n) := by
  unfold State.openGate
  repeat' first
    | with_reducible assumption
    | with_reducible apply Keeps.modPwr (bit_of hμ (by decide))
    | with_reducible apply State.closeGroupClocks_keeps (sub_of hμ (by decide))
    | with_reducible apply State.put_keeps
    | split
    | (with_reducible refine bit_of hμ ?_; first | decide | (simp (disch := decide) only [window_sel, window_die, window_arkKey, window_arkKey_add, window_keyAt, window_keyAt_add, window_wordAt, window_arkWord, window_drop, window_drop_hi, window_msix, window_srcWord, window_target, window_pendBit]; decide))
    | dsimp only

theorem execGateOpenRequest_keeps (die : Fin 16) (group : Fin 256) (s : State) :
    KeepsOut 0x400030000 s (execGateOpenRequest die group s) := by
  have hμ : 0x400030000 ||| 0x400030000 = 0x400030000 := by decide
  unfold execGateOpenRequest
  repeat' first
    | with_reducible apply KeepsOut.next
    | with_reducible exact Keeps.refl _
    | with_reducible assumption
    | with_reducible apply State.openGate_keeps (sub_of hμ (by decide))
    | with_reducible apply State.startWaiting_keeps (sub_of hμ (by decide))
    | split
    | dsimp only

theorem State.finishRamps_keeps {μ : Nat} (hμ : 0x600030000 ||| μ = μ) {s₀ s : State} (h : Keeps μ s₀ s) :
    Keeps μ s₀ (State.finishRamps s) := by
  unfold State.finishRamps
  repeat' first
    | with_reducible assumption
    | with_reducible apply Keeps.modPwr (bit_of hμ (by decide))
    | with_reducible apply State.openGroupClocks_keeps (sub_of hμ (by decide))
    | with_reducible apply State.put_keeps
    | with_reducible apply Keeps.foldl
    | intro _ _ _
    | (with_reducible refine bit_of hμ ?_; first | decide | (simp (disch := decide) only [window_sel, window_die, window_arkKey, window_arkKey_add, window_keyAt, window_keyAt_add, window_wordAt, window_arkWord, window_drop, window_drop_hi, window_msix, window_srcWord, window_target, window_pendBit]; decide))
    | dsimp only

theorem State.endRequest_keeps {μ : Nat} (hμ : 0x400000000 ||| μ = μ) {s₀ s : State} (h : Keeps μ s₀ s) (n : Nat) :
    Keeps μ s₀ (State.endRequest s n) := by
  unfold State.endRequest
  repeat' first
    | with_reducible assumption
    | with_reducible apply State.put_keeps
    | split
    | (with_reducible refine bit_of hμ ?_; first | decide | (simp (disch := decide) only [window_sel, window_die, window_arkKey, window_arkKey_add, window_keyAt, window_keyAt_add, window_wordAt, window_arkWord, window_drop, window_drop_hi, window_msix, window_srcWord, window_target, window_pendBit]; decide))
    | dsimp only

theorem State.beginRun_keeps {μ : Nat} (hμ : 0x1506400020380 ||| μ = μ) {s₀ s : State} (h : Keeps μ s₀ s) (g : Nat) :
    Keeps μ s₀ (State.beginRun s g) := by
  unfold State.beginRun
  repeat' first
    | with_reducible assumption
    | with_reducible apply Keeps.modPlan (bit_of hμ (by decide))
    | with_reducible apply Keeps.modPwr (bit_of hμ (by decide))
    | with_reducible apply State.bankSpares_keeps (sub_of hμ (by decide))
    | with_reducible apply State.commitBanks_keeps (sub_of hμ (by decide))
    | with_reducible apply State.compose_keeps (sub_of hμ (by decide))
    | with_reducible apply State.countStates_keeps (sub_of hμ (by decide))
    | with_reducible apply State.endRequest_keeps (sub_of hμ (by decide))
    | with_reducible apply State.newLedger_keeps (sub_of hμ (by decide))
    | with_reducible apply State.put_keeps
    | with_reducible apply State.setDies_keeps (sub_of hμ (by decide))
    | with_reducible apply State.showLap_keeps (sub_of hμ (by decide))
    | with_reducible apply State.wr64_keeps
    | split
    | (with_reducible refine bit_of hμ ?_; first | decide | (simp (disch := decide) only [window_sel, window_die, window_arkKey, window_arkKey_add, window_keyAt, window_keyAt_add, window_wordAt, window_arkWord, window_drop, window_drop_hi, window_msix, window_srcWord, window_target, window_pendBit]; decide))
    | dsimp only

theorem State.enterIdle_keeps {μ : Nat} (hμ : 0x1002400030080 ||| μ = μ) {s₀ s : State} (h : Keeps μ s₀ s) :
    Keeps μ s₀ (State.enterIdle s) := by
  unfold State.enterIdle
  repeat' first
    | with_reducible assumption
    | with_reducible apply Keeps.modClk (bit_of hμ (by decide))
    | with_reducible apply Keeps.modPlan (bit_of hμ (by decide))
    | with_reducible apply Keeps.modPwr (bit_of hμ (by decide))
    | with_reducible apply State.openGate_keeps (sub_of hμ (by decide))
    | with_reducible apply State.put_keeps
    | with_reducible apply State.setDies_keeps (sub_of hμ (by decide))
    | with_reducible apply Keeps.foldl
    | exact KeepsPart.same _ _ fun _ => rfl
    | (with_reducible refine KeepsPart.intro fun x hx => ?_; simp only [Clocks.canonical, Bool.and_eq_true] at hx ⊢; simp [hx] <;> (repeat' split) <;> simp [hx])
    | split
    | intro _ _ _
    | (with_reducible refine bit_of hμ ?_; first | decide | (simp (disch := decide) only [window_sel, window_die, window_arkKey, window_arkKey_add, window_keyAt, window_keyAt_add, window_wordAt, window_arkWord, window_drop, window_drop_hi, window_msix, window_srcWord, window_target, window_pendBit]; decide))
    | dsimp only

theorem State.startExit_keeps {μ : Nat} (hμ : 0x1000400020000 ||| μ = μ) {s₀ s : State} (h : Keeps μ s₀ s) :
    Keeps μ s₀ (State.startExit s) := by
  unfold State.startExit
  repeat' first
    | with_reducible assumption
    | with_reducible apply Keeps.modPwr (bit_of hμ (by decide))
    | with_reducible apply State.closeGate_keeps (sub_of hμ (by decide))
    | with_reducible apply State.setDies_keeps (sub_of hμ (by decide))
    | with_reducible apply Keeps.foldl
    | intro _ _ _
    | dsimp only

theorem State.askExit_keeps {μ : Nat} (hμ : 0x1000400020000 ||| μ = μ) {s₀ s : State} (h : Keeps μ s₀ s) :
    Keeps μ s₀ (State.askExit s) := by
  unfold State.askExit
  repeat' first
    | with_reducible assumption
    | with_reducible apply Keeps.modPwr (bit_of hμ (by decide))
    | with_reducible apply State.startExit_keeps (sub_of hμ (by decide))
    | split
    | dsimp only

theorem State.askActive_keeps {μ : Nat} (hμ : 0x1000400020000 ||| μ = μ) {s₀ s : State} (h : Keeps μ s₀ s) :
    Keeps μ s₀ (State.askActive s) := by
  unfold State.askActive
  repeat' first
    | with_reducible assumption
    | with_reducible apply State.askExit_keeps (sub_of hμ (by decide))
    | with_reducible apply State.put_keeps
    | split
    | (with_reducible refine bit_of hμ ?_; first | decide | (simp (disch := decide) only [window_sel, window_die, window_arkKey, window_arkKey_add, window_keyAt, window_keyAt_add, window_wordAt, window_arkWord, window_drop, window_drop_hi, window_msix, window_srcWord, window_target, window_pendBit]; decide))
    | dsimp only

theorem State.askIdle_keeps {μ : Nat} (hμ : 0x400000080 ||| μ = μ) {s₀ s : State} (h : Keeps μ s₀ s) :
    Keeps μ s₀ (State.askIdle s) := by
  unfold State.askIdle
  repeat' first
    | with_reducible assumption
    | with_reducible apply Keeps.modPlan (bit_of hμ (by decide))
    | with_reducible apply State.put_keeps
    | split
    | (with_reducible refine bit_of hμ ?_; first | decide | (simp (disch := decide) only [window_sel, window_die, window_arkKey, window_arkKey_add, window_keyAt, window_keyAt_add, window_wordAt, window_arkWord, window_drop, window_drop_hi, window_msix, window_srcWord, window_target, window_pendBit]; decide))
    | dsimp only

theorem State.askSleep_keeps {μ : Nat} (hμ : 0x400020000 ||| μ = μ) {s₀ s : State} (h : Keeps μ s₀ s) :
    Keeps μ s₀ (State.askSleep s) := by
  unfold State.askSleep
  repeat' first
    | with_reducible assumption
    | with_reducible apply Keeps.modPwr (bit_of hμ (by decide))
    | with_reducible apply State.put_keeps
    | split
    | (with_reducible refine bit_of hμ ?_; first | decide | (simp (disch := decide) only [window_sel, window_die, window_arkKey, window_arkKey_add, window_keyAt, window_keyAt_add, window_wordAt, window_arkWord, window_drop, window_drop_hi, window_msix, window_srcWord, window_target, window_pendBit]; decide))
    | dsimp only

theorem State.writePwrCtl_keeps {μ : Nat} (hμ : 0x1208400324080 ||| μ = μ) {s₀ s : State} (h : Keeps μ s₀ s) (req : Nat) (v : Word) :
    Keeps μ s₀ (State.writePwrCtl s req v) := by
  unfold State.writePwrCtl
  repeat' first
    | with_reducible assumption
    | with_reducible apply State.askActive_keeps (sub_of hμ (by decide))
    | with_reducible apply State.askIdle_keeps (sub_of hμ (by decide))
    | with_reducible apply State.askSleep_keeps (sub_of hμ (by decide))
    | with_reducible apply State.put_keeps
    | with_reducible apply State.violation_keeps (sub_of hμ (by decide))
    | split
    | (with_reducible refine bit_of hμ ?_; first | decide | (simp (disch := decide) only [window_sel, window_die, window_arkKey, window_arkKey_add, window_keyAt, window_keyAt_add, window_wordAt, window_arkWord, window_drop, window_drop_hi, window_msix, window_srcWord, window_target, window_pendBit]; decide))
    | dsimp only

theorem execPwrReqActive_keeps (s : State) :
    KeepsOut 0x1208400324080 s (execPwrReqActive s) := by
  have hμ : 0x1208400324080 ||| 0x1208400324080 = 0x1208400324080 := by decide
  unfold execPwrReqActive
  repeat' first
    | with_reducible apply KeepsOut.next
    | with_reducible exact Keeps.refl _
    | with_reducible assumption
    | with_reducible apply State.undecoded_keeps (sub_of hμ (by decide))
    | with_reducible apply State.writePwrCtl_keeps (sub_of hμ (by decide))
    | split
    | dsimp only

theorem execPwrReqIdle_keeps (s : State) :
    KeepsOut 0x1208400324080 s (execPwrReqIdle s) := by
  have hμ : 0x1208400324080 ||| 0x1208400324080 = 0x1208400324080 := by decide
  unfold execPwrReqIdle
  repeat' first
    | with_reducible apply KeepsOut.next
    | with_reducible exact Keeps.refl _
    | with_reducible assumption
    | with_reducible apply State.undecoded_keeps (sub_of hμ (by decide))
    | with_reducible apply State.writePwrCtl_keeps (sub_of hμ (by decide))
    | split
    | dsimp only

theorem execPwrReqSleep_keeps (s : State) :
    KeepsOut 0x1208400324080 s (execPwrReqSleep s) := by
  have hμ : 0x1208400324080 ||| 0x1208400324080 = 0x1208400324080 := by decide
  unfold execPwrReqSleep
  repeat' first
    | with_reducible apply KeepsOut.next
    | with_reducible exact Keeps.refl _
    | with_reducible assumption
    | with_reducible apply State.undecoded_keeps (sub_of hμ (by decide))
    | with_reducible apply State.writePwrCtl_keeps (sub_of hμ (by decide))
    | split
    | dsimp only

theorem execIdleEntryDone_keeps (s : State) :
    KeepsOut 0x1000400020000 s (execIdleEntryDone s) := by
  have hμ : 0x1000400020000 ||| 0x1000400020000 = 0x1000400020000 := by decide
  unfold execIdleEntryDone
  repeat' first
    | with_reducible apply KeepsOut.next
    | with_reducible exact Keeps.refl _
    | with_reducible assumption
    | with_reducible apply Keeps.modPwr (bit_of hμ (by decide))
    | with_reducible apply State.endRequest_keeps (sub_of hμ (by decide))
    | with_reducible apply State.put_keeps
    | with_reducible apply State.startExit_keeps (sub_of hμ (by decide))
    | split
    | (with_reducible refine bit_of hμ ?_; first | decide | (simp (disch := decide) only [window_sel, window_die, window_arkKey, window_arkKey_add, window_keyAt, window_keyAt_add, window_wordAt, window_arkWord, window_drop, window_drop_hi, window_msix, window_srcWord, window_target, window_pendBit]; decide))
    | dsimp only

theorem execIdleExit_keeps (_cause : IdleExitCause) (s : State) :
    KeepsOut 0x1000400020000 s (execIdleExit _cause s) := by
  have hμ : 0x1000400020000 ||| 0x1000400020000 = 0x1000400020000 := by decide
  unfold execIdleExit
  repeat' first
    | with_reducible apply KeepsOut.next
    | with_reducible exact Keeps.refl _
    | with_reducible assumption
    | with_reducible apply State.askExit_keeps (sub_of hμ (by decide))
    | dsimp only

theorem execIdleExitReady_keeps (gtime : Nat) (s : State) :
    KeepsOut 0x1506600032380 s (execIdleExitReady gtime s) := by
  have hμ : 0x1506600032380 ||| 0x1506600032380 = 0x1506600032380 := by decide
  unfold execIdleExitReady
  repeat' first
    | with_reducible apply KeepsOut.next
    | with_reducible exact Keeps.refl _
    | with_reducible assumption
    | with_reducible apply Keeps.modLnk (bit_of hμ (by decide))
    | with_reducible apply State.beginRun_keeps (sub_of hμ (by decide))
    | with_reducible apply State.finishRamps_keeps (sub_of hμ (by decide))
    | with_reducible apply State.setDies_keeps (sub_of hμ (by decide))
    | exact KeepsPart.same _ _ fun _ => rfl
    | (with_reducible refine KeepsPart.intro fun x hx => ?_; simp only [Links.canonical, Bool.and_eq_true] at hx ⊢; simp [hx] <;> (repeat' split) <;> simp [hx])
    | split
    | dsimp only

theorem State.resetModule_keeps {μ : Nat} (hμ : 0xffffffffffffffff007fffff ||| μ = μ) {s₀ s : State} (h : Keeps μ s₀ s) : Keeps μ s₀ s.resetModule :=
  h.trans <| Keeps.mono hμ <| Keeps.all rfl rfl rfl fun c => by
    simp only [State.canonical, RegFile.canonical, Kvm.canonical, Fabric.canonical, Attention.canonical, Loader.canonical, Links.canonical, Patrol.canonical, Thermal.canonical, Clocks.canonical, Events.canonical, Bonos.canonical, Pmc.canonical, Bool.and_eq_true] at c ⊢
    simp [State.resetModule, State.reset, keptTiles, c]

theorem State.restart_keeps {μ : Nat} (hμ : 0xffffffffffffffff007fffff ||| μ = μ) {s₀ s : State} (h : Keeps μ s₀ s) :
    Keeps μ s₀ (State.restart s) := by
  unfold State.restart
  repeat' first
    | with_reducible assumption
    | with_reducible apply State.put_keeps
    | with_reducible apply State.resetModule_keeps (sub_of hμ (by decide))
    | (with_reducible refine bit_of hμ ?_; first | decide | (simp (disch := decide) only [window_sel, window_die, window_arkKey, window_arkKey_add, window_keyAt, window_keyAt_add, window_wordAt, window_arkWord, window_drop, window_drop_hi, window_msix, window_srcWord, window_target, window_pendBit]; decide))
    | dsimp only

theorem State.powerOff_keeps {μ : Nat} (hμ : 0xffffffffffffffff007fffff ||| μ = μ) {s₀ s : State} (h : Keeps μ s₀ s) : Keeps μ s₀ s.powerOff :=
  h.trans <| Keeps.mono hμ <| Keeps.all rfl rfl rfl fun c => by
    simp only [State.canonical, RegFile.canonical, Kvm.canonical, Fabric.canonical, Attention.canonical, Loader.canonical, Links.canonical, Patrol.canonical, Thermal.canonical, Clocks.canonical, Events.canonical, Bonos.canonical, Pmc.canonical, Bool.and_eq_true] at c ⊢
    simp [State.powerOff, State.reset, keptTiles, c]

theorem State.putUp_keeps {μ : Nat} (hμ : 0x400020000 ||| μ = μ) {s₀ s : State} (h : Keeps μ s₀ s) (d : ResetDomain) (b : Bool) :
    Keeps μ s₀ (s.putUp d b) := by
  unfold State.putUp
  split
  · next x e =>
    refine Keeps.wr ?_ h
    have hx : regWindow x.1 = 2 := by
      cases d <;> simp only [porBit, Option.some.injEq, reduceCtorEq] at e <;> subst e <;>
        refine window_near ?_ ?_ (by omega) <;> simp only [Reg.PWR_POR0, Reg.PWR_POR1, hubNum] <;>
        first | omega | (split <;> omega)
    rw [hx]
    exact (bit_of hμ (by decide))
  · exact Keeps.modPwr (bit_of hμ (by decide)) h

theorem execRailRise_keeps (d : ResetDomain) (s : State) :
    KeepsOut 0x400020000 s (execRailRise d s) := by
  have hμ : 0x400020000 ||| 0x400020000 = 0x400020000 := by decide
  unfold execRailRise
  repeat' first
    | with_reducible apply KeepsOut.next
    | with_reducible exact Keeps.refl _
    | with_reducible assumption
    | with_reducible apply Keeps.modPwr (bit_of hμ (by decide))
    | with_reducible apply State.putUp_keeps (sub_of hμ (by decide))
    | split
    | dsimp only

theorem State.loseDie_keeps {μ : Nat} (hμ : 0x1000400030200 ||| μ = μ) {s₀ s : State} (h : Keeps μ s₀ s) (d : Nat) : Keeps μ s₀ (s.loseDie d) := by
  unfold State.loseDie
  extract_lets mine gone s1 new s2
  have h1 : Keeps μ s₀ s1 := by
    refine h.of_rf (KeepsPart.intro fun x hx => ?_) fun p e => ?_
    · simp only [RegFile.canonical, Bool.and_eq_true] at hx ⊢
      simp [hx]
    · cases p with
      | win w =>
        intro k hk
        have h16 : regWindow k ≠ 16 := fun c => by
          have b : μ.testBit 48 = true := (bit_of hμ (by decide))
          simp only [Part.bit, ← hk, c] at e
          rw [b] at e
          cases e
        have h2 : regWindow k ≠ 2 := fun c => by
          have b : μ.testBit 34 = true := (bit_of hμ (by decide))
          simp only [Part.bit, ← hk, c] at e
          rw [b] at e
          cases e
        have g : ∀ v, gone k v = true := by
          intro v
          simp only [gone, mine, Bool.not_eq_true', Bool.or_eq_false_iff, Bool.and_eq_false_iff, decide_eq_false_iff_not,
            beq_eq_false_iff_ne]
          refine ⟨fun c => h16 ?_, Or.inl fun c => h2 ?_⟩
          · have r : 16 ≤ k % selStride / 0x100000 ∧ k % selStride / 0x100000 < 32 := by omega
            simp only [regWindow]
            exact if_pos r
          · simp only [regWindow, c]
            decide
        simp [State.rd, s1, State.modRf, Table.get?_filter_same _ g]
      | _ => rfl
  clear_value s1
  have h2 : Keeps μ s₀ s2 := Keeps.modFab (bit_of hμ (by decide)) h1 <| KeepsPart.intro fun x hx => by
    simp only [Fabric.canonical, Bool.and_eq_true] at hx ⊢
    simp [hx]
  clear_value s2
  exact Keeps.modPwr (bit_of hμ (by decide)) <| Keeps.modClk (bit_of hμ (by decide)) h2 <| KeepsPart.same _ _ fun _ => rfl

theorem State.loseHub_keeps {μ : Nat} (hμ : 0x200000004400 ||| μ = μ) {s₀ s : State} (h : Keeps μ s₀ s) (h : Hub) :
    Keeps μ s₀ (State.loseHub s h) := by
  unfold State.loseHub
  repeat' first
    | with_reducible assumption
    | with_reducible apply Keeps.modAtt (bit_of hμ (by decide))
    | with_reducible apply Keeps.modPat (bit_of hμ (by decide))
    | with_reducible apply State.put_keeps
    | exact KeepsPart.same _ _ fun _ => rfl
    | (with_reducible refine KeepsPart.intro fun x hx => ?_; simp only [Attention.canonical, Patrol.canonical, Bool.and_eq_true] at hx ⊢; simp [hx] <;> (repeat' split) <;> simp [hx])
    | split
    | (with_reducible refine bit_of hμ ?_; first | decide | (simp (disch := decide) only [window_sel, window_die, window_arkKey, window_arkKey_add, window_keyAt, window_keyAt_add, window_wordAt, window_arkWord, window_drop, window_drop_hi, window_msix, window_srcWord, window_target, window_pendBit]; decide))
    | dsimp only

theorem State.loseStack_keeps {μ : Nat} (hμ : 0x40 ||| μ = μ) {s₀ s : State} (h : Keeps μ s₀ s) (n : Nat) :
    Keeps μ s₀ (State.loseStack s n) := by
  unfold State.loseStack
  repeat' first
    | with_reducible assumption
    | with_reducible apply Keeps.modKvm (bit_of hμ (by decide))
    | exact KeepsPart.same _ _ fun _ => rfl
    | (with_reducible refine KeepsPart.intro fun x hx => ?_; simp only [Kvm.canonical, Bool.and_eq_true] at hx ⊢; simp [hx])
    | dsimp only

theorem State.loseEngine_keeps {μ : Nat} (hμ : 0x300000306000 ||| μ = μ) {s₀ s : State} (h : Keeps μ s₀ s) (n : Nat) :
    Keeps μ s₀ (State.loseEngine s n) := by
  unfold State.loseEngine
  repeat' first
    | with_reducible assumption
    | with_reducible apply State.portToDown_keeps (sub_of hμ (by decide))
    | with_reducible apply Keeps.foldl
    | split
    | intro _ _ _
    | dsimp only

theorem execRailFall_keeps (d : ResetDomain) (s : State) :
    KeepsOut 0xffffffffffffffff007fffff s (execRailFall d s) := by
  have hμ : 0xffffffffffffffff007fffff ||| 0xffffffffffffffff007fffff = 0xffffffffffffffff007fffff := by decide
  unfold execRailFall
  repeat' first
    | with_reducible apply KeepsOut.next
    | with_reducible exact Keeps.refl _
    | with_reducible assumption
    | with_reducible apply State.loseDie_keeps (sub_of hμ (by decide))
    | with_reducible apply State.loseEngine_keeps (sub_of hμ (by decide))
    | with_reducible apply State.loseHub_keeps (sub_of hμ (by decide))
    | with_reducible apply State.loseStack_keeps (sub_of hμ (by decide))
    | with_reducible apply State.moduleFault_keeps (sub_of hμ (by decide))
    | with_reducible apply State.powerOff_keeps (sub_of hμ (by decide))
    | with_reducible apply State.putUp_keeps (sub_of hμ (by decide))
    | split
    | dsimp only

theorem execVppLost_keeps (s : State) :
    KeepsOut 0x400000000 s (execVppLost s) := by
  have hμ : 0x400000000 ||| 0x400000000 = 0x400000000 := by decide
  unfold execVppLost
  repeat' first
    | with_reducible apply KeepsOut.next
    | with_reducible exact Keeps.refl _
    | with_reducible assumption
    | with_reducible apply State.put_keeps
    | with_reducible apply State.raise_keeps
    | (with_reducible refine bit_of hμ ?_; first | decide | (simp (disch := decide) only [window_sel, window_die, window_arkKey, window_arkKey_add, window_keyAt, window_keyAt_add, window_wordAt, window_arkWord, window_drop, window_drop_hi, window_msix, window_srcWord, window_target, window_pendBit]; decide))
    | dsimp only

theorem execVppRestored_keeps (s : State) :
    KeepsOut 0x400000000 s (execVppRestored s) := by
  have hμ : 0x400000000 ||| 0x400000000 = 0x400000000 := by decide
  unfold execVppRestored
  repeat' first
    | with_reducible apply KeepsOut.next
    | with_reducible exact Keeps.refl _
    | with_reducible assumption
    | with_reducible apply State.put_keeps
    | (with_reducible refine bit_of hμ ?_; first | decide | (simp (disch := decide) only [window_sel, window_die, window_arkKey, window_arkKey_add, window_keyAt, window_keyAt_add, window_wordAt, window_arkWord, window_drop, window_drop_hi, window_msix, window_srcWord, window_target, window_pendBit]; decide))
    | dsimp only

theorem State.drainLog_keeps {μ : Nat} (hμ : 0x200000084000 ||| μ = μ) {s₀ s : State} (h : Keeps μ s₀ s) :
    Keeps μ s₀ (State.drainLog s) := by
  unfold State.drainLog
  repeat' first
    | with_reducible assumption
    | with_reducible apply Keeps.modPat (bit_of hμ (by decide))
    | with_reducible apply State.persist_keeps (sub_of hμ (by decide))
    | with_reducible apply State.put_keeps
    | with_reducible apply Keeps.foldl
    | exact KeepsPart.same _ _ fun _ => rfl
    | (with_reducible refine KeepsPart.intro fun x hx => ?_; simp only [Patrol.canonical, Bool.and_eq_true] at hx ⊢; simp [hx] <;> (repeat' split) <;> simp [hx])
    | split
    | intro _ _ _
    | (with_reducible refine bit_of hμ ?_; first | decide | (simp (disch := decide) only [window_sel, window_die, window_arkKey, window_arkKey_add, window_keyAt, window_keyAt_add, window_wordAt, window_arkWord, window_drop, window_drop_hi, window_msix, window_srcWord, window_target, window_pendBit]; decide))
    | dsimp only

theorem execSleepEntry_keeps (s : State) :
    KeepsOut 0x2000000a4200 s (execSleepEntry s) := by
  have hμ : 0x2000000a4200 ||| 0x2000000a4200 = 0x2000000a4200 := by decide
  unfold execSleepEntry
  repeat' first
    | with_reducible apply KeepsOut.next
    | with_reducible exact Keeps.refl _
    | with_reducible assumption
    | with_reducible apply Keeps.modPwr (bit_of hμ (by decide))
    | with_reducible apply State.drainLog_keeps (sub_of hμ (by decide))
    | with_reducible apply State.flushSets_keeps (sub_of hμ (by decide))
    | split
    | dsimp only

theorem execPmeTurnOff_keeps (s : State) :
    KeepsOut 0x400020004 s (execPmeTurnOff s) := by
  have hμ : 0x400020004 ||| 0x400020004 = 0x400020004 := by decide
  unfold execPmeTurnOff
  repeat' first
    | with_reducible apply KeepsOut.next
    | with_reducible exact Keeps.refl _
    | with_reducible assumption
    | with_reducible apply Keeps.modPcie (bit_of hμ (by decide))
    | with_reducible apply Keeps.modPwr (bit_of hμ (by decide))
    | with_reducible apply State.endRequest_keeps (sub_of hμ (by decide))
    | split
    | dsimp only

theorem State.riseSource_keeps {μ : Nat} (hμ : 0x600000000 ||| μ = μ) {s₀ s : State} (h : Keeps μ s₀ s) (src : Option (Fin 1536)) :
    Keeps μ s₀ (s.riseSource src) := by
  unfold State.riseSource
  split
  · next reg bit e =>
    refine Keeps.wr ?_ h
    obtain ⟨n, -, e⟩ := Option.bind_eq_some_iff.1 e
    split at e
    · next a =>
      have r : regWindow reg = 1 ∨ regWindow reg = 2 := by
        have hn : n.val = 16 ∨ n.val = 17 ∨ n.val = 24 ∨ n.val = 25 ∨ n.val = 26 := by
          simp only [heldInAon, Bool.or_eq_true, decide_eq_true_eq] at a
          omega
        rcases hn with c | c | c | c | c <;> rw [c] at e <;> simp [holdingBit] at e <;> obtain ⟨rfl, -⟩ := e <;> decide
      rcases r with r | r <;> rw [r] <;> exact (bit_of hμ (by decide))
    · cases e
  · exact h

theorem State.abortSleep_keeps {μ : Nat} (hμ : 0x400020000 ||| μ = μ) {s₀ s : State} (h : Keeps μ s₀ s) :
    Keeps μ s₀ (State.abortSleep s) := by
  unfold State.abortSleep
  repeat' first
    | with_reducible assumption
    | with_reducible apply Keeps.modPwr (bit_of hμ (by decide))
    | with_reducible apply State.count_keeps
    | with_reducible apply State.endRequest_keeps (sub_of hμ (by decide))
    | with_reducible apply State.raise_keeps
    | (with_reducible refine bit_of hμ ?_; first | decide | (simp (disch := decide) only [window_sel, window_die, window_arkKey, window_arkKey_add, window_keyAt, window_keyAt_add, window_wordAt, window_arkWord, window_drop, window_drop_hi, window_msix, window_srcWord, window_target, window_pendBit]; decide))
    | dsimp only

theorem State.wakeUp_keeps {μ : Nat} (hμ : 0xffffffffffffffff007fffff ||| μ = μ) {s₀ s : State} (h : Keeps μ s₀ s) :
    Keeps μ s₀ (State.wakeUp s) := by
  unfold State.wakeUp
  repeat' first
    | with_reducible assumption
    | with_reducible apply Keeps.modPwr (bit_of hμ (by decide))
    | with_reducible apply State.abortSleep_keeps (sub_of hμ (by decide))
    | with_reducible apply State.restart_keeps (sub_of hμ (by decide))
    | split
    | dsimp only

theorem execWake_keeps (source : Option (Fin 1536)) (s : State) :
    KeepsOut 0xffffffffffffffff007fffff s (execWake source s) := by
  have hμ : 0xffffffffffffffff007fffff ||| 0xffffffffffffffff007fffff = 0xffffffffffffffff007fffff := by decide
  unfold execWake
  repeat' first
    | with_reducible apply KeepsOut.next
    | with_reducible exact Keeps.refl _
    | with_reducible assumption
    | with_reducible apply State.riseSource_keeps (sub_of hμ (by decide))
    | with_reducible apply State.wakeUp_keeps (sub_of hμ (by decide))
    | split
    | dsimp only

theorem execSleepAbort_keeps (source : Option (Fin 1536)) (s : State) :
    KeepsOut 0xffffffffffffffff007fffff s (execSleepAbort source s) := by
  have hμ : 0xffffffffffffffff007fffff ||| 0xffffffffffffffff007fffff = 0xffffffffffffffff007fffff := by decide
  unfold execSleepAbort
  repeat' first
    | with_reducible apply KeepsOut.next
    | with_reducible exact Keeps.refl _
    | with_reducible assumption
    | with_reducible apply State.riseSource_keeps (sub_of hμ (by decide))
    | with_reducible apply State.wakeUp_keeps (sub_of hμ (by decide))
    | split
    | dsimp only

theorem execPwrWakeTmr_keeps (s : State) :
    KeepsOut 0xffffffffffffffff007fffff s (execPwrWakeTmr s) := by
  have hμ : 0xffffffffffffffff007fffff ||| 0xffffffffffffffff007fffff = 0xffffffffffffffff007fffff := by decide
  unfold execPwrWakeTmr
  repeat' first
    | with_reducible apply KeepsOut.next
    | with_reducible exact Keeps.refl _
    | with_reducible assumption
    | with_reducible apply State.wakeUp_keeps (sub_of hμ (by decide))
    | split
    | dsimp only

theorem execPerstNDeassert_keeps (s : State) :
    KeepsOut 0xffffffffffffffff007fffff s (execPerstNDeassert s) := by
  have hμ : 0xffffffffffffffff007fffff ||| 0xffffffffffffffff007fffff = 0xffffffffffffffff007fffff := by decide
  unfold execPerstNDeassert
  repeat' first
    | with_reducible apply KeepsOut.next
    | with_reducible exact Keeps.refl _
    | with_reducible assumption
    | with_reducible apply Keeps.modPcie (bit_of hμ (by decide))
    | with_reducible apply State.wakeUp_keeps (sub_of hμ (by decide))
    | dsimp only

theorem State.release364_keeps {μ : Nat} (hμ : 0xffffffffffffffff007fffff ||| μ = μ) {s₀ s : State} (h : Keeps μ s₀ s) :
    Keeps μ s₀ (State.release364 s) := by
  unfold State.release364
  repeat' first
    | with_reducible assumption
    | with_reducible apply State.restart_keeps (sub_of hμ (by decide))
    | dsimp only

theorem execPerstNAssert_keeps (s : State) :
    KeepsOut 0xffffffffffffffff007fffff s (execPerstNAssert s) := by
  have hμ : 0xffffffffffffffff007fffff ||| 0xffffffffffffffff007fffff = 0xffffffffffffffff007fffff := by decide
  unfold execPerstNAssert
  repeat' first
    | with_reducible apply KeepsOut.next
    | with_reducible exact Keeps.refl _
    | with_reducible assumption
    | with_reducible apply Keeps.modPcie (bit_of hμ (by decide))
    | with_reducible apply State.flr_keeps (sub_of hμ (by decide))
    | with_reducible apply State.release364_keeps (sub_of hμ (by decide))
    | split
    | dsimp only

theorem State.haltChange_keeps {μ : Nat} (hμ : 0x1002400284400 ||| μ = μ) {s₀ s : State} (h : Keeps μ s₀ s) (pin : HaltPin) (level : Bool) (ticks : Nat) :
    Keeps μ s₀ (State.haltChange s pin level ticks) := by
  unfold State.haltChange
  repeat' first
    | with_reducible assumption
    | with_reducible apply State.count_keeps
    | with_reducible apply State.haltLatch_keeps (sub_of hμ (by decide))
    | with_reducible apply State.putB_keeps
    | with_reducible apply State.put_keeps
    | split
    | (with_reducible refine bit_of hμ ?_; first | decide | (simp (disch := decide) only [window_sel, window_die, window_arkKey, window_arkKey_add, window_keyAt, window_keyAt_add, window_wordAt, window_arkWord, window_drop, window_drop_hi, window_msix, window_srcWord, window_target, window_pendBit]; decide))
    | dsimp only

theorem execHaltInputChange_keeps (pin : HaltPin) (level : Bool) (ticks : Nat) (s : State) :
    KeepsOut 0x1002400284400 s (execHaltInputChange pin level ticks s) := by
  have hμ : 0x1002400284400 ||| 0x1002400284400 = 0x1002400284400 := by decide
  unfold execHaltInputChange
  repeat' first
    | with_reducible apply KeepsOut.next
    | with_reducible exact Keeps.refl _
    | with_reducible assumption
    | with_reducible apply State.haltChange_keeps (sub_of hμ (by decide))
    | dsimp only

theorem execHaltDiscrepancy_keeps (s : State) :
    KeepsOut 0x1002400284400 s (execHaltDiscrepancy s) := by
  have hμ : 0x1002400284400 ||| 0x1002400284400 = 0x1002400284400 := by decide
  unfold execHaltDiscrepancy
  repeat' first
    | with_reducible apply KeepsOut.next
    | with_reducible exact Keeps.refl _
    | with_reducible assumption
    | with_reducible apply State.haltLatch_keeps (sub_of hμ (by decide))
    | with_reducible apply State.put_keeps
    | split
    | (with_reducible refine bit_of hμ ?_; first | decide | (simp (disch := decide) only [window_sel, window_die, window_arkKey, window_arkKey_add, window_keyAt, window_keyAt_add, window_wordAt, window_arkWord, window_drop, window_drop_hi, window_msix, window_srcWord, window_target, window_pendBit]; decide))
    | dsimp only

theorem execHaltRelease_keeps (s : State) :
    KeepsOut 0xffffffffffffffff007fffff s (execHaltRelease s) := by
  have hμ : 0xffffffffffffffff007fffff ||| 0xffffffffffffffff007fffff = 0xffffffffffffffff007fffff := by decide
  unfold execHaltRelease
  repeat' first
    | with_reducible apply KeepsOut.next
    | with_reducible exact Keeps.refl _
    | with_reducible assumption
    | with_reducible apply Keeps.modPwr (bit_of hμ (by decide))
    | with_reducible apply State.release364_keeps (sub_of hμ (by decide))
    | split
    | dsimp only

end Sys2Proof.Machine
end

