-- ==== Sys2Proof/Laws/KeepBonos.lean ====
section
/-!
SUPPORT. What the operations of Machine/Bonos.lean keep (Laws/Keeps.lean).
-/

set_option linter.all false

namespace Sys2Proof.Machine

theorem State.markCopy_keeps {μ : Nat} (hμ : 0x80000 ||| μ = μ) {s₀ s : State} (h : Keeps μ s₀ s) (c n : Nat) :
    Keeps μ s₀ (State.markCopy s c n) := by
  unfold State.markCopy
  repeat' first
    | with_reducible assumption
    | with_reducible apply State.writeFlash_keeps (sub_of hμ (by decide))
    | dsimp only

theorem State.spendTrials_keeps {μ : Nat} (hμ : 0x80000 ||| μ = μ) {s₀ s : State} (h : Keeps μ s₀ s) :
    Keeps μ s₀ (State.spendTrials s) := by
  unfold State.spendTrials
  repeat' first
    | with_reducible assumption
    | with_reducible apply State.markCopy_keeps (sub_of hμ (by decide))
    | with_reducible apply Keeps.foldl
    | split
    | intro _ _ _
    | dsimp only

theorem State.spendAttempt_keeps {μ : Nat} (hμ : 0x80000 ||| μ = μ) {s₀ s : State} (h : Keeps μ s₀ s) (c : Nat) :
    Keeps μ s₀ (State.spendAttempt s c) := by
  unfold State.spendAttempt
  repeat' first
    | with_reducible assumption
    | with_reducible apply State.writeFlash_keeps (sub_of hμ (by decide))
    | split
    | dsimp only

theorem State.groomOnly_keeps {μ : Nat} (hμ : 0x1000000000000 ||| μ = μ) {s₀ s : State} (h : Keeps μ s₀ s) :
    Keeps μ s₀ (State.groomOnly s) := by
  unfold State.groomOnly
  repeat' first
    | with_reducible assumption
    | with_reducible apply State.put_keeps
    | with_reducible apply Keeps.foldl
    | split
    | intro _ _ _
    | (with_reducible refine bit_of hμ ?_; first | decide | (simp (disch := decide) only [window_sel, window_die, window_arkKey, window_arkKey_add, window_keyAt, window_keyAt_add, window_wordAt, window_arkWord, window_drop, window_drop_hi, window_msix, window_srcWord, window_target, window_pendBit]; decide))
    | dsimp only

theorem State.enterRecovery_keeps {μ : Nat} (hμ : 0x10001000a00090004 ||| μ = μ) {s₀ s : State} (h : Keeps μ s₀ s) :
    Keeps μ s₀ (State.enterRecovery s) := by
  unfold State.enterRecovery
  repeat' first
    | with_reducible assumption
    | with_reducible apply Keeps.modPcie (bit_of hμ (by decide))
    | with_reducible apply State.groomOnly_keeps (sub_of hμ (by decide))
    | with_reducible apply State.put_keeps
    | with_reducible apply State.setClock_keeps (sub_of hμ (by decide))
    | with_reducible apply State.writeOwed_keeps (sub_of hμ (by decide))
    | with_reducible apply Keeps.foldl
    | intro _ _ _
    | (with_reducible refine bit_of hμ ?_; first | decide | (simp (disch := decide) only [window_sel, window_die, window_arkKey, window_arkKey_add, window_keyAt, window_keyAt_add, window_wordAt, window_arkWord, window_drop, window_drop_hi, window_msix, window_srcWord, window_target, window_pendBit]; decide))
    | dsimp only

theorem State.beginStart_keeps {μ : Nat} (hμ : 0x10001000a00090004 ||| μ = μ) {s₀ s : State} (h : Keeps μ s₀ s) :
    Keeps μ s₀ (State.beginStart s) := by
  unfold State.beginStart
  repeat' first
    | with_reducible assumption
    | with_reducible apply State.enterRecovery_keeps (sub_of hμ (by decide))
    | with_reducible apply State.put_keeps
    | with_reducible apply State.spendAttempt_keeps (sub_of hμ (by decide))
    | with_reducible apply State.spendTrials_keeps (sub_of hμ (by decide))
    | split
    | (with_reducible refine bit_of hμ ?_; first | decide | (simp (disch := decide) only [window_sel, window_die, window_arkKey, window_arkKey_add, window_keyAt, window_keyAt_add, window_wordAt, window_arkWord, window_drop, window_drop_hi, window_msix, window_srcWord, window_target, window_pendBit]; decide))
    | dsimp only

theorem execBonosStart_keeps (s : State) :
    KeepsOut 0x10001000a00090004 s (execBonosStart s) := by
  have hμ : 0x10001000a00090004 ||| 0x10001000a00090004 = 0x10001000a00090004 := by decide
  unfold execBonosStart
  repeat' first
    | with_reducible apply KeepsOut.next
    | with_reducible exact Keeps.refl _
    | with_reducible assumption
    | with_reducible apply Keeps.modBon (bit_of hμ (by decide))
    | with_reducible apply State.beginStart_keeps (sub_of hμ (by decide))
    | with_reducible apply State.groomOnly_keeps (sub_of hμ (by decide))
    | exact KeepsPart.same _ _ fun _ => rfl
    | (with_reducible refine KeepsPart.intro fun x hx => ?_; simp only [Bonos.canonical, Bool.and_eq_true] at hx ⊢; simp [hx] <;> (repeat' split) <;> simp [hx])
    | split
    | dsimp only

theorem State.failCopy_keeps {μ : Nat} (hμ : 0xffffffffffffffff007fffff ||| μ = μ) {s₀ s : State} (h : Keeps μ s₀ s) :
    Keeps μ s₀ (State.failCopy s) := by
  unfold State.failCopy
  repeat' first
    | with_reducible assumption
    | with_reducible apply State.beginStart_keeps (sub_of hμ (by decide))
    | with_reducible apply State.bonosEntry_keeps (sub_of hμ (by decide))
    | with_reducible apply State.groomOnly_keeps (sub_of hμ (by decide))
    | with_reducible apply State.markCopy_keeps (sub_of hμ (by decide))
    | with_reducible apply State.resetModule_keeps (sub_of hμ (by decide))
    | dsimp only

theorem State.applyFirst_keeps {μ : Nat} (hμ : 0xffffffffffffffff00030005 ||| μ = μ) {s₀ s : State} (h : Keeps μ s₀ s) (img : List Byte) :
    Keeps μ s₀ (State.applyFirst s img) := by
  unfold State.applyFirst
  repeat' first
    | with_reducible assumption
    | with_reducible apply Keeps.modPcie (bit_of hμ (by decide))
    | with_reducible apply State.applyClock_keeps (sub_of hμ (by decide))
    | with_reducible apply State.applyThreshes_keeps (sub_of hμ (by decide))
    | with_reducible apply State.closeGate_keeps (sub_of hμ (by decide))
    | with_reducible apply State.wr64_keeps
    | with_reducible apply Keeps.foldl
    | intro _ _ _
    | (with_reducible refine bit_of hμ ?_; first | decide | (simp (disch := decide) only [window_sel, window_die, window_arkKey, window_arkKey_add, window_keyAt, window_keyAt_add, window_wordAt, window_arkWord, window_drop, window_drop_hi, window_msix, window_srcWord, window_target, window_pendBit]; decide))
    | dsimp only

theorem execImagePass1Done_keeps (s : State) :
    KeepsOut 0xffffffffffffffff007fffff s (execImagePass1Done s) := by
  have hμ : 0xffffffffffffffff007fffff ||| 0xffffffffffffffff007fffff = 0xffffffffffffffff007fffff := by decide
  unfold execImagePass1Done
  repeat' first
    | with_reducible apply KeepsOut.next
    | with_reducible exact Keeps.refl _
    | with_reducible assumption
    | with_reducible apply State.applyFirst_keeps (sub_of hμ (by decide))
    | with_reducible apply State.failCopy_keeps (sub_of hμ (by decide))
    | with_reducible apply State.put_keeps
    | split
    | (with_reducible refine bit_of hμ ?_; first | decide | (simp (disch := decide) only [window_sel, window_die, window_arkKey, window_arkKey_add, window_keyAt, window_keyAt_add, window_wordAt, window_arkWord, window_drop, window_drop_hi, window_msix, window_srcWord, window_target, window_pendBit]; decide))
    | dsimp only

theorem execMemoryTrainingDone_keeps (lodgeHe lodgeHw : Nat) (s : State) :
    KeepsOut 0x100000006000b0000 s (execMemoryTrainingDone lodgeHe lodgeHw s) := by
  have hμ : 0x100000006000b0000 ||| 0x100000006000b0000 = 0x100000006000b0000 := by decide
  unfold execMemoryTrainingDone
  repeat' first
    | with_reducible apply KeepsOut.next
    | with_reducible exact Keeps.refl _
    | with_reducible assumption
    | with_reducible apply Keeps.modBon (bit_of hμ (by decide))
    | with_reducible apply State.finishRamps_keeps (sub_of hμ (by decide))
    | with_reducible apply State.put_keeps
    | exact KeepsPart.same _ _ fun _ => rfl
    | (with_reducible refine KeepsPart.intro fun x hx => ?_; simp only [Bonos.canonical, Bool.and_eq_true] at hx ⊢; simp [hx] <;> (repeat' split) <;> simp [hx])
    | split
    | (with_reducible refine bit_of hμ ?_; first | decide | (simp (disch := decide) only [window_sel, window_die, window_arkKey, window_arkKey_add, window_keyAt, window_keyAt_add, window_wordAt, window_arkWord, window_drop, window_drop_hi, window_msix, window_srcWord, window_target, window_pendBit]; decide))
    | dsimp only

theorem State.applyRoutes_keeps {μ : Nat} (hμ : 0x800000000 ||| μ = μ) {s₀ s : State} (h : Keeps μ s₀ s) (l : List Byte) :
    Keeps μ s₀ (State.applyRoutes s l) := by
  unfold State.applyRoutes
  repeat' first
    | with_reducible assumption
    | with_reducible apply State.applyRouting_keeps (sub_of hμ (by decide))
    | with_reducible apply Keeps.foldl
    | intro _ _ _
    | dsimp only

theorem State.applyPiste_keeps {μ : Nat} (hμ : 0xffffffffffffffff00000001 ||| μ = μ) {s₀ s : State} (h : Keeps μ s₀ s) (m : Image) :
    Keeps μ s₀ (State.applyPiste s m) := by
  unfold State.applyPiste
  repeat' first
    | with_reducible assumption
    | with_reducible apply State.imageField_keeps (sub_of hμ (by decide))
    | with_reducible apply State.setUnit_keeps (sub_of hμ (by decide))
    | with_reducible apply State.wr64_keeps
    | with_reducible apply Keeps.foldl
    | split
    | intro _ _ _
    | (with_reducible refine bit_of hμ ?_; first | decide | (simp (disch := decide) only [window_sel, window_die, window_arkKey, window_arkKey_add, window_keyAt, window_keyAt_add, window_wordAt, window_arkWord, window_drop, window_drop_hi, window_msix, window_srcWord, window_target, window_pendBit]; decide))
    | dsimp only

theorem State.applyPool_keeps {μ : Nat} (hμ : 0xffffffffffffffff00000001 ||| μ = μ) {s₀ s : State} (h : Keeps μ s₀ s) (h : Nat) (p : PoolRec) :
    Keeps μ s₀ (State.applyPool s h p) := by
  unfold State.applyPool
  repeat' first
    | with_reducible assumption
    | with_reducible apply State.imageField_keeps (sub_of hμ (by decide))
    | dsimp only

theorem State.applyLink_keeps {μ : Nat} (hμ : 0xffffffffffffffff00002001 ||| μ = μ) {s₀ s : State} (h : Keeps μ s₀ s) (m : Image) :
    Keeps μ s₀ (State.applyLink s m) := by
  unfold State.applyLink
  repeat' first
    | with_reducible assumption
    | with_reducible apply State.imageField_keeps (sub_of hμ (by decide))
    | with_reducible apply State.startPort_keeps (sub_of hμ (by decide))
    | with_reducible apply Keeps.foldl
    | split
    | intro _ _ _
    | dsimp only

theorem State.applySections_keeps {μ : Nat} (hμ : 0xffffffffffffffff00082001 ||| μ = μ) {s₀ s : State} (h : Keeps μ s₀ s) (img : List Byte) :
    Keeps μ s₀ (State.applySections s img) := by
  unfold State.applySections
  repeat' first
    | with_reducible assumption
    | with_reducible apply Keeps.modBon (bit_of hμ (by decide))
    | with_reducible apply State.applyLink_keeps (sub_of hμ (by decide))
    | with_reducible apply State.applyPiste_keeps (sub_of hμ (by decide))
    | with_reducible apply State.applyPool_keeps (sub_of hμ (by decide))
    | with_reducible apply State.applyRoutes_keeps (sub_of hμ (by decide))
    | with_reducible apply State.applyThreshes_keeps (sub_of hμ (by decide))
    | with_reducible apply State.imageField_keeps (sub_of hμ (by decide))
    | exact KeepsPart.same _ _ fun _ => rfl
    | (with_reducible refine KeepsPart.intro fun x hx => ?_; simp only [Bonos.canonical, Bool.and_eq_true] at hx ⊢; simp [hx])
    | dsimp only

theorem execImagePass2Done_keeps (s : State) :
    KeepsOut 0xffffffffffffffff007fffff s (execImagePass2Done s) := by
  have hμ : 0xffffffffffffffff007fffff ||| 0xffffffffffffffff007fffff = 0xffffffffffffffff007fffff := by decide
  unfold execImagePass2Done
  repeat' first
    | with_reducible apply KeepsOut.next
    | with_reducible exact Keeps.refl _
    | with_reducible assumption
    | with_reducible apply State.applySections_keeps (sub_of hμ (by decide))
    | with_reducible apply State.failCopy_keeps (sub_of hμ (by decide))
    | with_reducible apply State.put_keeps
    | split
    | (with_reducible refine bit_of hμ ?_; first | decide | (simp (disch := decide) only [window_sel, window_die, window_arkKey, window_arkKey_add, window_keyAt, window_keyAt_add, window_wordAt, window_arkWord, window_drop, window_drop_hi, window_msix, window_srcWord, window_target, window_pendBit]; decide))
    | dsimp only

theorem State.loadTile_keeps {μ : Nat} (hμ : 0x200 ||| μ = μ) {s₀ s : State} (h : Keeps μ s₀ s) (d t n anchor : Nat) :
    Keeps μ s₀ (State.loadTile s d t n anchor) := by
  unfold State.loadTile
  repeat' first
    | with_reducible assumption
    | with_reducible apply State.modTile_keeps (sub_of hμ (by decide))
    | split
    | dsimp only

theorem State.placeTile_keeps {μ : Nat} (hμ : 0x200 ||| μ = μ) {s₀ s : State} (h : Keeps μ s₀ s) (d t : Nat) :
    Keeps μ s₀ (State.placeTile s d t) := by
  unfold State.placeTile
  repeat' first
    | with_reducible assumption
    | with_reducible apply State.modTile_keeps (sub_of hμ (by decide))
    | split
    | dsimp only

theorem State.recoverFence_keeps {μ : Nat} (hμ : 0x202000304280 ||| μ = μ) {s₀ s : State} (h : Keeps μ s₀ s) (d t : Nat) :
    Keeps μ s₀ (State.recoverFence s d t) := by
  unfold State.recoverFence
  repeat' first
    | with_reducible assumption
    | with_reducible apply State.beginUnits_keeps (sub_of hμ (by decide))
    | with_reducible apply State.claimBoth_keeps (sub_of hμ (by decide))
    | with_reducible apply State.takeSpare_keeps (sub_of hμ (by decide))
    | split
    | dsimp only

theorem State.loadDie_keeps {μ : Nat} (hμ : 0x202000304280 ||| μ = μ) {s₀ s : State} (h : Keeps μ s₀ s) (d : Nat) :
    Keeps μ s₀ (State.loadDie s d) := by
  unfold State.loadDie
  repeat' first
    | with_reducible assumption
    | with_reducible apply Keeps.modFab (bit_of hμ (by decide))
    | with_reducible apply State.loadTile_keeps (sub_of hμ (by decide))
    | with_reducible apply State.placeTile_keeps (sub_of hμ (by decide))
    | with_reducible apply State.put_keeps
    | with_reducible apply State.recoverFence_keeps (sub_of hμ (by decide))
    | with_reducible apply Keeps.foldl
    | exact KeepsPart.same _ _ fun _ => rfl
    | (with_reducible refine KeepsPart.intro fun x hx => ?_; simp only [Fabric.canonical, Bool.and_eq_true] at hx ⊢; simp [hx])
    | intro _ _ _
    | (with_reducible refine bit_of hμ ?_; first | decide | (simp (disch := decide) only [window_sel, window_die, window_arkKey, window_arkKey_add, window_keyAt, window_keyAt_add, window_wordAt, window_arkWord, window_drop, window_drop_hi, window_msix, window_srcWord, window_target, window_pendBit]; decide))
    | dsimp only

theorem State.loadSlot_keeps {μ : Nat} (hμ : 0x80000001000 ||| μ = μ) {s₀ s : State} (h : Keeps μ s₀ s) (m : Nat) :
    Keeps μ s₀ (State.loadSlot s m) := by
  unfold State.loadSlot
  repeat' first
    | with_reducible assumption
    | with_reducible apply Keeps.modLdr (bit_of hμ (by decide))
    | with_reducible apply State.put_keeps
    | with_reducible apply State.setSlot_keeps (sub_of hμ (by decide))
    | exact KeepsPart.same _ _ fun _ => rfl
    | (with_reducible refine KeepsPart.intro fun x hx => ?_; simp only [Loader.canonical, Bool.and_eq_true] at hx ⊢; simp [hx] <;> (repeat' split) <;> simp [hx])
    | split
    | (with_reducible refine bit_of hμ ?_; first | decide | (simp (disch := decide) only [window_sel, window_die, window_arkKey, window_arkKey_add, window_keyAt, window_keyAt_add, window_wordAt, window_arkWord, window_drop, window_drop_hi, window_msix, window_srcWord, window_target, window_pendBit]; decide))
    | dsimp only

theorem execGroomingTablesLoaded_keeps (s : State) :
    KeepsOut 0x10001682000305280 s (execGroomingTablesLoaded s) := by
  have hμ : 0x10001682000305280 ||| 0x10001682000305280 = 0x10001682000305280 := by decide
  unfold execGroomingTablesLoaded
  repeat' first
    | with_reducible apply KeepsOut.next
    | with_reducible exact Keeps.refl _
    | with_reducible assumption
    | with_reducible apply Keeps.modPlan (bit_of hμ (by decide))
    | with_reducible apply State.commitBanks_keeps (sub_of hμ (by decide))
    | with_reducible apply State.compose_keeps (sub_of hμ (by decide))
    | with_reducible apply State.groomOnly_keeps (sub_of hμ (by decide))
    | with_reducible apply State.loadDie_keeps (sub_of hμ (by decide))
    | with_reducible apply State.loadSlot_keeps (sub_of hμ (by decide))
    | with_reducible apply State.put_keeps
    | with_reducible apply Keeps.foldl
    | split
    | intro _ _ _
    | (with_reducible refine bit_of hμ ?_; first | decide | (simp (disch := decide) only [window_sel, window_die, window_arkKey, window_arkKey_add, window_keyAt, window_keyAt_add, window_wordAt, window_arkWord, window_drop, window_drop_hi, window_msix, window_srcWord, window_target, window_pendBit]; decide))
    | dsimp only

theorem State.dropFailed_keeps {μ : Nat} (hμ : 0x202000304280 ||| μ = μ) {s₀ s : State} (h : Keeps μ s₀ s) :
    Keeps μ s₀ (State.dropFailed s) := by
  unfold State.dropFailed
  repeat' first
    | with_reducible assumption
    | with_reducible apply State.claimPlanned_keeps (sub_of hμ (by decide))
    | with_reducible apply State.fencePlanned_keeps (sub_of hμ (by decide))
    | dsimp only

theorem execStartupReady_keeps (us gtime : Nat) (s : State) :
    KeepsOut 0x10001706c003a4384 s (execStartupReady us gtime s) := by
  have hμ : 0x10001706c003a4384 ||| 0x10001706c003a4384 = 0x10001706c003a4384 := by decide
  unfold execStartupReady
  repeat' first
    | with_reducible apply KeepsOut.next
    | with_reducible exact Keeps.refl _
    | with_reducible assumption
    | with_reducible apply Keeps.modPcie (bit_of hμ (by decide))
    | with_reducible apply State.beginRun_keeps (sub_of hμ (by decide))
    | with_reducible apply State.bonosEntry_keeps (sub_of hμ (by decide))
    | with_reducible apply State.dropFailed_keeps (sub_of hμ (by decide))
    | with_reducible apply State.markCopy_keeps (sub_of hμ (by decide))
    | with_reducible apply State.put_keeps
    | with_reducible apply State.wr64_keeps
    | with_reducible apply State.writeOwed_keeps (sub_of hμ (by decide))
    | split
    | (with_reducible refine bit_of hμ ?_; first | decide | (simp (disch := decide) only [window_sel, window_die, window_arkKey, window_arkKey_add, window_keyAt, window_keyAt_add, window_wordAt, window_arkWord, window_drop, window_drop_hi, window_msix, window_srcWord, window_target, window_pendBit]; decide))
    | dsimp only

theorem execRecovery_keeps (s : State) :
    KeepsOut 0x10001000a00090004 s (execRecovery s) := by
  have hμ : 0x10001000a00090004 ||| 0x10001000a00090004 = 0x10001000a00090004 := by decide
  unfold execRecovery
  repeat' first
    | with_reducible apply KeepsOut.next
    | with_reducible exact Keeps.refl _
    | with_reducible assumption
    | with_reducible apply State.enterRecovery_keeps (sub_of hμ (by decide))
    | split
    | dsimp only

theorem execLogDrain_keeps (s : State) :
    KeepsOut 0x200000084000 s (execLogDrain s) := by
  have hμ : 0x200000084000 ||| 0x200000084000 = 0x200000084000 := by decide
  unfold execLogDrain
  repeat' first
    | with_reducible apply KeepsOut.next
    | with_reducible exact Keeps.refl _
    | with_reducible assumption
    | with_reducible apply State.drainLog_keeps (sub_of hμ (by decide))
    | split
    | dsimp only

theorem State.writeBonCmd_keeps {μ : Nat} (hμ : 0x10000200000084200 ||| μ = μ) {s₀ s : State} (h : Keeps μ s₀ s) (v : Word) :
    Keeps μ s₀ (State.writeBonCmd s v) := by
  unfold State.writeBonCmd
  repeat' first
    | with_reducible assumption
    | with_reducible apply Keeps.wr
    | with_reducible apply State.drainLog_keeps (sub_of hμ (by decide))
    | with_reducible apply State.flushSets_keeps (sub_of hμ (by decide))
    | with_reducible apply State.put_keeps
    | with_reducible apply Keeps.foldl
    | split
    | intro _ _ _
    | (with_reducible refine bit_of hμ ?_; first | decide | (simp (disch := decide) only [window_sel, window_die, window_arkKey, window_arkKey_add, window_keyAt, window_keyAt_add, window_wordAt, window_arkWord, window_drop, window_drop_hi, window_msix, window_srcWord, window_target, window_pendBit]; decide))
    | dsimp only

theorem execBonCmdLogRead_keeps (v : Word) (s : State) :
    KeepsOut 0x10000200000084200 s (execBonCmdLogRead v s) := by
  have hμ : 0x10000200000084200 ||| 0x10000200000084200 = 0x10000200000084200 := by decide
  unfold execBonCmdLogRead
  repeat' first
    | with_reducible apply KeepsOut.next
    | with_reducible exact Keeps.refl _
    | with_reducible assumption
    | with_reducible apply State.writeBonCmd_keeps (sub_of hμ (by decide))
    | dsimp only

theorem execBonCmdFlush_keeps (v : Word) (s : State) :
    KeepsOut 0x10000200000084200 s (execBonCmdFlush v s) := by
  have hμ : 0x10000200000084200 ||| 0x10000200000084200 = 0x10000200000084200 := by decide
  unfold execBonCmdFlush
  repeat' first
    | with_reducible apply KeepsOut.next
    | with_reducible exact Keeps.refl _
    | with_reducible assumption
    | with_reducible apply State.writeBonCmd_keeps (sub_of hμ (by decide))
    | dsimp only

theorem State.respond_keeps {μ : Nat} (hμ : 0x400000 ||| μ = μ) {s₀ s : State} (h : Keeps μ s₀ s) (code : Nat) (bytes : List Byte) :
    Keeps μ s₀ (State.respond s code bytes) := by
  unfold State.respond
  repeat' first
    | with_reducible assumption
    | with_reducible apply Keeps.send (bit_of hμ (by decide))
    | dsimp only

theorem execUpdBegin_keeps (len : Word) (s : State) :
    KeepsOut 0x480000 s (execUpdBegin len s) := by
  have hμ : 0x480000 ||| 0x480000 = 0x480000 := by decide
  unfold execUpdBegin
  repeat' first
    | with_reducible apply KeepsOut.next
    | with_reducible exact Keeps.refl _
    | with_reducible assumption
    | with_reducible apply Keeps.modBon (bit_of hμ (by decide))
    | with_reducible apply State.eraseFlash_keeps (sub_of hμ (by decide))
    | with_reducible apply State.respond_keeps (sub_of hμ (by decide))
    | exact KeepsPart.same _ _ fun _ => rfl
    | (with_reducible refine KeepsPart.intro fun x hx => ?_; simp only [Bonos.canonical, Bool.and_eq_true] at hx ⊢; simp [hx] <;> (repeat' split) <;> simp [hx])
    | split
    | dsimp only

theorem execUpdData_keeps (off : Word) (bytes : List Byte) (s : State) :
    KeepsOut 0x480000 s (execUpdData off bytes s) := by
  have hμ : 0x480000 ||| 0x480000 = 0x480000 := by decide
  unfold execUpdData
  repeat' first
    | with_reducible apply KeepsOut.next
    | with_reducible exact Keeps.refl _
    | with_reducible assumption
    | with_reducible apply State.respond_keeps (sub_of hμ (by decide))
    | with_reducible apply State.writeFlash_keeps (sub_of hμ (by decide))
    | split
    | dsimp only

theorem execUpdEnd_keeps (s : State) :
    KeepsOut 0x680000 s (execUpdEnd s) := by
  have hμ : 0x680000 ||| 0x680000 = 0x680000 := by decide
  unfold execUpdEnd
  repeat' first
    | with_reducible apply KeepsOut.next
    | with_reducible exact Keeps.refl _
    | with_reducible assumption
    | with_reducible apply Keeps.modBon (bit_of hμ (by decide))
    | with_reducible apply State.bonosEntry_keeps (sub_of hμ (by decide))
    | with_reducible apply State.respond_keeps (sub_of hμ (by decide))
    | with_reducible apply State.writeFlash_keeps (sub_of hμ (by decide))
    | exact KeepsPart.same _ _ fun _ => rfl
    | (with_reducible refine KeepsPart.intro fun x hx => ?_; simp only [Bonos.canonical, Bool.and_eq_true] at hx ⊢; simp [hx] <;> (repeat' split) <;> simp [hx])
    | split
    | dsimp only

theorem execKeyPut_keeps (kind index : Byte) (data : BitVec 384) (signed : Bool) (s : State) :
    KeepsOut 0x480000 s (execKeyPut kind index data signed s) := by
  have hμ : 0x480000 ||| 0x480000 = 0x480000 := by decide
  unfold execKeyPut
  repeat' first
    | with_reducible apply KeepsOut.next
    | with_reducible exact Keeps.refl _
    | with_reducible assumption
    | with_reducible apply Keeps.modBon (bit_of hμ (by decide))
    | with_reducible apply State.put_keeps
    | with_reducible apply State.respond_keeps (sub_of hμ (by decide))
    | exact KeepsPart.same _ _ fun _ => rfl
    | (with_reducible refine KeepsPart.intro fun x hx => ?_; simp only [Bonos.canonical, Bool.and_eq_true] at hx ⊢; simp [hx] <;> (repeat' split) <;> simp [hx])
    | split
    | (with_reducible refine bit_of hμ ?_; first | decide | (simp (disch := decide) only [window_sel, window_die, window_arkKey, window_arkKey_add, window_keyAt, window_keyAt_add, window_wordAt, window_arkWord, window_drop, window_drop_hi, window_msix, window_srcWord, window_target, window_pendBit]; decide))
    | dsimp only

theorem execIdGet_keeps (s : State) :
    KeepsOut 0x400000 s (execIdGet s) := by
  have hμ : 0x400000 ||| 0x400000 = 0x400000 := by decide
  unfold execIdGet
  repeat' first
    | with_reducible apply KeepsOut.next
    | with_reducible exact Keeps.refl _
    | with_reducible assumption
    | with_reducible apply State.respond_keeps (sub_of hμ (by decide))
    | dsimp only

theorem execLogRead_keeps (seq : DWord) (s : State) :
    KeepsOut 0x400000 s (execLogRead seq s) := by
  have hμ : 0x400000 ||| 0x400000 = 0x400000 := by decide
  unfold execLogRead
  repeat' first
    | with_reducible apply KeepsOut.next
    | with_reducible exact Keeps.refl _
    | with_reducible assumption
    | with_reducible apply State.respond_keeps (sub_of hμ (by decide))
    | dsimp only

theorem State.copyMap_keeps {μ : Nat} (hμ : 0x80000 ||| μ = μ) {s₀ s : State} (h : Keeps μ s₀ s) (power : List Byte) :
    Keeps μ s₀ (State.copyMap s power) := by
  unfold State.copyMap
  repeat' first
    | with_reducible assumption
    | with_reducible apply Keeps.modBon (bit_of hμ (by decide))
    | exact KeepsPart.same _ _ fun _ => rfl
    | (with_reducible refine KeepsPart.intro fun x hx => ?_; simp only [Bonos.canonical, Bool.and_eq_true] at hx ⊢; simp [hx])
    | dsimp only

theorem execTelemMapCopy_keeps (s : State) :
    KeepsOut 0x80000 s (execTelemMapCopy s) := by
  have hμ : 0x80000 ||| 0x80000 = 0x80000 := by decide
  unfold execTelemMapCopy
  repeat' first
    | with_reducible apply KeepsOut.next
    | with_reducible exact Keeps.refl _
    | with_reducible assumption
    | with_reducible apply State.copyMap_keeps (sub_of hμ (by decide))
    | split
    | dsimp only

theorem execTelemPointerWrite_keeps (b : Byte) (s : State) :
    KeepsOut 0x80000 s (execTelemPointerWrite b s) := by
  have hμ : 0x80000 ||| 0x80000 = 0x80000 := by decide
  unfold execTelemPointerWrite
  repeat' first
    | with_reducible apply KeepsOut.next
    | with_reducible exact Keeps.refl _
    | with_reducible assumption
    | with_reducible apply Keeps.modBon (bit_of hμ (by decide))
    | exact KeepsPart.same _ _ fun _ => rfl
    | (with_reducible refine KeepsPart.intro fun x hx => ?_; simp only [Bonos.canonical, Bool.and_eq_true] at hx ⊢; simp [hx])
    | dsimp only

theorem execTelemIgnoredWrite_keeps (s : State) :
    KeepsOut 0x10000000000000000 s (execTelemIgnoredWrite s) := by
  have hμ : 0x10000000000000000 ||| 0x10000000000000000 = 0x10000000000000000 := by decide
  unfold execTelemIgnoredWrite
  repeat' first
    | with_reducible apply KeepsOut.next
    | with_reducible exact Keeps.refl _
    | with_reducible assumption
    | with_reducible apply State.count_keeps
    | (with_reducible refine bit_of hμ ?_; first | decide | (simp (disch := decide) only [window_sel, window_die, window_arkKey, window_arkKey_add, window_keyAt, window_keyAt_add, window_wordAt, window_arkWord, window_drop, window_drop_hi, window_msix, window_srcWord, window_target, window_pendBit]; decide))
    | dsimp only

theorem execTelemRead_keeps (n : Nat) (s : State) :
    KeepsOut 0x400000 s (execTelemRead n s) := by
  have hμ : 0x400000 ||| 0x400000 = 0x400000 := by decide
  unfold execTelemRead
  repeat' first
    | with_reducible apply KeepsOut.next
    | with_reducible exact Keeps.refl _
    | with_reducible assumption
    | with_reducible apply Keeps.send (bit_of hμ (by decide))
    | dsimp only

theorem execSetdasa_keeps (static dyn : BitVec 7) (s : State) :
    KeepsOut 0x80000 s (execSetdasa static dyn s) := by
  have hμ : 0x80000 ||| 0x80000 = 0x80000 := by decide
  unfold execSetdasa
  repeat' first
    | with_reducible apply KeepsOut.next
    | with_reducible exact Keeps.refl _
    | with_reducible assumption
    | with_reducible apply Keeps.modBon (bit_of hμ (by decide))
    | exact KeepsPart.same _ _ fun _ => rfl
    | (with_reducible refine KeepsPart.intro fun x hx => ?_; simp only [Bonos.canonical, Bool.and_eq_true] at hx ⊢; simp [hx] <;> (repeat' split) <;> simp [hx])
    | split
    | dsimp only

theorem execEntdaa_keeps (won : Bool) (dyn : BitVec 7) (s : State) :
    KeepsOut 0x80000 s (execEntdaa won dyn s) := by
  have hμ : 0x80000 ||| 0x80000 = 0x80000 := by decide
  unfold execEntdaa
  repeat' first
    | with_reducible apply KeepsOut.next
    | with_reducible exact Keeps.refl _
    | with_reducible assumption
    | with_reducible apply Keeps.modBon (bit_of hμ (by decide))
    | exact KeepsPart.same _ _ fun _ => rfl
    | (with_reducible refine KeepsPart.intro fun x hx => ?_; simp only [Bonos.canonical, Bool.and_eq_true] at hx ⊢; simp [hx] <;> (repeat' split) <;> simp [hx])
    | split
    | dsimp only

end Sys2Proof.Machine
end

