-- ==== Sys2Proof/Laws/KeepLaps.lean ====
section
/-!
SUPPORT. What the operations of Machine/Laps.lean keep (Laws/Keeps.lean).
-/

set_option linter.all false

namespace Sys2Proof.Machine

theorem State.showPlan_keeps {μ : Nat} (hμ : 0x2000000000 ||| μ = μ) {s₀ s : State} (h : Keeps μ s₀ s) :
    Keeps μ s₀ (State.showPlan s) := by
  unfold State.showPlan
  repeat' first
    | with_reducible assumption
    | with_reducible apply State.put_keeps
    | with_reducible apply State.wr64_keeps
    | (with_reducible refine bit_of hμ ?_; first | decide | (simp (disch := decide) only [window_sel, window_die, window_arkKey, window_arkKey_add, window_keyAt, window_keyAt_add, window_wordAt, window_arkWord, window_drop, window_drop_hi, window_msix, window_srcWord, window_target, window_pendBit]; decide))
    | dsimp only

theorem State.proposeStretch_keeps {μ : Nat} (hμ : 0x300000706000 ||| μ = μ) {s₀ s : State} (h : Keeps μ s₀ s) :
    Keeps μ s₀ (State.proposeStretch s) := by
  unfold State.proposeStretch
  repeat' first
    | with_reducible assumption
    | with_reducible apply State.originate_keeps (sub_of hμ (by decide))
    | split
    | dsimp only

theorem State.sendControl_keeps {μ : Nat} (hμ : 0x100000502400 ||| μ = μ) {s₀ s : State} (h : Keeps μ s₀ s) :
    Keeps μ s₀ (State.sendControl s) := by
  unfold State.sendControl
  repeat' first
    | with_reducible assumption
    | with_reducible apply Keeps.modAtt (bit_of hμ (by decide))
    | with_reducible apply State.sendMessage_keeps (sub_of hμ (by decide))
    | with_reducible apply Keeps.foldl
    | with_reducible apply Keeps.foldl_snd
    | with_reducible apply Keeps.foldl_fst
    | exact KeepsPart.same _ _ fun _ => rfl
    | (with_reducible refine KeepsPart.intro fun x hx => ?_; simp only [Attention.canonical, Bool.and_eq_true] at hx ⊢; simp [hx] <;> (repeat' split) <;> simp [hx])
    | split
    | intro _ _ _
    | dsimp only

theorem State.planDone_keeps {μ : Nat} (hμ : 0x302000706400 ||| μ = μ) {s₀ s : State} (h : Keeps μ s₀ s) :
    Keeps μ s₀ (State.planDone s) := by
  unfold State.planDone
  repeat' first
    | with_reducible assumption
    | with_reducible apply State.proposeStretch_keeps (sub_of hμ (by decide))
    | with_reducible apply State.put_keeps
    | with_reducible apply State.raise_keeps
    | with_reducible apply State.sendControl_keeps (sub_of hμ (by decide))
    | with_reducible apply State.showPlan_keeps (sub_of hμ (by decide))
    | split
    | (with_reducible refine bit_of hμ ?_; first | decide | (simp (disch := decide) only [window_sel, window_die, window_arkKey, window_arkKey_add, window_keyAt, window_keyAt_add, window_wordAt, window_arkWord, window_drop, window_drop_hi, window_msix, window_srcWord, window_target, window_pendBit]; decide))
    | dsimp only

theorem execPlanComplete_keeps (s : State) :
    KeepsOut 0x302000706400 s (execPlanComplete s) := by
  have hμ : 0x302000706400 ||| 0x302000706400 = 0x302000706400 := by decide
  unfold execPlanComplete
  repeat' first
    | with_reducible apply KeepsOut.next
    | with_reducible exact Keeps.refl _
    | with_reducible assumption
    | with_reducible apply State.planDone_keeps (sub_of hμ (by decide))
    | split
    | dsimp only

theorem State.closeQnt_keeps {μ : Nat} (hμ : 0x2000000200 ||| μ = μ) {s₀ s : State} (h : Keeps μ s₀ s) :
    Keeps μ s₀ (State.closeQnt s) := by
  unfold State.closeQnt
  repeat' first
    | with_reducible assumption
    | with_reducible apply Keeps.modFab (bit_of hμ (by decide))
    | with_reducible apply State.put_keeps
    | with_reducible apply State.raise_keeps
    | exact KeepsPart.same _ _ fun _ => rfl
    | (with_reducible refine KeepsPart.intro fun x hx => ?_; simp only [Fabric.canonical, Bool.and_eq_true] at hx ⊢; simp [hx] <;> (repeat' split) <;> simp [hx])
    | split
    | (with_reducible refine bit_of hμ ?_; first | decide | (simp (disch := decide) only [window_sel, window_die, window_arkKey, window_arkKey_add, window_keyAt, window_keyAt_add, window_wordAt, window_arkWord, window_drop, window_drop_hi, window_msix, window_srcWord, window_target, window_pendBit]; decide))
    | dsimp only

theorem State.closeOtq_keeps {μ : Nat} (hμ : 0x1000000000000 ||| μ = μ) {s₀ s : State} (h : Keeps μ s₀ s) (d : Nat) :
    Keeps μ s₀ (State.closeOtq s d) := by
  unfold State.closeOtq
  repeat' first
    | with_reducible assumption
    | with_reducible apply State.put_keeps
    | with_reducible apply State.raise_keeps
    | split
    | (with_reducible refine bit_of hμ ?_; first | decide | (simp (disch := decide) only [window_sel, window_die, window_arkKey, window_arkKey_add, window_keyAt, window_keyAt_add, window_wordAt, window_arkWord, window_drop, window_drop_hi, window_msix, window_srcWord, window_target, window_pendBit]; decide))
    | dsimp only

theorem State.closeMogul_keeps {μ : Nat} (hμ : 0x2000000000 ||| μ = μ) {s₀ s : State} (h : Keeps μ s₀ s) :
    Keeps μ s₀ (State.closeMogul s) := by
  unfold State.closeMogul
  repeat' first
    | with_reducible assumption
    | with_reducible apply State.put_keeps
    | with_reducible apply State.raise_keeps
    | with_reducible apply Keeps.foldl
    | split
    | intro _ _ _
    | (with_reducible refine bit_of hμ ?_; first | decide | (simp (disch := decide) only [window_sel, window_die, window_arkKey, window_arkKey_add, window_keyAt, window_keyAt_add, window_wordAt, window_arkWord, window_drop, window_drop_hi, window_msix, window_srcWord, window_target, window_pendBit]; decide))
    | dsimp only

theorem State.closeAtt_keeps {μ : Nat} (hμ : 0x20000000000 ||| μ = μ) {s₀ s : State} (h : Keeps μ s₀ s) :
    Keeps μ s₀ (State.closeAtt s) := by
  unfold State.closeAtt
  repeat' first
    | with_reducible assumption
    | with_reducible apply State.put_keeps
    | with_reducible apply State.raise_keeps
    | with_reducible apply Keeps.foldl
    | split
    | intro _ _ _
    | (with_reducible refine bit_of hμ ?_; first | decide | (simp (disch := decide) only [window_sel, window_die, window_arkKey, window_arkKey_add, window_keyAt, window_keyAt_add, window_wordAt, window_arkWord, window_drop, window_drop_hi, window_msix, window_srcWord, window_target, window_pendBit]; decide))
    | dsimp only

theorem State.closeLedger_keeps {μ : Nat} (hμ : 0x2000008100 ||| μ = μ) {s₀ s : State} (h : Keeps μ s₀ s) :
    Keeps μ s₀ (State.closeLedger s) := by
  unfold State.closeLedger
  repeat' first
    | with_reducible assumption
    | with_reducible apply State.count_keeps
    | with_reducible apply State.credit_keeps (sub_of hμ (by decide))
    | with_reducible apply State.measurePoint_keeps (sub_of hμ (by decide))
    | with_reducible apply State.put_keeps
    | with_reducible apply State.wr64_keeps
    | (with_reducible refine bit_of hμ ?_; first | decide | (simp (disch := decide) only [window_sel, window_die, window_arkKey, window_arkKey_add, window_keyAt, window_keyAt_add, window_wordAt, window_arkWord, window_drop, window_drop_hi, window_msix, window_srcWord, window_target, window_pendBit]; decide))
    | dsimp only

theorem State.clearLap_keeps {μ : Nat} (hμ : 0x40600 ||| μ = μ) {s₀ s : State} (h : Keeps μ s₀ s) :
    Keeps μ s₀ (State.clearLap s) := by
  unfold State.clearLap
  repeat' first
    | with_reducible assumption
    | with_reducible apply Keeps.modAtt (bit_of hμ (by decide))
    | with_reducible apply Keeps.modEvt (bit_of hμ (by decide))
    | with_reducible apply Keeps.modFab (bit_of hμ (by decide))
    | exact KeepsPart.same _ _ fun _ => rfl
    | (with_reducible refine KeepsPart.intro fun x hx => ?_; simp only [Attention.canonical, Events.canonical, Fabric.canonical, Bool.and_eq_true] at hx ⊢; simp [hx])
    | dsimp only

theorem State.countMemory_keeps {μ : Nat} (hμ : 0x300000 ||| μ = μ) {s₀ s : State} (h : Keeps μ s₀ s) :
    Keeps μ s₀ (State.countMemory s) := by
  unfold State.countMemory
  repeat' first
    | with_reducible assumption
    | with_reducible apply Keeps.draw (bit_of hμ (by decide))
    | with_reducible apply State.tally_keeps (sub_of hμ (by decide))
    | with_reducible apply Keeps.foldl
    | intro _ _ _
    | dsimp only

theorem State.closeLap_keeps {μ : Nat} (hμ : 0x1823000348700 ||| μ = μ) {s₀ s : State} (h : Keeps μ s₀ s) :
    Keeps μ s₀ (State.closeLap s) := by
  unfold State.closeLap
  repeat' first
    | with_reducible assumption
    | with_reducible apply State.clearLap_keeps (sub_of hμ (by decide))
    | with_reducible apply State.closeAtt_keeps (sub_of hμ (by decide))
    | with_reducible apply State.closeLedger_keeps (sub_of hμ (by decide))
    | with_reducible apply State.closeMogul_keeps (sub_of hμ (by decide))
    | with_reducible apply State.closeOtq_keeps (sub_of hμ (by decide))
    | with_reducible apply State.closeQnt_keeps (sub_of hμ (by decide))
    | with_reducible apply State.countMemory_keeps (sub_of hμ (by decide))
    | with_reducible apply State.endInterval_keeps (sub_of hμ (by decide))
    | with_reducible apply State.showHottest_keeps (sub_of hμ (by decide))
    | with_reducible apply State.snapshot_keeps (sub_of hμ (by decide))
    | with_reducible apply State.tally_keeps (sub_of hμ (by decide))
    | with_reducible apply Keeps.foldl
    | intro _ _ _
    | dsimp only

theorem State.decayScores_keeps {μ : Nat} (hμ : 0x10 ||| μ = μ) {s₀ s : State} (h : Keeps μ s₀ s) :
    Keeps μ s₀ (State.decayScores s) := by
  unfold State.decayScores
  repeat' first
    | with_reducible assumption
    | with_reducible apply Keeps.setBibs (bit_of hμ (by decide))
    | (with_reducible refine WfImp.intro fun hx => ?_; first | (simp [hx]; done) | (simp at hx; simp [hx]))
    | split
    | dsimp only

theorem State.partLate_keeps {μ : Nat} (hμ : 0x3080007068dc ||| μ = μ) {s₀ s : State} (h : Keeps μ s₀ s) (id : Word) :
    Keeps μ s₀ (State.partLate s id) := by
  unfold State.partLate
  repeat' first
    | with_reducible assumption
    | with_reducible apply State.applyPend_keeps (sub_of hμ (by decide))
    | split
    | dsimp only

theorem State.closeStep_keeps {μ : Nat} (hμ : 0x810 ||| μ = μ) {s₀ s : State} (h : Keeps μ s₀ s) (i w : Nat) :
    Keeps μ s₀ (State.closeStep s i w) := by
  unfold State.closeStep
  repeat' first
    | with_reducible assumption
    | with_reducible apply State.modBib_keeps (sub_of hμ (by decide))
    | with_reducible apply State.putWax_keeps (sub_of hμ (by decide))
    | split
    | dsimp only

theorem State.closeChunk_keeps {μ : Nat} (hμ : 0x18 ||| μ = μ) {s₀ s : State} (h : Keeps μ s₀ s) (i : Nat) :
    Keeps μ s₀ (State.closeChunk s i) := by
  unfold State.closeChunk
  repeat' first
    | with_reducible assumption
    | with_reducible apply State.commitPositions_keeps (sub_of hμ (by decide))
    | with_reducible apply State.modBib_keeps (sub_of hμ (by decide))
    | split
    | dsimp only

theorem State.nextChunk_keeps {μ : Nat} (hμ : 0x1210 ||| μ = μ) {s₀ s : State} (h : Keeps μ s₀ s) (late : List Nat) (i : Nat) :
    Keeps μ s₀ (State.nextChunk s late i) := by
  unfold State.nextChunk
  repeat' first
    | with_reducible assumption
    | with_reducible apply State.again_keeps (sub_of hμ (by decide))
    | with_reducible apply State.leave_keeps (sub_of hμ (by decide))
    | with_reducible apply State.modBib_keeps (sub_of hμ (by decide))
    | split
    | dsimp only

theorem State.closeBib_keeps {μ : Nat} (hμ : 0x1a18 ||| μ = μ) {s₀ s : State} (h : Keeps μ s₀ s) (late : List Nat) (i : Nat) :
    Keeps μ s₀ (State.closeBib s late i) := by
  unfold State.closeBib
  repeat' first
    | with_reducible assumption
    | with_reducible apply State.closeChunk_keeps (sub_of hμ (by decide))
    | with_reducible apply State.closeStep_keeps (sub_of hμ (by decide))
    | with_reducible apply State.modBib_keeps (sub_of hμ (by decide))
    | with_reducible apply State.nextChunk_keeps (sub_of hμ (by decide))
    | split
    | dsimp only

theorem State.enterDecoding_keeps {μ : Nat} (hμ : 0x30800070609c ||| μ = μ) {s₀ s : State} (h : Keeps μ s₀ s) (i slot : Nat) :
    Keeps μ s₀ (State.enterDecoding s i slot) := by
  unfold State.enterDecoding
  repeat' first
    | with_reducible assumption
    | with_reducible apply State.eventRecord_keeps (sub_of hμ (by decide))
    | with_reducible apply State.flushTokens_keeps (sub_of hμ (by decide))
    | with_reducible apply State.modBib_keeps (sub_of hμ (by decide))
    | with_reducible apply State.transition_keeps (sub_of hμ (by decide))
    | dsimp only

theorem State.enterTowing_keeps {μ : Nat} (hμ : 0x30800070609c ||| μ = μ) {s₀ s : State} (h : Keeps μ s₀ s) (i : Nat) :
    Keeps μ s₀ (State.enterTowing s i) := by
  unfold State.enterTowing
  repeat' first
    | with_reducible assumption
    | with_reducible apply State.eventRecord_keeps (sub_of hμ (by decide))
    | with_reducible apply State.transition_keeps (sub_of hμ (by decide))
    | split
    | dsimp only

theorem State.loadStep_keeps {μ : Nat} (hμ : 0x800000010 ||| μ = μ) {s₀ s : State} (h : Keeps μ s₀ s) (i : Nat) :
    Keeps μ s₀ (State.loadStep s i) := by
  unfold State.loadStep
  repeat' first
    | with_reducible assumption
    | with_reducible apply State.done_keeps (sub_of hμ (by decide))
    | with_reducible apply State.modBib_keeps (sub_of hμ (by decide))
    | split
    | dsimp only

theorem State.applyGrant_keeps {μ : Nat} (hμ : 0x30c80070609c ||| μ = μ) {s₀ s : State} (h : Keeps μ s₀ s) (late : List Nat) (g : Grant) :
    Keeps μ s₀ (State.applyGrant s late g) := by
  unfold State.applyGrant
  repeat' first
    | with_reducible assumption
    | with_reducible apply State.enterDecoding_keeps (sub_of hμ (by decide))
    | with_reducible apply State.enterTowing_keeps (sub_of hμ (by decide))
    | with_reducible apply State.loadStep_keeps (sub_of hμ (by decide))
    | with_reducible apply State.modBib_keeps (sub_of hμ (by decide))
    | with_reducible apply State.staleInt_keeps (sub_of hμ (by decide))
    | split
    | dsimp only

theorem State.applyLodge_keeps {μ : Nat} (hμ : 0x3080007060dc ||| μ = μ) {s₀ s : State} (h : Keeps μ s₀ s) (id : Word) :
    Keeps μ s₀ (State.applyLodge s id) := by
  unfold State.applyLodge
  repeat' first
    | with_reducible assumption
    | with_reducible apply State.enterLodged_keeps (sub_of hμ (by decide))
    | with_reducible apply State.planLodge_keeps (sub_of hμ (by decide))
    | split
    | dsimp only

theorem State.useSets_keeps {μ : Nat} (hμ : 0x800 ||| μ = μ) {s₀ s : State} (h : Keeps μ s₀ s) (n : Nat) :
    Keeps μ s₀ (State.useSets s n) := by
  unfold State.useSets
  repeat' first
    | with_reducible assumption
    | with_reducible apply State.putWax_keeps (sub_of hμ (by decide))
    | with_reducible apply Keeps.foldl
    | split
    | intro _ _ _
    | dsimp only

theorem State.bibBoundary_keeps {μ : Nat} (hμ : 0x31c800707adc ||| μ = μ) {s₀ s : State} (h : Keeps μ s₀ s) :
    Keeps μ s₀ (State.bibBoundary s) := by
  unfold State.bibBoundary
  repeat' first
    | with_reducible assumption
    | with_reducible apply Keeps.setBibs (bit_of hμ (by decide))
    | with_reducible apply State.applyGrant_keeps (sub_of hμ (by decide))
    | with_reducible apply State.applyLodge_keeps (sub_of hμ (by decide))
    | with_reducible apply State.closeBib_keeps (sub_of hμ (by decide))
    | with_reducible apply State.decayScores_keeps (sub_of hμ (by decide))
    | with_reducible apply State.dropLeaving_keeps (sub_of hμ (by decide))
    | with_reducible apply State.partLate_keeps (sub_of hμ (by decide))
    | with_reducible apply State.retryRestores_keeps (sub_of hμ (by decide))
    | with_reducible apply Keeps.foldl
    | (with_reducible refine WfImp.intro fun hx => ?_; first | (simp [hx]; done) | (simp at hx; simp [hx]))
    | intro _ _ _
    | dsimp only

theorem State.openLap_keeps {μ : Nat} (hμ : 0x1102000100180 ||| μ = μ) {s₀ s : State} (h : Keeps μ s₀ s) (g : Nat) :
    Keeps μ s₀ (State.openLap s g) := by
  unfold State.openLap
  repeat' first
    | with_reducible assumption
    | with_reducible apply Keeps.modPlan (bit_of hμ (by decide))
    | with_reducible apply Keeps.wr
    | with_reducible apply State.count_keeps
    | with_reducible apply State.newLedger_keeps (sub_of hμ (by decide))
    | with_reducible apply State.putB_keeps
    | with_reducible apply State.put_keeps
    | with_reducible apply State.showLap_keeps (sub_of hμ (by decide))
    | with_reducible apply State.tally_keeps (sub_of hμ (by decide))
    | with_reducible apply State.wr64_keeps
    | split
    | (with_reducible refine bit_of hμ ?_; first | decide | (simp (disch := decide) only [window_sel, window_die, window_arkKey, window_arkKey_add, window_keyAt, window_keyAt_add, window_wordAt, window_arkWord, window_drop, window_drop_hi, window_msix, window_srcWord, window_target, window_pendBit]; decide))
    | dsimp only

theorem State.ckptBoundary_keeps {μ : Nat} (hμ : 0x200000004000 ||| μ = μ) {s₀ s : State} (h : Keeps μ s₀ s) :
    Keeps μ s₀ (State.ckptBoundary s) := by
  unfold State.ckptBoundary
  repeat' first
    | with_reducible assumption
    | with_reducible apply State.abandonCkpt_keeps (sub_of hμ (by decide))
    | with_reducible apply State.dueCkpts_keeps (sub_of hμ (by decide))
    | with_reducible apply Keeps.foldl
    | intro _ _ _
    | dsimp only

theorem State.copyTelemetry_keeps {μ : Nat} (hμ : 0x80000 ||| μ = μ) {s₀ s : State} (h : Keeps μ s₀ s) (us : Nat) :
    Keeps μ s₀ (State.copyTelemetry s us) := by
  unfold State.copyTelemetry
  repeat' first
    | with_reducible assumption
    | with_reducible apply State.copyMap_keeps (sub_of hμ (by decide))
    | dsimp only

theorem State.idleBoundary_keeps {μ : Nat} (hμ : 0x1002400030080 ||| μ = μ) {s₀ s : State} (h : Keeps μ s₀ s) :
    Keeps μ s₀ (State.idleBoundary s) := by
  unfold State.idleBoundary
  repeat' first
    | with_reducible assumption
    | with_reducible apply Keeps.modPlan (bit_of hμ (by decide))
    | with_reducible apply State.endRequest_keeps (sub_of hμ (by decide))
    | with_reducible apply State.enterIdle_keeps (sub_of hμ (by decide))
    | split
    | dsimp only

theorem State.boundary_keeps {μ : Nat} (hμ : 0x1fbfc007ffffc ||| μ = μ) {s₀ s : State} (h : Keeps μ s₀ s) (g : Nat) :
    Keeps μ s₀ (State.boundary s g) := by
  unfold State.boundary
  repeat' first
    | with_reducible assumption
    | with_reducible apply Keeps.modBon (bit_of hμ (by decide))
    | with_reducible apply State.applyChanges_keeps (sub_of hμ (by decide))
    | with_reducible apply State.applyGops_keeps (sub_of hμ (by decide))
    | with_reducible apply State.bibBoundary_keeps (sub_of hμ (by decide))
    | with_reducible apply State.ckptBoundary_keeps (sub_of hμ (by decide))
    | with_reducible apply State.closeLap_keeps (sub_of hμ (by decide))
    | with_reducible apply State.commitBanks_keeps (sub_of hμ (by decide))
    | with_reducible apply State.copyTelemetry_keeps (sub_of hμ (by decide))
    | with_reducible apply State.countStates_keeps (sub_of hμ (by decide))
    | with_reducible apply State.enterSpares_keeps (sub_of hμ (by decide))
    | with_reducible apply State.fencePlanned_keeps (sub_of hμ (by decide))
    | with_reducible apply State.fixBoundary_keeps (sub_of hμ (by decide))
    | with_reducible apply State.gateBoundary_keeps (sub_of hμ (by decide))
    | with_reducible apply State.idleBoundary_keeps (sub_of hμ (by decide))
    | with_reducible apply State.openLap_keeps (sub_of hμ (by decide))
    | with_reducible apply State.startSpares_keeps (sub_of hμ (by decide))
    | with_reducible apply State.useSets_keeps (sub_of hμ (by decide))
    | with_reducible apply State.waxBoundary_keeps (sub_of hμ (by decide))
    | with_reducible apply State.wr64_keeps
    | with_reducible apply Keeps.foldl
    | exact KeepsPart.same _ _ fun _ => rfl
    | (with_reducible refine KeepsPart.intro fun x hx => ?_; simp only [Bonos.canonical, Bool.and_eq_true] at hx ⊢; simp [hx])
    | intro _ _ _
    | (with_reducible refine bit_of hμ ?_; first | decide | (simp (disch := decide) only [window_sel, window_die, window_arkKey, window_arkKey_add, window_keyAt, window_keyAt_add, window_wordAt, window_arkWord, window_drop, window_drop_hi, window_msix, window_srcWord, window_target, window_pendBit]; decide))
    | dsimp only

theorem State.holdRealign_keeps {μ : Nat} (hμ : 0x1002000002000 ||| μ = μ) {s₀ s : State} (h : Keeps μ s₀ s) :
    Keeps μ s₀ (State.holdRealign s) := by
  unfold State.holdRealign
  repeat' first
    | with_reducible assumption
    | with_reducible apply Keeps.modLnk (bit_of hμ (by decide))
    | with_reducible apply State.put_keeps
    | with_reducible apply State.setDies_keeps (sub_of hμ (by decide))
    | exact KeepsPart.same _ _ fun _ => rfl
    | (with_reducible refine KeepsPart.intro fun x hx => ?_; simp only [Links.canonical, Bool.and_eq_true] at hx ⊢; simp [hx])
    | (with_reducible refine bit_of hμ ?_; first | decide | (simp (disch := decide) only [window_sel, window_die, window_arkKey, window_arkKey_add, window_keyAt, window_keyAt_add, window_wordAt, window_arkWord, window_drop, window_drop_hi, window_msix, window_srcWord, window_target, window_pendBit]; decide))
    | dsimp only

theorem execLapBoundary_keeps (gtime : Nat) (s : State) :
    KeepsOut 0x1fbfc007ffffc s (execLapBoundary gtime s) := by
  have hμ : 0x1fbfc007ffffc ||| 0x1fbfc007ffffc = 0x1fbfc007ffffc := by decide
  unfold execLapBoundary
  repeat' first
    | with_reducible apply KeepsOut.next
    | with_reducible exact Keeps.refl _
    | with_reducible assumption
    | with_reducible apply State.boundary_keeps (sub_of hμ (by decide))
    | with_reducible apply State.holdRealign_keeps (sub_of hμ (by decide))
    | split
    | dsimp only

theorem State.leave_keeps {μ : Nat} (hμ : 0x30800070687c ||| μ = μ) {s₀ s : State} (h : Keeps μ s₀ s) (i : Nat) (c : Cause) (status : Byte) :
    Keeps μ s₀ (State.leave s i c status) := by
  unfold State.leave
  repeat' first
    | with_reducible assumption
    | with_reducible apply State.enterFree_keeps (sub_of hμ (by decide))
    | with_reducible apply State.finalRecord_keeps (sub_of hμ (by decide))
    | with_reducible apply State.release_keeps (sub_of hμ (by decide))
    | split
    | dsimp only

theorem execTtlExpired_keeps (i : Fin 65536) (s : State) :
    KeepsOut 0x30800070687c s (execTtlExpired i s) := by
  have hμ : 0x30800070687c ||| 0x30800070687c = 0x30800070687c := by decide
  unfold execTtlExpired
  repeat' first
    | with_reducible apply KeepsOut.next
    | with_reducible exact Keeps.refl _
    | with_reducible assumption
    | with_reducible apply State.leave_keeps (sub_of hμ (by decide))
    | split
    | dsimp only

theorem execFaultHold_keeps (i : Fin 65536) (s : State) :
    KeepsOut 0x30800070687c s (execFaultHold i s) := by
  have hμ : 0x30800070687c ||| 0x30800070687c = 0x30800070687c := by decide
  unfold execFaultHold
  repeat' first
    | with_reducible apply KeepsOut.fault
    | with_reducible apply KeepsOut.next
    | with_reducible exact Keeps.refl _
    | with_reducible assumption
    | with_reducible apply State.leave_keeps (sub_of hμ (by decide))
    | split
    | dsimp only

theorem execReleased_keeps (i : Fin 65536) (s : State) :
    KeepsOut 0x30800070687c s (execReleased i s) := by
  have hμ : 0x30800070687c ||| 0x30800070687c = 0x30800070687c := by decide
  unfold execReleased
  repeat' first
    | with_reducible apply KeepsOut.next
    | with_reducible exact Keeps.refl _
    | with_reducible assumption
    | with_reducible apply State.leave_keeps (sub_of hμ (by decide))
    | split
    | dsimp only

theorem State.firstLap_keeps {μ : Nat} (hμ : 0x1506400020380 ||| μ = μ) {s₀ s : State} (h : Keeps μ s₀ s) (dlap g : Nat) :
    Keeps μ s₀ (State.firstLap s dlap g) := by
  unfold State.firstLap
  repeat' first
    | with_reducible assumption
    | with_reducible apply State.beginRun_keeps (sub_of hμ (by decide))
    | with_reducible apply State.wr64_keeps
    | (with_reducible refine bit_of hμ ?_; first | decide | (simp (disch := decide) only [window_sel, window_die, window_arkKey, window_arkKey_add, window_keyAt, window_keyAt_add, window_wordAt, window_arkWord, window_drop, window_drop_hi, window_msix, window_srcWord, window_target, window_pendBit]; decide))
    | dsimp only

theorem execSyncLocked_keeps (dlap : Nat) (gtime : Nat) (s : State) :
    KeepsOut 0x1506400020380 s (execSyncLocked dlap gtime s) := by
  have hμ : 0x1506400020380 ||| 0x1506400020380 = 0x1506400020380 := by decide
  unfold execSyncLocked
  repeat' first
    | with_reducible apply KeepsOut.next
    | with_reducible exact Keeps.refl _
    | with_reducible assumption
    | with_reducible apply State.firstLap_keeps (sub_of hμ (by decide))
    | split
    | dsimp only

theorem execNoDomainPeer_keeps (gtime : Nat) (s : State) :
    KeepsOut 0x1506400020380 s (execNoDomainPeer gtime s) := by
  have hμ : 0x1506400020380 ||| 0x1506400020380 = 0x1506400020380 := by decide
  unfold execNoDomainPeer
  repeat' first
    | with_reducible apply KeepsOut.next
    | with_reducible exact Keeps.refl _
    | with_reducible assumption
    | with_reducible apply State.firstLap_keeps (sub_of hμ (by decide))
    | split
    | dsimp only

theorem State.alignTo_keeps {μ : Nat} (hμ : 0x100000000000 ||| μ = μ) {s₀ s : State} (h : Keeps μ s₀ s) (dlap n : Nat) :
    Keeps μ s₀ (State.alignTo s dlap n) := by
  unfold State.alignTo
  repeat' first
    | with_reducible assumption
    | with_reducible apply State.wr64_keeps
    | (with_reducible refine bit_of hμ ?_; first | decide | (simp (disch := decide) only [window_sel, window_die, window_arkKey, window_arkKey_add, window_keyAt, window_keyAt_add, window_wordAt, window_arkWord, window_drop, window_drop_hi, window_msix, window_srcWord, window_target, window_pendBit]; decide))
    | dsimp only

theorem execRealignHoldEnd_keeps (dlap : Nat) (gtime : Nat) (s : State) :
    KeepsOut 0x1fbfc007ffffc s (execRealignHoldEnd dlap gtime s) := by
  have hμ : 0x1fbfc007ffffc ||| 0x1fbfc007ffffc = 0x1fbfc007ffffc := by decide
  unfold execRealignHoldEnd
  repeat' first
    | with_reducible apply KeepsOut.next
    | with_reducible exact Keeps.refl _
    | with_reducible assumption
    | with_reducible apply Keeps.modLnk (bit_of hμ (by decide))
    | with_reducible apply State.alignTo_keeps (sub_of hμ (by decide))
    | with_reducible apply State.beginRun_keeps (sub_of hμ (by decide))
    | with_reducible apply State.boundary_keeps (sub_of hμ (by decide))
    | with_reducible apply State.put_keeps
    | with_reducible apply State.setDies_keeps (sub_of hμ (by decide))
    | exact KeepsPart.same _ _ fun _ => rfl
    | (with_reducible refine KeepsPart.intro fun x hx => ?_; simp only [Links.canonical, Bool.and_eq_true] at hx ⊢; simp [hx] <;> (repeat' split) <;> simp [hx])
    | split
    | (with_reducible refine bit_of hμ ?_; first | decide | (simp (disch := decide) only [window_sel, window_die, window_arkKey, window_arkKey_add, window_keyAt, window_keyAt_add, window_wordAt, window_arkWord, window_drop, window_drop_hi, window_msix, window_srcWord, window_target, window_pendBit]; decide))
    | dsimp only

end Sys2Proof.Machine
end

