-- ==== Sys2Proof/Laws/KeepAccess.lean ====
section
/-!
SUPPORT. What the operations of Machine/Access.lean keep (Laws/Keeps.lean).
-/

set_option linter.all false

namespace Sys2Proof.Machine

theorem State.badWrite_keeps {μ : Nat} (hμ : 0x208000304000 ||| μ = μ) {s₀ s : State} (h : Keeps μ s₀ s) (req sub off : Nat) :
    Keeps μ s₀ (State.badWrite s req sub off) := by
  unfold State.badWrite
  repeat' first
    | with_reducible assumption
    | with_reducible apply State.violation_keeps (sub_of hμ (by decide))
    | split
    | dsimp only

theorem State.setLatch_keeps {μ : Nat} (hμ : 0x2 ||| μ = μ) {s₀ s : State} (h : Keeps μ s₀ s) (off : Nat) (v : Option Word) :
    Keeps μ s₀ (s.setLatch off v) := by
  refine h.of_rf (KeepsPart.intro fun x hx => ?_) fun p e => ?_
  · simp only [RegFile.canonical, Bool.and_eq_true] at hx ⊢
    simp [hx]
  · cases p <;> first | rfl | exact fun _ _ => rfl | skip
    have b : μ.testBit 1 = true := (bit_of hμ (by decide))
    simp only [Part.bit, b] at e
    cases e

theorem State.readHost_keeps {μ : Nat} (hμ : 0x208800744002 ||| μ = μ) {s₀ s : State} (h : Keeps μ s₀ s) (off : Nat) :
    Keeps μ s₀ (State.readHost s off) := by
  unfold State.readHost
  repeat' first
    | with_reducible assumption
    | with_reducible apply Keeps.send (bit_of hμ (by decide))
    | with_reducible apply State.claim_keeps (sub_of hμ (by decide))
    | with_reducible apply State.setLatch_keeps (sub_of hμ (by decide))
    | with_reducible apply State.violation_keeps (sub_of hμ (by decide))
    | split
    | dsimp only

theorem execReadLowWordLatch_keeps (off : BitVec 26) (s : State) :
    KeepsOut 0x208800744002 s (execReadLowWordLatch off s) := by
  have hμ : 0x208800744002 ||| 0x208800744002 = 0x208800744002 := by decide
  unfold execReadLowWordLatch
  repeat' first
    | with_reducible apply KeepsOut.next
    | with_reducible exact Keeps.refl _
    | with_reducible assumption
    | with_reducible apply State.readHost_keeps (sub_of hμ (by decide))
    | dsimp only

theorem State.selectBib_keeps {μ : Nat} (hμ : 0x4000000000 ||| μ = μ) {s₀ s : State} (h : Keeps μ s₀ s) (v : Word) :
    Keeps μ s₀ (State.selectBib s v) := by
  unfold State.selectBib
  repeat' first
    | with_reducible assumption
    | with_reducible apply Keeps.wr
    | with_reducible apply State.put_keeps
    | with_reducible apply Keeps.foldl
    | intro _ _ _
    | (with_reducible refine bit_of hμ ?_; first | decide | (simp (disch := decide) only [window_sel, window_die, window_arkKey, window_arkKey_add, window_keyAt, window_keyAt_add, window_wordAt, window_arkWord, window_drop, window_drop_hi, window_msix, window_srcWord, window_target, window_pendBit]; decide))
    | dsimp only

theorem execBibSel_keeps (v : Word) (s : State) :
    KeepsOut 0x20c000304000 s (execBibSel v s) := by
  have hμ : 0x20c000304000 ||| 0x20c000304000 = 0x20c000304000 := by decide
  unfold execBibSel
  repeat' first
    | with_reducible apply KeepsOut.next
    | with_reducible exact Keeps.refl _
    | with_reducible assumption
    | with_reducible apply State.selectBib_keeps (sub_of hμ (by decide))
    | with_reducible apply State.undecoded_keeps (sub_of hμ (by decide))
    | split
    | dsimp only

theorem State.writeFields_keeps {μ : Nat} (hμ : 0xffffffffffffffff00304000 ||| μ = μ) {s₀ s : State} (h : Keeps μ s₀ s) (req off : Nat) (r : RegRow) (v : Word) :
    Keeps μ s₀ (s.writeFields req off r v) := by
  unfold State.writeFields
  extract_lets k no rw' w1c s1
  have h1 : Keeps μ s₀ s1 := Keeps.wr (bit_win (sub_of hμ (by decide)) _) h
  clear_value s1
  split
  · exact h1
  · exact State.badWrite_keeps (sub_of hμ (by decide)) h1 _ _ _

theorem State.writeIf_keeps {μ : Nat} (hμ : 0xffffffffffffffff00304000 ||| μ = μ) {s₀ s : State} (h : Keeps μ s₀ s) (ok : Bool) (req off sub : Nat) (r : RegRow) (v : Word) :
    Keeps μ s₀ (State.writeIf s ok req off sub r v) := by
  unfold State.writeIf
  repeat' first
    | with_reducible assumption
    | with_reducible apply State.badWrite_keeps (sub_of hμ (by decide))
    | with_reducible apply State.writeFields_keeps (sub_of hμ (by decide))
    | split
    | dsimp only

theorem State.writeEvtCtl_keeps {μ : Nat} (hμ : 0x800000000 ||| μ = μ) {s₀ s : State} (h : Keeps μ s₀ s) (req : Nat) (v : Word) :
    Keeps μ s₀ (State.writeEvtCtl s req v) := by
  unfold State.writeEvtCtl
  repeat' first
    | with_reducible assumption
    | with_reducible apply State.put_keeps
    | split
    | (with_reducible refine bit_of hμ ?_; first | decide | (simp (disch := decide) only [window_sel, window_die, window_arkKey, window_arkKey_add, window_keyAt, window_keyAt_add, window_wordAt, window_arkWord, window_drop, window_drop_hi, window_msix, window_srcWord, window_target, window_pendBit]; decide))
    | dsimp only

theorem State.writeEvt_keeps {μ : Nat} (hμ : 0xffffffffffffffff00744000 ||| μ = μ) {s₀ s : State} (h : Keeps μ s₀ s) (req off : Nat) (r : RegRow) (v : Word) :
    Keeps μ s₀ (State.writeEvt s req off r v) := by
  unfold State.writeEvt
  repeat' first
    | with_reducible assumption
    | with_reducible apply State.done_keeps (sub_of hμ (by decide))
    | with_reducible apply State.writeEvtCtl_keeps (sub_of hμ (by decide))
    | with_reducible apply State.writeFields_keeps (sub_of hμ (by decide))
    | with_reducible apply State.writeHold_keeps (sub_of hμ (by decide))
    | with_reducible apply State.writeRoute_keeps (sub_of hμ (by decide))
    | with_reducible apply State.writeSourceWord_keeps (sub_of hμ (by decide))
    | split
    | dsimp only

theorem State.writeLap_keeps {μ : Nat} (hμ : 0xffffffffffffffff003ac580 ||| μ = μ) {s₀ s : State} (h : Keeps μ s₀ s) (req off : Nat) (r : RegRow) (v : Word) :
    Keeps μ s₀ (State.writeLap s req off r v) := by
  unfold State.writeLap
  repeat' first
    | with_reducible assumption
    | with_reducible apply State.writeEbudget_keeps (sub_of hμ (by decide))
    | with_reducible apply State.writeFields_keeps (sub_of hμ (by decide))
    | with_reducible apply State.writeIf_keeps (sub_of hμ (by decide))
    | with_reducible apply State.writePwrCtl_keeps (sub_of hμ (by decide))
    | with_reducible apply State.writeSsts_keeps (sub_of hμ (by decide))
    | split
    | dsimp only

theorem State.writeHub_keeps {μ : Nat} (hμ : 0xffffffffffffffff0070600c ||| μ = μ) {s₀ s : State} (h : Keeps μ s₀ s) (req off : Nat) (r : RegRow) (v : Word) :
    Keeps μ s₀ (State.writeHub s req off r v) := by
  unfold State.writeHub
  repeat' first
    | with_reducible assumption
    | with_reducible apply State.selectBib_keeps (sub_of hμ (by decide))
    | with_reducible apply State.selectWax_keeps (sub_of hμ (by decide))
    | with_reducible apply State.writeFields_keeps (sub_of hμ (by decide))
    | with_reducible apply State.writeIf_keeps (sub_of hμ (by decide))
    | with_reducible apply State.writeQpCfg_keeps (sub_of hμ (by decide))
    | with_reducible apply State.writeQuota_keeps (sub_of hμ (by decide))
    | split
    | dsimp only

theorem State.writeLoad_keeps {μ : Nat} (hμ : 0xffffffffffffffff00707ad0 ||| μ = μ) {s₀ s : State} (h : Keeps μ s₀ s) (req off : Nat) (r : RegRow) (v : Word) :
    Keeps μ s₀ (State.writeLoad s req off r v) := by
  unfold State.writeLoad
  repeat' first
    | with_reducible assumption
    | with_reducible apply State.writeFields_keeps (sub_of hμ (by decide))
    | with_reducible apply State.writeGopCtl_keeps (sub_of hμ (by decide))
    | with_reducible apply State.writeIf_keeps (sub_of hμ (by decide))
    | with_reducible apply State.writeLdrCtl_keeps (sub_of hμ (by decide))
    | with_reducible apply State.writePut_keeps (sub_of hμ (by decide))
    | split
    | dsimp only

theorem State.writePat_keeps {μ : Nat} (hμ : 0xffffffffffffffff0070687c ||| μ = μ) {s₀ s : State} (h : Keeps μ s₀ s) (req off : Nat) (r : RegRow) (v : Word) :
    Keeps μ s₀ (State.writePat s req off r v) := by
  unfold State.writePat
  repeat' first
    | with_reducible assumption
    | with_reducible apply State.writeEvsel_keeps (sub_of hμ (by decide))
    | with_reducible apply State.writeFields_keeps (sub_of hμ (by decide))
    | with_reducible apply State.writeFpsel_keeps (sub_of hμ (by decide))
    | with_reducible apply State.writeGrmCsel_keeps (sub_of hμ (by decide))
    | with_reducible apply State.writeGrmTsel_keeps (sub_of hμ (by decide))
    | with_reducible apply State.writeLogSel_keeps (sub_of hμ (by decide))
    | with_reducible apply State.writeOrphan_keeps (sub_of hμ (by decide))
    | with_reducible apply State.writeOvf_keeps (sub_of hμ (by decide))
    | with_reducible apply State.writePatTsel_keeps (sub_of hμ (by decide))
    | with_reducible apply State.writePmcCtl_keeps (sub_of hμ (by decide))
    | with_reducible apply State.writePmcEvt_keeps (sub_of hμ (by decide))
    | split
    | dsimp only

theorem State.writeReg_keeps {μ : Nat} (hμ : 0xffffffffffffffff007efffc ||| μ = μ) {s₀ s : State} (h : Keeps μ s₀ s) (req off : Nat) (r : RegRow) (v : Word) :
    Keeps μ s₀ (State.writeReg s req off r v) := by
  unfold State.writeReg
  repeat' first
    | with_reducible assumption
    | with_reducible apply State.writeBonCmd_keeps (sub_of hμ (by decide))
    | with_reducible apply State.writeEvt_keeps (sub_of hμ (by decide))
    | with_reducible apply State.writeFields_keeps (sub_of hμ (by decide))
    | with_reducible apply State.writeHub_keeps (sub_of hμ (by decide))
    | with_reducible apply State.writeLap_keeps (sub_of hμ (by decide))
    | with_reducible apply State.writeLoad_keeps (sub_of hμ (by decide))
    | with_reducible apply State.writePat_keeps (sub_of hμ (by decide))
    | with_reducible apply State.writeTestCtl_keeps (sub_of hμ (by decide))
    | split
    | dsimp only

theorem State.writeBar0_keeps {μ : Nat} (hμ : 0xffffffffffffffff007efffc ||| μ = μ) {s₀ s : State} (h : Keeps μ s₀ s) (req off nbytes : Nat) (v : Word) :
    Keeps μ s₀ (s.writeBar0 req off nbytes v) := by
  unfold State.writeBar0
  repeat' first
    | with_reducible assumption
    | with_reducible apply State.badWrite_keeps (sub_of hμ (by decide))
    | with_reducible apply State.writeMask_keeps (sub_of hμ (by decide))
    | with_reducible apply State.writeReg_keeps (sub_of hμ (by decide))
    | with_reducible refine Keeps.wr (bit_win (sub_of hμ (by decide)) _) ?_
    | split

theorem execRegisterWrite_keeps (req : Requester) (off : BitVec 26) (nbytes : Fin 9) (v : Word) (s : State) :
    KeepsOut 0xffffffffffffffff007efffc s (execRegisterWrite req off nbytes v s) := by
  have hμ : 0xffffffffffffffff007efffc ||| 0xffffffffffffffff007efffc = 0xffffffffffffffff007efffc := by decide
  unfold execRegisterWrite
  repeat' first
    | with_reducible apply KeepsOut.next
    | with_reducible exact Keeps.refl _
    | with_reducible assumption
    | with_reducible apply State.writeBar0_keeps (sub_of hμ (by decide))
    | dsimp only

end Sys2Proof.Machine
end

