-- ==== Sys2Proof/Laws/Reads.lean ====
section
/-!
SUPPORT. What a register or an element of a table reads after an update elsewhere.
-/

namespace Sys2Proof.Machine

/-! ### Registers after an update of another part -/

@[simp] theorem State.rd_modPcie (s : State) (f : PcieFn → PcieFn) (k : Nat) : (s.modPcie f).rd k = s.rd k := rfl
@[simp] theorem State.rd64_modPcie (s : State) (f : PcieFn → PcieFn) (k : Nat) : (s.modPcie f).rd64 k = s.rd64 k := rfl
@[simp] theorem State.get_modPcie (s : State) (f : PcieFn → PcieFn) (g : Fld) : (s.modPcie f).get g = s.get g := rfl
@[simp] theorem State.flag_modPcie (s : State) (f : PcieFn → PcieFn) (g : Fld) : (s.modPcie f).flag g = s.flag g := rfl
@[simp] theorem State.rd_modKvm (s : State) (f : Kvm → Kvm) (k : Nat) : (s.modKvm f).rd k = s.rd k := rfl
@[simp] theorem State.rd64_modKvm (s : State) (f : Kvm → Kvm) (k : Nat) : (s.modKvm f).rd64 k = s.rd64 k := rfl
@[simp] theorem State.get_modKvm (s : State) (f : Kvm → Kvm) (g : Fld) : (s.modKvm f).get g = s.get g := rfl
@[simp] theorem State.flag_modKvm (s : State) (f : Kvm → Kvm) (g : Fld) : (s.modKvm f).flag g = s.flag g := rfl
@[simp] theorem State.rd_modPlan (s : State) (f : Planner → Planner) (k : Nat) : (s.modPlan f).rd k = s.rd k := rfl
@[simp] theorem State.rd64_modPlan (s : State) (f : Planner → Planner) (k : Nat) : (s.modPlan f).rd64 k = s.rd64 k := rfl
@[simp] theorem State.get_modPlan (s : State) (f : Planner → Planner) (g : Fld) : (s.modPlan f).get g = s.get g := rfl
@[simp] theorem State.flag_modPlan (s : State) (f : Planner → Planner) (g : Fld) : (s.modPlan f).flag g = s.flag g := rfl
@[simp] theorem State.rd_modLedger (s : State) (f : Ledger → Ledger) (k : Nat) : (s.modLedger f).rd k = s.rd k := rfl
@[simp] theorem State.rd64_modLedger (s : State) (f : Ledger → Ledger) (k : Nat) : (s.modLedger f).rd64 k = s.rd64 k := rfl
@[simp] theorem State.get_modLedger (s : State) (f : Ledger → Ledger) (g : Fld) : (s.modLedger f).get g = s.get g := rfl
@[simp] theorem State.flag_modLedger (s : State) (f : Ledger → Ledger) (g : Fld) : (s.modLedger f).flag g = s.flag g := rfl
@[simp] theorem State.rd_modFab (s : State) (f : Fabric → Fabric) (k : Nat) : (s.modFab f).rd k = s.rd k := rfl
@[simp] theorem State.rd64_modFab (s : State) (f : Fabric → Fabric) (k : Nat) : (s.modFab f).rd64 k = s.rd64 k := rfl
@[simp] theorem State.get_modFab (s : State) (f : Fabric → Fabric) (g : Fld) : (s.modFab f).get g = s.get g := rfl
@[simp] theorem State.flag_modFab (s : State) (f : Fabric → Fabric) (g : Fld) : (s.modFab f).flag g = s.flag g := rfl
@[simp] theorem State.rd_modAtt (s : State) (f : Attention → Attention) (k : Nat) : (s.modAtt f).rd k = s.rd k := rfl
@[simp] theorem State.rd64_modAtt (s : State) (f : Attention → Attention) (k : Nat) : (s.modAtt f).rd64 k = s.rd64 k := rfl
@[simp] theorem State.get_modAtt (s : State) (f : Attention → Attention) (g : Fld) : (s.modAtt f).get g = s.get g := rfl
@[simp] theorem State.flag_modAtt (s : State) (f : Attention → Attention) (g : Fld) : (s.modAtt f).flag g = s.flag g := rfl
@[simp] theorem State.rd_modLdr (s : State) (f : Loader → Loader) (k : Nat) : (s.modLdr f).rd k = s.rd k := rfl
@[simp] theorem State.rd64_modLdr (s : State) (f : Loader → Loader) (k : Nat) : (s.modLdr f).rd64 k = s.rd64 k := rfl
@[simp] theorem State.get_modLdr (s : State) (f : Loader → Loader) (g : Fld) : (s.modLdr f).get g = s.get g := rfl
@[simp] theorem State.flag_modLdr (s : State) (f : Loader → Loader) (g : Fld) : (s.modLdr f).flag g = s.flag g := rfl
@[simp] theorem State.rd_modLnk (s : State) (f : Links → Links) (k : Nat) : (s.modLnk f).rd k = s.rd k := rfl
@[simp] theorem State.rd64_modLnk (s : State) (f : Links → Links) (k : Nat) : (s.modLnk f).rd64 k = s.rd64 k := rfl
@[simp] theorem State.get_modLnk (s : State) (f : Links → Links) (g : Fld) : (s.modLnk f).get g = s.get g := rfl
@[simp] theorem State.flag_modLnk (s : State) (f : Links → Links) (g : Fld) : (s.modLnk f).flag g = s.flag g := rfl
@[simp] theorem State.rd_modPat (s : State) (f : Patrol → Patrol) (k : Nat) : (s.modPat f).rd k = s.rd k := rfl
@[simp] theorem State.rd64_modPat (s : State) (f : Patrol → Patrol) (k : Nat) : (s.modPat f).rd64 k = s.rd64 k := rfl
@[simp] theorem State.get_modPat (s : State) (f : Patrol → Patrol) (g : Fld) : (s.modPat f).get g = s.get g := rfl
@[simp] theorem State.flag_modPat (s : State) (f : Patrol → Patrol) (g : Fld) : (s.modPat f).flag g = s.flag g := rfl
@[simp] theorem State.rd_modThm (s : State) (f : Thermal → Thermal) (k : Nat) : (s.modThm f).rd k = s.rd k := rfl
@[simp] theorem State.rd64_modThm (s : State) (f : Thermal → Thermal) (k : Nat) : (s.modThm f).rd64 k = s.rd64 k := rfl
@[simp] theorem State.get_modThm (s : State) (f : Thermal → Thermal) (g : Fld) : (s.modThm f).get g = s.get g := rfl
@[simp] theorem State.flag_modThm (s : State) (f : Thermal → Thermal) (g : Fld) : (s.modThm f).flag g = s.flag g := rfl
@[simp] theorem State.rd_modClk (s : State) (f : Clocks → Clocks) (k : Nat) : (s.modClk f).rd k = s.rd k := rfl
@[simp] theorem State.rd64_modClk (s : State) (f : Clocks → Clocks) (k : Nat) : (s.modClk f).rd64 k = s.rd64 k := rfl
@[simp] theorem State.get_modClk (s : State) (f : Clocks → Clocks) (g : Fld) : (s.modClk f).get g = s.get g := rfl
@[simp] theorem State.flag_modClk (s : State) (f : Clocks → Clocks) (g : Fld) : (s.modClk f).flag g = s.flag g := rfl
@[simp] theorem State.rd_modPwr (s : State) (f : Power → Power) (k : Nat) : (s.modPwr f).rd k = s.rd k := rfl
@[simp] theorem State.rd64_modPwr (s : State) (f : Power → Power) (k : Nat) : (s.modPwr f).rd64 k = s.rd64 k := rfl
@[simp] theorem State.get_modPwr (s : State) (f : Power → Power) (g : Fld) : (s.modPwr f).get g = s.get g := rfl
@[simp] theorem State.flag_modPwr (s : State) (f : Power → Power) (g : Fld) : (s.modPwr f).flag g = s.flag g := rfl
@[simp] theorem State.rd_modEvt (s : State) (f : Events → Events) (k : Nat) : (s.modEvt f).rd k = s.rd k := rfl
@[simp] theorem State.rd64_modEvt (s : State) (f : Events → Events) (k : Nat) : (s.modEvt f).rd64 k = s.rd64 k := rfl
@[simp] theorem State.get_modEvt (s : State) (f : Events → Events) (g : Fld) : (s.modEvt f).get g = s.get g := rfl
@[simp] theorem State.flag_modEvt (s : State) (f : Events → Events) (g : Fld) : (s.modEvt f).flag g = s.flag g := rfl
@[simp] theorem State.rd_modBon (s : State) (f : Bonos → Bonos) (k : Nat) : (s.modBon f).rd k = s.rd k := rfl
@[simp] theorem State.rd64_modBon (s : State) (f : Bonos → Bonos) (k : Nat) : (s.modBon f).rd64 k = s.rd64 k := rfl
@[simp] theorem State.get_modBon (s : State) (f : Bonos → Bonos) (g : Fld) : (s.modBon f).get g = s.get g := rfl
@[simp] theorem State.flag_modBon (s : State) (f : Bonos → Bonos) (g : Fld) : (s.modBon f).flag g = s.flag g := rfl
@[simp] theorem State.rd_modPmc (s : State) (f : Pmc → Pmc) (k : Nat) : (s.modPmc f).rd k = s.rd k := rfl
@[simp] theorem State.rd64_modPmc (s : State) (f : Pmc → Pmc) (k : Nat) : (s.modPmc f).rd64 k = s.rd64 k := rfl
@[simp] theorem State.get_modPmc (s : State) (f : Pmc → Pmc) (g : Fld) : (s.modPmc f).get g = s.get g := rfl
@[simp] theorem State.flag_modPmc (s : State) (f : Pmc → Pmc) (g : Fld) : (s.modPmc f).flag g = s.flag g := rfl
@[simp] theorem State.rd_modFree (s : State) (f : FreeList → FreeList) (k : Nat) : (s.modFree f).rd k = s.rd k := rfl
@[simp] theorem State.rd64_modFree (s : State) (f : FreeList → FreeList) (k : Nat) : (s.modFree f).rd64 k = s.rd64 k := rfl
@[simp] theorem State.get_modFree (s : State) (f : FreeList → FreeList) (g : Fld) : (s.modFree f).get g = s.get g := rfl
@[simp] theorem State.flag_modFree (s : State) (f : FreeList → FreeList) (g : Fld) : (s.modFree f).flag g = s.flag g := rfl
@[simp] theorem State.rd_putQp (s : State) (q : Nat) (p : Qp) (k : Nat) : (s.putQp q p).rd k = s.rd k := rfl
@[simp] theorem State.rd64_putQp (s : State) (q : Nat) (p : Qp) (k : Nat) : (s.putQp q p).rd64 k = s.rd64 k := rfl
@[simp] theorem State.get_putQp (s : State) (q : Nat) (p : Qp) (g : Fld) : (s.putQp q p).get g = s.get g := rfl
@[simp] theorem State.flag_putQp (s : State) (q : Nat) (p : Qp) (g : Fld) : (s.putQp q p).flag g = s.flag g := rfl
@[simp] theorem State.rd_putBib (s : State) (i : Nat) (b : Bib) (k : Nat) : (s.putBib i b).rd k = s.rd k := rfl
@[simp] theorem State.rd64_putBib (s : State) (i : Nat) (b : Bib) (k : Nat) : (s.putBib i b).rd64 k = s.rd64 k := rfl
@[simp] theorem State.get_putBib (s : State) (i : Nat) (b : Bib) (g : Fld) : (s.putBib i b).get g = s.get g := rfl
@[simp] theorem State.flag_putBib (s : State) (i : Nat) (b : Bib) (g : Fld) : (s.putBib i b).flag g = s.flag g := rfl
@[simp] theorem State.rd_setBibs (s : State) (b : Table Bib) (k : Nat) : (s.setBibs b).rd k = s.rd k := rfl
@[simp] theorem State.rd64_setBibs (s : State) (b : Table Bib) (k : Nat) : (s.setBibs b).rd64 k = s.rd64 k := rfl
@[simp] theorem State.get_setBibs (s : State) (b : Table Bib) (g : Fld) : (s.setBibs b).get g = s.get g := rfl
@[simp] theorem State.flag_setBibs (s : State) (b : Table Bib) (g : Fld) : (s.setBibs b).flag g = s.flag g := rfl
@[simp] theorem State.rd_setWax (s : State) (w : Table Wax) (k : Nat) : (s.setWax w).rd k = s.rd k := rfl
@[simp] theorem State.rd64_setWax (s : State) (w : Table Wax) (k : Nat) : (s.setWax w).rd64 k = s.rd64 k := rfl
@[simp] theorem State.get_setWax (s : State) (w : Table Wax) (g : Fld) : (s.setWax w).get g = s.get g := rfl
@[simp] theorem State.flag_setWax (s : State) (w : Table Wax) (g : Fld) : (s.setWax w).flag g = s.flag g := rfl
@[simp] theorem State.rd_send (s : State) (o : Out) (k : Nat) : (s.send o).rd k = s.rd k := rfl
@[simp] theorem State.rd64_send (s : State) (o : Out) (k : Nat) : (s.send o).rd64 k = s.rd64 k := rfl
@[simp] theorem State.get_send (s : State) (o : Out) (g : Fld) : (s.send o).get g = s.get g := rfl
@[simp] theorem State.flag_send (s : State) (o : Out) (g : Fld) : (s.send o).flag g = s.flag g := rfl
@[simp] theorem State.rd_draw (s : State) (k : Nat) : (s.draw).rd k = s.rd k := rfl
@[simp] theorem State.rd64_draw (s : State) (k : Nat) : (s.draw).rd64 k = s.rd64 k := rfl
@[simp] theorem State.get_draw (s : State) (g : Fld) : (s.draw).get g = s.get g := rfl
@[simp] theorem State.flag_draw (s : State) (g : Fld) : (s.draw).flag g = s.flag g := rfl
@[simp] theorem State.rd_modQp (s : State) (q : Nat) (f : Qp → Qp) (k : Nat) : (s.modQp q f).rd k = s.rd k := rfl
@[simp] theorem State.rd64_modQp (s : State) (q : Nat) (f : Qp → Qp) (k : Nat) : (s.modQp q f).rd64 k = s.rd64 k := rfl
@[simp] theorem State.get_modQp (s : State) (q : Nat) (f : Qp → Qp) (g : Fld) : (s.modQp q f).get g = s.get g := rfl
@[simp] theorem State.flag_modQp (s : State) (q : Nat) (f : Qp → Qp) (g : Fld) : (s.modQp q f).flag g = s.flag g := rfl
@[simp] theorem State.rd_modBib (s : State) (i : Nat) (f : Bib → Bib) (k : Nat) : (s.modBib i f).rd k = s.rd k := rfl
@[simp] theorem State.rd64_modBib (s : State) (i : Nat) (f : Bib → Bib) (k : Nat) : (s.modBib i f).rd64 k = s.rd64 k := rfl
@[simp] theorem State.get_modBib (s : State) (i : Nat) (f : Bib → Bib) (g : Fld) : (s.modBib i f).get g = s.get g := rfl
@[simp] theorem State.flag_modBib (s : State) (i : Nat) (f : Bib → Bib) (g : Fld) : (s.modBib i f).flag g = s.flag g := rfl
@[simp] theorem State.rd_putPfx (s : State) (i : Nat) (x : Prefix) (k : Nat) : (s.putPfx i x).rd k = s.rd k := rfl
@[simp] theorem State.rd64_putPfx (s : State) (i : Nat) (x : Prefix) (k : Nat) : (s.putPfx i x).rd64 k = s.rd64 k := rfl
@[simp] theorem State.get_putPfx (s : State) (i : Nat) (x : Prefix) (g : Fld) : (s.putPfx i x).get g = s.get g := rfl
@[simp] theorem State.flag_putPfx (s : State) (i : Nat) (x : Prefix) (g : Fld) : (s.putPfx i x).flag g = s.flag g := rfl
@[simp] theorem State.rd_putWax (s : State) (i : Nat) (x : Wax) (k : Nat) : (s.putWax i x).rd k = s.rd k := rfl
@[simp] theorem State.rd64_putWax (s : State) (i : Nat) (x : Wax) (k : Nat) : (s.putWax i x).rd64 k = s.rd64 k := rfl
@[simp] theorem State.get_putWax (s : State) (i : Nat) (x : Wax) (g : Fld) : (s.putWax i x).get g = s.get g := rfl
@[simp] theorem State.flag_putWax (s : State) (i : Nat) (x : Wax) (g : Fld) : (s.putWax i x).flag g = s.flag g := rfl
@[simp] theorem State.rd_modTile (s : State) (d t : Nat) (f : Tile → Tile) (k : Nat) : (s.modTile d t f).rd k = s.rd k := rfl
@[simp] theorem State.rd64_modTile (s : State) (d t : Nat) (f : Tile → Tile) (k : Nat) : (s.modTile d t f).rd64 k = s.rd64 k := rfl
@[simp] theorem State.get_modTile (s : State) (d t : Nat) (f : Tile → Tile) (g : Fld) : (s.modTile d t f).get g = s.get g := rfl
@[simp] theorem State.flag_modTile (s : State) (d t : Nat) (f : Tile → Tile) (g : Fld) : (s.modTile d t f).flag g = s.flag g := rfl
@[simp] theorem State.rd_modArr (s : State) (d t a : Nat) (f : Arr → Arr) (k : Nat) : (s.modArr d t a f).rd k = s.rd k := rfl
@[simp] theorem State.rd64_modArr (s : State) (d t a : Nat) (f : Arr → Arr) (k : Nat) : (s.modArr d t a f).rd64 k = s.rd64 k := rfl
@[simp] theorem State.get_modArr (s : State) (d t a : Nat) (f : Arr → Arr) (g : Fld) : (s.modArr d t a f).get g = s.get g := rfl
@[simp] theorem State.flag_modArr (s : State) (d t a : Nat) (f : Arr → Arr) (g : Fld) : (s.modArr d t a f).flag g = s.flag g := rfl
@[simp] theorem State.rd_modPort (s : State) (p : Nat) (f : Port → Port) (k : Nat) : (s.modPort p f).rd k = s.rd k := rfl
@[simp] theorem State.rd64_modPort (s : State) (p : Nat) (f : Port → Port) (k : Nat) : (s.modPort p f).rd64 k = s.rd64 k := rfl
@[simp] theorem State.get_modPort (s : State) (p : Nat) (f : Port → Port) (g : Fld) : (s.modPort p f).get g = s.get g := rfl
@[simp] theorem State.flag_modPort (s : State) (p : Nat) (f : Port → Port) (g : Fld) : (s.modPort p f).flag g = s.flag g := rfl
@[simp] theorem State.rd_putHkc (s : State) (d i : Nat) (x : HkcInput) (k : Nat) : (s.putHkc d i x).rd k = s.rd k := rfl
@[simp] theorem State.rd64_putHkc (s : State) (d i : Nat) (x : HkcInput) (k : Nat) : (s.putHkc d i x).rd64 k = s.rd64 k := rfl
@[simp] theorem State.get_putHkc (s : State) (d i : Nat) (x : HkcInput) (g : Fld) : (s.putHkc d i x).get g = s.get g := rfl
@[simp] theorem State.flag_putHkc (s : State) (d i : Nat) (x : HkcInput) (g : Fld) : (s.putHkc d i x).flag g = s.flag g := rfl
@[simp] theorem State.rd_tally (s : State) (b c n : Nat) (h : Option Hub) (k : Nat) : (s.tally b c n h).rd k = s.rd k := State.rd_modPmc s _ _
@[simp] theorem State.rd64_tally (s : State) (b c n : Nat) (h : Option Hub) (k : Nat) : (s.tally b c n h).rd64 k = s.rd64 k := State.rd64_modPmc s _ _
@[simp] theorem State.get_tally (s : State) (b c n : Nat) (h : Option Hub) (g : Fld) : (s.tally b c n h).get g = s.get g := State.get_modPmc s _ _
@[simp] theorem State.flag_tally (s : State) (b c n : Nat) (h : Option Hub) (g : Fld) : (s.tally b c n h).flag g = s.flag g := State.flag_modPmc s _ _

/-! ### Registers after a field put -/

theorem State.flag_put_same (s : State) (f : Fld) (n : Nat) (h : f.lo + f.width ≤ 32) :
    (s.put f n).flag f = (n % 2 ^ f.width != 0) := by
  simp [State.flag, State.get_put_same s f n h]

theorem State.flag_put_apart (s : State) {f g : Fld} (n : Nat) (hf : f.lo + f.width ≤ 32) (h : f.apart g) :
    (s.put f n).flag g = s.flag g := by
  simp [State.flag, State.get_put_apart s n hf h]

theorem Fld.apart_sel {f g : Fld} (h : f.apart g) (q : Nat) : (f.sel q).apart (g.sel q) := by
  rcases h with h | h
  · refine .inl fun e => h ?_
    simpa [Fld.sel, keyAt] using e
  · exact .inr h

theorem State.get_put_sel (s : State) {f g : Fld} (q n : Nat) (hf : f.lo + f.width ≤ 32) (h : f.apart g) :
    (s.put (f.sel q) n).get (g.sel q) = s.get (g.sel q) := s.get_put_apart n hf (Fld.apart_sel h q)

theorem State.flag_put_sel (s : State) {f g : Fld} (q n : Nat) (hf : f.lo + f.width ≤ 32) (h : f.apart g) :
    (s.put (f.sel q) n).flag (g.sel q) = s.flag (g.sel q) := s.flag_put_apart n hf (Fld.apart_sel h q)

/-- Keys of two offsets below 64 MiB are apart when the offsets are. -/
theorem keyAt_ne {a b : Nat} (ha : a < 0x4000000) (hb : b < 0x4000000) (h : a ≠ b) (p q : Nat) : keyAt p a ≠ keyAt q b := by
  intro e
  have e' : keyAt p a % selStride = keyAt q b % selStride := by rw [e]
  simp only [keyAt, Nat.mul_add_mod_self_right, selStride] at e'
  rw [Nat.mod_eq_of_lt ha, Nat.mod_eq_of_lt hb] at e'
  exact h e'

theorem Fld.apart_keys {f g : Fld} (h : f.reg < 0x4000000 ∧ g.reg < 0x4000000 ∧ f.reg ≠ g.reg) (p q : Nat) :
    (f.sel p).apart (g.sel q) := .inl (keyAt_ne h.1 h.2.1 h.2.2 p q)

theorem keyAt_zero (a : Nat) : keyAt 0 a = a := by simp [keyAt]

theorem Fld.sel_zero (f : Fld) : f.sel 0 = f := by simp [Fld.sel, keyAt]

theorem Fld.apart_plain {f g : Fld} (h : f.reg < 0x4000000 ∧ g.reg < 0x4000000 ∧ f.reg ≠ g.reg) (q : Nat) :
    (f.sel q).apart g := by
  have := Fld.apart_keys h q 0
  rwa [Fld.sel_zero] at this

theorem Fld.apart_plain' {f g : Fld} (h : f.reg < 0x4000000 ∧ g.reg < 0x4000000 ∧ f.reg ≠ g.reg) (q : Nat) :
    f.apart (g.sel q) := by
  have := Fld.apart_keys h 0 q
  rwa [Fld.sel_zero] at this

theorem State.get_wr64_apart (s : State) {k : Nat} {g : Fld} (n : Nat) (h : (Fld.word k).apart g)
    (h4 : (Fld.word (k + 4)).apart g) : (s.wr64 k n).get g = s.get g := by
  simp only [State.wr64]
  rw [State.get_wr_apart _ _ h4, State.get_wr_apart _ _ h]

theorem State.get_count_apart (s : State) {k : Nat} {g : Fld} (n : Nat) (h : (Fld.word k).apart g)
    (h4 : (Fld.word (k + 4)).apart g) : (s.count k n).get g = s.get g := s.get_wr64_apart _ h h4

theorem State.rd64_congr {s t : State} {k : Nat} (h : t.rd k = s.rd k) (h4 : t.rd (k + 4) = s.rd (k + 4)) :
    t.rd64 k = s.rd64 k := by simp only [State.rd64, h, h4]

theorem State.rd64_put (s : State) {f : Fld} (n : Nat) {k : Nat} (h : k ≠ f.reg) (h4 : k + 4 ≠ f.reg) :
    (s.put f n).rd64 k = s.rd64 k := State.rd64_congr (s.rd_put_other f n h) (s.rd_put_other f n h4)

theorem State.rd64_wr64_other (s : State) {k j : Nat} (n : Nat) (h : j ≠ k) (h4 : j ≠ k + 4) (g : j + 4 ≠ k) :
    (s.wr64 k n).rd64 j = s.rd64 j :=
  State.rd64_congr (s.rd_wr64_other k n h h4) (s.rd_wr64_other k n g (by omega))

theorem State.rd64_count_other (s : State) {k j : Nat} (n : Nat) (h : j ≠ k) (h4 : j ≠ k + 4) (g : j + 4 ≠ k) :
    (s.count k n).rd64 j = s.rd64 j := s.rd64_wr64_other _ h h4 g

/-! ### Elements of tables -/

@[simp] theorem State.bib_putBib_same (s : State) (i : Nat) (b : Bib) : (s.putBib i b).bib i = b := by
  simp [State.bib, State.putBib, Table.getD]

theorem State.bib_putBib_other (s : State) {i j : Nat} (h : j ≠ i) (b : Bib) : (s.putBib i b).bib j = s.bib j := by
  simp [State.bib, State.putBib, Table.getD, Table.get?_put_other _ h]

@[simp] theorem State.bib_modBib_same (s : State) (i : Nat) (f : Bib → Bib) : (s.modBib i f).bib i = f (s.bib i) := by
  simp [State.modBib]

theorem State.bib_modBib_other (s : State) {i j : Nat} (h : j ≠ i) (f : Bib → Bib) : (s.modBib i f).bib j = s.bib j :=
  s.bib_putBib_other h _

@[simp] theorem State.qp_modQp_same (s : State) (q : Nat) (f : Qp → Qp) : (s.modQp q f).qp q = f (s.qp q) := by
  simp [State.qp, State.modQp, State.putQp, Table.getD]

theorem State.qp_modQp_other (s : State) {i j : Nat} (h : j ≠ i) (f : Qp → Qp) : (s.modQp i f).qp j = s.qp j := by
  simp [State.qp, State.modQp, State.putQp, Table.getD, Table.get?_put_other _ h]

@[simp] theorem State.tile_modTile_same (s : State) (d t : Nat) (f : Tile → Tile) : (s.modTile d t f).tile d t = f (s.tile d t) := by
  simp [State.tile, State.modTile, Table.getD]

@[simp] theorem State.arr_modArr_same (s : State) (d t a : Nat) (f : Arr → Arr) : (s.modArr d t a f).arr d t a = f (s.arr d t a) := by
  simp [State.arr, State.modArr, Table.getD]

@[simp] theorem State.port_modPort_same (s : State) (p : Nat) (f : Port → Port) : (s.modPort p f).port p = f (s.port p) := by
  simp [State.port, State.modPort, Table.getD]

@[simp] theorem State.pfx_putPfx_same (s : State) (p : Nat) (x : Prefix) : (s.putPfx p x).pfx p = x := by
  simp [State.pfx, State.putPfx, Table.getD]

theorem State.waxAt_putWax_same (s : State) (w : Nat) (x : Wax) (h : x.state ≠ .absent) : (s.putWax w x).waxAt w = x := by
  simp [State.waxAt, State.putWax, Table.getD, h]

@[simp] theorem State.hkc_putHkc_same (s : State) (d i : Nat) (x : HkcInput) : (s.putHkc d i x).hkc d i = x := by
  simp [State.hkc, State.putHkc, Table.getD]

end Sys2Proof.Machine
end

