-- ==== Sys2Proof/WellFormed.lean ====
section
/-!
DEFINITION. Which commands are well formed: what the operands of a command must keep beyond their types. The meanings are
total and do not rest on it.
-/

namespace Sys2Proof

/-- A value that 64 bits hold (R5). -/
def fits64 (n : Nat) : Bool := decide (n < 2 ^ 64)

/-- A value that 32 bits hold (R4). -/
def fits32 (n : Nat) : Bool := decide (n < 2 ^ 32)

/-- An access moves at least one byte (R4). -/
def accessOk (nbytes : Fin 9) : Bool := decide (nbytes.val ≠ 0)

/-- One value for each of the 128 converters of a tile, or columns of an array, or elements of a block (R24, R29, R57). -/
def perConverter {α : Type} (l : List α) : Bool := l.length == 128

/-- A prompt that was read has the COUNT tokens of its descriptor, bytes 0x10 to 0x13 (R175, R208). -/
def promptOk (d : Desc) (prompt : Option (List Word)) : Bool :=
  match prompt with
  | some l => decide (l.length = (d.extractLsb' 128 32).toNat)
  | none => true

/-- The reference differences are 16 (R99); the sites of a list differ (R265). -/
def ArrayProgram.wf (p : ArrayProgram) : Bool :=
  p.refs.length == 16 && decide (p.misses.map fun m => (m.1, m.2.1)).Nodup

/-- A decode slot of the module and an action of R231. -/
def SpreadChange.wf (c : SpreadChange) : Bool := decide (c.slot < 4096) && decide (c.action < 5)

/-- An entry has 128 bytes (R151); its tail holds tokens of 32 bits (R302). -/
def MirrorEntry.wf (m : MirrorEntry) : Bool := m.entry.length == 128 && fits64 m.ckptLap && m.tail.all fits32

/-- A severity of R312, and at least one occurrence (R313). -/
def Report.wf (r : Report) : Bool := decide (r.sev < 5) && decide (1 ≤ r.count) && fits32 r.count

/-- LEN of a frame that came whole is the length of its payload in bytes (R273). -/
def Frame.wf (f : Frame) : Bool := !f.crcOk || f.payload.length == f.len.toNat

/-- The fields of a TIME payload have their widths (R282). -/
def TimePayload.wf (t : TimePayload) : Bool :=
  fits64 t.tx && fits64 t.echoTx && fits64 t.echoRx && fits64 t.dlap && fits64 t.dlapTime && decide (t.hops < 256)

/-- DATA of an operation is 32 bytes (R286). -/
def GopPayload.wf (g : GopPayload) : Bool := g.data.length == 32

/-- A well-formed command. -/
def Instr.wf (i : Instr) : Bool :=
  match i with
  | .registerWrite _ _ nbytes _ => accessOk nbytes
  | .readLowWordLatch _ => true
  | .sqTail _ _ nbytes _ => accessOk nbytes
  | .cqHead _ _ nbytes _ => accessOk nbytes
  | .qpEnable _ => true
  | .open _ d prompt => promptOk d prompt
  | .append _ d prompt => promptOk d prompt
  | .pause _ _ => true
  | .resume _ _ => true
  | .close _ _ => true
  | .prefixCreate _ d prompt => promptOk d prompt
  | .prefixDrop _ _ => true
  | .waxLoad _ _ _ => true
  | .waxFit _ _ _ => true
  | .query _ _ => true
  | .fence _ _ => true
  | .fenceComplete _ => true
  | .descriptorFetchError _ => true
  | .msixVectorTimer _ _ => true
  | .msixUnmask _ => true
  | .functionLevelReset => true
  | .d3hotEntry _ => true
  | .d0Return _ => true
  | .perstNAssert => true
  | .perstNDeassert => true
  | .bibSel _ => true
  | .grmTsel _ => true
  | .grmCsel _ => true
  | .waxSel _ => true
  | .patTsel _ => true
  | .patFpsel _ => true
  | .patLogSel _ => true
  | .kvmQuota _ => true
  | .lapTweight _ => true
  | .lapEbudget _ _ _ => true
  | .thmSstsExcl _ _ _ => true
  | .pmcEvsel _ => true
  | .pmcNow _ => true
  | .evtClaim _ _ => true
  | .evtDone _ _ _ => true
  | .evtHoldTake _ _ => true
  | .evtHoldRelease _ _ => true
  | .evtHoldExpire => true
  | .evtLineTimer _ => true
  | .evtSourcePending _ => true
  | .arkTestSeparate _ _ => true
  | .arkTestMerged _ _ => true
  | .arkTestTransposed _ _ => true
  | .arkTestReference _ _ => true
  | .arkTestDone _ charge => perConverter charge
  | .ldrLoad _ => true
  | .ldrReplace _ => true
  | .ldrAttach _ => true
  | .ldrRelease _ => true
  | .ldrAbort _ => true
  | .ldrPut _ => true
  | .bar4Write _ bytes => !bytes.isEmpty
  | .ldrSectionVerified => true
  | .programRoundDone arrays => arrays.all ArrayProgram.wf
  | .ldrLayerVerified fp => decide (fp.length ≤ 512)
  | .ldrOperationDone => true
  | .pwrReqActive => true
  | .pwrReqIdle => true
  | .pwrReqSleep => true
  | .idleEntryDone => true
  | .idleExit _ => true
  | .idleExitReady gtime => fits64 gtime
  | .sleepEntry => true
  | .sleepAbort _ => true
  | .pwrWakeTmr => true
  | .wake _ => true
  | .haltInputChange _ _ _ => true
  | .haltDiscrepancy => true
  | .haltRelease => true
  | .railRise _ => true
  | .railFall _ => true
  | .vppLost => true
  | .vppRestored => true
  | .thermalComparatorTrip _ => true
  | .gateCloseRequest _ _ => true
  | .gateRampStep _ _ _ => true
  | .gateOpenRequest _ _ => true
  | .clockGateOpen _ _ => true
  | .clockGateClose _ _ => true
  | .clockSourceStable _ => true
  | .clockSourceChange _ _ => true
  | .clockRampStep _ => true
  | .clockMonitorWindow _ _ => true
  | .rootPllLossOfLock => true
  | .bonosStart => true
  | .imagePass1Done => true
  | .memoryTrainingDone lodgeHe lodgeHw => fits32 lodgeHe && fits32 lodgeHw
  | .imagePass2Done => true
  | .groomingTablesLoaded => true
  | .startupReady _ gtime => fits64 gtime
  | .recovery => true
  | .lapBoundary gtime => fits64 gtime
  | .ttlExpired _ => true
  | .faultHold _ => true
  | .released _ => true
  | .hkcIntervalEnd => true
  | .pmcSnapshotSwap => true
  | .planCutoff => true
  | .planComplete => true
  | .trimBankCompose => true
  | .waveIssue _ => true
  | .firingIssue _ _ _ _ => true
  | .transposedRead _ _ _ _ codes => perConverter codes
  | .referenceRead _ _ _ => true
  | .conversionSlot _ _ _ _ charge => perConverter charge
  | .partialRelease _ _ _ => true
  | .columnSum _ _ _ _ _ => true
  | .driftGainUpdate _ _ _ => true
  | .mogulJob _ => true
  | .attItemStart _ => true
  | .attItemDone _ => true
  | .attMerge _ _ _ _ => true
  | .attDue _ _ => true
  | .sample _ _ => true
  | .spreadHandoff _ _ => true
  | .spreadCtl _ lap changes => fits64 lap && changes.all SpreadChange.wf
  | .spreadTok _ lap _ toks => fits64 lap && toks.all (fun t => fits32 t.1)
  | .gatherPart lap _ _ _ _ _ => fits64 lap
  | .groomWindow _ _ ms => perConverter ms
  | .grmStatHalfClose _ _ _ st _ => perConverter st
  | .spareColumnProgrammed _ _ _ _ => true
  | .grmFlush => true
  | .provingWindow _ _ points _ => points.length == 4
  | .tileFaultDetect _ _ _ _ => true
  | .reserveUnitBegin _ _ => true
  | .spareProgrammed _ _ _ => true
  | .mogulUnitFail _ => true
  | .laneFail _ => true
  | .joinUnitFail _ => true
  | .memoryChannelFault _ _ => true
  | .poison _ _ => true
  | .shadowPoison _ _ => true
  | .waxRecordPoison _ _ => true
  | .reserveFull _ _ => true
  | .moduleFault _ => true
  | .checkpointWindow _ => true
  | .checkpointComplete _ => true
  | .checkpointAbandon _ => true
  | .ckptRestore _ => true
  | .mirrorEntry m => m.wf
  | .mirrorKv _ _ _ _ _ => true
  | .mirrorTail _ _ toks => toks.all fits32
  | .mirrorAck _ => true
  | .mirrorDrop _ _ => true
  | .orphan _ => true
  | .migration m _ _ => m.wf
  | .patOrphan _ => true
  | .fingerprint _ _ dlap _ bytes => fits64 dlap && decide (bytes.length ≤ 512)
  | .fingerprintVerdict _ => true
  | .fpDrainExpired _ => true
  | .errorReport r => r.wf
  | .burstClose _ => true
  | .logDrain => true
  | .transferBlockDone _ _ => true
  | .restoreDone _ => true
  | .prefixReady _ => true
  | .waxLoadDone _ => true
  | .waxMoveDone _ => true
  | .waxFitUpdate _ grads _ _ => grads.all perConverter
  | .waxFitEnd _ => true
  | .hkcSample _ _ _ _ _ => true
  | .hbmSensorRead _ _ _ _ => true
  | .pausePoint _ _ => true
  | .snowploughEnd => true
  | .data _ f _ => f.wf
  | .ack _ f _ => f.wf
  | .nack _ f _ => f.wf
  | .time _ t => t.wf
  | .gop _ g _ => g.wf
  | .lane _ _ => true
  | .hello _ _ _ => true
  | .idle _ => true
  | .ackTimer _ => true
  | .timeFrameTimer _ => true
  | .portDown _ _ => true
  | .portBringupRetry _ => true
  | .portBringupStageDone _ _ => true
  | .laneFailure _ _ => true
  | .degradedLock _ => true
  | .spareLaneRestore _ _ => true
  | .syncLocked dlap gtime => fits64 dlap && fits64 gtime
  | .noDomainPeer gtime => fits64 gtime
  | .realignHoldEnd dlap gtime => fits64 dlap && fits64 gtime
  | .gopBarrier _ => true
  | .gopSnapshot _ => true
  | .gopBroadcast _ => true
  | .gopReset _ => true
  | .gopStretchRefused _ => true
  | .bonCmdLogRead _ => true
  | .bonCmdFlush _ => true
  | .updBegin _ => true
  | .updData _ _ => true
  | .updEnd => true
  | .keyPut _ _ _ _ => true
  | .idGet => true
  | .logRead _ => true
  | .telemPointerWrite _ => true
  | .telemIgnoredWrite => true
  | .telemRead _ => true
  | .setdasa _ _ => true
  | .entdaa _ _ => true
  | .qpDisable _ => true
  | .busMasterEnable _ => true
  | .l1Exit => true
  | .pmeTurnOff => true
  | .interfacePllLossOfLock _ => true
  | .guestHandoff _ _ _ _ _ _ _ _ _ _ => true
  | .badType _ _ _ => true
  | .telemMapCopy => true
  | .stormIntervalEnd => true
  | .counterWrap _ _ _ => true

end Sys2Proof
end

