-- ==== Sys2Proof/Tests/Slice0.lean ====
section
/-!
SUPPORT. The model's own tests: an ill-formed term for each check of WellFormed, concrete states and operands that meet the
hypotheses of every statement, clause by clause, and single steps with the values that the spec gives.

Every state is built from the one after reset by a few named changes; `r0` is that state.
-/

namespace Sys2Proof.Tests

open Machine

set_option Elab.async false

/-- The state after reset. -/
abbrev r0 : State := State.reset

/-- The state after a command, or the same state where it stops. -/
def after (c : Instr) (s : State) : State :=
  match exec c s with
  | .next t => t
  | _ => s

/-- The command answers a next state. -/
def completes (c : Instr) (s : State) : Bool :=
  match exec c s with
  | .next _ => true
  | _ => false

/-- Laps run. -/
def running : State := r0.put Fld.LAP_STS_RUNNING 1

/-- The module is halted, for cause `n`. -/
def haltedBy (n : Nat) : State := (r0.put Fld.PWR_STS_HALTED 1).put Fld.PWR_STS_HALT_CAUSE n

/-- The module is in RECOVERY. -/
def recovering : State := r0.put Fld.BON_STS_RECOVERY 1

/-- Entry `i` of the request table in state `st`, with generation 1. -/
def bibIn (i : Nat) (st : BibState) (s : State) : State := s.putBib i { Bib.free 1 with state := st }

/-- A snowplough pause runs. -/
def pausing : State := running.modLedger fun l => { l with pausing := some 0 }

/-- A descriptor with the values at the offsets named (R173). -/
def desc (l : List (Nat × Nat)) : Desc := BitVec.ofNat 512 ((l.map fun x => x.2 * 2 ^ (8 * x.1)).sum)

/-- A model with one layer and a vocabulary of 32. -/
def model : Model :=
  { Model.new with layers := 1, qheads := 1, kvheads := 1, headDim := 128, dModel := 128, ffWidth := 128, vocab := 32 }

/-- An image with decode wave 0 and tow wave 32 of model slot 0, HE, and one wax pool. -/
def image : Image :=
  { build := 0, clock := [], pools := [⟨4, 4, 4, 4, 0, 0⟩], lapMs := 50, fbRes := 0, planLead := 0, stretchMax := 0, kvStarve := 0
    kvBudgetHe := 0, kvBudgetHw := 0, energyPlan := 0, tileMaps := [], tmplIndex := [], tmplRecs := [], mogulJobs := [], windows := []
    waves := ((List.range 96).map fun w => ⟨if w = 0 ∨ w = 32 then some 0 else none, 0, 0, 0⟩), kvRead := [], slices := []
    energy := [], slotMap := [⟨true, [], 0#64, 0⟩], routing := [], waxDir := [⟨1, 1#32, 1⟩], link := none, stewardEntry := 0#64 }

/-- Model slot 0 is RESIDENT, and the image is applied. -/
def serving (s : State) : State :=
  ((s.put (Fld.LDR_SLOT_STS_STATE.sel 0) 2).modLdr fun l => { l with slots := l.slots.put 0 model }).modBon fun b =>
    { b with image := some image }

/-- Queue pair 16,383 is enabled with rings of 16 entries and one descriptor in its submission ring. -/
def qpOn (s : State) : State :=
  let e := (s.put (Fld.QP_CFG_EN.sel 16383) 1).put (Fld.QP_CFG_SQ_LOG.sel 16383) 4
  ((e.put (Fld.QP_CFG_CQ_LOG.sel 16383) 4).modQp 16383 fun p => { p with sqTail := 1 }).modPcie fun p => { p with busMaster := true }

/-- Laps run, slot 0 serves, and queue pair 16,383 has a descriptor. -/
def host : State := qpOn (serving running)

/-- Entry 65,535 is a bib of queue pair 16,383 with generation 1, changed by `f`. -/
def owned (f : Bib → Bib) : State :=
  host.putBib 65535 (f { Bib.free 1 with qp := 16383, state := .admitted, maxLen := 100, promptLen := 1, inputs := [7] })

/-- A trunk of port `p` to peer `p + 1` with every class, its fifth lane the spare. -/
def trunk (p : Nat) : PortRec := { peer := p + 1, peerPort := p, classes := 0xFF#8, spare := true }

/-- A link section of a domain of two modules, this one 0. -/
def links : LinkSec :=
  { moduleId := 0, domainId := 1#32, maxHops := 4, size := 2, member := 0, ids := [0, 1], spreadCap := 0, wFp := 1, wMirror := 1
    wMigrate := 1, ports := (List.range 32).map trunk }

/-- The module is a member of a domain. -/
def linked (s : State) : State := (s.put Fld.LNK_ID_MODULE_ID 0).modBon fun b => { b with image := some { image with link := some links } }

/-- A stage of one row chunk and one column block. -/
def stage (n : Nat) : Stage :=
  { stage := n, point := 0, elem := 0, u := 0, rowChunks := 1, colBlocks := 1, resident := 0, widths := [(4, false)], scales := [] }

/-- A layer of stages 0 and 7. -/
def layer : Layer :=
  { seed := 0#32, kappa := [], eMin := 0, hr := 0, sigma := 0#32, stages := [stage 0, stage 7], outliers := [], weights := []
    outlierCols := [], rcell := [] }

/-- The run of array 255 of tile 8,447 of die 15: layer 0, stage 0, column block 0 of slot 0. -/
def run : SliceRun :=
  { die := 15, tile := 8447, slot := 0, layer := 0, stage := 0, first := 255, count := 1, merged := false, roleset := 0, row := 0, col := 0 }

/-- Slot 0 with layer 0 and the head, its one array, and one mogul job of unit 31 of each kind 0 and 3. -/
def filled (s : State) : State :=
  let jobs : List MogulRec := [⟨31, 0, 0, 0, 0, 0, 0, 0, 0⟩, ⟨31, 3, 0, 0, 0, 0, 0, 0, 0⟩]
  ((serving s).modLdr fun l => { l with slots := l.slots.put 0 { model with content := ⟨[(0, layer), (1, layer)]⟩ } }).modBon fun b =>
    { b with image := some { image with slices := [run], mogulJobs := jobs } }

/-- A decoding bib in entry 5 holds decode slot 0 of wave 0, which is issued. -/
def decoding (s : State) : State :=
  (s.putBib 5 { Bib.free 1 with state := .decoding, decSlot := some 0, inputs := [7], promptLen := 1, maxLen := 100, gen := 1 }).modPlan
    fun p => { p with issued := [0] }

/-- The tile of `run` is in service, and its die runs. -/
def inService (s : State) : State :=
  (s.put (Fld.ARK_STS_SEQ_STATE.die 15) 2).modTile 15 8447 fun x => { x with state := .inService }

/-- A block of one page. -/
def block : Block :=
  { pages := [0], lodge := false, shared := false, pos0 := 0, fill := 64, score := 0, poison := [], leaving := false, owner := 65535
    scales := [] }

/-! ### Ill-formed terms -/

/-- R4: no access of 0 bytes. -/
theorem test_wf_access :
    (Instr.registerWrite 5 0 0 0#32).wf = false ∧ (Instr.sqTail 0 0 0 0#32).wf = false ∧ (Instr.cqHead 0 8 0 0#32).wf = false
    ∧ (Instr.bar4Write 0 []).wf = false := by decide +kernel

/-- R175, R208: a prompt has COUNT tokens. -/
theorem test_wf_prompt :
    (Instr.open 0 0#512 (some [7#32])).wf = false ∧ (Instr.append 0 (BitVec.ofNat 512 (2 ^ 128)) (some [])).wf = false
    ∧ (Instr.prefixCreate 0 (BitVec.ofNat 512 (2 ^ 129)) (some [1#32])).wf = false
    ∧ (Instr.open 0 (BitVec.ofNat 512 (2 ^ 128)) (some [7#32])).wf = true := by decide +kernel

/-- R24: 128 converters a tile. -/
theorem test_wf_converters :
    (Instr.arkTestDone 0 [0]).wf = false ∧ (Instr.transposedRead 0 0 0 0#64 []).wf = false
    ∧ (Instr.conversionSlot 0 0 0 0#64 (List.replicate 127 0)).wf = false ∧ (Instr.groomWindow 0 0 []).wf = false
    ∧ (Instr.grmStatHalfClose 0 0 false [] []).wf = false ∧ (Instr.waxFitUpdate 0 [[]] 0#32 0).wf = false := by decide +kernel

/-- R5, R284: values of 64 bits. -/
theorem test_wf_sixty_four :
    (Instr.lapBoundary (2 ^ 64)).wf = false ∧ (Instr.idleExitReady (2 ^ 64)).wf = false ∧ (Instr.startupReady 0 (2 ^ 64)).wf = false
    ∧ (Instr.syncLocked (2 ^ 64) 0).wf = false ∧ (Instr.noDomainPeer (2 ^ 64)).wf = false
    ∧ (Instr.realignHoldEnd 0 (2 ^ 64)).wf = false ∧ (Instr.spreadTok 0 (2 ^ 64) 0 []).wf = false
    ∧ (Instr.gatherPart (2 ^ 64) 0 0 0 0 []).wf = false ∧ (Instr.fingerprint 0 0 (2 ^ 64) 0 []).wf = false := by decide +kernel

/-- Values of 32 bits, tokens among them (R302). -/
theorem test_wf_thirty_two :
    (Instr.memoryTrainingDone (2 ^ 32) 0).wf = false ∧ (Instr.spreadTok 0 0 0 [(2 ^ 32, false)]).wf = false
    ∧ (Instr.mirrorTail 0 0 [2 ^ 32]).wf = false := by decide +kernel

/-- R99, R265: 16 reference differences an array; its misses at different sites. -/
theorem test_wf_array_program :
    (ArrayProgram.wf ⟨0, 0, 0, [], [], [], true⟩) = false
    ∧ (ArrayProgram.wf ⟨0, 0, 0, [(0, 0, 0), (0, 0, 1)], [], List.replicate 16 0, true⟩) = false
    ∧ (ArrayProgram.wf ⟨0, 0, 0, [(0, 0, 0), (0, 1, 1)], [], List.replicate 16 0, true⟩) = true := by decide +kernel

/-- R231: a decode slot of the module, an action of the table. -/
theorem test_wf_spread_change :
    (SpreadChange.wf ⟨4096, 0, 0#32, 0#32⟩) = false ∧ (SpreadChange.wf ⟨4095, 5, 0#32, 0#32⟩) = false
    ∧ (SpreadChange.wf ⟨4095, 4, 0#32, 0#32⟩) = true := by decide +kernel

/-- R151, R302: an entry of 128 bytes. -/
theorem test_wf_mirror_entry :
    (MirrorEntry.wf { origin := 0, originBib := 0, ckptLap := 0, entry := [], tail := [] }) = false := by decide +kernel

/-- R312, R313: a severity, and an occurrence at least. -/
theorem test_wf_report :
    (Report.wf { r0.mkReport 0#32 0 0 5 0 0#32 with count := 1 }) = false
    ∧ (Report.wf { r0.mkReport 0#32 0 0 0 0 0#32 with count := 0 }) = false := by decide +kernel

/-- R273: LEN counts the payload. -/
theorem test_wf_frame :
    (Frame.wf ⟨1#8, 0#8, 4#16, 0#32, 0#32, [], true⟩) = false ∧ (Frame.wf ⟨1#8, 0#8, 4#16, 0#32, 0#32, [], false⟩) = true := by decide +kernel

/-- R282, R286: the fields of TIME have their widths; an operation carries 32 bytes of data. -/
theorem test_wf_payloads :
    (TimePayload.wf { tx := 2 ^ 64, echoTx := 0, echoRx := 0, t4 := 0, root := 0, hops := 0, dlap := 0, dlapTime := 0, locked := false }) = false
    ∧ (TimePayload.wf { tx := 0, echoTx := 0, echoRx := 0, t4 := 0, root := 0, hops := 256, dlap := 0, dlapTime := 0, locked := false }) = false
    ∧ (GopPayload.wf { op := 1, scope := 0, hops := 0, origin := 0, gseq := 0, target := 0, arg := 0, data := [] }) = false := by decide +kernel

/-- R297, R308: a proving window has four points; a layer's fingerprint 512 values at most. -/
theorem test_wf_lengths :
    (Instr.provingWindow 0 0 [] 0).wf = false ∧ (Instr.ldrLayerVerified (List.replicate 513 0)).wf = false
    ∧ (Instr.fingerprint 0 0 0 0 (List.replicate 513 0)).wf = false := by decide +kernel

/-- No row of the table has bits, so no word spells a command. -/
theorem test_no_word_spells_a_command : decodeTableWord 32 0xFFFFFFFF = none := by decide +kernel

/-! ### The machine, events, counters and clocks: what the hypotheses of the statements meet -/

/-- step_runs_front_command, reset_is_canonical, step_keeps_canonical and the frames: an empty queue, and a command that completes. -/
theorem test_witness_steps :
    r0.pending = [] ∧ r0.canonical = true ∧ safeStep { r0 with pending := [.bibSel 5#32] } = true
    ∧ ({ r0 with pending := [.bibSel 5#32] } : State).canonical = true ∧ completes (.bibSel 5#32) r0 = true := by decide +kernel

/-- A plan whose hub ratios break R339: the divider of domain 50 is not twice that of 48. -/
def badRatios : State := (r0.put (Fld.CLK_DCFG_DIV.sel 50) 1).put (Fld.CLK_DCFG_DIV.sel 51) 2

/-- only_undefined_clock_ratios_stop: both outcomes occur. -/
theorem test_witness_stops :
    completes (.clockSourceChange 48 .iosc) badRatios = true ∧ completes (.clockSourceChange 48 .root) badRatios = false
    ∧ badRatios.ratiosHold (leadOf 48) = false := by decide +kernel

/-- register_writes_follow_access_codes: LAP_TSEL takes its write; other widths, offsets that nothing decodes, the pending bits and
read-only words do not; a PMC_SEL that names block 30 is refused. -/
theorem test_witness_register_writes :
    ((findRow Reg.LAP_TSEL).any fun r => r.writable && refusedBits (foldDie r.off) 0xFFFFFFFF#32 == 0#32) = true
    ∧ Reg.LAP_TSEL % 4 = 0 ∧ r0.hidden Reg.LAP_TSEL = false ∧ inMsixTable Reg.LAP_TSEL = false ∧ inMsixPending Reg.LAP_TSEL = false
    ∧ ownRule Reg.LAP_TSEL = false ∧ ((3 : Fin 9) ≠ 4 ∨ 2 % 4 ≠ 0)
    ∧ recovering.hidden Reg.LAP_TSEL = true ∧ inMsixPending 0x90000 = true ∧ inMsixPending 0x901FC = true
    ∧ inMsixTable 0x3FFFFFC = false ∧ ((findRow 0x3FFFFFC).all fun r => !r.writable) = true
    ∧ (findRow Reg.QP_VIOL).any (fun r => !r.writable) = true ∧ inMsixTable Reg.QP_VIOL = false
    ∧ ((findRow Reg.PMC_SEL).any fun r => r.writable && refusedBits (foldDie r.off) (BitVec.ofNat 32 (30 * 256)) != 0#32) = true
    ∧ r0.hidden Reg.PMC_SEL = false ∧ ownRule Reg.PMC_SEL = false ∧ Reg.PMC_SEL % 4 = 0 := by decide +kernel

/-- The write of 5 to LAP_TSEL is read back; that of PMC_SEL.BLOCK 30 is refused and counted (R6, R184). -/
theorem test_register_write :
    (after (.registerWrite 5 (BitVec.ofNat 26 Reg.LAP_TSEL) 4 5#32) r0).get Fld.LAP_TSEL_TENANT = 5
    ∧ (let t := after (.registerWrite 5 (BitVec.ofNat 26 Reg.PMC_SEL) 4 (BitVec.ofNat 32 (30 * 256 + 3))) r0
      t.get Fld.PMC_SEL_BLOCK = 0 ∧ t.get Fld.PMC_SEL_COUNTER = 3 ∧ t.rd64 Reg.QP_VIOL = 1 ∧ t.flag Fld.QP_EVT_VIOL = true) := by
  decide +kernel

/-- low_word_read_latches_the_high_word: QP_VIOL has two words; a latched value, and none. -/
theorem test_witness_low_word_read :
    Reg.QP_VIOL % 4 = 0 ∧ r0.hidden Reg.QP_VIOL = false ∧ within Reg.EVT_CLAIM 6 8 Reg.QP_VIOL = false
    ∧ wordOf64 Reg.QP_VIOL = some false ∧ wordOf64 (Reg.QP_VIOL + 4) = some true
    ∧ (r0.setLatch Reg.QP_VIOL (some 7#32)).rf.latch.get? (Reg.QP_VIOL + 4 - 4) = some 7#32
    ∧ r0.rf.latch.get? (Reg.QP_VIOL + 4 - 4) = none
    ∧ within Reg.EVT_CLAIM 6 8 (Reg.QP_VIOL + 4) = false := by decide +kernel

/-- R5: the high word that a low read latched is returned, though it has changed. -/
theorem test_high_word_is_latched :
    (let t := after (.readLowWordLatch (BitVec.ofNat 26 Reg.QP_VIOL)) (r0.wr (Reg.QP_VIOL + 4) 9#32)
    (after (.readLowWordLatch (BitVec.ofNat 26 (Reg.QP_VIOL + 4))) (t.wr (Reg.QP_VIOL + 4) 10#32)).sent) =
      [.read Reg.QP_VIOL 0#32, .read (Reg.QP_VIOL + 4) 9#32] := by decide +kernel

/-- selectors_copy_latch_and_set: the last tile and the first number beyond it. -/
theorem test_witness_selectors :
    Decoded r0 ∧ wordBits (BitVec.ofNat 32 8447) 0 14 ≤ 8447 ∧ 8447 < wordBits (BitVec.ofNat 32 8448) 0 14 := by decide +kernel

/-- R166: BIB_SEL shows entry 5 with its generation. R254: KVM_QUOTA below the use raises QUOTA_OVER only above it. -/
theorem test_selectors :
    (let t := after (.bibSel 0x10005#32) (r0.wr Reg.LAP_NUM 7#32)
    t.get Fld.BIB_SEL_INDEX = 5 ∧ t.rd (wordAt Reg.BIB_ENT 32 0) = 0x10005#32 ∧ t.get Fld.BIB_SNAP_LAP_LAP = 7)
    ∧ (after (.kvmQuota 3#32) r0).quota 0 = 3 ∧ (after (.kvmQuota 3#32) r0).flag Fld.KVM_EVT_QUOTA_OVER = false := by decide +kernel

/-- recovery_leaves_the_other_windows_undecoded: a state in RECOVERY. -/
theorem test_witness_recovery : recovering.flag Fld.BON_STS_RECOVERY = true := by decide +kernel

/-- R394: in RECOVERY the write of BIB_SEL is a violation and selects nothing. -/
theorem test_recovery_hides :
    (let t := after (.bibSel 5#32) recovering
    t.rd64 Reg.QP_VIOL = 1 ∧ t.get Fld.BIB_SEL_INDEX = 0) ∧ (after (.evtClaim 5 0) recovering).sent = [.read Reg.EVT_CLAIM 0#32] := by
  decide +kernel

/-- Source 0x010 is pending. -/
def pendingFail : State := r0.putSource Reg.EVT_PEND 0x010 true

/-- The last source, 0x5FF, is pending, unmasked and routed to the host. -/
def pendingLast : State :=
  ((r0.putSource Reg.EVT_PEND 0x5FF true).putSource Reg.EVT_MASK 0x5FF false).put (srcWord Fld.EVT_SRC_ROUTE 0x5FF) 32

/-- claims_take_the_lowest_source: the first and the last source, no source, another requester. -/
theorem test_witness_claims :
    Decoded pendingFail ∧ pendingFail.lowestClaim 0 = some 0x010 ∧ Decoded pendingLast ∧ pendingLast.lowestClaim 5 = some 0x5FF
    ∧ pendingFail.lowestClaim 5 = none ∧ (5 : Requester).val ≠ (0 : Fin 6).val := by decide +kernel

/-- R373: the claim of source 0x010 is returned, in service, no longer pending. -/
theorem test_claim :
    (let t := after (.evtClaim 0 0) pendingFail
    t.sent = [.claim 0 0x010] ∧ t.evtPend 0x010 = false ∧ t.inService 0x010 = true)
    ∧ (after (.evtClaim 3 0) pendingFail).sent = [.claim 0 0x7FF] := by decide +kernel

/-- service_ends_and_timers: a source in service under its target, another target, the storm interval with and without laps, a
timer that runs and one that does not. -/
theorem test_witness_service :
    (let s := after (.evtClaim 0 0) pendingFail
    Decoded s ∧ wordBits 0x010#32 0 11 < 1536 ∧ s.inService 0x010 = true ∧ s.get (srcWord Fld.EVT_SRC_CLAIMER 0x010) = 0)
    ∧ ¬ (wordBits 0x600#32 0 11 < 1536) ∧ r0.running = false ∧ running.running = true
    ∧ 4 ∈ (r0.modEvt fun e => { e with timers := [4] }).evt.timers ∧ 4 ∉ r0.evt.timers := by decide +kernel

/-- R374: the completion of the claim ends the service; one of a source that is not in service is counted. -/
theorem test_done :
    (after (.evtDone 0 0 0x010#32) (after (.evtClaim 0 0) pendingFail)).inService 0x010 = false
    ∧ (after (.evtDone 0 0 0x600#32) r0).rd64 Reg.EVT_DONE_BAD = 1 := by decide +kernel

/-- A clock has failed over, and CLK_FAIL is held. -/
def clkFailHeld : State := r0.raise Fld.CLK_EVT_FAIL

/-- sources_become_pending: source 0x010 open, held by a hold of its word, already pending, and not open. -/
theorem test_witness_sources :
    (let s := clkFailHeld
    s.level 0x010 = true ∧ s.evtMasked 0x010 = false ∧ s.route 0x010 ≠ 0 ∧ s.inService 0x010 = false ∧ s.heldWord true 0x010 = false
    ∧ s.evtPend 0x010 = false ∧ s.routedTo 0x010 0 = true ∧ s.routedTo 0x010 5 = false
    ∧ (s.modEvt fun e => { e with hold := some (3, true, 0) }).heldWord true 0x010 = true)
    ∧ r0.level 0x010 = false ∧ pendingFail.evtPend 0x010 = true
    ∧ r0.get (Fld.EVT_TCFG_COUNT.target 1) ≤ r0.get (Fld.EVT_TSTS_COUNTED.target 1) + 1 := by decide +kernel

/-- R368, R375: CLK_FAIL becomes pending for Bonos, whose line asserts at once. -/
theorem test_source_pending :
    (let t := after (.evtSourcePending 0x010) clkFailHeld
    t.evtPend 0x010 = true ∧ t.flag (Fld.EVT_TSTS_LINE.target 0) = true ∧ t.flag (Fld.EVT_TSTS_LINE.target 5) = false) := by
  decide +kernel

/-- The hold of EVT_PEND word 47 by requester 2. -/
def holding : State := r0.modEvt fun e => { e with hold := some (2, true, 47) }

/-- holds_are_taken_released_and_expire: no hold, one of the requester, one of another. -/
theorem test_witness_holds :
    (Decoded r0 ∧ Decoded holding ∧ wordBits 0x800000AF#32 31 1 = 1 ∧ wordBits 0x800000AF#32 0 6 < 48 ∧ wordBits 0#32 31 1 = 0)
    ∧ r0.evt.hold = none ∧ holding.evt.hold = some (2, true, 47)
    ∧ ((2, true, 47) : Nat × Bool × Nat).1 = (2 : Requester).val ∧ ((2, true, 47) : Nat × Bool × Nat).1 ≠ (5 : Requester).val := by decide +kernel

/-- R371: the host takes a free hold of EVT_PEND word 47; a hold that expires is counted. -/
theorem test_hold :
    (after (.evtHoldTake 5 0x800000AF#32) r0).evt.hold = some (5, true, 47)
    ∧ (after (.evtHoldTake 5 0x800000AF#32) holding).evt.hold = some (2, true, 47)
    ∧ (after .evtHoldExpire holding).rd64 Reg.EVT_HOLD_EXP = 1 := by decide +kernel

/-- counters_select_snapshot_swap_and_wrap: valid and invalid selections, NOW with and without laps, a swap that is due. -/
theorem test_witness_counters :
    (Decoded r0 ∧ wordBits 0x210#32 8 2 ≠ 3 ∧ codeOk 0 (wordBits 0x210#32 0 8) = true ∧ ¬ (wordBits 0x310#32 8 2 ≠ 3))
    ∧ wordBits 0x80000001#32 31 1 = 1 ∧ r0.running = false ∧ running.running = true
    ∧ (let s := r0.modPmc fun p => { p with due := true }
      s.pmc.due = true ∧ s.flag Fld.PMC_CTL_FREEZE = false ∧ (s.put Fld.PMC_CTL_FREEZE 1).flag Fld.PMC_CTL_FREEZE = true)
    ∧ r0.pmc.due = false
    ∧ (let s := r0.modPmc fun p => { p with live := p.live.put 239 (2 ^ 48 - 1) }
      2 ^ 48 ≤ s.pmc.live.getD (29 * 8 + 7) 0 + 1 ∧ s.pmc.live.getD 0 0 + 1 < 2 ^ 48) := by decide +kernel

/-- R399: the last counter wraps to 0 with its WRAP bit. -/
theorem test_counter_wraps :
    (let t := after (.counterWrap 29 7 1) (r0.modPmc fun p => { p with live := p.live.put 239 (2 ^ 48 - 1) })
    t.pmc.live.getD 239 5 = 0 ∧ t.pmc.ovf.getD 29 0 = 128 ∧ t.pmc.ovfEvt = true) := by decide +kernel

/-- Domain 48 changes to ROOT at divider 7; `src` and `div` are in force. -/
def ramping (src div : Nat) : State :=
  let s := ((r0.put (Fld.CLK_DSTS_SRC.sel 48) src).put (Fld.CLK_DSTS_DIV.sel 48) div).modClk fun c =>
    { c with target := c.target.put 48 (0, 7) }
  ((s.put (Fld.CLK_DCFG_DIV.sel 48) 7).put (Fld.CLK_DCFG_DIV.sel 50) 14).put (Fld.CLK_DCFG_DIV.sel 49) 7 |>.put (Fld.CLK_DCFG_DIV.sel 51) 14

/-- clocks_change_ramp_and_gate: changes that are taken and that are not, a ramp on its source, at its target, at the handover with
the new source stable and not, gates with and without open children. -/
theorem test_witness_clocks :
    (ramping 1 1).ratiosHold (leadOf 48) = true
    ∧ (∀ m ∈ groupOf (leadOf 48), r0.flag (Fld.CLK_DSTS_FAILED.sel m.1) = false)
    ∧ (∃ m ∈ groupOf (leadOf 48), (r0.put (Fld.CLK_DSTS_FAILED.sel 51) 1).flag (Fld.CLK_DSTS_FAILED.sel m.1) = true)
    ∧ r0.clk.target.get? (leadOf 59) = none ∧ (ramping 0 9).clk.target.get? (leadOf 51) = some (0, 7)
    ∧ ((ramping 0 9).inForce 48).1 = 0 ∧ ((ramping 0 9).inForce 48).2 ≠ 7 ∧ (ramping 0 7).inForce 48 = (0, 7)
    ∧ ((ramping 1 1).inForce 48).1 ≠ 0 ∧ ((ramping 1 1).inForce 48).2 = handover 48 1
    ∧ (ramping 1 1).srcStable 0 = false ∧ ((ramping 1 1).put Fld.CLK_SRC_STS_ROOT_STABLE 1).srcStable 0 = true
    ∧ r0.flag (Fld.CLK_DSTS_FAILED.sel 58) = false ∧ (r0.put (Fld.CLK_DSTS_FAILED.sel 58) 1).flag (Fld.CLK_DSTS_FAILED.sel 58) = true
    ∧ (let s := after (.clockGateOpen .bonos (.tile 15 8447)) r0
      s.flag (Fld.CLK_DSTS_GATE.sel 47) = true ∧ 47 ∈ s.clk.dieGates ∧ s.tileGateOpen (47 / 3) = true)
    ∧ 47 ∉ r0.clk.dieGates ∧ r0.tileGateOpen (47 / 3) = false := by decide +kernel

/-- R347: the gate of a die with an open tile gate is not closed, and the refusal says which. -/
theorem test_gate_refused :
    (let t := after (.clockGateClose .bonos (.die 47)) (after (.clockGateOpen .bonos (.tile 15 8447)) r0)
    47 ∈ t.clk.dieGates ∧ t.get Fld.CLK_REFUSE_DOMAIN = 47 ∧ t.get Fld.CLK_REFUSE_LEVEL = 1 ∧ t.rd64 Reg.CLK_REFUSE_CNT = 1) := by
  decide +kernel

/-- clock_monitors_and_failover: a window that is discarded, in band, out of band; votes of the three monitors. -/
theorem test_witness_monitors :
    (let e := r0.domainExpected 59
    59 ∈ (r0.modClk fun c => { c with stepped := [59] }).clk.stepped ∧ 59 ∉ r0.clk.stepped
    ∧ outOfBand 0 e.1 e.2 (r0.bandOf 59) = true ∧ outOfBand (e.1 / e.2) e.1 e.2 (r0.bandOf 59) = false
    ∧ r0.srcFailed (r0.inForce 59).1 = false ∧ r0.flag (Fld.CLK_DSTS_FAILED.sel 59) = false)
    ∧ r0.flag Fld.CLK_SRC_STS_ROOT_FAIL = false ∧ outOfBand 0 8192 1 defaultBand = true
    ∧ outOfBand 8192 8192 1 defaultBand = false
    ∧ (let s := r0.modClk fun c => { c with rx := some true, ri := some false, xi := some false }
      s.clk.rx = some true ∧ s.clk.ri = some false ∧ true = outOfBand 0 8192 1 defaultBand)
    ∧ (let s := r0.modClk fun c => { c with rx := some false, ri := some true, xi := some true }
      s.clk.ri = some true ∧ s.clk.xi = some true ∧ false = outOfBand 4096 4096 1 defaultBand)
    ∧ (let s := r0.modClk fun c => { c with rx := some true, ri := some true, xi := some false }
      s.clk.xi = some false ∧ s.clk.rx = some true ∧ true = outOfBand 0 2048 1 defaultBand) := by decide +kernel

/-- R345: the domain of a monitor that counts nothing runs from IOSC at divider n, failed. -/
theorem test_failover :
    (let t := after (.clockMonitorWindow (.dom 59) 0) r0
    t.inForce 59 = (1, 4) ∧ t.flag (Fld.CLK_DSTS_FAILED.sel 59) = true ∧ t.rd64 Reg.CLK_FAIL_CNT = 1) := by decide +kernel

/-! ### Queue pairs, descriptors and requests -/

/-- doorbells_move_tail_and_head: the last index of the rings and the first beyond them. -/
theorem test_witness_doorbells :
    let s := qpOn r0
    let t := s.modQp 16383 fun p => { p with cqUsed := 3 }
    s.enabled 16383 = true ∧ wordBits 15#32 0 16 < s.sqSize 16383 ∧ s.sqSize 16383 ≤ wordBits 16#32 0 16
    ∧ t.enabled 16383 = true ∧ 3 < t.cqSize 16383 ∧ (t.qp 16383).backlog = [] ∧ t.cqSize 16383 ≤ 16
    ∧ cqReturned (t.cqSize 16383) (t.qp 16383).cqHead (t.qp 16383).cqUsed 3 ≤ (t.qp 16383).cqUsed
    ∧ (t.qp 16383).cqUsed < cqReturned (t.cqSize 16383) (t.qp 16383).cqHead (t.qp 16383).cqUsed 4
    ∧ s.enabled 0 = false ∧ (8 : Fin 9) ≠ 4 ∧ 4 % 4 = 0 ∧ ((4#12 : BitVec 12) ≠ 0#12 ∧ (4#12 : BitVec 12) ≠ 8#12) := by decide +kernel

/-- R170: SQ_TAIL moves to 15; 16 is beyond the ring. -/
theorem test_doorbell :
    ((after (.sqTail 16383 0 4 15#32) (qpOn r0)).qp 16383).sqTail = 15
    ∧ ((after (.sqTail 16383 0 4 16#32) (qpOn r0)).qp 16383).sqTail = 1
    ∧ (after (.sqTail 16383 0 4 16#32) (qpOn r0)).rd64 Reg.QP_VIOL = 1 := by decide +kernel

/-- queue_pairs_start_and_stop: a valid and an invalid configuration, a stop, a write of a fixed field. -/
theorem test_witness_queue_pairs :
    Decoded r0 ∧ r0.get Fld.QP_SEL_QP = 0 ∧ r0.enabled 0 = false ∧ wordBits 0x80440000#32 31 1 = 1
    ∧ r0.enableOk 0 (0x80440000#32 &&& qpCfgMask) = true ∧ (r0.qp 0).backlog = []
    ∧ wordBits 0x80410000#32 31 1 = 1 ∧ r0.enableOk 0 (0x80410000#32 &&& qpCfgMask) = false
    ∧ (let s := after (.qpEnable 0x80440000#32) r0
      s.enabled 0 = true ∧ ((s.rd (keyAt 0 Reg.QP_CFG) ^^^ (0x00440000#32 &&& qpCfgMask)) &&& ~~~ qpCfgFree) = 0#32
      ∧ wordBits 0x00440000#32 31 1 = 0
      ∧ ¬ (((s.rd (keyAt 0 Reg.QP_CFG) ^^^ (0x80540000#32 &&& qpCfgMask)) &&& ~~~ qpCfgFree) = 0#32)) := by decide +kernel

/-- R170: an enabled queue pair says so, and a stopped one does not. -/
theorem test_queue_pair :
    (let s := after (.qpEnable 0x80440000#32) r0
    s.flag (Fld.QP_STS_ENABLED.sel 0) = true ∧ s.cqSize 0 = 16 ∧ (after (.qpDisable 0x00440000#32) s).enabled 0 = false) := by
  decide +kernel

/-- CLOSE of the bib of entry 65,535 with generation `g`. -/
def closeOf (g : Nat) : Desc := desc [(0, 0x05), (2, 7), (4, g * 65536 + 65535)]

/-- descriptors_wait_or_are_refused: nothing may be accepted, an unknown command, a stale identifier of each bib command. -/
theorem test_witness_descriptors :
    r0.mayAccept 16383 0x05 = false ∧ host.mayAccept 16383 0xFF = true ∧ dOpcode (desc [(0, 0xFF)]) = 0xFF ∧ 0xFF ∉ opcodes
    ∧ ([desc [(0, 2), (4, 65535), (0x10, 1)], desc [(0, 3), (4, 65535), (8, 1)], desc [(0, 4), (4, 65535)], closeOf 0].all fun d =>
      host.mayAccept 16383 (dOpcode d) && [2, 3, 4, 5].contains (dOpcode d) && descBytesOk d
      && (host.bibCheck 16383 (dBib d)).isSome) = true := by decide +kernel

/-- R185: a CLOSE of generation 0 is refused with STALE_BIB. -/
theorem test_stale_bib :
    (after (.close 16383 (closeOf 0)) host).sent =
      [.record 16383 0 true (plainRecord 65535#32 7#16 .cmd stStaleBib 0 0 0)] := by decide +kernel

/-- OPEN in slot 0 with prompt [1, 31], MAX_LEN 3, TOP_P 1.0. -/
def openDesc : Desc := desc [(0, 0x01), (2, 9), (0x10, 2), (0x14, 3), (0x2C, 0x3F800000)]

/-- open_admits_a_bib: an OPEN that passes, one without a model, and one for which no entry is free. -/
theorem test_witness_open :
    (host.mayAccept 16383 0x01 = true ∧ dOpcode openDesc = 0x01) ∧ host.openCheck 16383 openDesc (some [1#32, 31#32]) = none
    ∧ host.freeBibs.head 65536 = some 0
    ∧ ((qpOn running).mayAccept 16383 0x01 = true ∧ ((qpOn running).openCheck 16383 openDesc (some [1#32, 31#32])).isSome = true)
    ∧ ((host.modFree fun _ => ⟨65536, []⟩).openCheck 16383 openDesc (some [1#32, 31#32])).map (·.status) = some stTableFull := by
  decide +kernel

/-- R175: the first OPEN fills entry 0 with its fields and returns identifier 0x10000. -/
theorem test_open :
    (let t := after (.open 16383 openDesc (some [1#32, 31#32])) host
    (t.bib 0).state = .admitted ∧ (t.bib 0).inputs = [1, 31] ∧ (t.bib 0).maxLen = 3 ∧ (t.bib 0).home = .he
    ∧ t.sent = [.record 16383 0 true (plainRecord 0x10000#32 9#16 .cmd stOk 1 1 0)]) := by decide +kernel

/-- A bib command on entry 65,535. -/
def bibCmd (op : Nat) (more : List (Nat × Nat)) : Desc := desc ([(0, op), (4, 65536 + 65535)] ++ more)

/-- bib_commands_move_or_pend: APPEND in each state, PAUSE of a bib with and without a slot and PAUSED, RESUME of each, CLOSE of each. -/
theorem test_witness_bib_commands :
    let names := fun (op : Nat) (d : Desc) (s : State) =>
      s.mayAccept 16383 op = true ∧ dOpcode d = op ∧ descBytesOk d = true ∧ s.bibCheck 16383 (dBib d) = none
    let add := bibCmd 0x02 [(0x10, 1)]
    let at' := fun (st : BibState) => owned fun b => { b with state := st }
    let tow := owned fun b => { b with state := .towing, towSlot := some 0 }
    (∀ st ∈ [BibState.decoding, .lodged, .admitted, .towing, .paused],
      names 0x02 add (at' st) ∧ (at' st).appendCheck add (some [31#32]) ((at' st).bib (idIndex (dBib add))) = none)
    ∧ ((owned fun b => { b with state := .lodged, restored := true }).bib 65535).restored = true
    ∧ (∀ s ∈ [at' .decoding, tow, at' .admitted, at' .paused],
      names 0x03 (bibCmd 0x03 [(8, 1)]) s ∧ pauseCheck (s.bib 65535) = none)
    ∧ (tow.bib 65535).holdsSlot = true ∧ ((at' .admitted).bib 65535).holdsSlot = false
    ∧ (∀ s ∈ [at' .paused, at' .lodged], names 0x04 (bibCmd 0x04 []) s ∧ resumeCheck (s.bib 65535) = none)
    ∧ ∀ s ∈ [at' .faulted, at' .closing, at' .decoding, at' .admitted], names 0x05 (bibCmd 0x05 []) s := by decide +kernel

/-- R156: PAUSE of a decoding bib pends; of an admitted one it is done at once. CLOSE of a FAULTED bib frees its entry. -/
theorem test_bib_commands :
    ((after (.pause 16383 (bibCmd 0x03 [(8, 5)])) (owned fun b => { b with state := .decoding })).bib 65535).pend = .pause
    ∧ ((after (.pause 16383 (bibCmd 0x03 [(8, 5)])) (owned fun b => b)).bib 65535).state = .paused
    ∧ ((after (.close 16383 (bibCmd 0x05 [])) (owned fun b => { b with state := .faulted })).bib 65535).gen = 2 := by decide +kernel

/-- bibs_leave_and_transfers_end: each state due and not due; a block out and one back, a restore that ends, a stale identifier. -/
theorem test_witness_leaving :
    (∀ b ∈ [{ Bib.free 1 with state := .paused }, { Bib.free 1 with state := .faulted, faulted := 2 ^ 16 },
        { Bib.free 1 with state := .closing, closing := 2 }], r0.leavesTable b = true)
    ∧ (∀ b ∈ [{ Bib.free 1 with state := .paused, ttl := 1 }, { Bib.free 1 with state := .closing, closing := 1 }, Bib.free 1],
      r0.leavesTable b = false)
    ∧ (let s := (owned fun b => { b with state := .decoding, xfer := .out true, blocks := [block] }).put
        (Fld.KVM_POOL_TOTAL_PAGES.sel (poolSel .he true)) 1
      s.names 0x1FFFF#32 = true ∧ (s.bib 65535).blocks[0]? = some block ∧ (s.bib 65535).xfer = .out true ∧ block.movesOut = true
      ∧ block.pages.length ≤ s.poolFree (s.bib 65535).home true)
    ∧ (let s := (owned fun b => { b with state := .lodged, xfer := .back, restorePages := [3], blocks := [{ block with lodge := true }] }).put
        (Fld.KVM_MFMT_PB.sel 0) 1
      s.names 0x1FFFF#32 = true ∧ (s.bib 65535).state ≠ .closing ∧ (s.bib 65535).blocks[0]? = some { block with lodge := true }
      ∧ s.pbOf (s.bib 65535) ≤ (s.bib 65535).restorePages.length)
    ∧ (let s := owned fun b => { b with state := .lodged, xfer := .back }
      s.names 0x1FFFF#32 = true ∧ (s.bib 65535).state = .lodged ∧ (s.bib 65535).xfer = .back ∧ (s.bib 65535).lodgeBlocks = 0)
    ∧ r0.names 0#32 = false := by decide +kernel

/-- R205: the block goes to the lowest lodge page. R162: a stale completion is counted. -/
theorem test_transfer :
    (let s := (owned fun b => { b with state := .decoding, xfer := .out true, blocks := [block] }).put
      (Fld.KVM_POOL_TOTAL_PAGES.sel (poolSel .he true)) 1
    ((after (.transferBlockDone 0x1FFFF#32 0) s).bib 65535).blocks.map (·.lodge) = [true])
    ∧ (after (.transferBlockDone 0#32 0) r0).rd64 Reg.BIB_STALE_INT = 1 := by decide +kernel

/-- PREFIX_CREATE in slot 0 on HE with prompt [31]. -/
def prefixDesc : Desc := desc [(0, 0x10), (1, 1), (2, 5), (0x10, 1)]

/-- PREFIX_DROP of prefix 0 with generation 1. -/
def dropDesc : Desc := desc [(0, 0x11), (8, 2 ^ 32)]

/-- The prefix entry 0 in state `st` with `n` references. -/
def prefixIn (st : PrefixState) (n : Nat) : State := host.putPfx 0 { Prefix.free 1 with state := st, refs := n }

/-- prefixes_are_built_and_dropped: a build that is accepted, one whose last chunk has ended, a drop in each state. -/
theorem test_witness_prefixes :
    (host.mayAccept 16383 0x10 = true ∧ dOpcode prefixDesc = 0x10) ∧ host.prefixCheck 16383 prefixDesc (some [31#32]) = none
    ∧ host.kvm.freePrefixes.head 65536 = some 0 ∧ host.freeBibs.head 65536 = some 0
    ∧ (let s := bibIn 65535 .towing host |>.modBib 65535 fun b => { b with kind := .build 0 }
      (s.bib 65535).kind = .build 0 ∧ (s.bib 65535).pfxHandle = 0 ∧ (s.bib 65535).state = .towing
      ∧ (s.bib 65535).promptDone = (s.bib 65535).promptLen ∧ (s.pfx 0).dropped = false)
    ∧ ∀ s ∈ [prefixIn .ready 2, prefixIn .ready 1, prefixIn .building 0],
      (s.mayAccept 16383 0x11 = true ∧ dOpcode dropDesc = 0x11) ∧ s.dropCheck 16383 dropDesc = none := by decide +kernel

/-- R209: the drop of the last reference frees the prefix. -/
theorem test_prefix_drop :
    ((after (.prefixDrop 16383 dropDesc) (prefixIn .ready 1)).pfx 0).state = .free
    ∧ ((after (.prefixDrop 16383 dropDesc) (prefixIn .ready 2)).pfx 0).state = .draining := by decide +kernel

/-- queries_answer_and_fences_hold: a QUERY of each kind, a FENCE, one that is met, one that is not, none. -/
theorem test_witness_queries :
    (let s := prefixIn .ready 1 |>.putBib 65535 ((owned fun b => b).bib 65535)
    [bibCmd 0x30 [(1, 1)], desc [(0, 0x30), (1, 2), (0x10, 2 ^ 32)], desc [(0, 0x30), (1, 3), (0x10, 131071)]].all fun d =>
      s.mayAccept 16383 0x30 && dOpcode d == 0x30 && (s.queryCheck 16383 d).isNone) = true
    ∧ (let d := desc [(0, 0x3F), (1, 3)]
      (host.mayAccept 16383 0x3F = true ∧ dOpcode d = 0x3F) ∧ descBytesOk d = true)
    ∧ (let s := host.modQp 16383 fun p => { p with fence := some ⟨1#16, true, true⟩ }
      (s.qp 16383).fence = some ⟨1#16, true, true⟩ ∧ s.fenceMet 16383 ⟨1#16, true, true⟩ = true
      ∧ (s.modQp 16383 fun p => { p with longs := [2#16] }).fenceMet 16383 ⟨1#16, true, true⟩ = false)
    ∧ (host.qp 16383).fence = none := by decide +kernel

/-- R181: a fence holds acceptance, and its record leaves when it is met. -/
theorem test_fence :
    (let s := after (.fence 16383 (desc [(0, 0x3F), (1, 3), (2, 4)])) host
    s.sent = [] ∧ s.mayAccept 16383 0x30 = false
    ∧ (after (.fenceComplete 16383) s).sent = [.record 16383 0 true (plainRecord 0#32 4#16 .cmd stOk 0 0 0)]) := by decide +kernel

/-- vectors_and_function_states: a timer that may send, that is masked, none; a pending vector; Bus Master Enable; a fetch that waits. -/
theorem test_witness_vectors :
    (let s := ((qpOn r0).wr (msixControl 4095) 0#32).modPcie fun p => { p with timers := [4095], l1Vectors := [4095] }
    4095 ∈ s.pcie.timers ∧ s.masked 4095 = false ∧ s.canWrite = true ∧ 4095 ∈ s.pcie.l1Vectors
    ∧ (s.put (Fld.QP_VSTS_PENDING.sel 4095) 1).flag (Fld.QP_VSTS_PENDING.sel 4095) = true)
    ∧ r0.masked 0 = true ∧ r0.canWrite = false ∧ 4095 ∉ r0.pcie.timers ∧ r0.flag (Fld.QP_VSTS_PENDING.sel 4095) = false
    ∧ (let s := qpOn r0
      s.enabled 16383 = true ∧ s.get (Fld.QP_SQ_HEAD_INDEX.sel 16383) ≠ (s.qp 16383).sqTail
      ∧ s.flag (Fld.QP_STS_FETCH_ERR.sel 16383) = false ∧ (s.qp 16383).cqUsed + (s.qp 16383).backlog.length ≤ s.cqSize 16383)
    ∧ (∃ v, v < 4096 ∧ (r0.put (Fld.QP_VSTS_COUNTED.sel 4095) 1).get (Fld.QP_VSTS_COUNTED.sel v) ≠ 0) := by
  refine ⟨by decide +kernel, by decide +kernel, by decide +kernel, by decide +kernel, by decide +kernel, by decide +kernel, 4095, ?_⟩
  decide +kernel

/-- R182: a vector whose timer ran out sends its message; masked, it is pending. -/
theorem test_vector :
    (after (.msixVectorTimer 4095 false) (((qpOn r0).wr (msixControl 4095) 0#32).modPcie fun p => { p with timers := [4095] })).sent
      = [.msix 4095]
    ∧ (after (.msixVectorTimer 4095 false) ((qpOn r0).modPcie fun p => { p with timers := [4095] })).flag
      (Fld.QP_VSTS_PENDING.sel 4095) = true := by decide +kernel

/-- WAX_LOAD of the set 131,071 of slot 0, of LEN `n`. -/
def waxDesc (n : Nat) : Desc := desc [(0, 0x20), (0x10, n), (0x1C, 131071)]

/-- A load of set 131,071 that has come. -/
def waxLoad (first : Bool) (data : List Byte) : WaxLoad :=
  { lodge := false, data := data, pages := 1, qp := 16383, cid := 3#16, first := first, ready := false }

/-- Set 131,071 in state `st`, changed by `f`. -/
def waxIn (st : WaxState) (f : Wax → Wax) : State := (host.put Fld.WAX_CFG_HBM_MAX 4).putWax 131071 (f { Wax.absent with state := st })

/-- A fit of two steps that has run a token. -/
def fit : Fit :=
  { steps := 2, lr := 0x3F800000#32, momentum := 0#32, kappa := 1#8, mask := 1#8, priority := 0, layerFirst := 0, layerLast := 0
    seqs := [[1, 2]], done := 1, loss := 0#32, bib := 65535, qp := 16383, cid := 3#16, master := [], mom := [], pages := [], ran := true
    dropped := false }

/-- A WAX_FIT's parameters: one step, one sequence of two tokens. -/
def fitParams : List Byte :=
  leBytes 1 4 ++ leBytes 1 4 ++ leBytes 0x3F800000 4 ++ leBytes 0 4 ++ leBytes 1 4 ++ leBytes 0 4 ++ leBytes 0 40
  ++ leBytes 0x48 4 ++ leBytes 2 2 ++ leBytes 0 2 ++ leBytes 1 4 ++ leBytes 31 4

/-- wax_sets_load_move_and_fit: loads of an absent and of a READY set, a drop, checks that pass and fail, moves both ways, a fit that is
accepted, that updates, that has not run, that ends, that is dropped, that goes on. -/
theorem test_witness_wax :
    (∀ s ∈ [waxIn .absent fun x => x, waxIn .hbm fun x => { x with layers := [[]] }],
      (s.mayAccept 16383 0x20 = true ∧ dOpcode (waxDesc 4096) = 0x20)
      ∧ s.waxLoadCheck 16383 (waxDesc 4096) (some []) = none ∧ dfield (waxDesc 4096) 0x10 4 ≠ 0)
    ∧ (let s := waxIn .hbm fun x => { x with refs := 1 }
      s.waxLoadCheck 16383 (waxDesc 0) none = none ∧ dfield (waxDesc 0) 0x10 4 = 0 ∧ 0 < (s.waxAt (dWaxIndex (waxDesc 0))).refs)
    ∧ (∀ st ∈ [WaxState.loading, .hbm], ∀ first : Bool,
      let s := (waxIn st fun x => { x with load := some (waxLoad first []) }).modLdr fun l => { l with slots := l.slots.put 0 Model.new }
      (s.waxAt 131071).load = some (waxLoad first []) ∧ (waxLoad first []).ready = false
      ∧ s.badLayer (s.waxAt 131071).modelSlot [] = none)
    ∧ (let s := waxIn .loading fun x => { x with load := some (waxLoad true []) }
      s.badLayer (s.waxAt 131071).modelSlot [] = some 0)
    ∧ (∀ lodge : Bool, let s := waxIn .moving fun x => { x with move := some false, inLodge := lodge }
      (s.waxAt 131071).move = some false ∧ (s.waxAt 131071).inLodge = lodge)
    ∧ (let s := waxIn .hbm fun x => x
      let d := desc [(0, 0x21), (0x10, 80), (0x1C, 131071)]
      (s.mayAccept 16383 0x21 = true ∧ dOpcode d = 0x21) ∧ s.waxFitCheck 16383 d (some fitParams) = none
      ∧ s.freeBibs.head 65536 = some 0)
    ∧ (∀ f ∈ [fit, { fit with ran := false }, { fit with done := 2 }, { fit with dropped := true }],
      let s := waxIn .hbm fun x => { x with fit := some f }
      (s.waxAt 131071).fit = some f ∧ (s.waxAt 131071).state ≠ .absent)
    ∧ fit.done < fit.steps ∧ fit.dropped = false := by decide +kernel

/-- R248: an update counts a step of the set. -/
theorem test_wax_update :
    (let t := after (.waxFitUpdate 131071 [] 5#32 0) (waxIn .hbm fun x => { x with fit := some fit })
    (t.waxAt 131071).steps = 1 ∧ (t.waxAt 131071).loss = 5#32 ∧ t.rd64 Reg.WAX_FIT_STEP = 1) := by decide +kernel

/-! ### Laps, the plan and energy -/

/-- A domain holds the module for its realignment, in power mode `m`. -/
def held (m : PowerMode) : State := (r0.modLnk fun l => { l with holding := true }).modPwr fun p => { p with mode := m }

/-- Start-up is done in a domain. -/
def awaiting : State := (linked r0).put Fld.BON_STS_STAGE 11

/-- laps_begin_at_their_boundaries: laps that run and do not, a realignment that is due, holds in and outside an exit from IDLE, a
module that waits for lap 0, locked and not. -/
theorem test_witness_boundaries :
    r0.running = false ∧ (haltedBy 1).halted = true ∧ r0.lnk.holding = false ∧ running.halted = false
    ∧ running.plan.idleRequested = false ∧ running.lnk.held = [] ∧ running.running = true
    ∧ (running.lnk.realign && running.inDomain) = false
    ∧ (let s := (linked running).modLnk fun l => { l with realign := true }
      s.halted = false ∧ s.plan.idleRequested = false ∧ s.lnk.held = [] ∧ s.running = true ∧ (s.lnk.realign && s.inDomain) = true)
    ∧ (∀ m ∈ [PowerMode.idleExit, .active],
      (held m).halted = false ∧ (held m).plan.idleRequested = false ∧ (held m).lnk.held = [] ∧ (held m).lnk.holding = true
      ∧ (held m).pwr.mode = m)
    ∧ awaiting.awaitsLap0 = true ∧ awaiting.flag Fld.LNK_SYNC_LOCKED = false
    ∧ (awaiting.put Fld.LNK_SYNC_LOCKED 1).awaitsLap0 = true ∧ (awaiting.put Fld.LNK_SYNC_LOCKED 1).flag Fld.LNK_SYNC_LOCKED = true
    ∧ r0.awaitsLap0 = false := by decide +kernel

/-- R283: a locked member begins lap 0 in the domain's lap 9. R125: a boundary counts a lap. -/
theorem test_lap_zero :
    (let t := after (.syncLocked 9 1000) (awaiting.put Fld.LNK_SYNC_LOCKED 1)
    t.running = true ∧ t.lap = 0 ∧ t.dlap 0 = 9 ∧ t.rd64 Reg.LAP_TIME = 1000)
    ∧ (after (.lapBoundary 7) running).lap = 1 ∧ (after (.lapBoundary 7) r0).lap = 0 := by decide +kernel

/-- a_lap_is_cut_off_planned_and_banked: before and after the cut-off, the plan shown, the bank composed. -/
theorem test_witness_plan :
    (running.running = true ∧ running.halted = false ∧ running.plan.cutoffDone = false ∧ running.plan.composed = false)
    ∧ (let s := running.modPlan fun p => { p with cutoffDone := true }
      s.plan.cutoffDone = true ∧ s.flag Fld.LAP_NEXT_VALID = false ∧ (s.put Fld.LAP_NEXT_VALID 1).flag Fld.LAP_NEXT_VALID = true)
    ∧ 0 < (running.modPlan fun p => { p with stretchNext := 1 }).plan.stretchNext
    ∧ (running.modPlan fun p => { p with composed := true }).plan.composed = true
    ∧ ((running.modTile 15 8447 id).fab.tiles.get? (tileKey 15 8447)).isSome = true := by decide +kernel

/-- R147: the planned stretch is shown with its event. -/
theorem test_plan_complete :
    (let t := after .planComplete (running.modPlan fun p => { p with cutoffDone := true, stretchNext := 3 })
    t.get Fld.LAP_NEXT_STRETCH_US = 3 ∧ t.flag Fld.LAP_NEXT_VALID = true ∧ t.flag Fld.LAP_EVT_STRETCH = true) := by decide +kernel

/-- budgets_and_snowplough_pauses: budgets at the bounds, a point outside the lap, one without excess, one with. -/
theorem test_witness_budgets :
    Decoded r0 ∧ wordBits 1600#32 0 16 ≤ 1600 ∧ r0.get Fld.LAP_EBUDGET_MIN ≤ wordBits 1600#32 0 16 ∧ 1600 < wordBits 1601#32 0 16
    ∧ (r0.put Fld.LAP_EBUDGET_MIN 100).get Fld.LAP_EBUDGET_MIN ≤ wordBits 100#32 0 16
    ∧ wordBits 99#32 0 16 < (r0.put Fld.LAP_EBUDGET_MIN 100).get Fld.LAP_EBUDGET_MIN
    ∧ (running.put Fld.LAP_STS_LEN_MS 50).pointInLap 0 = false ∧ (running.put Fld.LAP_STS_LEN_MS 50).pointInLap 1 = true
    ∧ (((running.put Fld.LAP_STS_LEN_MS 50).measurePoint 1000).advanceCap 1000).excess 1 ≤ 0
    ∧ (let s := (running.put Fld.LAP_STS_LEN_MS 50).modLedger fun l => { l with meas := 10 ^ 16 }
      let p := (s.measurePoint 1000).advanceCap 1000
      s.running = true ∧ s.halted = false ∧ s.pointInLap 1 = true ∧ 0 < p.excess 1
      ∧ s.ledger.pauseUs + p.pauseLength (p.excess 1).toNat < 65535 ∧ s.inDomain = false) := by decide +kernel

/-- R326: the budget of 1,600 W is taken, that of 1,601 W is a violation. -/
theorem test_budget :
    (after (.lapEbudget 1600#32 0 0) r0).get Fld.LAP_EBUDGET_WATTS = 1600 ∧ (after (.lapEbudget 1601#32 0 0) r0).rd64 Reg.QP_VIOL = 1 := by
  decide +kernel

/-- The broken sensor 39 of die 17, at level 2. -/
def brokenSensor : State :=
  ((r0.put Fld.THM_SSEL_DIE 17).put Fld.THM_SSEL_INPUT 39).modThm fun t =>
    { t with inputs := t.inputs.put (hkcKey 17 39) { HkcInput.new with broken := true, level := 2 } }

/-- excluded_sensors_leave_the_level: a sensor that is broken, one that is not. -/
theorem test_witness_exclusion :
    (Decoded brokenSensor ∧ ¬ (wordBits 0x80000000#32 31 1 = 1 ∧ brokenSensor.excluded 17 39 = false
        ∧ ((brokenSensor.hkc 17 39).broken = false ∨ 4 ≤ brokenSensor.excludedOn 17)))
    ∧ (Decoded r0 ∧ wordBits 0x80000000#32 31 1 = 1 ∧ r0.excluded 0 0 = false ∧ (r0.hkc 0 0).broken = false) := by decide +kernel

/-- R320: excluding the broken sensor leaves level 0. -/
theorem test_exclusion :
    brokenSensor.moduleLevel = 2
    ∧ (let t := after (.thmSstsExcl 0x80000000#32 0 0) brokenSensor
      t.excluded 17 39 = true ∧ t.get Fld.THM_STS_LEVEL = 0) := by decide +kernel

/-! ### Waves, arrays and test operations -/

/-- Wave 0 of a decoding bib is issued. -/
def decodes : State := decoding (filled running)

/-- The head's logits of wave 0's first token are all 0. -/
def sampled (s : State) : State :=
  s.modFab fun x => { x with vectors := x.vectors.put (colKey 0 0 1 7 0) (List.replicate 128 0#16) }

/-- waves_enter_and_samples_return: a wave that goes and not, a holder that is replayed and not, a sample of an empty slot, one that
stops the bib, one that goes on. -/
theorem test_witness_waves :
    (let s := decodes.modPlan fun p => { p with issued := [] }
    (s.running = true ∧ s.halted = false ∧ 0 ∉ s.plan.issued ∧ (s.waveSlot 0).isSome = true)
    ∧ s.holder 0 0 = some 5 ∧ (s.bib 5).replay = false ∧ (s.bib 5).kind = .normal
    ∧ ((s.ldr.slots.get? (s.slotOf 0)).any fun x => x.dModel % 128 == 0 && decide (x.dModel ≤ 4096 * 128)) = true
    ∧ ((s.modBib 5 fun b => { b with replay := true }).bib 5).replay = true ∧ (s.waveSlot 95).isSome = false)
    ∧ (let s := sampled decodes
      let b := s.bib 5
      let tok := (s.runHub (pickToken b ((List.replicate 128 0#16).take 32) ((s.reductionsOf 0 0 1 7).getD 3 0#32)
        ((s.reductionsOf 0 0 1 7).getD 4 0#32) ((s.reductionsOf 0 0 1 7).getD 5 0#32).toNat)).1
      (s.running = true ∧ s.halted = false ∧ 0 ∈ s.plan.issued ∧ 0 ∉ s.plan.sampled) ∧ s.holder 0 127 = none
      ∧ s.holder 0 0 = some 5 ∧ b.kind = .normal ∧ b.state = .decoding ∧ b.replay = false ∧ 0 ∉ s.fab.zeroed
      ∧ (s.ldr.slots.get? b.modelSlot).map (·.layers) = some 1 ∧ s.layerOf b.modelSlot 1 = some layer ∧ layer.stage 7 = some (stage 7)
      ∧ s.outVector 0 0 1 7 (stage 7).colBlocks = some (List.replicate 128 0#16) ∧ b.stop ≠ some tok
      ∧ b.promptLen + b.genTokens + 1 < b.maxLen ∧ s.bibId 5 ∉ s.plan.parting ∧ tok = 0) := by decide +kernel

/-- R17: the first token drawn of equal logits is token 0; a STOP_TOKEN 0 ends the bib. -/
theorem test_sample :
    ((after (.sample 0 0) (sampled decodes)).bib 5).inputs = [0] ∧ ((after (.sample 0 0) (sampled decodes)).bib 5).genTokens = 1
    ∧ ((after (.sample 0 0) (sampled (decodes.modBib 5 fun b => { b with stop := some 0 }))).bib 5).state = .closing := by decide +kernel

/-- The column message of `run` for token 0 of wave 0. -/
def message : Partial := { partials := List.replicate 128 0, sat := List.replicate 128 false, floor := 0, valid := true }

/-- blocks_are_summed_and_jobs_counted: a block of a zero token, one whose message is missing, one that is complete; no job, a job
in a pause, one of a failed unit, jobs of kinds 0 and 3. -/
theorem test_witness_blocks :
    (let s := inService decodes
    let arrived := fun (t : State) => ((t.positions 0 0 0 0).mapM fun p => (t.position 0 0 0 0 0 p).map fun v => (p, v)).isSome
    s.slotOf 0 = 0 ∧ s.layerOf 0 0 = some layer ∧ layer.stage 0 = some (stage 0) ∧ 0 < (stage 0).colBlocks ∧ s.occupied 0 0 = true
    ∧ s.gatedLayer 0 0 = false ∧ (stage 0).resident ≠ 1 ∧ 0 ∉ s.fab.zeroed ∧ arrived s = false
    ∧ arrived (s.modFab fun x => { x with messages := x.messages.put (msgKey (colKey 0 0 0 0 0) 15 8447) message }) = true
    ∧ (let z := s.modFab fun x => { x with zeroed := [0] }
      0 ∈ z.fab.zeroed ∧ z.occupied 0 0 = true ∧ z.gatedLayer 0 0 = false))
    ∧ r0.mogulRec 0 = none
    ∧ (decodes.mogulRec 0).map (·.kind) = some 0 ∧ (decodes.mogulRec 1).map (·.kind) = some 3
    ∧ (decodes.running = true ∧ decodes.halted = false ∧ decodes.paused = false) ∧ pausing.paused = true
    ∧ (let s := decodes.put (Fld.LAP_MOG_USTS_STATE.sel 31) 4
      s.unitState 31 = 4 ∧ s.coverOf (waveHub 0) (mogulAddr 31) = none ∧ s.occupiedTokens 0 = [0] ∧ s.holder 0 0 = some 5
      ∧ (s.bib 5).kind = .normal ∧ (s.bib 5).mayFault = true)
    ∧ decodes.unitState 31 ≠ 4 ∧ decodes.poisonedPart 0 0 0 = false := by decide +kernel

/-- R87: the token of a failed unit's job ends its bib. -/
theorem test_mogul_fault :
    ((after (.mogulJob 0) (decodes.put (Fld.LAP_MOG_USTS_STATE.sel 31) 4)).bib 5).cause = .uncovered := by decide +kernel

/-- A pulse record: kind, output pair, array, token 0. -/
def pulse (kind pair array : Nat) : DWord := BitVec.ofNat 64 (kind * 2 ^ 62 + pair * 2 ^ 56 + array * 2 ^ 48)

/-- An output tile of `run`, for pair 63. -/
def held63 (kind : FireKind) : Held :=
  { kind := kind, nnz := 0, nnz2 := 0, wave := 0, token := 0, pair := 63, nibble := false, align := 0, floor := 0 }

/-- Array 255 of the tile of `run` holds an output. -/
def busy (kind : FireKind) : State := (inService decodes).modArr 15 8447 255 fun a => { a with held := some (held63 kind) }

/-- arrays_take_firings_and_reads: firings of both kinds on free and busy arrays, a die that does not run, reads of each kind. -/
theorem test_witness_firings :
    (let s := inService decodes
    (s.paused = false ∧ s.dieRuns 15 = true ∧ (s.tile 15 8447).state = .inService ∧ recKind (pulse 0 63 255) < 2
      ∧ s.occupied 0 (recToken (pulse 0 63 255)) = true)
    ∧ recArray (pulse 0 63 255) = 255 ∧ s.arrayBusy 15 8447 255 = false ∧ recKind (pulse 0 63 255) = 0
    ∧ recKind (pulse 1 0 254) = 1 ∧ recArray (pulse 1 0 254) = 254 ∧ s.arrayBusy 15 8447 254 = false
    ∧ (s.tile 15 8447).merged = false ∧ s.halted = false ∧ (s.seqState 15 = 1 ∨ s.seqState 15 = 2))
    ∧ (busy .separate).arrayBusy 15 8447 255 = true ∧ r0.dieRuns 15 = false ∧ ¬ (r0.seqState 15 = 1 ∨ r0.seqState 15 = 2) := by
  decide +kernel

/-- R27, R34: a firing on a free array is counted, one on a busy array is a plan fault. -/
theorem test_firing :
    (let t := after (.firingIssue 15 8447 0 (pulse 0 63 255)) (inService decodes)
    ((t.arr 15 8447 255).held.map (·.pair)) = some 63 ∧ t.rd64 (arkKey Reg.ARK_FIRE_CNT 15) = 1)
    ∧ (after (.firingIssue 15 8447 0 (pulse 0 63 255)) (busy .separate)).flag (Fld.ARK_STS_PLAN_FAULT.die 15) = true := by decide +kernel

/-- conversions_release_and_gains: an output of each kind, one that the slice map expects and one that it does not, a closed and an open
pair, too few and sixteen references, in and out of range. -/
theorem test_witness_conversions :
    (∀ k ∈ [FireKind.reference, .transposed, .separate],
      recArray (pulse 0 63 255) = 255 ∧ ((busy k).arr 15 8447 255).held = some (held63 k))
    ∧ (let s := busy .separate
      let p := Accum.new 0 0 0 0 0 0
      let e := s.expected 15 (s.logical 15 8447) 0 0 0 0 0
      s.dieRuns 15 = true ∧ (s.tile 15 8447).state = .inService ∧ s.sliceOf 15 8447 255 = some run
      ∧ e[p.taken]? = some (255, false) ∧ p.closed = false ∧ p.wave = 0 ∧ p.token = 0 ∧ p.block = run.col
      ∧ ¬ (e[1]? = some (255, false)))
    ∧ (let s := (inService decodes).modTile 15 8447 fun x =>
        { x with accums := x.accums.put 63 { Accum.new 0 0 0 0 0 0 with closed := true } }
      ((s.tile 15 8447).accums.get? 63).map (·.closed) = some true ∧ (s.tile 15 8447).state = .inService)
    ∧ (r0.arr 15 8447 255).refs.length < 16
    ∧ (let z := (List.replicate 16 (idealDiff 0 : Int))
      16 ≤ z.length ∧ (driftGain (z.foldl (· + ·) 0) (idealDiff 0)).isSome = true)
    ∧ driftGain ((List.replicate 16 (0 : Int)).foldl (· + ·) 0) (idealDiff 0) = none := by decide +kernel

/-- R99: differences at the ideal give gain 1.0; differences of 0 are out of range. -/
theorem test_drift_gain :
    driftGain (16 * idealDiff 0 : Nat) (idealDiff 0) = some 0x4000
    ∧ ((after (.driftGainUpdate 15 8447 255) (r0.modArr 15 8447 255 fun a => { a with refs := List.replicate 16 0 })).arr 15 8447 255).oor
      = true := by decide +kernel

/-- test_operations_run_and_end: RANGE 7, no START, a test that runs, a tile in service, an odd array of a merged kind, a start. -/
theorem test_witness_test_operations :
    Decoded r0 ∧ wordBits 0x00070000#32 16 3 = 7 ∧ wordBits 0x00160080#32 16 3 ≠ 7 ∧ wordBits 0x00160080#32 31 1 = 0
    ∧ wordBits 0x80160080#32 31 1 = 1 ∧ wordBits 0x80160080#32 20 2 = 1 ∧ wordBits 0x80160080#32 0 8 % 2 = 0
    ∧ wordBits 0x801600FF#32 0 8 % 2 = 1 ∧ r0.fab.tests.get? 15 = none
    ∧ (r0.tile 15 (r0.get (Fld.ARK_TSEL_TILE.die 15))).state = .spare
    ∧ (let s := r0.modTile 15 0 fun x => { x with state := .inService }
      ¬ ((s.tile 15 (s.get (Fld.ARK_TSEL_TILE.die 15))).state = .spare ∨ (s.tile 15 (s.get (Fld.ARK_TSEL_TILE.die 15))).state = .fenced))
    ∧ ((after (.arkTestMerged 15 0x80160080#32) r0).fab.tests.get? 15).isSome = true := by decide +kernel

/-- R45: a START on a spare tile runs; its end says DONE. -/
theorem test_test_operation :
    (let s := after (.arkTestMerged 15 0x80160080#32) r0
    s.flag (Fld.ARK_TEST_CTL_BUSY.die 15) = true
    ∧ (after (.arkTestDone 15 (List.replicate 128 0)) s).get (Fld.ARK_TEST_CTL_STATUS.die 15) = 1) := by decide +kernel

/-! ### Attention and head spreading -/

/-- The item of the decoding bib's first segment. -/
def item : LaneItem := { wave := 0, layer := 0, slot := 0, head := 0, segment := 0 }

/-- The bib decodes, and its item is ready. -/
def attends : State := (decoding (filled running)).modAtt fun a => { a with ready := [item], formed := [waveLayer 0 0] }

/-- Its one segment is done. -/
def segmented : State :=
  attends.modAtt fun a => { a with segments := a.segments.put (itemKey 0 0 0 0 0) [{ m := none, s := 0#32, o := [], mass := [] }] }

/-- Its one head is merged. -/
def mergedHead : State := attends.modAtt fun a => { a with merged := [headKey 0 0 0 0] }

/-- attention_items_merge_or_replay: a lane that is idle, fenced, busy, of a hub without items; a head that is due and not; an issued
wave with its item unmerged, merged and of a gated layer, a wave that is not issued. -/
theorem test_witness_attention :
    (attends.halted = false ∧ attends.paused = false ∧ attends.att.lanes.get? 0 = none
      ∧ attends.flag (Fld.ATT_LSTS_FENCED.sel 0) = false
      ∧ (attends.att.ready.find? fun a => waveHub a.wave == laneHub 0) = some item
      ∧ (attends.att.ready.find? fun a => waveHub a.wave == laneHub 63) = none)
    ∧ (attends.put (Fld.ATT_LSTS_FENCED.sel 0) 1).flag (Fld.ATT_LSTS_FENCED.sel 0) = true
    ∧ (let s := after (.attItemStart 0) attends
      s.att.lanes.get? 0 = some item ∧ s.holder 0 0 = some 5 ∧ (s.ldr.slots.get? (s.bib 5).modelSlot).isSome = true
      ∧ s.layerOf (s.bib 5).modelSlot 0 = some layer)
    ∧ (let s := segmented
      s.holder 0 0 = some 5
      ∧ ((s.ldr.slots.get? (s.bib 5).modelSlot).any fun x =>
        decide ((0 + 1) * x.sharing * (x.dh / 128) ≤ 4096) && decide (0 ∈ s.shareOf (s.bib 5) x)) = true
      ∧ waveLayer 0 0 ∈ s.att.formed ∧ headKey 0 0 0 0 ∉ s.att.merged
      ∧ (∀ g < s.segments 5 0, (s.att.segments.get? (itemKey 0 0 0 0 g)).isSome = true))
    ∧ ¬ (headKey 0 0 0 0 ∉ mergedHead.att.merged)
    ∧ 95 ∉ attends.plan.issued ∧ 0 ∈ attends.plan.issued ∧ attends.slotMerged 5 0 0 0 = false
    ∧ attends.gatedLayer 0 0 = false ∧ mergedHead.slotMerged 5 0 0 0 = true ∧ (mergedHead.bib 5).sharded = false
    ∧ (mergedHead.modLdr fun l => { l with op := some { LdrOp.new .replace 0 0 false with gate := some 0 } }).gatedLayer 0 0 = true := by
  decide +kernel

/-- R226: a token whose item is unmerged when its attention falls due is replayed, one whose items are merged is not. -/
theorem test_attention_due :
    ((after (.attDue 0 0) attends).bib 5).replay = true ∧ ((after (.attDue 0 0) mergedHead).bib 5).replay = false := by decide +kernel

/-- A prefilled spread bib in entry 65,535. -/
def spreadBib (f : Bib → Bib) : State := owned fun b => f { b with state := .towing, spread := true, prefillDone := true, blocks := [block] }

/-- The module is member 0 of a group of two that serves slot 0. -/
def grouped : State :=
  ((linked host).put Fld.ATT_GROUP_SIZE 2).modLdr fun l => { l with slots := l.slots.put 0 { model with qheads := 2, kvheads := 2 } }

/-- spread_bibs_are_handed_off: a stale identifier, a bib handed off already, one to hand off; a guest that finds no entry, no group,
its pages, a quota that is full. -/
theorem test_witness_spread_bibs :
    r0.names 0#32 = false
    ∧ (let s := spreadBib id
      s.names 0x1FFFF#32 = true ∧ (s.bib 65535).spread = true ∧ (s.bib 65535).kind = .normal ∧ (s.bib 65535).prefillDone = true
      ∧ (s.bib 65535).handedOff = false ∧ (s.bib 65535).blocks.length = 1)
    ∧ ((spreadBib fun b => { b with handedOff := true }).bib 65535).handedOff = true
    ∧ ((r0.modFree fun _ => ⟨65536, []⟩).freeBibs.head 65536) = none
    ∧ r0.freeBibs.head 65536 = some 0 ∧ r0.groupSize = 0
    ∧ (grouped.freeBibs.head 65536 = some 0 ∧ grouped.groupSize ≠ 0 ∧ grouped.slotHolds 0 = true)
    ∧ (let b := grouped.guestBib 0 65535 7#32 16383 0 none .he 0 31
      ((((grouped.modFree fun f => f.pop 65536).putBib 0 b).growTo 0 0).1) = .granted [] [])
    ∧ (let s := (grouped.put (Fld.KVM_QUOTA_PAGES.sel 16383) 0).put (Fld.KVM_MFMT_B.sel 0) 512
      let b := s.guestBib 0 65535 7#32 16383 0 none .he 64 31
      ((((s.modFree fun f => f.pop 65536).putBib 0 b).growTo 0 64).1) = .quotaFull) := by decide +kernel

/-- R229: a guest entry takes its token. -/
theorem test_guest :
    (let t := after (.guestHandoff 65535 7#32 16383 0 none .he 0 31#24 [] []) grouped
    (t.bib 0).state = .towing ∧ (t.bib 0).lastToken = 31 ∧ (t.bib 0).kind = .guest 65535 7#32) := by decide +kernel

/-- A guest of module 1 in entry 0 holds decode slot 1, the first of this member's part. -/
def guests : State :=
  ((grouped.modBon fun b => { b with image := some { image with link := some { links with member := 1 }
                                                                waves := (List.range 96).map fun _ => ⟨some 0, 2, 0, 0⟩ } }).put
    Fld.ATT_GROUP_MEMBER 1).putBib 0
    { Bib.free 1 with state := .decoding, kind := .guest 0 7#32, spread := true, decSlot := some 0, prefillDone := true }

/-- spread_messages_are_taken: changes with and without their guest; an origin that is no member; a token for the guest, one that is
replayed; a part of the running lap, one of another. -/
theorem test_witness_spread_messages :
    (guests.changeTarget 0 ⟨0, 0, 7#32, 0#32⟩).isSome = true ∧ r0.changeTarget 0 ⟨4095, 0, 7#32, 0#32⟩ = none
    ∧ r0.memberOf 0 = none ∧ guests.memberOf 0 = some 0
    ∧ ([(31, false)] : List (Nat × Bool))[0]? = some (31, false)
    ∧ guests.decHolder (128 * 0 + (guests.partSlot 0 0 + 0)) = some 0 ∧ (guests.bib 0).kind = .guest 0 7#32
    ∧ (guests.bib 0).replay = false
    ∧ (guests.members.any fun p => p.1 == 0) = true ∧ 0 = guests.dlap guests.lap ∧ 5 ≠ guests.dlap guests.lap
    ∧ (guests.ldr.slots.get? (guests.slotOf 0)).isSome = true
    ∧ (let x := { model with qheads := 2 }
      ((guests.queryShare x 0).1 + (guests.queryShare x 0).2) * (x.dh / 128) ≤ 4096 ∧ 0 < (guests.queryShare x 0).2 ∧ 0 < x.dh / 128)
    ∧ 0 < guests.spreadOf 0 ∧ guests.holder 0 0 = some 0 ∧ (guests.bib 0).sharded = true := by decide +kernel

/-- R231: the guest's token is its next input. -/
theorem test_guest_token : ((after (.spreadTok 0 0 0 [(31, false)]) guests).bib 0).inputs = [31] := by decide +kernel

/-! ### Grooming, faults and patrol -/

/-- Tile 8,447 of die 15, changed by `f`, on a die that runs. -/
def tileIn (f : Tile → Tile) : State := (r0.put (Fld.ARK_STS_SEQ_STATE.die 15) 2).modTile 15 8447 f

/-- Halves of 128 columns with equal variances. -/
def halves : List (Word × Word) := List.replicate 128 (0x3F800000#32, 0x3F800000#32)

/-- grooming_steps_and_flush: a tile that is not groomed; OFFSET that agrees, that does not with tries left and without; REFERENCE that
agrees; a first and a second half; a map that is full and one that is not; a flush that is due and one that is not. -/
theorem test_witness_grooming :
    (let s := tileIn fun x => { x with refOk := true }
    let ms := List.replicate 128 GroomMeasure.none
    let off : List GroomMeasure := ⟨10 ^ 6, 0, 0, 0, 0, 0⟩ :: List.replicate 127 GroomMeasure.none
    let agrees := fun (l : List GroomMeasure) => (List.range converters).all fun c =>
      offAgree (s.get Fld.GRM_TOL_AGREE_OFF) (l.getD c GroomMeasure.none)
    (s.halted = false ∧ (s.seqState 15 = 1 ∨ s.seqState 15 = 2) ∧ (s.tile 15 8447).groomed = true)
    ∧ (s.tile 15 8447).offOk = false ∧ (s.tile 15 8447).refOk = true ∧ agrees ms = true ∧ agrees off = false
    ∧ nth ((s.tile 15 8447).retries.modify 0 (· + 1)) 0 < (s.put Fld.GRM_TOL_RETRY_MAX 2).get Fld.GRM_TOL_RETRY_MAX
    ∧ (s.put Fld.GRM_TOL_RETRY_MAX 1).get Fld.GRM_TOL_RETRY_MAX ≤ nth ((s.tile 15 8447).retries.modify 0 (· + 1)) 0)
    ∧ (let s := tileIn fun x => { x with offOk := true }
      (s.tile 15 8447).groomed = true ∧ (s.tile 15 8447).offOk = true ∧ (s.tile 15 8447).refOk = false
      ∧ ((List.range converters).all fun c =>
        refAgree (s.get Fld.GRM_TOL_AGREE_REF) ((List.replicate 128 GroomMeasure.none).getD c GroomMeasure.none)) = true)
    ∧ ((tileIn fun x => { x with state := .fenced }).tile 15 8447).groomed = false
    ∧ ((tileIn fun x => { x with holdsWeights := true }).tile 15 8447).holdsWeights = true
    ∧ ((tileIn id).tile 15 8447).halfA = []
    ∧ (let s := tileIn fun x => { x with holdsWeights := true, halfA := halves }
      (s.tile 15 8447).groomed = true ∧ (s.tile 15 8447).halfA ≠ [] ∧ (s.tile 15 8447).statOk = false
      ∧ ∀ c < converters, s.estimates halves halves c = true ∧
        statAgree (s.get Fld.GRM_TOL_AGREE_STAT) (statGain (halfAt halves c)) (statGain (halfAt halves c)) = true)
    ∧ (r0.arr 15 8447 255).nextMap.findIdx? (·.isNone) = some 0
    ∧ ((r0.modArr 15 8447 255 fun a => { a with map := [some 0, some 1, some 2, some 3] }).arr 15 8447 255).nextMap.findIdx? (·.isNone)
      = none
    ∧ r0.canonical = true ∧ r0.param 0 2 ≤ r0.bon.flushLaps ∧ r0.startingUp = false
    ∧ (r0.put Fld.BON_STS_STAGE 10).startingUp = true
    ∧ (let s := tileIn fun x => { x with setsChanged := true }
      (s.fab.tiles.get? (tileKey 15 8447)).any fun x => s.recordStale 15 8447 x) = true := by decide +kernel

/-- R111: OFFSET halves that agree give OFF_OK; one that differs counts. -/
theorem test_groom_window :
    ((after (.groomWindow 15 8447 (List.replicate 128 GroomMeasure.none)) (tileIn fun x => { x with refOk := true })).tile 15 8447).offOk
      = true
    ∧ (after (.groomWindow 15 8447 (⟨10 ^ 6, 0, 0, 0, 0, 0⟩ :: List.replicate 127 GroomMeasure.none))
      ((tileIn fun x => { x with refOk := true }).put Fld.GRM_TOL_RETRY_MAX 2)).rd64 Reg.GRM_DISAGREE = 1 := by decide +kernel

/-- tiles_fail_spares_replace_and_prove: a tile in each state, a free reserve unit, a spare that is programmed, points that pass and that
fail, a unit that may begin. -/
theorem test_witness_tiles :
    (∀ st ∈ [TileState.inService, .spare, .programming, .fenced, .retired, .proving],
      ((tileIn fun x => { x with state := st }).tile 15 8447).state = st)
    ∧ ((r0.put (Fld.LAP_MOG_USTS_STATE.sel 31) 1).freeUnit .hw).isSome = true
    ∧ (let s := (tileIn fun x => { x with state := .programming, replaces := some 0 }).modTile 15 0 fun x =>
        { x with state := .fenced, spare := some 8447 }
      s.replacedBy 15 8447 = some 0 ∧ (s.tile 15 8447).state = .programming)
    ∧ r0.replacedBy 15 8447 = none
    ∧ r0.firstFailing (List.replicate 4 ⟨true, 0⟩) = none ∧ r0.firstFailing [⟨false, 0⟩] = some 0
    ∧ r0.firstFailing [⟨true, 0⟩, ⟨true, 0⟩, ⟨true, 0⟩, ⟨false, 0⟩] = some 3
    ∧ (let s := r0.put (Fld.LAP_MOG_USTS_STATE.sel 31) 2
      (s.unitState 31 = 2 ∨ s.unitState 31 = 3) ∧ 31 ∉ s.pat.begun)
    ∧ ¬ (r0.unitState 31 = 2 ∨ r0.unitState 31 = 3) := by decide +kernel

/-- R294, R298: a tile that fails in service without a spare is retired, with a spare fenced. -/
theorem test_tile_fault :
    ((after (.tileFaultDetect 15 8447 .conv 0) (tileIn fun x => { x with state := .inService })).tile 15 8447).state = .retired
    ∧ (let t := after (.tileFaultDetect 15 8447 .conv 0) ((tileIn fun x => { x with state := .inService }).modTile 15 0 id)
      (t.tile 15 8447).state = .fenced ∧ (t.tile 15 8447).spare = some 0) := by decide +kernel

/-- units_fail_and_poison_ends_bibs: units in each state, with and without a free one, lanes and join units, channels, a bib that may
fault, a slot with a model, a set that may be poisoned and one that may not. -/
theorem test_witness_units :
    r0.unitState 31 ≠ 4 ∧ (r0.put (Fld.LAP_MOG_USTS_STATE.sel 31) 4).unitState 31 = 4
    ∧ (let s := (r0.put (Fld.LAP_MOG_USTS_STATE.sel 31) 0).put (Fld.LAP_MOG_USTS_STATE.sel 30) 1
      s.unitState 31 = 0 ∧ (s.freeUnit (hubOf (31 / 16))).isSome = true)
    ∧ r0.freeUnit .he = none ∧ r0.coverOf .he (uncoveredAddr (.tile 15 8447)) = none
    ∧ r0.flag (Fld.ATT_LSTS_FENCED.sel 63) = false ∧ (r0.put (Fld.ATT_LSTS_FENCED.sel 63) 1).flag (Fld.ATT_LSTS_FENCED.sel 63) = true
    ∧ r0.att.lanes.get? 63 = none ∧ 63 ∉ r0.pat.fencedJoin
    ∧ (let s := decoding (filled running)
      s.running = true ∧ s.waveInFlight (hubOf (31 / 32)) = some 0 ∧ 0 ∈ s.occupiedTokens 0 ∧ s.holder 0 0 = some 5
      ∧ (s.bib 5).mayFault = true ∧ (s.bib 5).kind = .normal)
    ∧ 511 ∉ r0.pat.fencedHbm ∧ 15 ∉ r0.pat.fencedLodge ∧ (r0.modPat fun p => { p with fencedHbm := [511] }).pat.fencedHbm = [511]
    ∧ (r0.bib 65535).mayFault = false ∧ ((serving r0).ldr.slots.get? 0).isSome = true ∧ r0.ldr.slots.get? 63 = none
    ∧ (r0.waxAt 131071).state = .absent := by decide +kernel

/-- The other clause of R243: a set in HBM, and no entry of another kind. -/
theorem test_witness_wax_poison :
    (let s := r0.putWax 131071 { Wax.absent with state := .hbm }
    ¬ ((s.waxAt 131071).state = .absent ∨ (s.waxAt 131071).state = .loading) ∧ ∀ j, (s.bib j).kind = .normal) :=
  ⟨by decide +kernel, fun _ => rfl⟩

/-- R292: the bib whose data is poisoned ends; R213: a retired channel's page is retired. -/
theorem test_poison :
    (let t := after (.poison 5 none) (decoding (filled running))
    (t.bib 5).state = .faulted ∧ (t.bib 5).cause = .poison ∧ t.rd64 Reg.KVM_POISON_END = 1)
    ∧ (after (.memoryChannelFault (.hbm 511) [9]) r0).kvm.hbmHw.retired = [9] := by decide +kernel

/-- A checkpoint of entry 65,535, changed by `f`. -/
def ckptOf (f : Ckpt → Ckpt) (s : State) : State :=
  let pools := (s.put (Fld.KVM_POOL_TOTAL_PAGES.sel (poolSel .he true)) 4).put (Fld.KVM_POOL_TOTAL_PAGES.sel (poolSel .hw true)) 4
  pools.modPat fun p => { p with ckpts := p.ckpts.put 65535 (f Ckpt.new) }

/-- The checkpoint that waits. -/
def waits : State := ckptOf (fun c => { c with due := true, next := some (Bib.free 1) }) (owned fun b => { b with state := .decoding })

/-- The FAULTED bib that may be rebuilt from its checkpoint. -/
def faulted : State :=
  (ckptOf (fun c => { c with entry := some (Bib.free 1) }) (owned fun b => { b with state := .faulted, cause := .poison })).put
    Fld.PAT_CTL_LOCAL_RESTART 1

/-- checkpoints_complete_and_restore: windows with and without a checkpoint that waits; completions that are stale, due, not due; a
restart that may go. -/
theorem test_witness_checkpoints :
    (let list := fun (s : State) =>
      (s.pat.ckpts.entries.filter fun e => e.2.due && !e.2.started && (s.bib e.1).home == .he).map Prod.fst
    list r0 = [] ∧ list waits = [65535] ∧ waits.halted = false ∧ waits.running = true
    ∧ (waits.pat.ckpts.get? 65535).bind (·.next) = some (Bib.free 1)
    ∧ (let need := waits.ckptPages (waits.bib 65535) (Bib.free 1).promptDone
      let a := waits.requestLodge .hw (need.1 - 0)
      a.1 = .granted [0, 1] [] ∧ (a.2.requestLodge .he (need.2 - 0)).1 = .granted [0, 1] []))
    ∧ r0.names 0x1FFFF#32 = false
    ∧ (let s := ckptOf (fun c => { c with due := true, started := true, next := some (Bib.free 1) }) (owned fun b => { b with state := .decoding })
      s.names 0x1FFFF#32 = true ∧ (s.bib 65535).state ≠ .closing ∧ (s.bib 65535).state ≠ .faulted
      ∧ ((s.pat.ckpts.get? 65535).any fun c => c.due && c.started && c.next == some (Bib.free 1)) = true)
    ∧ ((owned fun b => { b with state := .closing }).bib (idIndex 0x1FFFF#32)).state = .closing
    ∧ ((ckptOf id (owned id)).pat.ckpts.get? 65535).map (·.due) = some false
    ∧ r0.pat.ckpts.get? 65535 = none
    ∧ ((faulted.pat.ckpts.get? 65535).any fun c => c.entry == some (Bib.free 1) && !c.poisoned) = true
    ∧ faulted.freeBibs.head 65536 = some 0 ∧ faulted.homeHub 0 none = some .he ∧ faulted.mayRestart 65535 = true
    ∧ (Bib.free 1).pfxHandle = 0 ∧ faulted.pfxStands 0 0 = true ∧ (Bib.free 1).wax = none := by decide +kernel

/-- R301: the window starts the checkpoint on pages of both hubs. R305: the bib is rebuilt in entry 0. -/
theorem test_checkpoint :
    (((after (.checkpointWindow .he) waits).pat.ckpts.get? 65535).map (·.started)) = some true
    ∧ ((after (.ckptRestore 65535) faulted).bib 0).state = .lodged := by decide +kernel

/-- An entry as a peer mirrors it, of slot 0. -/
def entryBytes : List Byte := List.replicate 128 0#8

/-- A mirror message of module 1's bib 7. -/
def mirrorMsg : MirrorEntry := { origin := 1, originBib := 7#32, ckptLap := 0, entry := entryBytes, tail := [] }

/-- Slot 0 serves, the lodge tier has 4 pages a hub, and adoption is enabled. -/
def adopting : State := (ckptOf id (serving running)).put Fld.PAT_CTL_ADOPT_EN 1

/-- It holds the mirror of module 1's bib 7. -/
def mirrored : State := adopting.modPat fun p => { p with mirrors := [{ Mirror.new 1 7#32 .he with entry := entryBytes }] }

/-- mirrors_are_kept_and_rebuilt: pages for the mirror and none; a mirror that is held and none; a migration that came before, one
without leave, orphans of the host. -/
theorem test_witness_mirrors :
    (let x := { Mirror.new 1 7#32 adopting.lodgeHub with entry := entryBytes, ckptLap := 0, tail := [] }
    let n := ceilDiv (mirrorSize x.entry x.tail x.ranges) 65536 - x.pages.length
    adopting.mirrorOf 1 7#32 = none ∧ (adopting.requestLodge x.hub n).1 = .granted [0] [] ∧ (r0.requestLodge x.hub n).1 = .poolEmpty)
    ∧ (mirrored.mirrorOf 1 7#32).isSome = true ∧ r0.mirrorOf 1 7#32 = none
    ∧ (owned id).names 0x1FFFF#32 = true ∧ r0.names 0x1FFFF#32 = false
    ∧ (1, 7#32) ∈ (r0.modPat fun p => { p with adopted := [(1, 7#32)] }).pat.adopted ∧ (1, 7#32) ∉ r0.pat.adopted
    ∧ r0.flag Fld.PAT_CTL_ADOPT_EN = false ∧ Decoded r0 ∧ wordBits 0x80000001#32 0 16 = 1 ∧ wordBits 0x80000001#32 31 1 = 1
    ∧ (mirrored.pat.mirrors.filter fun m => m.origin == 1).length = 1 := by decide +kernel

/-- The mirror can be rebuilt in entry 0 on HE. -/
theorem test_witness_adoption :
    Adopts { Mirror.new 1 7#32 .he with entry := entryBytes } (mirrored.slotLayout (mirrored.entryBib entryBytes).modelSlot) 0 .he
      mirrored := by
  have wax : (mirrored.entryBib entryBytes).wax = none := by decide +kernel
  refine ⟨by decide +kernel, by decide +kernel, by decide +kernel, by decide +kernel, fun w h => ?_, by decide +kernel,
    by decide +kernel, ⟨model, by decide +kernel, by decide +kernel⟩, by decide +kernel, by decide +kernel⟩
  rw [show ({ Mirror.new 1 7#32 .he with entry := entryBytes } : Mirror).entry = entryBytes from rfl, wax] at h
  cases h

/-- R306: the orphan's bib is rebuilt in entry 0; a second time it is discarded. -/
theorem test_orphan :
    (let t := after (.orphan 1) mirrored
    (t.bib 0).state = .lodged ∧ (1, 7#32) ∈ t.pat.adopted)
    ∧ (after (.orphan 1) (mirrored.modPat fun p => { p with adopted := [(1, 7#32)] })).rd64 Reg.PAT_MIG_DUP = 1 := by decide +kernel

/-- Slot 0 has replicas on modules 0, 1 and 2, this one 0, and their fingerprints `ps` of two laps ago. -/
def prints (ps : List (Nat × List Int)) : State :=
  (((serving running).put Fld.LNK_ID_MODULE_ID 0).modBon fun b =>
    { b with image := some { image with slotMap := [⟨true, [0, 1, 2], 0#64, 0⟩] } }).modPat fun p =>
      { p with prints := ps.map fun x => (0, 0, x.1, x.2) }

/-- fingerprints_are_judged_and_drain: a print that is kept and one that is not, no print of this module, verdicts without a quorum, with
a majority that holds this module and that does not, a drain and none. -/
theorem test_witness_fingerprints :
    ((serving r0).ldr.slots.get? 0).map (·.layout) = some 0#64 ∧ (0#16).toNat = (serving r0).moduleId
    ∧ r0.ldr.slots.get? 63 = none
    ∧ ((prints []).printsOf 0 0).length = 0
    ∧ (let big := List.replicate 4 (1000000 : Int)
      let own := model.expectedPrint
      (∀ l ∈ [[(0, own), (1, own), (2, big)], [(0, big), (1, own), (2, own)], [(0, own)], [(0, big)]],
        ((prints l).printsOf 0 ((prints l).dlap (prints l).lap - 2)).length = l.length)
      ∧ ((prints [(0, own), (1, own), (2, big)]).majorityOf model ((prints [(0, own), (1, own), (2, big)]).printsOf 0 0)).contains 0 = true)
    ∧ (let s := (serving r0).modLdr fun l => { l with slots := l.slots.put 0 { model with drain := some 5 } }
      s.canonical = true ∧ (s.ldr.slots.get? 0).map (·.drain) = some (some 5)) := by decide +kernel

/-- No entry of that state is of another kind. -/
theorem test_witness_drain :
    ∀ j, (((serving r0).modLdr fun l => { l with slots := l.slots.put 0 { model with drain := some 5 } }).bib j).kind = .normal :=
  fun _ => rfl

/-- R309: alone, a module whose print is as expected is sound. -/
theorem test_verdict :
    (after (.fingerprintVerdict 0) (prints [(0, model.expectedPrint)])).get (Fld.PAT_FPSTS_VERDICT.sel (fpHome 0)) = fpAgreeCode := by
  decide +kernel

/-- A report of one occurrence. -/
def report : Report := r0.mkReport 5#32 0 7 1 0 0#32

/-- The log holds it. -/
def logged : State := r0.logAppend report

/-- reports_merge_enter_or_drop: an entry to merge with, none with room and without, bursts, a drain. -/
theorem test_witness_reports :
    report.sev < 5 ∧ logged.logPositions.find? (logged.merges report) = some 0 ∧ (logged.pat.log.get? 0).isSome = true
    ∧ logged.pat.bursts.length < 64 ∧ r0.logPositions.find? (r0.merges report) = none ∧ 64 < r0.get Fld.PAT_LOG_FREE_VALUE
    ∧ r0.pat.bursts.find? (fun b => b.1 == 63) = none
    ∧ ((r0.modPat fun p => { p with bursts := [(63, ⟨5#32, 7#8, report, 1⟩)] }).pat.bursts.find? (fun b => b.1 == 63)).isSome = true
    ∧ 0 < r0.get Fld.PAT_LOG_FREE_VALUE ∧ (r0.put Fld.PAT_LOG_FREE_VALUE 0).get Fld.PAT_LOG_FREE_VALUE = 0
    ∧ r0.stage = 0 ∧ (r0.put Fld.BON_STS_STAGE 11).stage ≠ 0 ∧ (r0.put Fld.BON_STS_STAGE 11).startingUp = false
    ∧ (r0.put Fld.BON_STS_STAGE 1).startingUp = true := by decide +kernel

/-- The log has 64 free entries left. -/
theorem test_witness_full_log :
    (let s := r0.put Fld.PAT_LOG_FREE_VALUE 64
    s.get Fld.PAT_LOG_FREE_VALUE ≤ 64) := by decide +kernel

/-- R313: the second report of the kind merges; R314: with 64 entries free it is dropped and counted. -/
theorem test_report :
    (let t := after (.errorReport report) logged
    (t.pat.log.get? 0).map (·.count) = some 2 ∧ t.rd64 Reg.PAT_MERGED = 1)
    ∧ (after (.errorReport report) r0).get Fld.PAT_LOG_FREE_VALUE = 4095 := by decide +kernel

/-! ### Sensors and links -/

/-- Input 39 of die 17, a HBM sensor, changed by `f`. -/
def sensor (f : HkcInput → HkcInput) : State :=
  r0.modThm fun t => { t with inputs := t.inputs.put (hkcKey 17 39) (f HkcInput.new) }

/-- sensors_accumulate_and_set_the_level: a sensor that is broken, codes at the bounds, the second and the third bad sample, a rail, an
input that is not converted. -/
theorem test_witness_sensors :
    (converted 15 11 = true ∧ sensorClass 15 11 = some 0 ∧ converted 15 16 = true ∧ sensorClass 15 16 = none ∧ converted 15 17 = false)
    ∧ 16 + (15 : Fin 16).val / 8 = 17 ∧ 32 + (15 : Fin 16).val % 8 = 39
    ∧ ((sensor fun x => { x with broken := true }).hkc 17 39).broken = true ∧ ((sensor id).hkc 17 39).broken = false
    ∧ badSample (some 384) = false ∧ badSample (some 3424) = false ∧ badSample (some 383) = true ∧ badSample (some 3425) = true
    ∧ badSample none = true ∧ ((sensor fun x => { x with bad := 1 }).hkc 17 39).bad < 2
    ∧ 2 ≤ ((sensor fun x => { x with bad := 2 }).hkc 17 39).bad
    ∧ (sensor id).canonical = true ∧ ((sensor id).thm.inputs.get? (hkcKey 17 39)).isSome = true := by decide +kernel

/-- R319: the third bad sample in a row breaks the sensor. R333: a good one is accumulated. -/
theorem test_sensor :
    (let t := after (.hbmSensorRead 15 none 0 0) (sensor fun x => { x with bad := 2 })
    (t.hkc 17 39).broken = true ∧ t.flag Fld.THM_EVT_BROKEN = true)
    ∧ ((after (.hkcSample 15 16 4095#12 0 0) r0).hkc 15 16).sum = 4095 := by decide +kernel

/-- Port 31 is in state `n`, with its trunk, changed by `f`. -/
def port (n : Nat) (f : Port → Port) : State :=
  ((linked r0).put (Fld.LNK_PSTS_STATE.sel 31) n).modPort 31 f

/-- A frame of type `t` with payload `l`. -/
def frame (t : Byte) (flags : Byte) (l : List Byte) : Frame := ⟨t, flags, BitVec.ofNat 16 l.length, 0#32, 0#32, l, true⟩

/-- A message of class 1 without a body. -/
def emptyMessage : List Byte := leBytes 0x0101 2 ++ leBytes 0 2 ++ leBytes 0 4 ++ leBytes 0 8

/-- frames_are_checked_and_delivered: a port that does not carry the frame, a bad CRC with and without an earlier NACK, an unknown type, a
bad length, a whole message, a first part, one out of place, an earlier and a much later SEQ, NACKs of both reasons, an IDLE frame. -/
theorem test_witness_frames :
    (let s := port 4 id
    let f := frame 1#8 0xC1#8 emptyMessage
    r0.carries 31 1 = false ∧ s.carries 31 1 = true ∧ s.carries 31 2 = true ∧ s.carries 31 3 = true ∧ s.carries 31 8 = true
    ∧ (s.port 31).nacked.find? (fun y => y.1 == 0) = none
    ∧ ((port 4 fun x => { x with nacked := [(0, 1000)] }).port 31).nacked.find? (fun y => y.1 == 0) = some (0, 1000)
    ∧ 1000 + 2000 ≤ 3000 ∧ 2999 < 1000 + 2000
    ∧ (7 < (8#8 : Byte).toNat) ∧ 256 < (257#16).toNat ∧ (255#16).toNat % 4 ≠ 0
    ∧ ¬ (7 < f.type.toNat ∨ 256 < f.len.toNat ∨ f.len.toNat % 4 ≠ 0) ∧ f.crcOk = true ∧ f.type = 1#8
    ∧ (f.flags.extractLsb' 0 3).toNat = 1 ∧ f.seq.toNat = (s.port 31).expSeq
    ∧ ((s.portRec 31).any fun r => r.admits 1) = true
    ∧ joinMessage ((s.port 31).partOf 1) 1 (f.flags.getLsbD 7) (f.flags.getLsbD 6) f.payload = some (emptyMessage, true)
    ∧ (joinMessage ((s.port 31).partOf 1) 1 true false emptyMessage).map Prod.snd = some false
    ∧ joinMessage ((s.port 31).partOf 1) 1 false true emptyMessage = none
    ∧ seqBefore 0xFFFFFFFF 0 = true ∧ seqBefore 4097 0 = false ∧ 4096 < (4097 + 2 ^ 32 - 0) % 2 ^ 32
    ∧ (s.port 31).wait = []) ∧ bytesAt ([0#8, 0#8, 0#8, 0#8] : List Byte) 0 1 = 0 ∧ bytesAt ([9#8, 0#8, 0#8, 0#8] : List Byte) 0 1 ≠ 0
    ∧ (port 4 fun x => { x with ackOwed := true }).portOpen 31 = true
    ∧ ((port 4 fun x => { x with ackOwed := true }).port 31).ackOwed = true ∧ r0.portOpen 31 = false := by decide +kernel

/-- R274, R275: the whole message is delivered and acknowledged later; a bad CRC draws a NACK; an unknown type is counted. -/
theorem test_frame :
    (let t := after (.data 31 (frame 1#8 0xC1#8 emptyMessage) 0) (port 4 id)
    t.lnk.rx = [(31, emptyMessage)] ∧ (t.port 31).ackOwed = true ∧ (t.port 31).expSeq = 1)
    ∧ (after (.data 31 { frame 1#8 0xC1#8 emptyMessage with crcOk := false } 0) (port 4 id)).sent.length = 1
    ∧ (after (.badType 31 (frame 8#8 0#8 []) 0) (port 4 id)).rd64 Reg.LNK_PEER_VIOL = 1 := by decide +kernel

/-- A HELLO of the right peer. -/
def hello : HelloPayload := { moduleId := 32, port := 31, lapMs := 0, domainId := 1, stretchMax := 0, spare := 0 }

/-- ports_come_up_and_lose_lanes: each stage with enough lanes and too few, with and without a spare, a HELLO of the right and of another
peer, a port to bring up again, causes of DOWN, lanes that fail in use and not, three lanes that are locked, a fourth. -/
theorem test_witness_ports :
    (∀ n ∈ [0, 1, 2, 3, 4, 5, 6, 7], (port n id).portState 31 = n)
    ∧ 3 ≤ laneCount 0b00111#5 ∧ laneCount 0b00011#5 < 3 ∧ ((port 2 id).portRec 31).any (fun r => r.spare) = true
    ∧ ((linked r0).portRec 31).any (fun r => r.classes.getLsbD 0) = true
    ∧ r0.portRec 31 = none ∧ laneCount (0b10011#5 &&& 0b01111#5) < 3
    ∧ (let s := (port 3 fun x => { x with heard := true }).put (Fld.LNK_PSTS_LANES.sel 31) 0b01111
      (s.port 31).heard = true ∧ laneCount (s.lanesOf 31) = 4
      ∧ laneCount ((s.put (Fld.LNK_PSTS_LANES.sel 31) 0b00111).lanesOf 31) ≠ 4)
    ∧ ((port 3 id).port 31).heard = false
    ∧ r0.carries 31 7 = false ∧ (port 3 id).carries 31 7 = true ∧ (port 3 id).helloFails 31 hello = none
    ∧ (port 3 id).helloFails 31 { hello with port := 0 } = some 6 ∧ (port 3 id).helloFails 31 { hello with domainId := 2 } = some 7
    ∧ ((port 4 fun x => { x with nackRun := 15 }).port 31).nackRun < 16 ∧ ¬ ((port 4 fun x => { x with nackRun := 16 }).port 31).nackRun < 16
    ∧ (port 5 id).portOpen 31 = true ∧ (port 6 id).portOpen 31 = false
    ∧ (let s := port 5 fun x => { x with locked := 0b11111#5 }
      s.portState 31 = 5 ∧ laneCount 0b11110#5 = 4 ∧ 0b11110#5 &&& (s.port 31).locked = 0b11110#5)
    ∧ (let s := (port 4 fun x => { x with locked := 0b01110#5 }).put (Fld.LNK_PSTS_LANES.sel 31) 0b01111
      (s.lanesOf 31).getLsbD 0 = true ∧ (s.lanesOf 31).getLsbD 4 = false ∧ s.portOpen 31 = true
      ∧ laneCount (s.lanesOf 31 &&& (s.port 31).locked) = 3)
    ∧ laneCount ((port 4 id).lanesOf 31 &&& ((port 4 id).port 31).locked) ≠ 3 := by decide +kernel

/-- R279: the HELLO of another port is refused. R281: three locked lanes make the port DEGRADED. -/
theorem test_port :
    (after (.hello 31 { hello with port := 0 } 0) (port 3 id)).portState 31 = 7
    ∧ (after (.degradedLock 31) ((port 4 fun x => { x with locked := 0b01110#5 }).put (Fld.LNK_PSTS_LANES.sel 31) 0b01111)).portState 31
      = 5 := by decide +kernel

/-- Module 5 hears root 0 on port 31. -/
def hears : State := (port 4 id).put Fld.LNK_ID_MODULE_ID 5

/-- A TIME payload of root `r` with an echo. -/
def timePayload (r : BitVec 16) : TimePayload :=
  { tx := 100, echoTx := 50, echoRx := 100, dlap := 0, dlapTime := 0, root := r, hops := 0, locked := true, t4 := 60 }

/-- An operation of module 9. -/
def gop (op : Byte) : GopPayload :=
  { op := op, scope := 0, origin := 9, gseq := 1, target := 5, hops := 1, arg := 0, data := List.replicate 32 0#8 }

/-- time_is_followed_and_operations_held: a port that is not open, a parent that is heard and none, an echo; operations that break the
protocol, that were seen, of another scope, in time and late; a GO without START, when BUSY, with each status. -/
theorem test_witness_time :
    r0.portOpen 31 = false ∧ hears.portOpen 31 = true
    ∧ (let after := fun (r : BitVec 16) => hears.modPort 31 fun y =>
        { y with echoTx := 100, echoRx := 60, peerRoot := r.toNat, peerHops := 0, peerDlap := 0 }
      (after 0#16).parent = some (31, 0, 0) ∧ (after 5#16).parent = none)
    ∧ (timePayload 0#16).echoTx ≠ 0 ∧ hears.running = false ∧ (hears.put Fld.LAP_STS_RUNNING 1).running = true
    ∧ gopValid (gop 0#8) = false ∧ gopValid (gop 6#8) = false
    ∧ (let g := { gop 1#8 with hops := 0#8, target := 1#64 }
      g.hops = 0#8 ∧ g.target.toNat < (hears.port 31).peerDlap + 2)
    ∧ ¬ (gopValid (gop 5#8) = false ∨ ((gop 5#8).hops = 0#8 ∧ (gop 5#8).target.toNat < (hears.port 31).peerDlap + 2))
    ∧ (gop 1#8).gseq.toNat ≤ (hears.modLnk fun l => { l with seen := l.seen.put 9 1 }).lnk.seen.getD 9 0
    ∧ ¬ ((gop 1#8).gseq.toNat ≤ hears.lnk.seen.getD 9 0)
    ∧ hears.inScope (gop 1#8) = true ∧ ((hears.modBon fun b => { b with image := none }).inScope (gop 1#8)) = false
    ∧ (let s := (hears.put Fld.LAP_STS_RUNNING 1).wr Reg.LAP_NUM 5#32
      s.running = true ∧ (gop 1#8).target.toNat ≤ s.dlap s.lap)
    ∧ ¬ (hears.running = true ∧ (gop 1#8).target.toNat ≤ hears.dlap hears.lap)
    ∧ Decoded r0 ∧ wordBits 0x85020000#32 31 1 = 1 ∧ wordBits 0x05020000#32 31 1 = 0
    ∧ (r0.put Fld.LNK_GOP_CTL_BUSY 1).flag Fld.LNK_GOP_CTL_BUSY = true ∧ r0.flag Fld.LNK_GOP_CTL_BUSY = false
    ∧ hears.goStatus 5 2 0 = 1 ∧ hears.goStatus 5 1 0 = 2 ∧ r0.goStatus 5 2 0 = 3 ∧ r0.goStatus 6 2 0 = 4
    ∧ hears.domainPorts = [31] := by decide +kernel

/-- R282: the offset of a frame whose times are symmetric is 45 ns. R286: a GO that is SENT counts a sequence number. -/
theorem test_time :
    (after (.time 31 (timePayload 0#16)) hears).get Fld.LNK_SYNC_OFFSET = 45
    ∧ (after (.gopReset 0x85020000#32) hears).get Fld.LNK_GOP_CTL_STATUS = 1
    ∧ (after (.gopReset 0x85020000#32) hears).lnk.gseq = 1 := by decide +kernel

/-! ### The loader -/

/-- An operation of mode `m` on slot 63 runs, changed by `f`; the staging buffer has 16 MiB. -/
def loading (m : LdrMode) (f : LdrOp → LdrOp) : State :=
  (r0.put Fld.LDR_STG_SIZE_MIB 16).modLdr fun l => { l with op := some (f (LdrOp.new m 63 0 false)) }

/-- LDR_CTL of slot 63 with mode `m` and bits `more`. -/
def ctl (m more : Nat) : Word := BitVec.ofNat 32 (more * 2 ^ 30 + m * 2 ^ 28 + 63 * 2 ^ 22)

/-- loader_operations_start_and_abort: each mode in the slot state that it needs and in another, no START, START and ABORT of a running
operation of each mode, a gate; a PUT that moves on and one that falls, staged bytes that fit and that do not. -/
theorem test_witness_loader :
    (∀ m ∈ [0, 1, 2, 3],
      let s := r0.put (Fld.LDR_SLOT_STS_STATE.sel 63) (ldrModeOf m).states.1
      Decoded s ∧ s.ldr.op = none ∧ wordBits (ctl m 2) 31 1 = 1 ∧ wordBits (ctl m 2) 28 2 = m ∧ wordBits (ctl m 2) 22 6 = 63
      ∧ s.slotState 63 = (ldrModeOf m).states.1 ∧ (r0.put (Fld.LDR_SLOT_STS_STATE.sel 63) 6).slotState 63 ≠ (ldrModeOf m).states.1)
    ∧ wordBits (ctl 0 0) 31 1 = 0 ∧ wordBits (ctl 0 2) 30 1 = 0 ∧ wordBits (ctl 0 1) 30 1 = 1
    ∧ (∀ m ∈ [LdrMode.load, .replace, .attach, .release], ((loading m id).ldr.op.map (·.mode)) = some m)
    ∧ ((loading .replace fun o => { o with gate := some 0 }).ldr.op.bind (·.gate)) = some 0
    ∧ (let s := (loading .load id).wr Reg.LDR_IMG_LEN 100#32
      Decoded s ∧ s.streams = true ∧ ¬ ((100#64).toNat < s.rd64 Reg.LDR_PUT ∨ s.rd64 Reg.LDR_IMG_LEN < (100#64).toNat)
      ∧ s.rd64 Reg.LDR_IMG_LEN < (101#64).toNat)
    ∧ r0.streams = false
    ∧ (let s := loading .load id
      s.imageByte (BitVec.ofNat 36 (2 ^ 24 - 1)).toNat + 1 ≤ s.rd64 Reg.LDR_GET + s.stagingSize
      ∧ 1 ≤ s.stagingSize
      ∧ ¬ (s.imageByte (BitVec.ofNat 36 (2 ^ 24)).toNat + 1 ≤ s.rd64 Reg.LDR_GET + s.stagingSize)) := by decide +kernel

/-- R261: LOAD starts in an EMPTY slot, and fails in one that is not. R268: ABORT ends it. -/
theorem test_loader :
    (after (.ldrLoad (ctl 0 2)) r0).slotState 63 = 1
    ∧ (after (.ldrReplace (ctl 1 2)) r0).get Fld.LDR_STS_ERR = ldrBadSlot
    ∧ (after (.ldrAbort (ctl 0 1)) (after (.ldrLoad (ctl 0 2)) r0)).get Fld.LDR_STS_ERR = ldrAborted
    ∧ Memory.read stagingByte (after (.bar4Write 5 [0xAA#8]) (r0.put Fld.LDR_STG_SIZE_MIB 16)).ldr.staging 5 = 0xAA#8 := by decide +kernel

/-- A directory of one EMBED section without bytes, of the hash of none. -/
def entry : DirEntry := { type := 1, layer := 0, offset := 64, len := 0, tag := 0, hash := Config.sha384 [] }

/-- loads_are_verified_programmed_and_end: an operation that is idle, a header that is not staged, one that fails, a directory that is
done, a section that is not staged; rounds without VPP, of an array that passes and that fails with a spare; layers that are not
asked for, that agree and that do not, gated and not; ends of each mode, with work left and without. -/
theorem test_witness_loads :
    (loading .release id).ldr.op.map (·.mode) = some .release
    ∧ (let s := loading .load id
      let o := LdrOp.new .load 63 0 false
      let put := s.rd64 Reg.LDR_PUT
      s.ldr.op = some o ∧ ¬ (o.mode = .release ∨ o.aborting = true ∨ s.halted = true) ∧ o.headerDone = false ∧ ¬ (0x100 ≤ put))
    ∧ (let s := (loading .load id).wr Reg.LDR_PUT 352#32
      let h := headerLen (bytesAt (s.imageBytes 0x0C 4) 0 4)
      let put := s.rd64 Reg.LDR_PUT
      0x100 ≤ put ∧ (h ≤ put ∨ bytesAt (s.imageBytes 8 4) 0 4 ≠ h)
      ∧ s.headerCode (LdrOp.new .load 63 0 false) (s.imageBytes 0 h) = ldrBadHeader)
    ∧ ({ LdrOp.new .load 63 0 false with headerDone := true } : LdrOp).dir[0]? = none
    ∧ (let o := { LdrOp.new .load 63 0 false with headerDone := true, dir := [entry] }
      (o.dir[o.next]?).isSome = true ∧ (loading .load id).rd64 Reg.LDR_PUT < entry.offset + entry.len
      ∧ entry.offset + entry.len ≤ ((loading .load id).wr Reg.LDR_PUT 64#32).rd64 Reg.LDR_PUT
      ∧ ((loading .load id).takeSection o entry []).1 = 0 ∧ ((loading .load id).takeSection o { entry with type := 2 } []).1 ≠ 0)
    ∧ r0.flag Fld.PWR_STS_VPP_OK = false
    ∧ (let s := (((r0.put Fld.PWR_STS_VPP_OK 1).put Fld.LDR_PROG_W_WATTS 1).modTile 15 8447 fun x => { x with state := .programming }).modLdr
        fun l => { l with left := [arrKey 15 8447 255] }
      s.flag Fld.PWR_STS_VPP_OK = true ∧ s.halted = false ∧ arrKey 15 8447 255 ∈ s.ldr.left.take s.roundSize
      ∧ (s.tile 15 8447).state = .programming ∧ s.ldr.op = none
      ∧ (moveColumns [] 4 [] (natMisses [])).2.length ≤ 32
      ∧ (let t := s.modTile 15 0 id
        t.chooseSpare 15 8447 = some 0 ∧ t.fab.tests.get? 15 = none))
    ∧ (let o := { LdrOp.new .replace 63 0 false with gate := some 0, matched := true }
      (o.gate.isSome = true ∧ o.verified = false ∧ o.err ≠ ldrVerifyFail) ∧ r0.ldr.left = []
      ∧ differing (r0.get Fld.PAT_CFG_FP_TOL) [] (fpLayer o.model.expectedPrint o.programmed) ≤ r0.get Fld.PAT_CFG2_FP_MAX
      ∧ ¬ differing (r0.get Fld.PAT_CFG_FP_TOL) (List.replicate 512 127) (fpLayer o.model.expectedPrint o.programmed)
        ≤ r0.get Fld.PAT_CFG2_FP_MAX
      ∧ o.retried = false ∧ { o with matched := false, retried := true }.retried = true)
    ∧ (let o := { LdrOp.new .attach 63 0 false with matched := true, headerDone := true }
      (o.matched = true ∧ o.next = o.dir.length ∧ o.programmed ≤ o.model.layers))
    ∧ ¬ ((LdrOp.new .load 63 0 false).gate.isSome = true) ∧ (LdrOp.new .load 63 0 false).matched = false
    ∧ r0.ldr.op = none ∧ (loading .release id).slotIdle 63 = true
    ∧ ((loading .release id).putBib 0 { Bib.free 1 with state := .admitted, modelSlot := 63 }).slotIdle 63 = false
    ∧ (let o := { LdrOp.new .replace 63 0 false with headerDone := true, programmed := 1 }
      (o.headerDone = true ∧ o.next = o.dir.length) ∧ o.model.layers < o.programmed ∧ o.gate = none)
    ∧ ((loading .load fun o => { o with claimed := true, headerDone := true }).modLdr fun l => { l with left := [0] }).ldr.left ≠ [] := by
  decide +kernel

/-- A section whose bytes have the hash of the directory passes, whatever the hash is. -/
theorem test_witness_section : (openSection { LdrOp.new .load 63 0 false with headerDone := true, dir := [entry] } 0 entry []).1 = 0 := by
  simp [openSection, entry, LdrOp.new]

/-- R265: an array that passes takes its gain. R268: a section that is not whole fails; R264: RELEASE empties the slot. -/
theorem test_loads :
    (after .ldrOperationDone (loading .release id)).slotState 63 = 0
    ∧ (after .ldrSectionVerified ((loading .load id).wr Reg.LDR_PUT 352#32)).get Fld.LDR_STS_ERR = ldrBadHeader := by decide +kernel


/-! ### Power, start-up and Bonos -/

/-- The module is in power mode `m`, changed by `f`. -/
def powered (m : PowerMode) (f : Power → Power) : State := r0.modPwr fun p => f { p with mode := m }

/-- power_requests_enter_and_leave_idle: a request free and pending; every mode with and without the conditions of each request, a table
that is empty and one that is not, an entry held and not, a member of a domain and not. -/
theorem test_witness_power_requests :
    Decoded r0 ∧ r0.get Fld.PWR_STS_REQ_STATUS ≠ 1 ∧ (r0.put Fld.PWR_STS_REQ_STATUS 1).get Fld.PWR_STS_REQ_STATUS = 1
    ∧ ([PowerMode.active, .idle, .idleEntry, .idleExit, .sleepEntry, .sleep, .off].all fun m =>
        decide (Decoded (powered m id)) && ((powered m id).pwr.mode == m) && ((powered m id).get Fld.PWR_STS_REQ_STATUS != 1)) = true
    ∧ (powered .idle fun p => { p with begun := true }).pwr.begun = true
    ∧ (powered .idle fun p => { p with begun := true }).pwr.sleepAsked = false ∧ r0.halted = false
    ∧ (powered .idle id).pwr.begun = false
    ∧ (powered .active id).mayIdle = true ∧ (bibIn 0 .admitted (powered .active id)).mayIdle = false
    ∧ ((∀ b ∈ (powered .idle id).bibs.values, b.state = .free) ∧ ∀ p ∈ (powered .idle id).kvm.prefixes.values, p.state = .free)
    ∧ (¬ ∀ b ∈ (bibIn 0 .paused (powered .idle id)).bibs.values, b.state = .free)
    ∧ (powered .idleEntry id).pwr.exitHeld = false ∧ (powered .idleEntry fun p => { p with exitHeld := true }).pwr.exitHeld = true
    ∧ (powered .idleExit id).halted = false ∧ (powered .idleExit id).lnk.holding = false ∧ (powered .idleExit id).inDomain = false
    ∧ (linked (powered .idleExit id)).inDomain = true
    ∧ ((powered .idleExit id).put (Fld.PWR_GSTS_STATE.sel 4095) 1).groupState 4095 = 1
    ∧ (inService (powered .idleExit id)).seqState 15 = 2 := by decide +kernel

/-- R357: ACTIVE from IDLE is pending and begins the exit; IDLE with a bib in the table is REFUSED. -/
theorem test_power_requests :
    (let s := powered .idle fun p => { p with begun := true };
      (after .pwrReqActive s).pwr.mode = .idleExit
      ∧ (after .pwrReqActive s).get Fld.PWR_STS_REQ_STATUS = 1)
    ∧ (after .pwrReqIdle (bibIn 0 .admitted (powered .active id))).get Fld.PWR_STS_REQ_STATUS = 3 := by decide +kernel

/-- An entry to SLEEP is asked for. -/
def asked : State := powered .idle fun p => { p with sleepAsked := true }

/-- sleep_wake_and_function_resets: an entry that is not asked for, without and with D3hot, flushed and not; a watched source and one that
is not, halted, in an entry, in SLEEP and in neither; a queue pair, bibs of either state and an operation; a release that waits. -/
theorem test_witness_sleep :
    r0.pwr.sleepAsked = false ∧ asked.pwr.sleepAsked = true ∧ asked.pcie.d3hot = false ∧ asked.pwr.flushed = false
    ∧ (asked.modPcie fun p => { p with d3hot := true }).pcie.d3hot = true
    ∧ (asked.modPwr fun p => { p with flushed := true }).pwr.flushed = true
    ∧ asked.wakes none = true ∧ asked.halted = false ∧ (asked.put Fld.PWR_STS_HALTED 1).halted = true
    ∧ (asked.put Fld.PWR_STS_HALTED 1).wakes none = true
    ∧ (asked.put Fld.PWR_WAKE_TMR_MS 1).get Fld.PWR_WAKE_TMR_MS ≠ 0 ∧ r0.get Fld.PWR_WAKE_TMR_MS = 0
    ∧ (powered .sleep id).pwr.mode = .sleep ∧ (powered .sleep id).pwr.sleepAsked = false ∧ (powered .sleep id).halted = false
    ∧ r0.pwr.mode ≠ .sleep ∧ r0.wakes (some 1535) = false
    ∧ (haltedBy 1).halted = true ∧ r0.pwr.awaitPerst = false ∧ (r0.modPwr fun p => { p with awaitPerst := true }).pwr.awaitPerst = true
    ∧ (let s := bibIn 1 .closing (bibIn 0 .faulted (qpOn (loading .load id)))
      s.canonical = true ∧ (s.qps.get? 16383).isSome = true ∧ (s.bib 0).kind = .normal ∧ (s.bib 0).state = .faulted
      ∧ (s.bib 1).state = .closing ∧ s.ldr.op.map (·.mode) = some .load) := by decide +kernel

/-- R361: a wake during the entry to SLEEP aborts it; R186: the function level reset disables the queue pairs. -/
theorem test_sleep :
    (after (.wake none) asked).rd64 Reg.PWR_SLEEP_ABORT = 1
    ∧ (after .functionLevelReset (qpOn r0)).enabled 16383 = false
    ∧ (after .pmeTurnOff (asked.modPwr fun p => { p with flushed := true })).pwr.mode = .sleep := by decide +kernel

/-- halts_latch_and_are_released: both levels asserted and not, a disagreement within its bound and one that lasted, halts of each cause, a
restart at PERST_N and one at once. -/
theorem test_witness_halts :
    (let s := r0.put Fld.PWR_HALT_STS_B_LVL 1;
      s.flag Fld.PWR_HALT_STS_B_LVL = true ∧ s.halted = false)
    ∧ r0.flag Fld.PWR_HALT_STS_B_LVL = false ∧ (haltedBy 1).halted = true
    ∧ (let s := (r0.put Fld.PWR_HALT_STS_DISAGREE 1).put Fld.PWR_HALT_STS_A_LVL 0
      s.flag Fld.PWR_HALT_STS_DISAGREE = true ∧ (s.flag Fld.PWR_HALT_STS_A_LVL = !true)
      ∧ s.get Fld.PWR_HALT_STS_RUN + 0 < s.get Fld.PWR_HALT_CFG_DISC ∧ s.halted = false
      ∧ ¬ (s.get Fld.PWR_HALT_STS_RUN + 25000 < s.get Fld.PWR_HALT_CFG_DISC))
    ∧ r0.flag Fld.PWR_HALT_STS_DISAGREE = false
    ∧ ([1, haltReset, haltThermal].all fun n => (haltedBy n).halted && ((haltedBy n).get Fld.PWR_STS_HALT_CAUSE == n)) = true
    ∧ (1 ≠ haltReset ∧ 1 ≠ haltThermal)
    ∧ (let s := (haltedBy 1).put Fld.PWR_HALT_STS_A_LVL 1
      ¬ (s.flag Fld.PWR_HALT_STS_A_LVL = false ∨ s.flag Fld.PWR_HALT_STS_B_LVL = true)
      ∧ (s.put Fld.PWR_CFG_RESTART 0).get Fld.PWR_CFG_RESTART = 0 ∧ (s.put Fld.PWR_CFG_RESTART 1).get Fld.PWR_CFG_RESTART ≠ 0)
    ∧ ((haltedBy 1).put Fld.PWR_HALT_STS_A_LVL 0).flag Fld.PWR_HALT_STS_A_LVL = false
    ∧ (inService r0).seqState 15 ≠ 0 ∧ (inService r0).seqState 15 ≠ 4 := by decide +kernel

/-- R363: with B asserted, A asserted halts the module, for cause INPUTS. -/
theorem test_halts :
    (after (.haltInputChange .a false 0) ((r0.put Fld.PWR_HALT_STS_B_LVL 1).put Fld.PWR_HALT_STS_A_LVL 1)).halted = true
    ∧ (after .haltRelease (haltedBy haltThermal)).halted = true := by decide +kernel

/-- Group 255 of die 15 is OFF, and its die is out of reset. -/
def openGroup : State := (r0.put Fld.PWR_GCFG_RAMP_MAX 1).wr Reg.PWR_POR0 0x8000#32

/-- Group 255 of die 15 ramps at step `k`, and its die is out of reset. -/
def ramp (k : Nat) : State :=
  (openGroup.put (Fld.PWR_GSTS_STATE.sel 4095) 1).put (Fld.PWR_GSTS_STEP.sel 4095) k

/-- rails_and_tile_group_gates: a domain of each kind, AON up and down; a group OFF with and without room to ramp, and one of a die in
reset; steps above ILIM, the second in a row, the last; a group with a tile in service, of an idle module and not. -/
theorem test_witness_gates :
    porBit (.arkor 15) = some (Reg.PWR_POR0, 15) ∧ porBit (.hub .hw) = some (Reg.PWR_POR0, 17)
    ∧ porBit (.engine 3) = some (Reg.PWR_POR0, 21) ∧ (porBit (.stack 31)).isSome = true
    ∧ r0.pwr.aonUp = true ∧ (r0.modPwr fun p => { p with aonUp := false }).pwr.aonUp = false ∧ running.running = true
    ∧ (r0.put (Fld.LNK_PSTS_STATE.sel 31) 4).portState 31 ≠ 0
    ∧ openGroup.groupState 4095 = 0 ∧ openGroup.dieUp 15 = true ∧ openGroup.ramping 15 < openGroup.get Fld.PWR_GCFG_RAMP_MAX
    ∧ openGroup.pwr.waiting = [] ∧ r0.dieUp 15 = false
    ∧ (let s := openGroup.put (Fld.PWR_GSTS_STATE.sel 4094) 1
      s.groupState 4095 = 0 ∧ s.dieUp 15 = true ∧ s.get Fld.PWR_GCFG_RAMP_MAX ≤ s.ramping 15)
    ∧ (ramp 0).groupState 4095 = 1 ∧ (ramp 0).get (Fld.PWR_GSTS_STEP.sel 4095) + 1 < 64
    ∧ 64 ≤ (ramp 63).get (Fld.PWR_GSTS_STEP.sel 4095) + 1 ∧ 4095 ∉ (ramp 0).pwr.waiting
    ∧ (ramp 0).get Fld.PWR_GCFG_ILIM < (0xFFFF#16).toNat ∧ ¬ ((ramp 0).get Fld.PWR_GCFG_ILIM < (0#16).toNat)
    ∧ 4095 ∉ (ramp 0).pwr.overLimit ∧ 4095 ∈ ((ramp 0).modPwr fun p => { p with overLimit := [4095] }).pwr.overLimit
    ∧ ((inService r0).tile 15 8447).state ≠ .spare ∧ 15 * 8448 + 8447 ∈ groupTiles 4095
    ∧ (∃ x ∈ groupTiles 4095,
        (((inService running).modPwr fun p => { p with mode := .active }).fab.tiles.get? x).map (·.state) = some .inService)
    ∧ ((inService running).modPwr fun p => { p with mode := .active }).idling = false
    ∧ r0.idling = true ∧ (¬ ∃ x ∈ groupTiles 4095, (r0.fab.tiles.get? x).map (·.state) = some .inService) := by decide +kernel

/-- R353: the 64th step turns the group ON; R354: the second step above ILIM in a row shorts it. -/
theorem test_gates :
    (after (.gateRampStep 15 255 0#16) (ramp 63)).groupState 4095 = 2
    ∧ (after (.gateRampStep 15 255 0xFFFF#16) (after (.gateRampStep 15 255 0xFFFF#16) (ramp 0))).groupState 4095 = 3
    ∧ (after (.railRise (.arkor 15)) r0).dieUp 15 = true := by decide +kernel

/-- The record of copy 1 has state `st` and ATTEMPTS `a`. -/
def copyOne (st a : Nat) : State :=
  r0.writeFlash (copyRecAddr 1) (leBytes 0x52494443 4 ++ leBytes st 1 ++ leBytes a 1 ++ leBytes 0xFFFF 2 ++ leBytes 7 4)

/-- Start-up has reached stage `n` with copy 1, an image of 64 bytes without sections. -/
def staged (n : Nat) : State :=
  (((copyOne copyTrial 0xFE).writeFlash (copyBase 1 + 6) (leBytes 0 2 ++ leBytes 64 4)).put Fld.BON_STS_STAGE n).put Fld.BON_STS_COPY 1

/-- start_up_runs_in_stages: a start with a copy and with none, one that does not begin; each stage and another; an image that fails; a slot
record of the flash. -/
theorem test_witness_start_up :
    r0.pwr.aonUp = true ∧ r0.stage = 0 ∧ r0.halted = false ∧ r0.pwr.mode = .idle ∧ (haltedBy 1).halted = true
    ∧ (copyOne copyTrial 0xFF).spendTrials.chooseCopy = some 1 ∧ (copyOne copyTrial 0xFF).spendTrials.copyState 1 = copyTrial
    ∧ (copyOne copyTrial 0xFF).pwr.mode = .idle ∧ (copyOne copyTrial 0xFF).stage = 0
    ∧ r0.spendTrials.chooseCopy = none ∧ (staged 2).startingUp = true ∧ r0.startingUp = false
    ∧ (r0.put Fld.BON_STS_STAGE 2).startingUp = true ∧ (r0.put Fld.BON_STS_STAGE 2).chooseCopy = none
    ∧ ([2, 6, 7, 8, 9].all fun n => ((staged n).stage == n) && !(staged n).flag Fld.BON_STS_RECOVERY && !(staged n).halted) = true
    ∧ r0.stage ≠ 2 ∧ (staged 2).imageOk (staged 2).activeImage = false
    ∧ (staged 7).sectionsPass (staged 7).activeImage = false
    ∧ (staged 9).copyState ((staged 9).get Fld.BON_STS_COPY) = copyTrial ∧ (staged 9).inDomain = false
    ∧ (linked (staged 9)).inDomain = true
    ∧ (∃ x ∈ ((staged 8).writeFlash (slotRecAddr 63) [0#8]).readFlash (slotRecAddr 63) 64, x ≠ erased) := by decide +kernel

/-- R384: a TRIAL copy with no attempt left is not started, and the module is in RECOVERY. R392: the last stage is 11. -/
theorem test_start_up :
    (after .bonosStart (copyOne copyTrial 0xFF)).get Fld.BON_STS_COPY = 1
    ∧ (after .bonosStart (copyOne copyTrial 0xFC)).flag Fld.BON_STS_RECOVERY = true
    ∧ (after (.startupReady 1500 9000) (staged 9)).stage = 11 := by decide +kernel

/-- bonos_answers_updates_log_and_telemetry: an entry that the log holds and one that it does not; updates that are not begun and that
are, data that fit and that do not, an image that fails; keys that are named, written, and neither; addresses. -/
theorem test_witness_bonos :
    wordBits 0#32 31 1 = 0 ∧ wordBits 0x80000001#32 31 1 = 1 ∧ wordBits 0x80000001#32 0 2 = 1 ∧ wordBits 0x80000002#32 0 2 = 2
    ∧ r0.logHolds (r0.rd64 Reg.BON_ARG) = false
    ∧ r0.bon.update = none ∧ (r0.modBon fun b => { b with update := some 4 }).bon.update = some 4
    ∧ imageMax < (0xFFFFFFFF#32).toNat ∧ (BitVec.ofNat 32 imageMax).toNat ≤ imageMax ∧ (BitVec.ofNat 32 imageMax) ≠ 0#32
    ∧ ([0#8].length ≤ 1024 ∧ (3#32).toNat + [0#8].length ≤ 4) ∧ ¬ ((4#32).toNat + [0#8].length ≤ 4)
    ∧ (let s := ((copyOne copyGood 0xFF).writeFlash (copyBase 1 + 8) (leBytes 64 4)).modBon fun b => { b with update := some 4 }
      s.imageOk (s.copyImage s.inactive) = false)
    ∧ ((1#8).toNat ≤ 1 ∧ (15#8).toNat < 16) ∧ ¬ ((2#8).toNat ≤ 1) ∧ ((0#8).toNat ≤ 1 ∧ (7#8).toNat < 8)
    ∧ r0.keyWritten 1 15 = false ∧ r0.keyWritten 0 0 = true
    ∧ r0.bon.telemAddr = none ∧ (r0.modBon fun b => { b with telemAddr := some 1 }).bon.telemAddr ≠ none
    ∧ running.running = true ∧ r0.running = false := by decide +kernel

/-- The persistent log holds entry 0. -/
def persisted : State := r0.modBon fun b => { b with logNext := 1 }

/-- It holds the entry that BON_ARG names, and not the next. -/
theorem test_witness_log :
    persisted.logHolds (persisted.rd64 Reg.BON_ARG) = true ∧ persisted.logHolds (0#64).toNat = true
    ∧ persisted.logHolds (1#64).toNat = false := by
  have arg : persisted.rd64 Reg.BON_ARG = 0 := by decide +kernel
  rw [arg]
  unfold State.logHolds logBlocks
  cases Config.flash2Gbit <;> decide +kernel

/-- R395: an index is written once; UPD_END of a copy that fails answers 3. R397: the pointer is modulo 64. -/
theorem test_bonos :
    (after (.keyPut 1 15 0 true) (after (.keyPut 1 15 0 true) r0)).sent = [.mctp 0 [], .mctp 4 []]
    ∧ (after .updEnd (after (.updData 0 [1#8]) (after (.updBegin 4) r0))).sent = [.mctp 0 [], .mctp 0 [], .mctp 3 []]
    ∧ (after (.telemPointerWrite 65#8) r0).bon.telemPtr = 1 := by decide +kernel

/-! ### Identifiers -/

/-- generations_follow_their_entries: a generation within its 16 bits, the last among them; each state that a bib leaves the table from,
and a table without the generation 0, which is every entry of the one after reset. -/
theorem test_witness_generations :
    (let s := r0.putBib 65535 { Bib.free 0xFFFF with state := .paused };
      s.leavesTable (s.bib 65535) = true ∧ (s.bib 65535).gen = 0xFFFF ∧ (s.bib 65535).state = .paused)
    ∧ (let s := r0.putBib 0 { Bib.free 1 with state := .faulted, faulted := 4095 }
      s.leavesTable (s.bib 0) = true ∧ (s.bib 0).state = .faulted)
    ∧ (let s := r0.putBib 0 { Bib.free 1 with state := .closing, closing := 2 }
      s.leavesTable (s.bib 0) = true ∧ (s.bib 0).state = .closing) := by decide +kernel

/-- No entry after reset has generation 0. -/
theorem test_witness_no_zero_generation : ∀ j, (r0.bib j).gen ≠ 0 := fun _ => (by decide : (1 : Nat) ≠ 0)

/-- R148: generation 0 names no bib. -/
theorem test_generations :
    (r0.bibCheck 0 0#32).isSome = true
    ∧ ((after (.ttlExpired 65535) (r0.putBib 65535 { Bib.free 0xFFFF with state := .paused })).bib 65535).gen = 1 := by decide +kernel

/-- each_command_leaves_the_other_parts, no_command_retracts_output: commands that answer a next state, one of them with output;
commands_are_their_register_writes: a command of the list with its offset. -/
theorem test_witness_next :
    completes (.telemPointerWrite 5#8) r0 = true ∧ completes .updEnd r0 = true ∧ (after .updEnd r0).sent = [.mctp 2 []]
    ∧ (Instr.ldrLoad (ctl 0 2), Reg.LDR_CTL) ∈ [(Instr.bibSel 0, Reg.BIB_SEL), (.ldrLoad (ctl 0 2), Reg.LDR_CTL)] := by
  decide +kernel
end Sys2Proof.Tests
end

section
/-!
O8: a host read of a 64-bit register, word by word (R5). One equation of `State.readHost` per case, what an update of the
holding register shows, and the frame; the claim is assembled from these.
-/

namespace Sys2Proof.Machine

/-! ### The holding registers -/

@[simp] theorem State.latch_setLatch_some (s : State) (off : Nat) (v : Word) :
    (s.setLatch off (some v)).rf.latch = s.rf.latch.put off v := rfl

@[simp] theorem State.latch_setLatch_none (s : State) (off : Nat) :
    (s.setLatch off none).rf.latch = s.rf.latch.erase off := rfl

@[simp] theorem State.sent_setLatch (s : State) (off : Nat) (v : Option Word) : (s.setLatch off v).sent = s.sent := rfl

/-! ### The cases of a read that is aligned, decoded and no claim -/

section Cases

variable {s : State} {off : Nat}

theorem State.readHost_low (haligned : off % 4 = 0) (hdecoded : s.hidden off = false)
    (hclaim : within Reg.EVT_CLAIM 6 8 off = false) (hlow : wordOf64 off = some false) :
    s.readHost off = (s.setLatch off (some (s.readWord (off + 4)))).send (.read off (s.readWord off)) := by
  simp [State.readHost, haligned, hdecoded, hclaim, hlow]

theorem State.readHost_high_latched (haligned : off % 4 = 0) (hdecoded : s.hidden off = false)
    (hclaim : within Reg.EVT_CLAIM 6 8 off = false) (hhigh : wordOf64 off = some true) {v : Word}
    (hlatch : s.rf.latch.get? (off - 4) = some v) :
    s.readHost off = (s.setLatch (off - 4) none).send (.read off v) := by
  simp [State.readHost, haligned, hdecoded, hclaim, hhigh, hlatch]

theorem State.readHost_high_live (haligned : off % 4 = 0) (hdecoded : s.hidden off = false)
    (hclaim : within Reg.EVT_CLAIM 6 8 off = false) (hhigh : wordOf64 off = some true)
    (hlatch : s.rf.latch.get? (off - 4) = none) :
    s.readHost off = s.send (.read off (s.readWord off)) := by
  simp [State.readHost, haligned, hdecoded, hclaim, hhigh, hlatch]

end Cases

/-! ### What such a read leaves alone -/

theorem State.send_sameBut (s : State) (o : Out) : SameBut [.sent] s (s.send o) :=
  ((Keeps.refl s).send (m := 0x400000) (by decide)).sameBut (by decide)

theorem State.setLatch_send_sameBut (s : State) (off : Nat) (v : Option Word) (o : Out) :
    SameBut [.latch, .sent] s ((s.setLatch off v).send o) :=
  ((State.setLatch_keeps (μ := 0x400002) (by decide) (Keeps.refl s) off v).send (by decide)).sameBut (by decide)

/-- READ_LOW_WORD_LATCH is a host read and always completes. -/
theorem completes_readLowWordLatch {off : BitVec 26} {s : State} {P : State → Prop} (h : P (s.readHost off.toNat)) :
    Completes (.readLowWordLatch off) s P := ⟨_, rfl, h⟩

/-- Settles O8: each clause is one case of the host read, with the law of the holding register that the case sets or empties. -/
theorem lowWordReadLatchesTheHighWord : Obligations.low_word_read_latches_the_high_word := by
  unfold Obligations.low_word_read_latches_the_high_word
  intro off s haligned hdecoded hclaim
  refine ⟨fun hlow => ?low, fun v hhigh hlatch => ?latched, fun hhigh hlatch => ?live⟩
  case low =>
    refine completes_readLowWordLatch ?_
    rw [State.readHost_low haligned hdecoded hclaim hlow]
    exact ⟨by simp, fun k hk => by simp [Table.get?_put_other _ hk], by simp, s.setLatch_send_sameBut _ _ _⟩
  case latched =>
    refine completes_readLowWordLatch ?_
    rw [State.readHost_high_latched haligned hdecoded hclaim hhigh hlatch]
    exact ⟨by simp, by simp, s.setLatch_send_sameBut _ _ _⟩
  case live =>
    refine completes_readLowWordLatch ?_
    rw [State.readHost_high_live haligned hdecoded hclaim hhigh hlatch]
    exact ⟨by simp, s.send_sameBut _⟩

end Sys2Proof.Machine
end

section
/-!
O46: the error reports of patrol (R312 to R314, R396). What an append to the ring, a drop, a burst close and a burst register do to
the ring and to the counters; the three ends of a report; the drain, entry by entry. The claim is assembled from these.
-/

namespace Sys2Proof.Machine

/-! ### A report enters the ring or is dropped -/

theorem State.logAppend_pat (s : State) (r : Report) :
    (s.logAppend r).pat = { s.pat with log := s.pat.log.put (s.get Fld.PAT_LOG_HEAD_VALUE % 4096) r } := rfl

theorem State.get_head_logAppend (s : State) (r : Report) :
    (s.logAppend r).get Fld.PAT_LOG_HEAD_VALUE = (s.get Fld.PAT_LOG_HEAD_VALUE % 4096 + 1) % 4096 := by
  unfold State.logAppend
  rw [State.get_put_reg _ _ _ _ (by decide), State.get_put_same _ _ _ (by decide)]
  exact Nat.mod_eq_of_lt (Nat.lt_trans (Nat.mod_lt _ (by decide)) (by decide : 4096 < 2 ^ 13))

theorem State.get_free_logAppend (s : State) (r : Report) :
    (s.logAppend r).get Fld.PAT_LOG_FREE_VALUE = s.get Fld.PAT_LOG_FREE_VALUE - 1 := by
  unfold State.logAppend
  rw [State.get_put_same _ _ _ (by decide)]
  exact Nat.mod_eq_of_lt (Nat.lt_of_le_of_lt (Nat.sub_le _ _) (wordBits_lt _ _ _))

theorem State.logDrop_pat (s : State) (r : Report) : (s.logDrop r).pat = s.pat := rfl

theorem State.flag_storm_logDrop (s : State) (r : Report) : (s.logDrop r).flag Fld.PAT_EVT_LOG_STORM = true := by
  unfold State.logDrop
  rw [State.flag_tally]
  exact State.flag_raise _ _ (by decide) (by decide)

theorem State.rd64_drop_logDrop (s : State) {r : Report} (hsev : r.sev < 8) :
    (s.logDrop r).rd64 (Reg.PAT_DROP + 8 * r.sev) = (s.rd64 (Reg.PAT_DROP + 8 * r.sev) + 1) % 2 ^ 64 := by
  unfold State.logDrop
  rw [Nat.mod_eq_of_lt hsev, State.rd64_tally, State.raise,
    State.rd64_put _ _ (by simp only [Fld.PAT_EVT_LOG_STORM, Reg.PAT_DROP, Reg.PAT_EVT]; omega)
      (by simp only [Fld.PAT_EVT_LOG_STORM, Reg.PAT_DROP, Reg.PAT_EVT]; omega),
    State.rd64_count_same]

/-! ### The close of a burst -/

/-- The last entry of a burst: the newest report with the LAST bit and the occurrences that no earlier entry counted (R313). -/
def Burst.lastEntry (b : Burst) : Report := { b.newest with sev := b.newest.sev % 8 + 128, count := b.extra }

/-- Burst register `i` is out of use. -/
def State.freesBurst (s : State) (i : Nat) : State := s.modPat fun t => { t with bursts := t.bursts.filter (fun c => c.1 != i) }

section Close

variable {s : State} {i : Nat}

theorem State.closeBurst_unused (h : s.pat.bursts.find? (fun b => b.1 == i) = none) : s.closeBurst i = s := by
  simp [State.closeBurst, h]

variable {j : Nat} {b : Burst} (hburst : s.pat.bursts.find? (fun b => b.1 == i) = some (j, b))
include hburst

theorem State.closeBurst_full (hfree : s.get Fld.PAT_LOG_FREE_VALUE = 0) :
    s.closeBurst i = (s.freesBurst i).logDrop b.lastEntry := by
  simp [State.closeBurst, hburst, hfree, State.freesBurst, Burst.lastEntry]

theorem State.closeBurst_room (hfree : 0 < s.get Fld.PAT_LOG_FREE_VALUE) :
    s.closeBurst i = (s.freesBurst i).logAppend b.lastEntry := by
  simp [State.closeBurst, hburst, Nat.ne_of_gt hfree, State.freesBurst, Burst.lastEntry]

end Close

/-! ### The counters that no append, drop or burst moves: PAT_REPORTS and PAT_MERGED -/

section Counters

variable (s : State) {k : Nat} (hlow : Reg.PAT_EVT < k)
include hlow

theorem State.rd64_logAppend (r : Report) : (s.logAppend r).rd64 k = s.rd64 k := by
  simp only [Reg.PAT_EVT] at hlow
  unfold State.logAppend
  rw [State.rd64_put _ _ (by simp only [Fld.PAT_LOG_FREE_VALUE, Reg.PAT_LOG_FREE]; omega)
      (by simp only [Fld.PAT_LOG_FREE_VALUE, Reg.PAT_LOG_FREE]; omega),
    State.rd64_put _ _ (by simp only [Fld.PAT_LOG_HEAD_VALUE, Reg.PAT_LOG_HEAD]; omega)
      (by simp only [Fld.PAT_LOG_HEAD_VALUE, Reg.PAT_LOG_HEAD]; omega),
    State.rd64_modPat]

variable (hhigh : k + 4 < Reg.PAT_DROP)
include hhigh

theorem State.rd64_logDrop (r : Report) : (s.logDrop r).rd64 k = s.rd64 k := by
  unfold State.logDrop
  rw [State.rd64_tally, State.raise, State.rd64_put _ _ (Nat.ne_of_gt hlow) (Nat.ne_of_gt (Nat.lt_add_right 4 hlow)),
    State.rd64_count_other _ _ (by omega) (by omega) (by omega)]

theorem State.rd64_closeBurst (i : Nat) : (s.closeBurst i).rd64 k = s.rd64 k := by
  rcases hburst : s.pat.bursts.find? (fun b => b.1 == i) with - | ⟨j, b⟩
  · rw [State.closeBurst_unused hburst]
  · rcases Nat.eq_zero_or_pos (s.get Fld.PAT_LOG_FREE_VALUE) with hfree | hfree
    · rw [State.closeBurst_full hburst hfree, State.rd64_logDrop _ hlow hhigh, State.freesBurst, State.rd64_modPat]
    · rw [State.closeBurst_room hburst hfree, State.rd64_logAppend _ hlow, State.freesBurst, State.rd64_modPat]

theorem State.rd64_keepBurst (r : Report) (extra : Nat) (opens : Bool) : (s.keepBurst r extra opens).rd64 k = s.rd64 k := by
  unfold State.keepBurst
  split
  case h_1 => exact State.rd64_modPat _ _ _
  case h_2 =>
    split
    case isFalse => rfl
    case isTrue =>
      rw [State.rd64_modPat]
      split
      case isTrue => rfl
      case isFalse =>
        split
        · exact s.rd64_closeBurst hlow hhigh _
        · rfl

end Counters

/-- A burst register takes a report without a close when none opens or one of the 64 is free: only the burst registers change. -/
theorem State.keepBurst_eq_modPat (s : State) (r : Report) (extra : Nat) {opens : Bool}
    (h : opens = false ∨ s.pat.bursts.length < 64) :
    ∃ l, s.keepBurst r extra opens = s.modPat fun p => { p with bursts := l } := by
  unfold State.keepBurst
  split
  case h_1 => exact ⟨_, rfl⟩
  case h_2 =>
    split
    case isFalse => exact ⟨s.pat.bursts, rfl⟩
    case isTrue hopens =>
      have hroom : s.pat.bursts.length < 64 := h.resolve_left (by simp [hopens])
      simp only [hroom, if_true]
      exact ⟨_, rfl⟩

/-! ### The three ends of a report -/

/-- A report has reached the logger and is counted, and nothing has been done with it yet (R313). -/
def State.takesReport (s : State) : State := (s.count Reg.PAT_REPORTS 1).tally 24 0x10 1 none

/-- The entry `e` with report `r` merged into it (R313). -/
def mergedEntry (r e : Report) : Report := { e with count := e.count + r.count, lastGtime := r.lastGtime }

/-- The report has reached the logger and is merged into the entry at ring position `p` (R313, R314). -/
def State.mergesInto (s : State) (r : Report) (p : Nat) : State :=
  (s.takesReport.modPat fun t => { t with log := t.log.modify p (mergedEntry r) }).count Reg.PAT_MERGED 1

section Taken

variable (s : State)

@[simp] theorem State.takesReport_pat : s.takesReport.pat = s.pat := rfl

theorem State.reported_takesReport : Reported 1 s s.takesReport := by
  rw [Reported, State.takesReport, State.rd64_tally, State.rd64_count_same]

theorem State.get_takesReport {g : Fld} (h : g.reg < Reg.PAT_REPORTS) : s.takesReport.get g = s.get g := by
  rw [State.takesReport, State.get_tally]
  exact s.get_count_apart 1 (.inl (Nat.ne_of_gt h)) (.inl (Nat.ne_of_gt (Nat.lt_add_right 4 h)))

theorem State.rd64_takesReport {k : Nat} (h : Reg.PAT_REPORTS + 4 < k) : s.takesReport.rd64 k = s.rd64 k := by
  rw [State.takesReport, State.rd64_tally, State.rd64_count_other _ _ (by omega) (by omega) (by omega)]

theorem State.logPositions_takesReport : s.takesReport.logPositions = s.logPositions := by
  unfold State.logPositions
  rw [State.get_takesReport _ (by decide), State.get_takesReport _ (by decide)]

theorem State.merges_takesReport (r : Report) : s.takesReport.merges r = s.merges r := by
  funext p
  unfold State.merges
  rw [State.takesReport_pat, State.get_takesReport _ (by decide)]

end Taken

section Ends

variable {s : State} {r : Report}

theorem State.logReport_merged {p : Nat} (h : s.logPositions.find? (s.merges r) = some p) :
    s.logReport r = (s.mergesInto r p).keepBurst r 0 true := by
  rw [← s.logPositions_takesReport, ← s.merges_takesReport] at h
  unfold State.logReport
  dsimp only
  split
  · next q hq => cases hq.symm.trans h; rfl
  · next hq => cases hq.symm.trans h

theorem State.logReport_entered (h : s.logPositions.find? (s.merges r) = none) (hfree : 64 < s.get Fld.PAT_LOG_FREE_VALUE) :
    s.logReport r = (s.takesReport.logAppend r).keepBurst r 0 false := by
  rw [← s.logPositions_takesReport, ← s.merges_takesReport] at h
  rw [← s.get_takesReport (g := Fld.PAT_LOG_FREE_VALUE) (by decide)] at hfree
  unfold State.logReport
  dsimp only
  split
  · next q hq => cases hq.symm.trans h
  · exact if_neg (Nat.not_le_of_gt hfree)

theorem State.logReport_dropped (h : s.logPositions.find? (s.merges r) = none) (hfree : s.get Fld.PAT_LOG_FREE_VALUE ≤ 64) :
    s.logReport r = (s.takesReport.logDrop r).keepBurst r r.count false := by
  rw [← s.logPositions_takesReport, ← s.merges_takesReport] at h
  rw [← s.get_takesReport (g := Fld.PAT_LOG_FREE_VALUE) (by decide)] at hfree
  unfold State.logReport
  dsimp only
  split
  · next q hq => cases hq.symm.trans h
  · exact if_pos hfree

end Ends

/-- Every report is counted, whatever becomes of it. -/
theorem State.reported_logReport (s : State) (r : Report) : Reported 1 s (s.logReport r) := by
  have hlow : Reg.PAT_EVT < Reg.PAT_REPORTS := by decide
  have hhigh : Reg.PAT_REPORTS + 4 < Reg.PAT_DROP := by decide
  have htaken := s.reported_takesReport
  unfold Reported at htaken ⊢
  rw [← htaken]
  rcases hentry : s.logPositions.find? (s.merges r) with - | p
  · rcases Nat.lt_or_ge 64 (s.get Fld.PAT_LOG_FREE_VALUE) with hfree | hfree
    · rw [State.logReport_entered hentry hfree, State.rd64_keepBurst _ hlow hhigh, State.rd64_logAppend _ hlow]
    · rw [State.logReport_dropped hentry hfree, State.rd64_keepBurst _ hlow hhigh, State.rd64_logDrop _ hlow hhigh]
  · rw [State.logReport_merged hentry, State.rd64_keepBurst _ hlow hhigh, State.mergesInto,
      State.rd64_count_other _ _ (by decide) (by decide) (by decide), State.rd64_modPat]

/-! ### ERROR_REPORT -/

section Completion

variable {s : State} {r : Report}

theorem completes_errorReport {P : State → Prop} (h : P (s.logReport r)) : Completes (.errorReport r) s P := ⟨_, rfl, h⟩

theorem State.rd64_merged_logReport {p : Nat} (h : s.logPositions.find? (s.merges r) = some p) :
    (s.logReport r).rd64 Reg.PAT_MERGED = (s.rd64 Reg.PAT_MERGED + 1) % 2 ^ 64 := by
  rw [State.logReport_merged h, State.rd64_keepBurst _ (by decide) (by decide), State.mergesInto, State.rd64_count_same,
    State.rd64_modPat, State.rd64_takesReport _ (by decide)]

/-- R313, with a burst register to take. -/
theorem completes_errorReport_merged {p : Nat} {e : Report} (h : s.logPositions.find? (s.merges r) = some p)
    (hentry : s.pat.log.get? p = some e) (hroom : s.pat.bursts.length < 64) :
    Completes (.errorReport r) s fun t =>
      t.pat.log.get? p = some { e with count := e.count + r.count, lastGtime := r.lastGtime } ∧ Reported 1 s t
      ∧ t.rd64 Reg.PAT_MERGED = (s.rd64 Reg.PAT_MERGED + 1) % 2 ^ 64
      ∧ t.get Fld.PAT_LOG_FREE_VALUE = s.get Fld.PAT_LOG_FREE_VALUE := by
  obtain ⟨l, hl⟩ := State.keepBurst_eq_modPat (s.mergesInto r p) r 0 (opens := true) (.inr hroom)
  refine completes_errorReport ⟨?entry, s.reported_logReport r, State.rd64_merged_logReport h, ?free⟩
  all_goals rw [State.logReport_merged h, hl]
  case entry =>
    show (s.pat.log.modify p (mergedEntry r)).get? p = some (mergedEntry r e)
    simp [Table.modify, hentry]
  case free =>
    rw [State.get_modPat, State.mergesInto, State.get_count_apart _ _ (.inl (by decide)) (.inl (by decide)), State.get_modPat,
      State.get_takesReport _ (by decide)]

/-- R313: the report takes the entry at PAT_LOG_HEAD. -/
theorem completes_errorReport_entered (h : s.logPositions.find? (s.merges r) = none)
    (hfree : 64 < s.get Fld.PAT_LOG_FREE_VALUE) :
    Completes (.errorReport r) s fun t =>
      t.pat.log = s.pat.log.put (s.get Fld.PAT_LOG_HEAD_VALUE % 4096) r ∧ Reported 1 s t
      ∧ t.get Fld.PAT_LOG_HEAD_VALUE = (s.get Fld.PAT_LOG_HEAD_VALUE % 4096 + 1) % 4096
      ∧ t.get Fld.PAT_LOG_FREE_VALUE = s.get Fld.PAT_LOG_FREE_VALUE - 1 := by
  obtain ⟨l, hl⟩ := State.keepBurst_eq_modPat (s.takesReport.logAppend r) r 0 (opens := false) (.inl rfl)
  refine completes_errorReport ⟨?log, s.reported_logReport r, ?head, ?free⟩
  all_goals rw [State.logReport_entered h hfree, hl]
  case log => rw [State.modPat_pat, State.logAppend_pat, State.takesReport_pat, State.get_takesReport _ (by decide)]
  case head => rw [State.get_modPat, State.get_head_logAppend, State.get_takesReport _ (by decide)]
  case free => rw [State.get_modPat, State.get_free_logAppend, State.get_takesReport _ (by decide)]

/-- R314: the report is dropped and counted under its severity. -/
theorem completes_errorReport_dropped (hsev : r.sev < 5) (h : s.logPositions.find? (s.merges r) = none)
    (hfree : s.get Fld.PAT_LOG_FREE_VALUE ≤ 64) :
    Completes (.errorReport r) s fun t =>
      t.pat.log = s.pat.log ∧ Reported 1 s t ∧ t.flag Fld.PAT_EVT_LOG_STORM = true
      ∧ t.rd64 (Reg.PAT_DROP + 8 * r.sev) = (s.rd64 (Reg.PAT_DROP + 8 * r.sev) + 1) % 2 ^ 64 := by
  obtain ⟨l, hl⟩ := State.keepBurst_eq_modPat (s.takesReport.logDrop r) r r.count (opens := false) (.inl rfl)
  refine completes_errorReport ⟨?log, s.reported_logReport r, ?storm, ?count⟩
  all_goals rw [State.logReport_dropped h hfree, hl]
  case log => rw [State.modPat_pat, State.logDrop_pat, State.takesReport_pat]
  case storm => rw [State.flag_modPat, State.flag_storm_logDrop]
  case count =>
    rw [State.rd64_modPat, State.rd64_drop_logDrop _ (by omega),
      State.rd64_takesReport _ (Nat.lt_add_right _ (by decide))]

end Completion

/-! ### BURST_CLOSE -/

section Completion

variable {s : State} {i : Fin 64}

theorem completes_burstClose {P : State → Prop} (h : P (s.closeBurst i)) : Completes (.burstClose i) s P := ⟨_, rfl, h⟩

/-- R313, R314: the last entry of a burst enters the ring while any entry is free, the 64 kept for it among them. -/
theorem completes_burstClose_used {j : Nat} {b : Burst} (hburst : s.pat.bursts.find? (fun b => b.1 == i.val) = some (j, b)) :
    Completes (.burstClose i) s fun t =>
      t.pat.bursts = s.pat.bursts.filter (fun c => c.1 != i.val)
      ∧ (0 < s.get Fld.PAT_LOG_FREE_VALUE → t.pat.log = s.pat.log.put (s.get Fld.PAT_LOG_HEAD_VALUE % 4096) b.lastEntry)
      ∧ (s.get Fld.PAT_LOG_FREE_VALUE = 0 → t.pat.log = s.pat.log ∧ t.flag Fld.PAT_EVT_LOG_STORM = true) := by
  refine completes_burstClose ?_
  rcases Nat.eq_zero_or_pos (s.get Fld.PAT_LOG_FREE_VALUE) with hfree | hfree
  · rw [State.closeBurst_full hburst hfree]
    exact ⟨rfl, fun h => absurd hfree (Nat.ne_of_gt h), fun _ => ⟨rfl, State.flag_storm_logDrop _ _⟩⟩
  · rw [State.closeBurst_room hburst hfree]
    exact ⟨rfl, fun _ => rfl, fun h => absurd h (Nat.ne_of_gt hfree)⟩

end Completion

/-! ### The drain into the persistent log -/

/-- The entry at ring position `p`, if there is one, enters the persistent log (R396). -/
def State.drainAt (s : State) (p : Nat) : State :=
  match s.pat.log.get? p with
  | some r => s.persist r
  | none => s

theorem State.drainAt_entry {s : State} {p : Nat} {r : Report} (h : s.pat.log.get? p = some r) : s.drainAt p = s.persist r := by
  simp [State.drainAt, h]

theorem State.drainAt_empty {s : State} {p : Nat} (h : s.pat.log.get? p = none) : s.drainAt p = s := by
  simp [State.drainAt, h]

section Drain

variable (s : State)

theorem State.persist_rf (r : Report) : (s.persist r).rf = s.rf := by
  simp only [State.persist, State.writeFlash, State.eraseFlash, State.modBon_rf, apply_ite State.rf, ite_self]

theorem State.persist_pat (r : Report) : (s.persist r).pat = s.pat := by
  simp only [State.persist, State.writeFlash, State.eraseFlash, State.modBon_pat, apply_ite State.pat, ite_self]

theorem State.persist_logNext (r : Report) : (s.persist r).bon.logNext = s.bon.logNext + 1 := rfl

theorem State.drainAt_rf (p : Nat) : (s.drainAt p).rf = s.rf := by
  unfold State.drainAt
  split
  · exact s.persist_rf _
  · rfl

theorem State.drainAt_pat (p : Nat) : (s.drainAt p).pat = s.pat := by
  unfold State.drainAt
  split
  · exact s.persist_pat _
  · rfl

/-- Draining the positions `l` moves the end of the persistent log by the entries that stand there, and the ring not at all. -/
theorem State.foldl_drainAt (l : List Nat) :
    (l.foldl State.drainAt s).rf = s.rf ∧ (l.foldl State.drainAt s).pat = s.pat
    ∧ (l.foldl State.drainAt s).bon.logNext = s.bon.logNext + (l.filter fun p => (s.pat.log.get? p).isSome).length := by
  induction l generalizing s with
  | nil => exact ⟨rfl, rfl, rfl⟩
  | cons p l ih =>
    obtain ⟨hrf, hpat, hnext⟩ := ih (s.drainAt p)
    refine ⟨hrf.trans (s.drainAt_rf p), hpat.trans (s.drainAt_pat p), ?_⟩
    rw [List.foldl_cons, hnext, s.drainAt_pat p]
    rcases hentry : s.pat.log.get? p with - | r
    · rw [State.drainAt_empty hentry, List.filter_cons_of_neg (by simp [hentry])]
    · rw [State.drainAt_entry hentry, State.persist_logNext, List.filter_cons_of_pos (by simp [hentry]), List.length_cons]
      omega

theorem State.drainLog_eq :
    s.drainLog = (((s.logPositions.foldl State.drainAt s).put Fld.PAT_LOG_TAIL_VALUE
      ((s.logPositions.foldl State.drainAt s).get Fld.PAT_LOG_HEAD_VALUE)).put Fld.PAT_LOG_FREE_VALUE 4096).modPat
        fun p => { p with log := .empty } := rfl

theorem State.get_tail_drainLog : s.drainLog.get Fld.PAT_LOG_TAIL_VALUE = s.get Fld.PAT_LOG_HEAD_VALUE := by
  obtain ⟨hrf, -, -⟩ := s.foldl_drainAt s.logPositions
  rw [State.drainLog_eq, State.get_modPat, State.get_put_reg _ _ _ _ (by decide), State.get_put_same _ _ _ (by decide),
    State.get_congr hrf]
  exact Nat.mod_eq_of_lt (wordBits_lt _ _ _)

theorem State.get_free_drainLog : s.drainLog.get Fld.PAT_LOG_FREE_VALUE = 4096 := by
  rw [State.drainLog_eq, State.get_modPat, State.get_put_same _ _ _ (by decide)]
  rfl

theorem State.drainLog_logNext :
    s.drainLog.bon.logNext = s.bon.logNext + (s.logPositions.filter fun p => (s.pat.log.get? p).isSome).length := by
  obtain ⟨-, -, hnext⟩ := s.foldl_drainAt s.logPositions
  exact hnext

/-- R393: Bonos drains nothing before and during start-up. -/
theorem completes_logDrain_idle (h : s.stage = 0 ∨ s.startingUp = true) : Completes .logDrain s fun t => t = s :=
  ⟨s, if_pos h, rfl⟩

theorem completes_logDrain (hstage : s.stage ≠ 0) (hup : s.startingUp = false) {P : State → Prop} (h : P s.drainLog) :
    Completes .logDrain s P :=
  ⟨s.drainLog, if_neg (by simp [hstage, hup]), h⟩

end Drain

/-- Settles O46: each clause of the report is one of its three ends, each clause of the close one case of the burst register, and the
drain is an induction over the ring positions. -/
theorem reportsMergeEnterOrDrop : Obligations.reports_merge_enter_or_drop := by
  unfold Obligations.reports_merge_enter_or_drop
  refine ⟨fun r s hsev => ⟨?merged, ?counted, ?entered, ?dropped⟩, fun i s => ⟨?unused, ?used⟩, fun s => ⟨?idle, ?drained⟩⟩
  case merged => exact fun p e h hentry hroom => completes_errorReport_merged h hentry hroom
  case counted => exact fun p h => completes_errorReport (State.rd64_merged_logReport h)
  case entered => exact completes_errorReport_entered
  case dropped => exact completes_errorReport_dropped hsev
  case unused => exact fun h => completes_burstClose (State.closeBurst_unused h)
  case used => exact fun j b hburst => completes_burstClose_used hburst
  case idle => exact completes_logDrain_idle s
  case drained =>
    exact fun hstage hup => completes_logDrain s hstage hup
      ⟨rfl, s.get_tail_drainLog, s.get_free_drainLog, s.drainLog_logNext⟩

end Sys2Proof.Machine
end

section
/-!
O12: the end of a service, the storm interval and the line timers of the event gatherer (R369, R374, R375). What a source bit
reads after it is written, the two ends of an EVT_DONE write, and what an asserted line shows; the claim is assembled from these.
-/

namespace Sys2Proof.Machine

/-! ### Source bits -/

theorem State.sourceBit_putSource_same (s : State) (base n : Nat) (b : Bool) :
    (s.putSource base n b).sourceBit base n = b := by
  have hbit : n % 32 + 1 ≤ 32 := Nat.mod_lt n (by decide)
  have hget := s.flag_put_same ⟨wordAt base 48 (n / 32), n % 32, 1⟩ b.toNat hbit
  cases b <;> exact hget

theorem State.sourceBit_put_other (s : State) {f : Fld} {base n : Nat} (v : Nat) (h : wordAt base 48 (n / 32) ≠ f.reg) :
    (s.put f v).sourceBit base n = s.sourceBit base n := by
  simp only [State.sourceBit, State.rd_put_other s f v h]

/-- The words of EVT_INSVC lie below those of EVT_SRC (R379). -/
theorem insvcWord_ne_claimerWord (m n : Nat) : wordAt Reg.EVT_INSVC 48 m ≠ (srcWord Fld.EVT_SRC_CLAIMER n).reg := by
  simp only [srcWord, Fld.EVT_SRC_CLAIMER, wordAt, Reg.EVT_INSVC, Reg.EVT_SRC]
  omega

/-! ### EVT_DONE -/

/-- Target `t` may end the service of source `n` by a write of `req` (R374). -/
def State.serves (s : State) (req t : Fin 6) (n : Nat) : Prop :=
  req = t ∧ n < 1536 ∧ s.inService n = true ∧ s.get (srcWord Fld.EVT_SRC_CLAIMER n) = t.val

/-- The service of source `n` ends, and no target claims it (R374). -/
def State.endService (s : State) (n : Nat) : State :=
  (s.putSource Reg.EVT_INSVC n false).put (srcWord Fld.EVT_SRC_CLAIMER n) 0

section Done

variable {s : State} {req t : Fin 6} {n : Nat}

theorem State.done_served (h : s.serves req t n) : s.done req t n = s.endService n := by
  obtain ⟨hreq, hn, hservice, hclaimer⟩ := h
  exact if_pos ⟨congrArg Fin.val hreq, hn, hservice, hclaimer⟩

theorem State.done_bad (h : ¬ s.serves req t n) : s.done req t n = s.count Reg.EVT_DONE_BAD 1 :=
  if_neg fun ⟨hreq, hn, hservice, hclaimer⟩ => h ⟨Fin.ext hreq, hn, hservice, hclaimer⟩

end Done

theorem State.inService_endService (s : State) (n : Nat) : (s.endService n).inService n = false :=
  (State.sourceBit_put_other _ _ (insvcWord_ne_claimerWord _ _)).trans (s.sourceBit_putSource_same _ _ _)

theorem State.fieldsBut_endService (s : State) (n : Nat) :
    FieldsBut [⟨wordAt Reg.EVT_INSVC 48 (n / 32), n % 32, 1⟩, srcWord Fld.EVT_SRC_CLAIMER n] s (s.endService n) :=
  ((FieldsBut.refl _ s).put _ (by simp) (Nat.mod_lt n (by decide))).put _ (by simp) (by decide : 8 + 3 ≤ 32)

theorem State.fieldsBut_count (s : State) (k n : Nat) : FieldsBut (Fld.dword k) s (s.count k n) :=
  (FieldsBut.refl _ s).count n (by simp [Fld.dword]) (by simp [Fld.dword])

theorem State.done_sameBut (s : State) (req t n : Nat) : SameBut [.win 3] s (s.done req t n) :=
  (State.done_keeps (μ := 0x800000000) (by decide) (Keeps.refl s) req t n).sameBut (by decide)

/-- Outside RECOVERY every offset is decoded (R394). -/
theorem State.hidden_of_decoded {s : State} (h : Decoded s) (off : Nat) : s.hidden off = false := by
  simp [State.hidden, h]

/-- A write of EVT_DONE that the block decodes completes. -/
theorem completes_evtDone {req : Requester} {t : Fin 6} {v : Word} {s : State} (hdecoded : req = 5 → Decoded s)
    {P : State → Prop} (h : P (s.done req t (wordBits v 0 11))) : Completes (.evtDone req t v) s P := by
  refine ⟨_, congrArg Host.Outcome.next (if_neg fun ⟨hreq, hhidden⟩ => ?_), h⟩
  rw [State.hidden_of_decoded (hdecoded (Fin.ext hreq))] at hhidden
  cases hhidden

/-! ### Lines -/

/-- A vector's message touches no register but QP_VSTS. -/
theorem State.flag_sendVector (s : State) (vec : Nat) {g : Fld} (hg : g.reg < 0x4000000) (hreg : Reg.QP_VSTS ≠ g.reg) :
    (s.sendVector vec).flag g = s.flag g := by
  unfold State.sendVector
  split
  · have hpending : (Fld.QP_VSTS_PENDING.sel vec).apart g := Fld.apart_plain ⟨by decide, hg, hreg⟩ vec
    exact s.flag_put_apart 1 (by decide : 8 + 1 ≤ 32) hpending
  · rw [State.flag_tally, State.flag_send]

theorem State.flag_line_assertLine (s : State) (t : Nat) : (s.assertLine t).flag (Fld.EVT_TSTS_LINE.target t) = true := by
  have hput : (s.put (Fld.EVT_TSTS_LINE.target t) 1).flag (Fld.EVT_TSTS_LINE.target t) = true :=
    s.flag_raise _ (by decide : 31 + 1 ≤ 32) (by decide : 0 < 1)
  have hreg : (Fld.EVT_TSTS_LINE.target t).reg < Reg.QP_VSTS := by
    simp only [Fld.target, Fld.EVT_TSTS_LINE, wordAt, Reg.EVT_TSTS, Reg.QP_VSTS]
    omega
  unfold State.assertLine
  split
  case isTrue hline => exact hline
  case isFalse =>
    dsimp only
    split
    · rw [State.flag_sendVector _ _ (Nat.lt_trans hreg (by decide)) (Nat.ne_of_gt hreg), State.flag_modEvt, hput]
    · rw [State.flag_modEvt, hput]

theorem completes_evtLineTimer_running {t : Fin 6} {s : State} (h : t.val ∈ s.evt.timers) {P : State → Prop}
    (hP : P (s.assertLine t)) : Completes (.evtLineTimer t) s P :=
  ⟨_, congrArg Host.Outcome.next (if_pos h), hP⟩

theorem completes_evtLineTimer_stopped {t : Fin 6} {s : State} (h : t.val ∉ s.evt.timers) {P : State → Prop} (hP : P s) :
    Completes (.evtLineTimer t) s P :=
  ⟨_, congrArg Host.Outcome.next (if_neg h), hP⟩

/-! ### The storm interval -/

theorem completes_stormIntervalEnd_running {s : State} (h : s.running = true) {P : State → Prop} (hP : P s) :
    Completes .stormIntervalEnd s P :=
  ⟨_, congrArg Host.Outcome.next (if_pos h), hP⟩

theorem completes_stormIntervalEnd_before {s : State} (h : s.running = false) {P : State → Prop}
    (hP : P (s.modEvt fun e => { e with claims := .empty })) : Completes .stormIntervalEnd s P :=
  ⟨_, congrArg Host.Outcome.next (if_neg (by simp [h])), hP⟩

theorem State.modEvt_sameBut (s : State) (f : Events → Events) : SameBut [.evt] s (s.modEvt f) := by
  intro p hp
  cases p
  case evt => exact absurd (List.mem_singleton_self _) hp
  case win => exact fun _ _ => rfl
  all_goals rfl

/-- Settles O12: a write of EVT_DONE has two ends, by whether the target serves the source; the interval's end and the timer each
have two, by whether laps run and by whether the timer does. -/
theorem serviceEndsAndTimers : Obligations.service_ends_and_timers := by
  unfold Obligations.service_ends_and_timers
  refine ⟨fun req t v s hdecoded => ⟨fun hserves => ?served, fun hbad => ?bad⟩, fun s => ?interval, fun t s => ?timer⟩
  case served =>
    refine completes_evtDone hdecoded ⟨?_, ?_, s.done_sameBut _ _ _⟩
    all_goals rw [State.done_served hserves]
    · exact s.inService_endService _
    · exact s.fieldsBut_endService _
  case bad =>
    refine completes_evtDone hdecoded ⟨?_, ?_, s.done_sameBut _ _ _⟩
    all_goals rw [State.done_bad hbad]
    · exact s.rd64_count_same _ _
    · exact s.fieldsBut_count _ _
  case interval =>
    rcases hrun : s.running with - | -
    · exact completes_stormIntervalEnd_before hrun ⟨fun _ => ⟨rfl, s.modEvt_sameBut _⟩, nofun⟩
    · exact completes_stormIntervalEnd_running hrun ⟨nofun, fun _ => rfl⟩
  case timer =>
    by_cases hrun : t.val ∈ s.evt.timers
    · exact completes_evtLineTimer_running hrun ⟨fun _ => s.flag_line_assertLine t, fun h => absurd hrun h⟩
    · exact completes_evtLineTimer_stopped hrun ⟨fun h => absurd h hrun, fun _ => rfl⟩

end Sys2Proof.Machine
end
